-- ==== Sys2Proof/Word.lean ====
section
/-! DEFINITION. The plainest data of the model: bytes, byte lists and sparse tables. -/

namespace Sys2Proof

/-- One byte, as the wire formats and the register maps count them (R8). -/
abbrev Byte := BitVec 8

/-- A string of bytes, lowest offset first. -/
abbrev Bytes := List Byte

/-- A table by number that lists only the entries that differ from their reset value, in rising
order of number (the canonical form is `Machine.sparseWf`). -/
abbrev Sparse (α : Type) := List (Nat × α)

end Sys2Proof
end

