-- ==== Sys2Proof/Syntax.lean ====
section
/-! DEFINITION. The commands: one constructor per row of spec/opcode_table.json, and the plain data
their operands are made of. The table gives no row an encoding and no operand list; the operands are
what the rule of each row lets the outside decide. -/

namespace Sys2Proof

/-- Who sent a Xiond request (Tables 3-1 and 3-2). -/
inductive Via where
  | mb (n : Fin 4)
  | master (pos : Fin 8)
  | partner (pos : Fin 8)
  | session (k : Fin 8)
  | run
  | boot
  deriving DecidableEq, Repr

/-- Direction of a descriptor queue. -/
inductive Dir where
  | tx
  | rx
  deriving DecidableEq, Repr

/-- A window request message, MWR or MRD (Table 2-2, second column), header and data. -/
structure WinMsg where
  attr : BitVec 8
  tag : BitVec 16
  length : BitVec 16
  resv6 : BitVec 16
  offset : BitVec 32
  window : BitVec 8
  resv13 : BitVec 24
  data : Bytes
  deriving DecidableEq, Repr

/-- A completion message from the host, DCPLD or DCPL (Table 2-2, fourth column). -/
structure CplMsg where
  attr : BitVec 8
  tag : BitVec 16
  length : BitVec 16
  status : BitVec 16
  byteOffset : BitVec 32
  resv12 : BitVec 32
  data : Bytes
  deriving DecidableEq, Repr

/-- One path a twin heartbeat can be heard on (R431). -/
inductive HbPath where
  | cascade (k : Fin 2)
  | plane (p : Fin 3)
  deriving DecidableEq, Repr

/-- Stream handles that a device of the stack owns in deepen configuration (R429). -/
structure DeepRange where
  pos : Nat
  first : Nat
  count : Nat
  deriving DecidableEq, Repr

/-- A DISCOVER as a link brings it, with the ranges of the devices beyond its sender (R414, R429; log entry 66). -/
structure Discovery where
  frame : Bytes
  far : List DeepRange
  deriving DecidableEq, Repr

/-- A TRAFFIC_UP as a link brings it, with the RXQ that the member's WIDEN_RX entry names (R428; log entry 90). -/
structure UpTraffic where
  frame : Bytes
  rxq : Fin 64
  deriving DecidableEq, Repr

/-- An order to the fault collector: its agent, and whether its transfer passes the parity check (R460). -/
structure PortOrder where
  via : Via
  parity : Bool
  deriving DecidableEq, Repr

/-- A firmware order: its agent, and whether the flash operations that it starts succeed (R510). -/
structure FlashOrder where
  via : Via
  ok : Bool
  deriving DecidableEq, Repr

/-- The commands of the XD860, in the order of spec/opcode_table.json. Port numbers 0–5 are P0–P5,
cascade numbers 0–1 are K0 and K1, segment numbers 0–15 are T0–T15. -/
inductive Instr where
  | powerOnReset
  | railsGood
  | vddIoGood
  /-- rails in the order of FS000–FS005 -/
  | railUndervoltage (rail : Fin 6)
  | railOvervoltage (rail : Fin 6)
  | resetNRecognised
  | resetNRise
  | strapSample (stackId : BitVec 3) (bootSrc : BitVec 2) (testN : Bool)
  /-- the measured frequency in Hz -/
  | refclkTimeMeasurement (hz : Nat)
  | pllsLocked
  | uciePhyReady
  | guardXtalStable
  | systemPllLossOfLock
  | refclkTimeLost
  | refclkTimeReturn (hz : Nat)
  | linkTrainingStart
  /-- rate index 0–3 for 4, 8, 12, 16 GT/s; half 0 is x16, 1 and 2 are the halves of x8 -/
  | linkTrainingComplete (rate : Fin 4) (half : Fin 3)
  | flitReceive (flit : Bytes)
  | nakReceive (seq : BitVec 12)
  | retrainTimeout
  | nullFlitSend
  | flitReceiveTimeout
  | adapterLinkDown
  | mwr (m : WinMsg)
  | mrd (m : WinMsg)
  | dcpld (c : CplMsg)
  | dcpl (c : CplMsg)
  | dmrdTimeout (tag : BitVec 10)
  | hostQuiesce
  | hlCtrlWrite (v : BitVec 32)
  | hlStatusClear (v : BitVec 32)
  | evMaskWrite (word : Fin 4) (v : BitVec 32)
  | evPendClear (word : Fin 4) (v : BitVec 32)
  | evHoldoffExpiry (vec : Fin 128)
  | txqTailWrite (q : Fin 64) (v : BitVec 32)
  | rxqTailWrite (q : Fin 64) (v : BitVec 32)
  | queueEnable (d : Dir) (q : Fin 64) (v : BitVec 32)
  | queueDisable (d : Dir) (q : Fin 64) (v : BitVec 32)
  | queueDisableComplete (d : Dir) (q : Fin 64)
  | stampedWrite (d : Dir) (q : Fin 64) (v : BitVec 32)
  | txDescriptorFetch (q : Fin 64)
  | txFrameFetch (q : Fin 64)
  | rxDescriptorFetch (q : Fin 64)
  | txWriteBack (q : Fin 64)
  | rxWriteBack (q : Fin 64)
  | detach (via : Via)
  | detachDrainComplete
  | attach (via : Via)
  | holdLimitExpiry
  | post (n : Fin 4)
  | ack (n : Fin 4)
  | abandon (n : Fin 4)
  | requestTake
  | mailboxServiceLimitMissed
  | ping (via : Via)
  | getInfo (via : Via)
  | attrGet (via : Via)
  | attrSet (via : Via)
  | tableWrite (via : Via)
  | tableRead (via : Via)
  | tableClear (via : Via)
  | stageMode (via : Via)
  | commit (via : Via)
  | abortStage (via : Via)
  | epochSwap (via : Via)
  | epochStatus (via : Via)
  | domainEnable (via : Via)
  | domainEnableComplete (d : Fin 78)
  | domainEnableFailed (d : Fin 78)
  | domainDisable (via : Via)
  | domainDisableComplete (d : Fin 78)
  | ledgerQuery (via : Via)
  | tjReading
  | ledgerShed
  /-- units 0–5 are P0–P5, 16–31 are T0–T15, as the instances of DOZE (Table 4-9) -/
  | dozeEntry (unit : Fin 32)
  | dozeExit (unit : Fin 32)
  | wakePatternMatch (p : Fin 6)
  | energyDetect (s : Fin 16)
  | timeRead (via : Via)
  | timeAdjust (via : Via)
  | adjustmentPoint
  | permitArm (via : Via)
  | permitExpiry
  /-- channel 0–2 for X, Y, Z; bits of TIME_CORE byte 26 that disagreed -/
  | channelOutvoted (ch : Fin 3) (values : BitVec 8)
  | voteFailed
  /-- the new offset of a plane's grandmaster, signed, in 2^-16 ns -/
  | servoUpdate (plane : Fin 3) (offset : BitVec 80)
  | grandmasterChange (plane : Fin 3) (identity : BitVec 64)
  | announceTimeout (plane : Fin 3)
  | holdoverEntry
  | holdoverMax
  | timedOutSet (via : Via)
  | timedOutputEdge (n : Fin 8)
  | timedCapWrite (via : Via) (n : Fin 4) (image : Bytes)
  /-- an edge at the bump, `sub` 2^-6 ns into the 2 ns tick -/
  | capture (n : Fin 4) (rising : Bool) (sub : BitVec 7)
  | captureWindowClose (n : Fin 4)
  | captureRead (via : Via)
  | calStatus (via : Via)
  | calPolicy (via : Via)
  | codeDensityTest (conv : Fin 8) (ok : Bool)
  /-- points 0–11 Pn transmit and receive, 12–15 Kk, 16–47 Ts, 48 TREF (Table 6-1) -/
  | calibrationPassStart (pt : Fin 49)
  /-- the samples of the pass, in ps -/
  | calibrationPassEnd (pt : Fin 49) (samples : List Int)
  /-- lanes 0–5 P0–P5, 6–7 K0 and K1 -/
  | laneRelock (lane : Fin 8) (gbps : Nat)
  | calStale (pt : Fin 49)
  | probeSend (p : Fin 6)
  | probeReceive (p : Fin 6) (frame : Bytes)
  | echoSend (p : Fin 6)
  | echoReceive (p : Fin 6) (frame : Bytes)
  | frameTransmitStart (p : Fin 6)
  | transmissionEnd (p : Fin 6)
  | preemption (p : Fin 6) (dataBytes : Nat)
  | gateOverrun (p : Fin 6) (dataBytes : Nat)
  /-- `copyAgrees` is false where the port's copy of the list differs from the voted enables -/
  | gateEntryStart (p : Fin 6) (copyAgrees : Bool)
  | hold (p : Fin 6)
  | parisonReady (q : Fin 64) (idx : BitVec 12) (p : Fin 6)
  | parisonLate (q : Fin 64) (idx : BitVec 12) (p : Fin 6)
  | commitDecide
  | agreeRepeat
  | preparedSetHold
  | commitBoundary
  | proposeReceive (p : Fin 6) (frame : Bytes)
  | replyReceive (p : Fin 6) (frame : Bytes)
  | confirmReceive (p : Fin 6) (frame : Bytes)
  | cancelReceive (p : Fin 6) (frame : Bytes)
  | smdVReceive (p : Fin 6)
  | smdRReceive (p : Fin 6) (addFragSize : Fin 4)
  | verifyTimeout (p : Fin 6)
  /-- the delimiter, the fragment count octet (continuations), the bytes without their CRC, whether
  the fragment ended with an mCRC (false: with an FCS), and whether that CRC is good -/
  | fragmentReceive (p : Fin 6) (smd : BitVec 8) (count : BitVec 8) (data : Bytes) (mcrc : Bool) (good : Bool)
  | spOfferReceive (p : Fin 6) (frame : Bytes)
  | spAnswerReceive (p : Fin 6) (frame : Bytes)
  | spOfferRepeat (p : Fin 6)
  | pauseReceive (p : Fin 6) (frame : Bytes)
  | pauseExpiry (p : Fin 6) (tc : Fin 8)
  /-- the frame from destination address to FCS, and whether a code error was seen in it -/
  | frameReceive (p : Fin 6) (frame : Bytes) (codeError : Bool)
  | secondPass
  | loopWaitExpiry
  | voteWindowExpiry (h : Fin 16384) (seq : BitVec 16)
  | lateHoldExpiry (h : Fin 16384) (seq : BitVec 16)
  | recoveryReset (h : Fin 16384)
  | segmentCycleStart (s : Fin 16)
  | ownSlotStart (s : Fin 16) (entry : Fin 64)
  | collision (s : Fin 16)
  /-- a received transmission: the levels of Ts_RXD, one for each 40 ns from its first line bit on, the instant of its
  mark from the cycle start in ps, and whether line activity passed the slot's end -/
  | ktbFrameReceive (s : Fin 16) (line : List Bool) (markPs : Int) (skewed : Bool) (overran : Bool)
  | nodeSlotEnd (s : Fin 16) (entry : Fin 64)
  | statusBlockWrite (s : Fin 16)
  /-- how far GUARD_XTAL has run ahead of its nominal rate since the last marker, in ns -/
  | gauntletMarker (drift : Int)
  | markerLost
  | gauntletBlock (s : Fin 16)
  | discoverSend
  /-- a DISCOVER frame, and the ranges of the devices in deepen configuration that the link reaches beyond the
  neighbour, which no frame carries (R429, log entry 66) -/
  | discover (k : Fin 2) (d : Discovery)
  | discoveryComplete
  | cascadeAckDue (k : Fin 2)
  | ackReceive (k : Fin 2) (frame : Bytes)
  | cascadeResend (k : Fin 2)
  | cascadeLinkLost (k : Fin 2)
  | timeReqSend
  | timeReq (k : Fin 2) (frame : Bytes)
  | timeResp (k : Fin 2) (frame : Bytes)
  | command (k : Fin 2) (frame : Bytes)
  | response (k : Fin 2) (frame : Bytes)
  | stackRelayWrite (via : Via) (pos : Fin 8) (first : Nat) (data : Bytes)
  | relayUnreachable (pos : Fin 8)
  | stackAgree (k : Fin 2) (frame : Bytes)
  | stackAgreeReplyRepeat
  /-- a TRAFFIC_UP frame, and the RXQ that the member's WIDEN_RX entry names, which no field of the frame carries
  (R428, log entry 90) -/
  | trafficUp (k : Fin 2) (u : UpTraffic)
  | trafficDown (k : Fin 2) (frame : Bytes)
  | txDone (k : Fin 2) (frame : Bytes)
  | heartbeatSend
  /-- the HEARTBEAT frame on a cascade link, or bytes 14–59 of Table 11-7 from a plane -/
  | heartbeat (path : HbPath) (bytes : Bytes)
  | partnerLost
  | takeover
  | yieldTimeout
  | assign (k : Fin 2) (frame : Bytes)
  | mirror (k : Fin 2) (frame : Bytes)
  | mirrorSend
  /-- the bytes read from the region in host memory, and the sequence word read again after them -/
  | regionRead (n : Fin 8) (data : Bytes) (seqAfter : BitVec 32)
  | region (k : Fin 2) (frame : Bytes)
  | twinConfig (via : Via)
  | twinStatus (via : Via)
  | twinYield (via : Via)
  | mirrorDeclare (via : Via)
  | stackStatus (via : Via)
  | stackConfig (via : Via)
  /-- for FS073 (0 MAC, 1 IP table) and FS074, `entry` is the entry that holds the error; for FS075 the
  frame for the host that does: `entry % 64` its receive queue, `entry / 64` its place in it -/
  | faultSourceAssert (src : Fin 192) (ipTable : Bool) (entry : Nat)
  | presentBitExpiry (src : Fin 192)
  | faultRead (via : Via)
  | faultClear (o : PortOrder)
  | faultInject (o : PortOrder)
  | faultConfig (o : PortOrder)
  | safeNRelease (o : PortOrder)
  | safeNWithdraw (o : PortOrder)
  | safeNReadback (pads : BitVec 2)
  | gafferWatchdog
  /-- CI09 frequency measured over the window, in Hz -/
  | ci09Check (hz : Nat)
  /-- whether the flash was read without error -/
  | imageLoaded (readOk : Bool)
  | bootSourceTimeout
  | bootReq
  | bootData (frame : Bytes)
  | secProtWrite (image : Bytes)
  | secLock
  | lockTimeout
  | keyLoad (via : Via)
  | keyErase (via : Via)
  | alarm (a : Fin 9)
  | alarmStatus (via : Via)
  | sHello (frame : Bytes)
  | sProof (frame : Bytes)
  | proofTimeout (k : Fin 8)
  | sMsg (frame : Bytes)
  | sClose (frame : Bytes)
  | sessionIdle (k : Fin 8)
  /-- readings of TSEN0–TSEN7 in 0.1 °C (none: no conversion) and of VMON0–VMON6 in mV -/
  | sensorSample (temps : List (Option Int)) (volts : List Int)
  /-- frequency shifts of WMON0–WMON3 in 0.01 % -/
  | wearSample (shifts : List Int)
  | lifeAccumulate
  | wearRecordWrite (ok : Bool)
  | logFlush (ok : Bool)
  | sensorRead (via : Via)
  | logRead (via : Via)
  | countersRead (via : Via)
  | countersPeek (via : Via)
  /-- `ok`, here and below: what it programs into flash reads back as programmed (R510) -/
  | fwBegin (o : FlashOrder)
  | slotEraseComplete (ok : Bool)
  | fwChunk (o : FlashOrder)
  | fwFinish (o : FlashOrder)
  | fwActivate (o : FlashOrder)
  | fence (via : Via)
  | vddAoLoss
  | faultSourceDeassert (src : Fin 192)
  /-- 0–5 P0–P5, 6 the service lane S -/
  | linkDown (p : Fin 7)
  /-- the bytes received so far, and whether the frame began with SMD-E -/
  | decidingPassComplete (p : Fin 6) (pfx : Bytes) (smdE : Bool)
  | fuseBurnComplete
  | ledgerCeilWrite (v : BitVec 32)
  | serviceKeyLockoutEnd (k : Fin 8)
  | alarmConditionEnd (a : Fin 9)
  | missingLocal (h : Fin 4096) (launch : BitVec 48)
  deriving DecidableEq, Repr

end Sys2Proof
end

