-- ==== Sys2Proof/Decode.lean ====
section
/-! DEFINITION. Decoding of table words. The table gives no row of this block an encoding: every row
is an event or a message whose bytes its own rule defines, so no word spells a command. -/

namespace Sys2Proof

/-- The command that a table word spells: none, because the table gives no row any bits. -/
def decodeTableWord (_nbits _w : Nat) : Option Instr := none

end Sys2Proof
end

