-- ==== Sys2Proof/Machine/Operands.lean ====
section
/-! DEFINITION. Bytes, multi-byte fields, bit fields and checksums: the operand forms of every
message, frame, image and table entry of the spec. -/

namespace Sys2Proof.Machine

/-- Little-endian value of a byte string (R8, R103). -/
def leNat : Bytes → Nat
  | [] => 0
  | b :: bs => b.toNat + 256 * leNat bs

/-- Network-order value of a byte string (R8). -/
def beNat (bs : Bytes) : Nat := bs.foldl (fun a b => a * 256 + b.toNat) 0

/-- `n` little-endian bytes of a value. -/
def toLe : Nat → Nat → Bytes
  | 0, _ => []
  | n + 1, v => BitVec.ofNat 8 v :: toLe n (v / 256)

/-- `n` bytes of a value in network order. -/
def toBe (n v : Nat) : Bytes := (toLe n v).reverse

/-- `n` bytes from offset `o`; bytes past the end read 0. -/
def sub (b : Bytes) (o n : Nat) : Bytes :=
  let x := (b.drop o).take n
  x ++ List.replicate (n - x.length) 0

/-- Little-endian field of `n` bytes at offset `o`. -/
def le (b : Bytes) (o n : Nat) : Nat := leNat (sub b o n)

/-- Network-order field of `n` bytes at offset `o`. -/
def be (b : Bytes) (o n : Nat) : Nat := beNat (sub b o n)

/-- Byte at offset `o`, as a number; 0 past the end. -/
def by_ (b : Bytes) (o : Nat) : Nat := (b.getD o 0).toNat

/-- Bit `i` of a number. -/
def bitN (v i : Nat) : Bool := v / 2 ^ i % 2 == 1

/-- Bits `hi` to `lo` of a number. -/
def bitsN (v hi lo : Nat) : Nat := v / 2 ^ lo % 2 ^ (hi + 1 - lo)

/-- A number's two's-complement reading in `w` bits. -/
def sgn (w v : Nat) : Int := if v % 2 ^ w < 2 ^ (w - 1) then (v % 2 ^ w : Nat) else (v % 2 ^ w : Nat) - (2 ^ w : Nat)

/-- Two's-complement encoding of an integer in `w` bits. -/
def uns (w : Nat) (v : Int) : Nat := (v % (2 ^ w : Nat)).toNat

/-- A Bool as a bit. -/
def b1 (b : Bool) : Nat := if b then 1 else 0

/-- Replace the bytes from offset `o` on by `new`. -/
def patch (b : Bytes) (o : Nat) (new : Bytes) : Bytes :=
  sub b 0 o ++ new ++ b.drop (o + new.length)

/-- All bytes zero. -/
def allZero (b : Bytes) : Bool := b.all (· == 0)

/-- Zero padding of a byte string to at least `n` bytes. -/
def padTo (n : Nat) (b : Bytes) : Bytes := b ++ List.replicate (n - b.length) 0

/-- Saturating addition. -/
def satAdd (lim a b : Nat) : Nat := min lim (a + b)

/-- Set bit `i` of a bit vector to `v`. -/
def setBit {w : Nat} (x : BitVec w) (i : Nat) (v : Bool) : BitVec w :=
  if v then x ||| BitVec.ofNat w (2 ^ i) else x &&& ~~~ BitVec.ofNat w (2 ^ i)

/-- Positions of the 1 bits of a vector, lowest first. -/
def ones {w : Nat} (x : BitVec w) : List Nat := (List.range w).filter (fun i => x.getLsbD i)

/-- Number of 1 bits. -/
def popc {w : Nat} (x : BitVec w) : Nat := (ones x).length

/-- A bit vector with the bits of a list of positions set. -/
def ofBits (w : Nat) (l : List Nat) : BitVec w := l.foldl (fun a i => a ||| BitVec.ofNat w (2 ^ i)) 0

/-- One bit of a reflected CRC. -/
def crcBit (poly c : Nat) : Nat := (c >>> 1) ^^^ (poly * (c % 2))

/-- One byte of a reflected CRC. -/
def crcByte (poly c b : Nat) : Nat :=
  let f := crcBit poly
  f (f (f (f (f (f (f (f (c ^^^ b))))))))

/-- Reflected 32-bit CRC with initial value and final XOR of all ones. -/
def crc32Of (poly : Nat) (bs : Bytes) : Nat :=
  (bs.foldl (fun c b => crcByte poly c b.toNat) 0xFFFFFFFF) ^^^ 0xFFFFFFFF

/-- CRC-32C (R104). -/
def crc32c (bs : Bytes) : Nat := crc32Of 0x82F63B78 bs

/-- CRC-32 of IEEE 802.3, the frame check sequence and the group hash (R299). -/
def crc32 (bs : Bytes) : Nat := crc32Of 0xEDB88320 bs

/-- One bit of CRC-64. -/
def crc64Bit (c : Nat) : Nat := ((c <<< 1) % 2 ^ 64) ^^^ (0x42F0E1EBA9EA3693 * (c >>> 63))

/-- CRC-64 (R349). -/
def crc64 (bs : Bytes) : Nat :=
  bs.foldl (fun c b =>
    let f := crc64Bit
    f (f (f (f (f (f (f (f (c ^^^ (b.toNat <<< 56))))))))) ) 0

/-- A frame with its FCS, sent least significant byte first. -/
def withFcs (f : Bytes) : Bytes := f ++ toLe 4 (crc32 f)

/-- A frame with an inverted FCS (R463). -/
def withBadFcs (f : Bytes) : Bytes := f ++ toLe 4 (crc32 f ^^^ 0xFFFFFFFF)

/-- The frame's last four bytes are its FCS. -/
def fcsOk (f : Bytes) : Bool :=
  4 ≤ f.length && le f (f.length - 4) 4 == crc32 (f.take (f.length - 4))

/-- mCRC of a non-final fragment: the FCS of the frame so far with its upper half inverted
(IEEE 802.3br). -/
def mcrc (sofar : Bytes) : Nat := crc32 sofar ^^^ 0xFFFF0000

/-- Hash bin of a group address (R299). -/
def hashBin (da : Bytes) : Nat := crc32 (da.take 6) % 512

/-- Elements of a list with their positions. -/
def idxd {α : Type} (l : List α) : List (Nat × α) := (List.range l.length).zip l

/-- First element of a list that satisfies a test, with its position. -/
def findIx {α : Type} (p : α → Bool) (l : List α) : Option (Nat × α) := (idxd l).find? (fun x => p x.2)

/-- Insert into an ascending list. -/
def insAsc (x : Int) : List Int → List Int
  | [] => [x]
  | y :: ys => if x ≤ y then x :: y :: ys else y :: insAsc x ys

/-- Ascending order of a list of integers. -/
def sortAsc (l : List Int) : List Int := l.foldr insAsc []

/-- Sum of a list of integers. -/
def sumI (l : List Int) : Int := l.foldl (· + ·) 0

/-- Median: the middle of an odd number of values, the mean of the two middle values of an even number. -/
def median (l : List Int) : Int :=
  let a := sortAsc l
  let n := a.length
  if n % 2 = 1 then a.getD (n / 2) 0 else (a.getD (n / 2 - 1) 0 + a.getD (n / 2) 0) / 2

/-- Cut a byte string into pieces of at most `n` bytes, fuel-bounded by its length. -/
def chunksFuel (n : Nat) : Nat → Bytes → List Bytes
  | 0, _ => []
  | k + 1, b => if b.isEmpty then [] else b.take n :: chunksFuel n k (b.drop n)

/-- Cut a byte string into pieces of at most `n` bytes. -/
def chunks (n : Nat) (b : Bytes) : List Bytes := chunksFuel n b.length b

end Sys2Proof.Machine
end

