-- ==== Sys2Proof/Machine/Crypto.lean ====
section
/-! DEFINITION. The standard functions the spec names and does not restate: SHA-256 and SHA-384,
HMAC-SHA-256 (R488, R496), ECDSA P-384 (R477), the AES block (R488), the RFC 3394 key wrap (R487) and
GCM-AES-XPN (R285, R316). PRESUMED (log 120): written from FIPS 180-4, FIPS 198-1, FIPS 186-4,
FIPS 197, RFC 3394, SP 800-38D and IEEE 802.1AEbw, which the spec names. -/

namespace Sys2Proof.Machine

/-! ### SHA-2 -/

/-- Largest `x` below `2 ^ n` with `x ^ e ≤ v`, bit by bit from the top. -/
def rootBits (e v : Nat) : Nat → Nat → Nat
  | 0, x => x
  | n + 1, x => rootBits e v n (if (x + 2 ^ n) ^ e ≤ v then x + 2 ^ n else x)

/-- The numbers of a range that no smaller number above 1 divides. -/
def primesBelow (n : Nat) : List Nat :=
  (List.range n).filter fun p => 2 ≤ p && ((List.range p).filter (2 ≤ ·)).all fun d => p % d ≠ 0

/-- First `w` bits of the fractional part of the `e`-th root of a number: the constants of FIPS 180-4. -/
def rootFrac (w e p : Nat) : BitVec w := BitVec.ofNat w (rootBits e (p * 2 ^ (e * w)) (w + 5) 0)

/-- One member of the SHA-2 family: its shift amounts, round constants and initial value. -/
structure Sha2 (w : Nat) where
  bigA : Nat × Nat × Nat
  bigE : Nat × Nat × Nat
  small0 : Nat × Nat × Nat
  small1 : Nat × Nat × Nat
  rounds : List (BitVec w)
  init : List (BitVec w)

def sha2Rounds256 : List (BitVec 32) := (primesBelow 312).map (rootFrac 32 3)
def sha2Rounds512 : List (BitVec 64) := (primesBelow 410).map (rootFrac 64 3)

/-- SHA-256 of FIPS 180-4. -/
def sha256Spec : Sha2 32 :=
  { bigA := (2, 13, 22), bigE := (6, 11, 25), small0 := (7, 18, 3), small1 := (17, 19, 10),
    rounds := sha2Rounds256, init := (primesBelow 20).map (rootFrac 32 2) }

/-- SHA-384 of FIPS 180-4. -/
def sha384Spec : Sha2 64 :=
  { bigA := (28, 34, 39), bigE := (14, 18, 41), small0 := (1, 8, 7), small1 := (19, 61, 6),
    rounds := sha2Rounds512, init := ((primesBelow 54).drop 8).map (rootFrac 64 2) }

/-- Three rotations summed. -/
def shaBig {w : Nat} (r : Nat × Nat × Nat) (x : BitVec w) : BitVec w :=
  x.rotateRight r.1 ^^^ x.rotateRight r.2.1 ^^^ x.rotateRight r.2.2

/-- Two rotations and a shift summed. -/
def shaSmall {w : Nat} (r : Nat × Nat × Nat) (x : BitVec w) : BitVec w :=
  x.rotateRight r.1 ^^^ x.rotateRight r.2.1 ^^^ (x >>> r.2.2)

/-- Message schedule, latest word first. -/
def shaExtend {w : Nat} (a : Sha2 w) : Nat → List (BitVec w) → List (BitVec w)
  | 0, x => x
  | n + 1, x =>
    shaExtend a n ((shaSmall a.small1 (x.getD 1 0) + x.getD 6 0 + shaSmall a.small0 (x.getD 14 0) + x.getD 15 0) :: x)

/-- One round on the eight working variables. -/
def shaRound {w : Nat} (a : Sha2 w) (v : List (BitVec w)) (kw : BitVec w × BitVec w) : List (BitVec w) :=
  let g := fun i => v.getD i 0
  let ch := (g 4 &&& g 5) ^^^ (~~~(g 4) &&& g 6)
  let maj := (g 0 &&& g 1) ^^^ (g 0 &&& g 2) ^^^ (g 1 &&& g 2)
  let t1 := g 7 + shaBig a.bigE (g 4) + ch + kw.1 + kw.2
  [t1 + (shaBig a.bigA (g 0) + maj), g 0, g 1, g 2, g 3 + t1, g 4, g 5, g 6]

/-- A byte string cut into blocks of `n` bytes, at most `m` of them. -/
def blocks (n : Nat) : Nat → Bytes → List Bytes
  | 0, _ => []
  | m + 1, b => if b.isEmpty then [] else b.take n :: blocks n m (b.drop n)

/-- One block folded into the hash value. -/
def shaBlock {w : Nat} (a : Sha2 w) (h : List (BitVec w)) (b : Bytes) : List (BitVec w) :=
  let m := (blocks (w / 8) 16 b).map fun x => BitVec.ofNat w (beNat x)
  let ws := (shaExtend a (a.rounds.length - 16) m.reverse).reverse
  List.zipWith (· + ·) h ((a.rounds.zip ws).foldl (shaRound a) h)

/-- The padded message: a 1 bit, zeros, the length in bits. -/
def shaPad (w : Nat) (b : Bytes) : Bytes :=
  let n := b.length + 1 + w / 4
  b ++ [0x80] ++ List.replicate ((w * 2 - n % (w * 2)) % (w * 2)) 0 ++ toBe (w / 4) (8 * b.length)

/-- The whole hash value. -/
def sha2 {w : Nat} (a : Sha2 w) (b : Bytes) : Bytes :=
  let p := shaPad w b
  ((blocks (w * 2) (p.length / (w * 2)) p).foldl (shaBlock a) a.init).flatMap fun x => toBe (w / 8) x.toNat

/-- SHA-256. -/
def sha256 (b : Bytes) : Bytes := sha2 sha256Spec b

/-- SHA-384 (R477). -/
def sha384 (b : Bytes) : Bytes := (sha2 sha384Spec b).take 48

/-- HMAC-SHA-256: key, message (R496). -/
def hmacSha256 (key msg : Bytes) : Bytes :=
  let k := sub (if 64 < key.length then sha256 key else key) 0 64
  sha256 (k.map (· ^^^ 0x5C) ++ sha256 (k.map (· ^^^ 0x36) ++ msg))

/-! ### AES -/

/-- Multiplication by x in the field of FIPS 197. -/
def gfX (b : Byte) : Byte := (b <<< 1) ^^^ (if b.getLsbD 7 then 0x1B else 0)

/-- Product in the field of FIPS 197, over the low `n` bits of the second factor. -/
def gfMulBits : Nat → Byte → Byte → Byte
  | 0, _, _ => 0
  | n + 1, a, b => (if b.getLsbD 0 then a else 0) ^^^ gfMulBits n (gfX a) (b >>> 1)

def gfMul (a b : Byte) : Byte := gfMulBits 8 a b

/-- Inverse in the field (0 for 0): the 254th power. -/
def gfInv (a : Byte) : Byte :=
  let a2 := gfMul a a
  let a4 := gfMul a2 a2
  let a8 := gfMul a4 a4
  let a16 := gfMul a8 a8
  let a32 := gfMul a16 a16
  let a64 := gfMul a32 a32
  gfMul a2 (gfMul a4 (gfMul a8 (gfMul a16 (gfMul a32 (gfMul a64 (gfMul a64 a64))))))

/-- S-box of FIPS 197, and its inverse. -/
def sBox (a : Byte) : Byte :=
  let x := gfInv a
  x ^^^ x.rotateLeft 1 ^^^ x.rotateLeft 2 ^^^ x.rotateLeft 3 ^^^ x.rotateLeft 4 ^^^ 0x63

def sBoxInv (a : Byte) : Byte :=
  gfInv (a.rotateLeft 1 ^^^ a.rotateLeft 3 ^^^ a.rotateLeft 6 ^^^ 0x05)

/-- Bytewise sum. -/
def xorBytes (a b : Bytes) : Bytes := List.zipWith (· ^^^ ·) a b

/-- Key schedule, latest four-byte word first; `nk` is the number of words of the key. -/
def aesExpand (nk : Nat) : Nat → Nat → Byte → List Bytes → List Bytes
  | 0, _, _, ws => ws
  | n + 1, i, rc, ws =>
    let t := ws.headD []
    let r := (t.drop 1 ++ t.take 1).map sBox
    let t' := if i % nk = 0 then xorBytes r [rc, 0, 0, 0] else if 6 < nk ∧ i % nk = 4 then t.map sBox else t
    aesExpand nk n (i + 1) (if i % nk = 0 then gfX rc else rc) (xorBytes (ws.getD (nk - 1) []) t' :: ws)

/-- Round keys of a key of 16 or 32 bytes. -/
def aesKeys (key : Bytes) : List Bytes :=
  let nk := key.length / 4
  let ws := (aesExpand nk (4 * (nk + 7) - nk) nk 1 (blocks 4 nk key).reverse).reverse
  (List.range (nk + 7)).map fun r => ((ws.drop (4 * r)).take 4).flatten

/-- ShiftRows and its inverse on a block, column by column. -/
def shiftRows (b : Bytes) : Bytes := (List.range 16).map fun i => b.getD ((i + 4 * (i % 4)) % 16) 0
def shiftRowsInv (b : Bytes) : Bytes := (List.range 16).map fun i => b.getD ((i + 12 * (i % 4)) % 16) 0

/-- MixColumns with the four factors of a row of its matrix. -/
def mixColumns (m : List Byte) (b : Bytes) : Bytes :=
  (List.range 16).map fun i =>
    ((List.range 4).map fun k => gfMul (m.getD ((k + 4 - i % 4) % 4) 0) (b.getD (4 * (i / 4) + k) 0)).foldl (· ^^^ ·) 0

/-- AES encryption of one block: key, block. -/
def aesBlock (key b : Bytes) : Bytes :=
  let ks := aesKeys key
  let n := ks.length
  let st := (ks.drop 1).take (n - 2) |>.foldl
    (fun x k => xorBytes (mixColumns [2, 3, 1, 1] (shiftRows (x.map sBox))) k) (xorBytes b (ks.headD []))
  xorBytes (shiftRows (st.map sBox)) (ks.getD (n - 1) [])

/-- AES decryption of one block: key, block. -/
def aesUnblock (key b : Bytes) : Bytes :=
  let ks := (aesKeys key).reverse
  let n := ks.length
  let st := (ks.drop 1).take (n - 2) |>.foldl
    (fun x k => mixColumns [14, 11, 13, 9] (xorBytes ((shiftRowsInv x).map sBoxInv) k)) (xorBytes b (ks.headD []))
  xorBytes ((shiftRowsInv st).map sBoxInv) (ks.getD (n - 1) [])

/-- RFC 3394, one pass over the registers from the last to the first, at counter `t` for the last. -/
def unwrapPass (kek : Bytes) : Nat → Bytes → List Bytes → Bytes × List Bytes
  | _, a, [] => (a, [])
  | t, a, r :: rs =>
    let b := aesUnblock kek (xorBytes a (toBe 8 t) ++ r)
    let (a', rs') := unwrapPass kek (t - 1) (b.take 8) rs
    (a', b.drop 8 :: rs')

/-- RFC 3394, passes `n - 1` down to 0 over the registers, last first. -/
def unwrapPasses (kek : Bytes) : Nat → Bytes → List Bytes → Bytes × List Bytes
  | 0, a, rs => (a, rs)
  | j + 1, a, rs =>
    let (a', rs') := unwrapPass kek (rs.length * (j + 1)) a rs
    unwrapPasses kek j a' rs'

/-- RFC 3394 unwrap with the default initial value: KEK, wrapped key; none where the check fails (R487). -/
def keyUnwrap (kek w : Bytes) : Option Bytes :=
  let (a, rs) := unwrapPasses kek 6 (w.take 8) (blocks 8 (w.length / 8) (w.drop 8)).reverse
  if a = List.replicate 8 0xA6 then some rs.reverse.flatten else none

/-! ### GCM-AES-XPN -/

/-- Product in the field of GHASH: bits of the first factor, first bit first. -/
def ghMulBits : List Bool → BitVec 128 → BitVec 128
  | [], _ => 0
  | b :: bs, v =>
    (if b then v else 0) ^^^ ghMulBits bs ((v >>> 1) ^^^ (if v.getLsbD 0 then 0xE1#128 <<< 120 else 0))

def ghMul (x h : BitVec 128) : BitVec 128 := ghMulBits ((List.range 128).map fun i => x.getMsbD i) h

/-- GHASH under the hash key `h` of a string cut into blocks, the last filled with zeros. -/
def ghash (h : BitVec 128) (y : BitVec 128) (b : Bytes) : BitVec 128 :=
  (blocks 16 (b.length / 16 + 1) b).foldl (fun y x => ghMul (y ^^^ BitVec.ofNat 128 (beNat (sub x 0 16))) h) y

/-- Counter mode from counter `c` on. -/
def gctr (key iv : Bytes) : Nat → List Bytes → Bytes
  | _, [] => []
  | c, b :: bs => xorBytes b (aesBlock key (iv ++ toBe 4 c)) ++ gctr key iv (c + 1) bs

def gcmCrypt (key iv b : Bytes) : Bytes := gctr key iv 2 (blocks 16 (b.length / 16 + 1) b)

/-- The tag over associated data and ciphertext. -/
def gcmTag (key iv aad c : Bytes) : Bytes :=
  let h := BitVec.ofNat 128 (beNat (aesBlock key (List.replicate 16 0)))
  let y := ghash h (ghash h (ghash h 0 aad) c) (toBe 8 (8 * aad.length) ++ toBe 8 (8 * c.length))
  xorBytes (toBe 16 y.toNat) (aesBlock key (iv ++ toBe 4 1))

/-- The initialisation vector of XPN: SSCI and PN summed with the salt; `nonce` is the SSCI, 4 bytes,
lowest first (R103), followed by the 12 bytes of salt. -/
def xpnIv (nonce : Bytes) (pn : Nat) : Bytes :=
  xorBytes (nonce.drop 4) ((nonce.take 4).reverse ++ toBe 8 pn)

/-- IEEE 802.1AE protection with XPN: key, SSCI and salt, packet number, addresses and SecTAG, user
data, whether it is encrypted; answers the user data followed by the ICV (R285 step 3). -/
def gcmProtect (key nonce : Bytes) (pn : Nat) (head user : Bytes) (conf : Bool) : Bytes :=
  let iv := xpnIv nonce pn
  if conf then
    let c := gcmCrypt key iv user
    c ++ gcmTag key iv head c
  else user ++ gcmTag key iv (head ++ user) []

/-- IEEE 802.1AE decryption of the user data that has come so far, before its ICV (R318). -/
def gcmDecrypt (key nonce : Bytes) (pn : Nat) (_head user : Bytes) : Bytes := gcmCrypt key (xpnIv nonce pn) user

/-- IEEE 802.1AE verification: as `gcmProtect`, of user data followed by the ICV; answers the
plaintext user data, none on an ICV failure (R316). -/
def gcmVerify (key nonce : Bytes) (pn : Nat) (head data : Bytes) (conf : Bool) : Option Bytes :=
  let n := data.length - 16
  let c := data.take n
  let iv := xpnIv nonce pn
  let tag := if conf then gcmTag key iv head c else gcmTag key iv (head ++ c) []
  if data.drop n = tag then some (if conf then gcmCrypt key iv c else c) else none

/-! ### ECDSA P-384 -/

/-- Prime of the field, order of the group and coefficient b of the curve P-384. -/
def p384 : Nat := 2 ^ 384 - 2 ^ 128 - 2 ^ 96 + 2 ^ 32 - 1
def p384Order : Nat :=
  0xFFFFFFFFFFFFFFFFFFFFFFFFFFFFFFFFFFFFFFFFFFFFFFFFC7634D81F4372DDF581A0DB248B0A77AECEC196ACCC52973
def p384B : Nat :=
  0xB3312FA7E23EE7E4988E056BE3F82D19181D9C6EFE8141120314088F5013875AC656398D8A2ED19D2A85C8EDD3EC2AEF

/-- Base point of P-384. -/
def p384Gx : Nat :=
  0xAA87CA22BE8B05378EB1C71EF320AD746E1D3B628BA79B9859F741E082542A385502F25DBF55296C3A545E3872760AB7
def p384Gy : Nat :=
  0x3617DE4A96262C6F5D9E98BF9292DC29F8F41DBD289A147CE9DA3113B5F0B8C00A60B1CE1D7E819D7A431D7C90EA0E5F

/-- Power modulo `m`, over the low `n` bits of the exponent. -/
def powMod (m : Nat) : Nat → Nat → Nat → Nat
  | 0, _, _ => 1
  | n + 1, b, e => (if e % 2 = 1 then b else 1) * powMod m n (b * b % m) (e / 2) % m

/-- Inverse modulo a prime of at most 384 bits. -/
def invMod (m a : Nat) : Nat := powMod m 384 (a % m) (m - 2)

/-- A point in Jacobian coordinates; z = 0 is the point at infinity. -/
structure EcPoint where
  x : Nat
  y : Nat
  z : Nat

/-- Doubling on a curve with a = -3. -/
def ecDouble (a : EcPoint) : EcPoint :=
  let m := p384
  let zz := a.z * a.z % m
  let yy := a.y * a.y % m
  let w := 3 * ((a.x + m - zz) * (a.x + zz)) % m
  let q := 4 * a.x * yy % m
  let x := (w * w + 2 * (m - q)) % m
  { x := x, y := (w * (q + m - x) + 8 * (m - yy * yy % m)) % m, z := 2 * a.y * a.z % m }

/-- Sum of two points. -/
def ecAdd (a b : EcPoint) : EcPoint :=
  let m := p384
  if a.z = 0 then b else if b.z = 0 then a else
  let za := a.z * a.z % m
  let zb := b.z * b.z % m
  let ua := a.x * zb % m
  let ub := b.x * za % m
  let sa := a.y * zb * b.z % m
  let sb := b.y * za * a.z % m
  if ua = ub then (if sa = sb then ecDouble a else ⟨1, 1, 0⟩) else
  let h := (ub + m - ua) % m
  let r := (sb + m - sa) % m
  let hh := h * h % m
  let hhh := h * hh % m
  let v := ua * hh % m
  let x := (r * r + (m - hhh) + 2 * (m - v)) % m
  { x := x, y := (r * (v + m - x) + (m - sa * hhh % m)) % m, z := h * a.z * b.z % m }

/-- Multiple of a point, over the low `n` bits of the factor. -/
def ecMul : Nat → Nat → EcPoint → EcPoint
  | 0, _, _ => ⟨1, 1, 0⟩
  | n + 1, k, a =>
    let rest := ecMul n (k / 2) (ecDouble a)
    if k % 2 = 1 then ecAdd a rest else rest

/-- ECDSA P-384 verification: key (x and y), hash, signature (r and s), each number in network order
(R477). -/
def ecdsaVerify (key hash sig : Bytes) : Bool :=
  let qx := beNat (sub key 0 48)
  let qy := beNat (sub key 48 48)
  let r := beNat (sub sig 0 48)
  let t := beNat (sub sig 48 48)
  let onCurve := qx < p384 && qy < p384 && (qy * qy) % p384 == (qx * qx * qx + (p384 - 3) * qx + p384B) % p384
  if !onCurve || r == 0 || t == 0 || p384Order ≤ r || p384Order ≤ t then false else
  let w := invMod p384Order t
  let q := ecAdd (ecMul 384 (beNat hash * w % p384Order) ⟨p384Gx, p384Gy, 1⟩) (ecMul 384 (r * w % p384Order) ⟨qx, qy, 1⟩)
  let zi := invMod p384 q.z
  q.z != 0 && q.x * zi % p384 * zi % p384 % p384Order == r

end Sys2Proof.Machine
end

