-- ==== Sys2Proof/Config.lean ====
section
/-! DEFINITION. What one die fixes (fuses, revision, serial) and the free values: values the spec
leaves open. Every constant here
is opaque: it has no body, so no proof can see its value and a statement holds for every value. -/

namespace Sys2Proof.Config

/-- Silicon revision of the die (Table 2-8 HL_ID; fixed per die, value not in the spec). -/
opaque siliconRevision : BitVec 8

/-- Die serial number, GET_INFO bytes 12–19 (Table 3-17). -/
opaque dieSerial : BitVec 64

/-- Vendor key hashes 0–3 fused at test (R479). -/
opaque vendorKeyHash : Nat → List (BitVec 8)

/-- TAP delay of a calibration point in ps as measured at −40 °C, 25 °C and 125 °C (0, 1, 2), held in
fuses (R217). -/
opaque tapFusePs : Nat → Nat → Int

/-- Nominal delay in ps of a point at a rate and a mode, held in fuses (R224). -/
opaque nominalDelayPs : Nat → Nat → Nat → Int

/-- END_SHIFT of wear monitor k, fused, in 0.01 % (Table 14-2). -/
opaque endShift : Nat → BitVec 16

/-- FREE VALUE: a fresh number drawn by the device (nonce, SESSION_ID, PROPOSAL_ID, NONCE); the
argument is the counter `freeIx` of the state. -/
opaque freeNat : Nat → Nat

/-- FREE VALUE: the rate, in 2^-40 units, that the servo filter of the servo owner asks for; the
spec names the filter and gives no law (R188, Table 5-4). Arguments: draw number, voted offset,
present rate. -/
opaque servoRate : Nat → Int → Int → Int

/-- FREE VALUE: the offset step, in 2^-16 ns, that the servo filter asks for (R188); arguments as
`servoRate`. -/
opaque servoStep : Nat → Int → Int → Int

/-- JEDEC identification of the SPI flash fitted to the module (Table 14-9; the spec names no part). -/
opaque flashId : BitVec 24

/-- FREE VALUE: reading of a wear monitor or voltage monitor before its first sample. -/
opaque unsampled : Nat → Int

/-- FREE VALUE: what a hardware timestamp adds below the model's 2 ns tick, in 2^-16 ns, when a
stamp is taken (R166 leaves bits [9:0] 0); argument: draw number. -/
opaque subTick : Nat → BitVec 7

/-- FREE VALUE: the delay in ps that the path from the digital stamp of a transmit point to its bump has when a
stamp is taken: the die's own, which the calibrated delay and TAP_TX stand for (R216); arguments: point, draw number.
Log entry 212. -/
opaque pathPs : Nat → Nat → Int

end Sys2Proof.Config
end

