-- ==== Sys2Proof/Machine/State.lean ====
section
/-! DEFINITION. The state of the XD860 as plain data, grouped as the die is: each field's comment
gives its width, the rule that names it and its reset value. -/

namespace Sys2Proof.Machine

/-- Faults of the model. The block answers every command with a next state (mailbox refusals are
responses, R105), so no command raises one and the type has no constructor. -/
inductive Fault where
  deriving DecidableEq, Repr

/-- Refusals of the model. -/
inductive Refusal where
  /-- Raised by an arm of `exec` whose command has no meaning yet. Safe: the model stops. -/
  | notModelled (mnemonic : String)
  deriving DecidableEq, Repr

/-- Output bumps that the chip drives (Tables 1-3 to 1-6). -/
structure Pads where
  /-- VDD_IO outputs are driven (1 bit; R25); reset true -/
  ioDriven : Bool := true
  /-- T0_TXEN–T15_TXEN (16 bits; Table 1-4); reset driven low -/
  txen : BitVec 16 := 0
  /-- T0_TXD–T15_TXD between transmissions (16 bits; Table 1-4); reset driven low -/
  txd : BitVec 16 := 0
  /-- EVT0–EVT7 (8 bits; Table 1-6); reset driven low -/
  evt : BitVec 8 := 0
  /-- SAFE_N0, SAFE_N1 as commanded (2 bits; R20); reset driven low -/
  safeN : BitVec 2 := 0
  /-- SAFE_N0, SAFE_N1 pad levels as last read back (2 bits; R466); reset low, as commanded -/
  safePad : BitVec 2 := 0
  /-- MOD0_TXDIS–MOD5_TXDIS (6 bits; Table 1-5); reset driven high -/
  modTxdis : BitVec 6 := 0x3F
  /-- MOD0_RS–MOD5_RS (6 bits; Table 1-5); reset driven low -/
  modRs : BitVec 6 := 0
  /-- MOD0_I2C_EN–MOD5_I2C_EN (6 bits; Table 1-5); reset driven low -/
  modI2cEn : BitVec 6 := 0
  /-- lane transmitters in electrical idle: P0–P5, K0, K1, S (9 bits; Table 1-3); reset all idle -/
  laneIdle : BitVec 9 := 0x1FF
  /-- SPI_SCK (1 bit; Table 1-6); reset driven low -/
  spiSck : Bool := false
  /-- SPI_CS_N (1 bit; Table 1-6); reset driven high -/
  spiCsN : Bool := true
  /-- SPI_IO[3:0] drivers on (4 bits; Table 1-6); reset Hi-Z with a weak pull-up -/
  spiIo : BitVec 4 := 0
  /-- I2C0_SCL, I2C0_SDA, I2C1_SCL, I2C1_SDA pulled low (4 bits, open drain; Table 1-5); reset Hi-Z -/
  i2cLow : BitVec 4 := 0
  /-- TDO driven (1 bit; Table 1-6); reset Hi-Z -/
  tdo : Bool := false
  /-- GUARD_XTAL_OUT oscillates (1 bit; Tables 1-6 and 1-10); reset false, it runs from reset exit on -/
  xtalOut : Bool := false
  /-- UCIe transmit bumps: 0 as UCIe 1.1 before training, 1 in training, 2 carrying flits (Table 1-3); reset 0 -/
  ucieTx : Nat := 0
  deriving DecidableEq, Repr

/-- Rails, resets, straps and clock sources (Tables 1-7 to 1-11). -/
structure Power where
  /-- rails at or above power-good: VDD_AO, CORE, MEM, UCIE, SDS, VDDH_SDS, IO (7 bits; R24); reset all good -/
  rails : BitVec 7 := 0x7F
  /-- the always-on domains are out of power-on reset (1 bit; Table 1-8); reset true -/
  aoRuns : Bool := true
  /-- RESET_N is recognised low (1 bit; R29); reset false, it has just risen -/
  resetLow : Bool := false
  /-- straps sampled and latched (1 bit; R32); reset false -/
  strapped : Bool := false
  /-- latched STACK_ID (3 bits; R6); reset 0 until sampled (DESIGN CHOICE 0, log entry 4) -/
  stackPos : BitVec 3 := 0
  /-- latched BOOT_SRC (2 bits; R33); reset 0 until sampled (DESIGN CHOICE 0, log entry 4) -/
  bootSrc : BitVec 2 := 0
  /-- TEST_N sampled low since power-up (1 bit; R34); reset false -/
  testMode : Bool := false
  /-- selected REFCLK_TIME frequency in MHz, 0 none (R37); reset 0 -/
  refMHz : Nat := 0
  /-- islands CI01–CI06, CI08 and CI27 are clocked (1 bit; Table 1-10 step 7); reset false -/
  clocked : Bool := false
  /-- REFCLK_TIME lost or invalid (1 bit; R37, R193); reset false -/
  refLost : Bool := false
  /-- system PLL locked (1 bit; Table 1-10); reset false -/
  sysPll : Bool := false
  /-- time reference PLL locked (1 bit; Table 1-10); reset false -/
  timePll : Bool := false
  /-- the UCIe PHY is ready (1 bit; Table 1-10); reset false -/
  ucieReady : Bool := false
  /-- GUARD_XTAL is stable and CI07 runs (1 bit; Table 1-10); reset false -/
  guardRuns : Bool := false
  deriving DecidableEq, Repr

/-- What one outstanding host memory read is for (R59, R67). -/
inductive DmrdUse where
  | txDesc (q idx : Nat)
  | rxDesc (q idx : Nat)
  | txFrame (q idx off : Nat)
  deriving DecidableEq, Repr

/-- One outstanding DMRD. -/
structure Dmrd where
  tag : Nat
  use : DmrdUse
  addr : Nat
  len : Nat
  /-- bytes completed so far, from offset 0 -/
  got : Bytes
  /-- one of its completions was poisoned (Table 2-7) -/
  bad : Bool
  /-- clock at which it was sent -/
  at_ : Nat
  deriving DecidableEq, Repr

/-- Message classes of KLTL (Tables 2-3 and 2-5). -/
inductive MsgClass where
  | posted
  | nonPosted
  | completion
  | linkMgmt
  deriving DecidableEq, Repr

/-- A numbered flit held for replay (R51). -/
structure HeldFlit where
  seq : BitVec 12
  flit : Bytes
  /-- times in succession that it was replayed (R53) -/
  replays : Nat
  deriving DecidableEq, Repr

/-- A message that waits to be sent (R61). -/
structure Waiting where
  cls : MsgClass
  msg : Bytes
  /-- the vector of the queue event that its sending is: the write-back it carries is made then (R85, R86) -/
  vec : Option Nat := none
  deriving DecidableEq, Repr

/-- The host link: KLTL flit layer, window 0 link registers, events, detach. -/
structure Link where
  /-- the mainband is trained and active (1 bit; R48); reset false -/
  trained : Bool := false
  /-- training is going on (1 bit; R48); reset false -/
  training : Bool := false
  /-- HL_LINK.RATE (8 bits, GT/s; R48); reset 0 -/
  rate : BitVec 8 := 0
  /-- HL_LINK.WIDTH (5 bits; R48); reset 0 -/
  width : BitVec 5 := 0
  /-- HL_LINK.HALF (2 bits; R48); reset 0 -/
  half : BitVec 2 := 0
  /-- HL_LINK.RETRAINS (16 bits, saturating; R48); reset 0 -/
  retrains : BitVec 16 := 0
  /-- a first training has started since reset (R48); reset false -/
  everTrained : Bool := false
  /-- HL_STATUS.LINK_STATE (4 bits; Table 2-9); reset 0 DOWN -/
  state : BitVec 4 := 0
  /-- HL_STATUS.HOST_LOST (1 bit; Table 2-9); reset 0 -/
  hostLost : Bool := false
  /-- HL_STATUS.FW_READY (1 bit; Table 2-9); reset 0 -/
  fwReady : Bool := false
  /-- HL_STATUS W1C flags, bits 11–7 (5 bits: MALFORMED, POISON, CPL_TIMEOUT, REPLAY_LIMIT, STAMP_REFUSED; Table 2-9); reset 0 -/
  flags : BitVec 5 := 0
  /-- HL_CTRL (32 bits; Table 2-10); reset MAX_WRITE 0b10, MAX_READ 0b11 -/
  ctrl : BitVec 32 := 0x2C000
  /-- DMA_ENABLE as last written, in force at ATTACH (1 bit; R91, R92); reset 0 -/
  dmaSaved : Bool := false
  /-- HL_CPL_TIMEOUT (16 bits, 50 µs units; Table 2-8); reset 20 -/
  cplTimeout : BitVec 16 := 20
  /-- HL_DETACH (32 bits; Table 2-11); reset 0 -/
  detach : BitVec 32 := 0
  /-- HL_ERR (64 bits; Table 2-8); reset 0 -/
  err : BitVec 64 := 0
  /-- HL_ERR holds a header (R68, Table 2-8); reset false -/
  errHeld : Bool := false
  /-- EV_MASK (128 bits; Table 2-8); reset all 1 -/
  evMask : BitVec 128 := BitVec.allOnes 128
  /-- EV_PEND (128 bits; Table 2-8); reset 0 -/
  evPend : BitVec 128 := 0
  /-- EV_HOLDOFF, 16 bits per vector (Table 2-8); reset 0 -/
  evHoldoff : Sparse (BitVec 16) := []
  /-- vectors whose EVT waits for its holdoff (128 bits; R85); reset 0 -/
  evWait : BitVec 128 := 0
  /-- vectors with an event after the reference instant of R86 (128 bits); reset 0 -/
  evAgain : BitVec 128 := 0
  /-- clock of the last EVT of a vector, plus 1; 0 none (R85); reset none -/
  evLast : Sparse Nat := []
  /-- corrected time, 48-bit form, at which a vector's bit became set (R87); reset 0 -/
  evSetAt : Sparse Nat := []
  /-- link losses since power-up (R91); reset 0 -/
  losses : Nat := 0
  /-- every loss has had its LINK_LOST_SEEN (R91); reset true, none has occurred -/
  lossTold : Bool := true
  /-- a quiesce ordered by the host runs or has run since the last ATTACH (R522); reset false -/
  quiesce : Bool := false
  /-- the agent of a DETACH not yet answered (R88); reset none -/
  detachVia : Option Via := none
  /-- clock at which DETACHED was entered (R399); reset 0 -/
  detachedAt : Nat := 0
  /-- corrected time, 2^-16 ns, at which DETACHED was entered (R443); reset 0 -/
  detachedTime : Nat := 0
  /-- the hold limit has passed while DETACHED (R399); reset false -/
  holdOver : Bool := false
  /-- FLIT_SEQ of the next numbered flit sent (12 bits; R51); reset 0 -/
  txSeq : BitVec 12 := 0
  /-- FLIT_SEQ expected next (12 bits; R52); reset 0 -/
  rxSeq : BitVec 12 := 0
  /-- a flit in sequence has been received, so ACK_VALID is 1 (Table 2-1); reset false -/
  rxAny : Bool := false
  /-- flits are discarded until the expected one arrives (R52); reset false -/
  rxBad : Bool := false
  /-- a NAK waits for room in the replay buffer (R51, R52); reset false -/
  nakDue : Bool := false
  /-- replay buffer, oldest first, at most 64 flits (R51); reset empty -/
  replay : List HeldFlit := []
  /-- retraining has been requested and the link is not active again (R53); reset false -/
  asked : Bool := false
  /-- bytes of a message that continues in the next flit (Table 2-1); reset empty -/
  rxPart : Bytes := []
  /-- messages waiting for credits or for the replay buffer, oldest first (R61); reset empty -/
  waiting : List Waiting := []
  /-- posted header and data, non-posted header, link-management header credits granted by the host (Table 2-5); reset 16, 32, 32, 4 -/
  crP : Nat := 16
  crPD : Nat := 32
  crNP : Nat := 32
  crLM : Nat := 4
  /-- posted header and data, non-posted header, link-management header credits that the host holds of the XD860's grant (Table 2-5); reset 32, 64, 64, 4 -/
  gvP : Nat := 32
  gvPD : Nat := 64
  gvNP : Nat := 64
  gvLM : Nat := 4
  /-- the flit layer starts anew: the next training is a link-up with new grants (R61); reset true -/
  anew : Bool := true
  /-- a detach has written all it writes, and DETACHED follows its last message (Table 2-20 steps 3 to 5); reset false -/
  leaving : Bool := false
  /-- credits to return to the host in the next flit (Table 2-1); reset 0 -/
  rtP : Nat := 0
  rtPD : Nat := 0
  rtNP : Nat := 0
  rtLM : Nat := 0
  /-- outstanding DMRDs (R59); reset none -/
  dmrds : List Dmrd := []
  /-- tags kept out of use, with the clock until which (R60); reset none -/
  deadTags : List (Nat × Nat) := []
  /-- tag tried next for a DMRD (10 bits; R59); reset 0 -/
  nextTag : Nat := 0
  deriving DecidableEq, Repr

/-- Where the frame of a TX descriptor stands (R270, R524). -/
inductive TxPhase where
  /-- descriptor read, frame not fetched -/
  | read
  /-- frame read outstanding, with the pieces still missing -/
  | fetching (missing : Nat)
  /-- staged as a parison -/
  | staged
  /-- handed to the stack member that sends it (R427) -/
  | away
  /-- its write-back is decided, with this STATUS (Table 2-15) -/
  | done (status : BitVec 8)
  deriving DecidableEq, Repr

/-- One stamp of a frame at a port: 48-bit form and CAL_CLASS (Table 2-18). -/
structure Stamp where
  port : Nat
  at48 : BitVec 48
  cls : BitVec 2
  /-- PTP_PORT.LINK_DELAY in force at an ingress stamp, 2^-16 ns (R202); 0 in every other stamp -/
  link : Int := 0
  /-- clock at which its mark passed (R216, R223, R229) -/
  mark : Nat := 0
  deriving DecidableEq, Repr

/-- A TX descriptor that has been read, until its write-back is written (R73). -/
structure TxRec where
  idx : Nat
  /-- the 32 bytes of Table 2-14 -/
  desc : Bytes
  /-- where it stands between fetch and write-back (R73, R270) -/
  phase : TxPhase
  /-- frame bytes fetched so far, by offset -/
  data : Bytes
  /-- sequence number assigned, and every replica carries it in an R-TAG (R343) -/
  seq : BitVec 16
  rtag : Bool := false
  /-- launch time, corrected time in 2^-16 ns, extended when the descriptor was read (R270) -/
  launch : Nat
  /-- ports of the frame still to be decided, and ports that sent it (R76) -/
  todo : BitVec 6
  sent : BitVec 6
  /-- a port sent it after it was judged late (Table 7-7) -/
  sentLate : Bool
  /-- ports on which it was judged late (R271) -/
  late : BitVec 6
  /-- it was withheld or aborted by an F3 or F4 on some port (R76) -/
  safe : Bool
  /-- it met a port that was down (R76) -/
  down : Bool
  /-- a port dropped it late or as oversize (R271, R272); a port dropped it for want of a key (R490) -/
  dropped : Bool := false
  keyless : Bool := false
  /-- egress stamps taken and not yet written (R80) -/
  stamps : List Stamp
  /-- ports whose stamp was lost (R80) -/
  lost : BitVec 6
  /-- member position to which it travels, as the maps stood when its descriptor was read; write-back received in
  TX_DONE (R427, R446) -/
  dest : Option Nat := none
  member : Option Bytes
  /-- withheld as the standby's own copy (R436), and an ASSIGN has named it (R437) -/
  withheld : Bool
  assigned : Bool
  /-- ports on which its readiness waits for an earlier descriptor of its port and TC (R251) -/
  ripe : BitVec 6 := 0
  /-- ports on which it holds staging cells (R269) -/
  cellsOn : BitVec 6
  /-- STATUS of a failed piece of its fetch, 0 none (Table 2-7) -/
  fail : BitVec 8
  deriving DecidableEq, Repr

/-- An RX buffer posted by the host and read by the XD860 (R77). -/
structure RxBuf where
  idx : Nat
  addr : Nat
  size : Nat
  bad : Bool
  deriving DecidableEq, Repr

/-- An RX write-back that waits to be written (R73), with the frame data that goes before it. -/
structure RxWb where
  idx : Nat
  addr : Nat
  data : Bytes
  poison : Bool
  wb : Bytes
  /-- its timestamp record (R83), empty where the queue is not stamped -/
  record : Bytes
  recIx : Nat
  deriving DecidableEq, Repr

/-- One descriptor queue (Tables 2-12 and 2-13). -/
structure Queue where
  /-- BASE (64 bits); reset 0 -/
  base : BitVec 64 := 0
  /-- SIZE (13 bits); reset 0 -/
  size : BitVec 13 := 0
  /-- CTRL.ENABLE; reset 0 -/
  enable : Bool := false
  /-- CTRL.STAMPED; reset 0 -/
  stamped : Bool := false
  /-- CTRL.STOPPED; reset 0 -/
  stopped : Bool := false
  /-- the stamping slot held (R82); reset none -/
  slot : Option Nat := none
  /-- CTRL.ERR (4 bits); reset 0 -/
  err : BitVec 4 := 0
  /-- CTRL.DEF_LATE (2 bits; TXQ); reset 0b01 -/
  defLate : BitVec 2 := 1
  /-- CTRL.VECTOR (7 bits) as written; reset q ÷ 2 for TXQq, 32 + q ÷ 2 for RXQq -/
  vector : Option (BitVec 7) := none
  /-- HEAD, WB_INDEX (12 bits each); reset 0 -/
  head : BitVec 12 := 0
  wb : BitVec 12 := 0
  /-- TAIL doorbell (12 bits); reset 0 -/
  tail : BitVec 12 := 0
  /-- a disable is in progress (R70); reset false -/
  closing : Bool := false
  /-- a descriptor read is outstanding (R270); reset false -/
  reading : Bool := false
  /-- TXQ: descriptors read and not written back, oldest first; reset none -/
  recs : List TxRec := []
  /-- RXQ: buffers read and not used, oldest first; reset none -/
  bufs : List RxBuf := []
  /-- RXQ: write-backs waiting, oldest first; reset none -/
  wbs : List RxWb := []
  /-- next timestamp record of the queue (8 bits; R83); reset 0 -/
  recIx : Nat := 0
  deriving DecidableEq, Repr

/-- A Xiond request as received (Table 3-9). -/
structure Request where
  via : Via
  opcode : BitVec 16
  tag : BitVec 16
  /-- header bytes 6–7 -/
  word6 : BitVec 16
  /-- OID, LENGTH and payload (Table 3-3) -/
  oid : BitVec 32
  length : Nat
  payload : Bytes
  /-- CRC good (R104) -/
  crcOk : Bool
  /-- it arrived while an earlier request of the same remote agent was unanswered (R97) -/
  busy : Bool
  /-- received time, raw ns (R117) -/
  at_ : Nat
  /-- its opcode has been acted on, and its answer is due (R100) -/
  served : Bool := false
  deriving DecidableEq, Repr

/-- One host mailbox channel (Table 3-7). -/
structure Channel where
  /-- STATE (3 bits); reset 0 OFFLINE -/
  state : BitVec 3 := 0
  /-- OVERWRITE (1 bit); reset 0 -/
  overwrite : Bool := false
  /-- LAST_STATUS (8 bits), LAST_TAG (16 bits); reset 0 -/
  lastStatus : BitVec 8 := 0
  lastTag : BitVec 16 := 0
  /-- received time of the POST, raw ns (R117); reset 0 -/
  at_ : Nat := 0
  deriving DecidableEq, Repr

/-- A staged order (R110). -/
structure Order where
  agent : BitVec 8
  rank : Nat
  tag : BitVec 16
  at_ : Nat
  opcode : BitVec 16
  oid : BitVec 32
  payload : Bytes
  /-- domains it implies and their reserved cost in mW (R148) -/
  domains : List Nat
  /-- staging cells it reserves: port and count (R154) -/
  cells : Option (Nat × Nat)
  deriving DecidableEq, Repr

/-- The mailboxes, remote requests, the stage and the commit logic (chapter 3). -/
structure Mail where
  /-- MB0–MB3 (Table 3-3); reset OFFLINE -/
  chans : Sparse Channel := []
  /-- requests of remote agents not yet taken, oldest first (R102); reset none -/
  remote : List Request := []
  /-- requests taken and not yet answered (R100); reset none -/
  taken : List Request := []
  /-- open stage, in received order (R112); reset empty -/
  stage : List Order := []
  /-- frozen stage (R112); reset empty -/
  frozen : List Order := []
  /-- boundary of the pending COMMIT, ns; none while no COMMIT is pending (R113); reset none -/
  boundary : Option Nat := none
  /-- the pending COMMIT's request (R115); reset none -/
  commit : Option Request := none
  /-- the hardware holds the prepared set (R116); reset false -/
  held : Bool := false
  /-- this device cannot agree: a check of R149 or R263 failed at the freeze; reset false -/
  selfBad : Bool := false
  /-- displaced orders of the present window, in received order, and how many (R121); reset none -/
  displaced : List Order := []
  displacedCount : Nat := 0
  /-- orders already displaced when the stage froze (R121); reset none -/
  frozenDisp : List Order := []
  frozenDispCount : Nat := 0
  /-- MGMT_COMMIT_REPORT (Table 3-14); reset 24 zero bytes -/
  report : Bytes := List.replicate 24 0
  /-- last boundary taken, ns (R180); reset 0 -/
  lastBoundary : Nat := 0
  deriving DecidableEq, Repr

/-- State of one power domain (R134, Table 4-9). -/
structure Domain where
  /-- 0 DISABLED, 1 ENABLING, 2 ENABLED, 3 DISABLING -/
  state : Nat := 0
  /-- AGENT and rank that enabled it (R138) -/
  agent : BitVec 8 := 0
  rank : Nat := 0
  deriving DecidableEq, Repr

/-- What an ENABLING or DISABLING domain is being moved for. -/
inductive Move where
  /-- a mailbox order of this agent -/
  | order (via : Via)
  /-- a unit entering or leaving doze (R157, R159) -/
  | doze (unit : Nat)
  | wake (unit : Nat)
  /-- LEDGER_SHED (R150) -/
  | shed
  /-- a frozen stage (R149), and its undoing -/
  | commit
  | undo
  /-- boot code (R474, R481) -/
  | boot
  deriving DecidableEq, Repr

/-- Doze of one port or segment (R157–R161). -/
structure Doze where
  /-- 0 awake, 1 entering, 2 dozing, 3 waking; reset 0 -/
  status : Nat := 0
  /-- domains recorded as ENABLED on entry (R157); reset none -/
  held : List Nat := []
  /-- wake count (Table 4-9); reset 0 -/
  wakes : Nat := 0
  deriving DecidableEq, Repr

/-- The ledger and the resource registry (chapter 4). -/
structure Ledger where
  /-- PD00–PD77; reset: PD46, 47, 70, 71, 73, 74, 76, 77 ENABLED, the rest DISABLED (Table 4-3) -/
  doms : Sparse Domain := []
  /-- the move in progress and its domain (R137); reset none -/
  moving : Option (Nat × Move) := none
  /-- moves still to make, in order: true enables (R149, R157, R159); reset none -/
  plan : List (Bool × Nat × Move) := []
  /-- domains that a frozen stage has enabled and that stay isolated until its boundary (R149); reset none -/
  isolated : List Nat := []
  /-- BOOT_CEILING (13 bits; Table 4-6); reset 7,200 -/
  bootCeil : Nat := 7200
  /-- thermal ceiling in force, mW (R145); reset 7,200 -/
  thermal : Nat := 7200
  /-- ceilings of the readings of the last second, rising: clock until which each was the latest, ceiling (R145); reset none -/
  rising : List (Nat × Nat) := []
  /-- Tj used, 0.1 °C (16 bits signed; Table 4-9); reset 0 until the first reading (DESIGN CHOICE 0, log entry 7) -/
  tj : Int := 0
  /-- LEDGER_STATE.OVER and SHED_EXHAUSTED; reset 0 -/
  exceeds : Bool := false
  exhausted : Bool := false
  /-- DOZE units by instance (Table 4-9); reset awake -/
  doze : Sparse Doze := []
  /-- comparators TCMP0–15: owner OID of a claimed one and its AGENT (Table 4-8); reset free -/
  comps : Sparse (Option (Nat × Nat)) := []
  /-- pins EVT0–7 and CAP0–3 (index 0–11): owner OID and AGENT (Table 4-8); reset free -/
  pins : Sparse (Option (Nat × Nat)) := []
  /-- AGENT whose order set a port's STAGING_CELLS (Table 4-9); reset 0 -/
  cellAgent : Sparse Nat := []
  deriving DecidableEq, Repr

/-- One time-core channel (R164, R182). -/
structure Chan where
  /-- raw count (80 bits); reset 0 -/
  raw : BitVec 80 := 0
  /-- offset (80 bits, signed); reset 0 -/
  off : BitVec 80 := 0
  /-- rate (32 bits, signed, 2^-40); reset 0 -/
  rate : BitVec 32 := 0
  /-- anchor (80 bits); reset 0 -/
  anchor : BitVec 80 := 0
  /-- in the vote; retired; resynchronising (Table 5-5); reset 0 -/
  inVote : Bool := false
  retired : Bool := false
  resync : Bool := false
  /-- clock at which it left the vote or was enabled beside it (R185, R187); reset 0 -/
  since : Nat := 0
  /-- outvotes since reset, and the clocks of the last ones (R186); reset 0 -/
  outvotes : Nat := 0
  times : List Nat := []
  deriving DecidableEq, Repr

/-- An accepted adjustment that awaits its point (R174). -/
structure Adjust where
  rate : Option (BitVec 32)
  step : Option Int
  permit : Bool
  /-- the agent to answer; none for the Gaffer's servo -/
  via : Option Via
  /-- it is a servo update when it takes effect (R192) -/
  servo : Bool
  /-- raw ns at acceptance (R168) -/
  at_ : Nat
  deriving DecidableEq, Repr

/-- One plane's PTP state (Table 5-5, PTP_PLANE group 1). -/
structure Plane where
  /-- grandmaster identity (64 bits); reset 0 -/
  gm : BitVec 64 := 0
  /-- 0 INVALID, 1 SETTLING, 2 VALID, 3 DISAGREE; reset 0 -/
  state : Nat := 0
  /-- latest offset (80 bits signed, 2^-16 ns) and the clock at which it came; reset none -/
  off : Int := 0
  at_ : Nat := 0
  seen : Bool := false
  /-- grandmaster changes (32 bits); reset 0 -/
  changes : Nat := 0
  /-- settling updates left (R190), updates far from the median in succession (R189); reset 0 -/
  settle : Nat := 0
  far : Nat := 0
  /-- its announce timeout has expired and it has not been announced since (R190); reset false -/
  expired : Bool := false
  deriving DecidableEq, Repr

/-- A timed output (R203). -/
structure TimedOut where
  /-- 0 off, 1 one-shot, 2 periodic; reset 0 -/
  mode : Nat := 0
  pol : Bool := false
  /-- class of TREF at the last edge (R229); reset 0 -/
  cls : BitVec 2 := 0
  /-- START (80 bits, corrected time), PERIOD, WIDTH in ns; reset 0 -/
  start : Nat := 0
  period : Nat := 0
  width : Nat := 0
  /-- 0 off, 1 armed, 2 running, 3 done (Table 5-5); reset 0 -/
  state : Nat := 0
  /-- number of the next edge: even leading, odd trailing (R203); reset 0 -/
  edge : Nat := 0
  /-- corrected time of the last edge produced of this setting, plus 1 (R205); reset 0 none -/
  last : Nat := 0
  /-- instant at the bump at which it was placed, 2^-16 ns (R205); reset 0 -/
  placed : Nat := 0
  /-- edges not produced (32 bits; R205); reset 0 -/
  missed : Nat := 0
  deriving DecidableEq, Repr

/-- A capture input (R209–R212). -/
structure Capture where
  /-- stamps held, oldest first, with their class; reset none -/
  stamps : List Stamp := []
  /-- captures lost since the last read (8 bits, saturating); reset 0 -/
  lost : Nat := 0
  /-- corrected time of the last captured edge, plus 1 (R211); reset 0 -/
  last : Nat := 0
  /-- the window has closed (R209); reset false -/
  shut : Bool := false
  deriving DecidableEq, Repr

/-- A Sync whose Follow_Up is awaited (R200). -/
structure Pairing where
  plane : Nat
  residence : Nat
  /-- class of that residence time (R229) -/
  cls : BitVec 2 := 0
  /-- source port identity and sequence of the Sync, its ingress port and the clock of its passage (R200) -/
  portId : Bytes
  seq : BitVec 16
  inPort : Nat
  at_ : Nat
  deriving DecidableEq, Repr

/-- Network time (chapter 5). -/
structure Time where
  /-- channels X, Y, Z; reset 0 -/
  chans : Sparse Chan := []
  /-- the accepted adjustment (R174); reset none -/
  pending : Option Adjust := none
  /-- permit: 0 none, 1 armed, 2 initial; its AGENT; clock of expiry (R176, R177); reset none -/
  permit : Nat := 0
  permitAgent : BitVec 8 := 0
  permitEnd : Nat := 0
  /-- time state: 0 LOCKED, 1 HOLDOVER, 2 FREE_RUNNING (Table 5-3); reset 2 -/
  state : Nat := 2
  /-- clock at which the state was entered (Table 5-5); reset 0 -/
  since : Nat := 0
  /-- TIME_STATUS.SLEWING; reset 0 -/
  slewing : Bool := false
  /-- servo updates in succession while FREE_RUNNING (Table 5-3); reset 0 -/
  succ : Nat := 0
  /-- servo updates (32 bits; Table 5-5); reset 0 -/
  updates : Nat := 0
  /-- clock of the last servo update (Table 5-3); reset 0 -/
  lastUpdate : Nat := 0
  /-- rates put in force in the last 16 s: clock and rate, newest first (Table 5-3); reset none -/
  rates : List (Nat × Int) := []
  /-- last voted offset (80 bits signed; Table 5-5); reset 0 -/
  voted : Int := 0
  /-- clock of the last plane time vote, plus 1 (R188); reset 0 none -/
  votedAt : Nat := 0
  /-- planes A, B, C; reset INVALID -/
  planes : Sparse Plane := []
  /-- EVT0–EVT7; reset off -/
  outs : Sparse TimedOut := []
  /-- CAP0–CAP3; reset empty -/
  caps : Sparse Capture := []
  /-- Follow_Up pairing entries, oldest first (R200); reset none -/
  pairs : List Pairing := []
  /-- raw time of the last outvote, values that disagreed (Table 5-5); reset 0 -/
  outvoteRaw : BitVec 80 := 0
  outvoteVals : BitVec 8 := 0
  /-- no voted time exists after FS035 (R464); reset false -/
  lostVote : Bool := false
  /-- clock of the last offset step put in force, plus 1 (R237); reset 0 -/
  stepAt : Nat := 0
  deriving DecidableEq, Repr

/-- One delay point of the Lehr (R220–R228). -/
structure CalPoint where
  /-- calibrated delay in ps; none: the nominal delay (R224) -/
  delay : Option Int := none
  /-- clock of the last accepted pass; meaningful with `delay` -/
  at_ : Nat := 0
  /-- Tj of the last accepted pass, 0.1 °C (R226) -/
  tj : Int := 0
  /-- clock of the last relock (R228) -/
  relock : Nat := 0
  /-- a pass runs, and the clock of its start (R220) -/
  running : Bool := false
  start : Nat := 0
  /-- waiting passes: relock, run-now, temperature, periodic (R225) -/
  due : BitVec 4 := 0
  /-- result held for confirmation (R222) -/
  held : Option Int := none
  /-- the lane has not relocked since the delay was accepted (R222) -/
  steady : Bool := false
  /-- the fault of R228 was recorded for this entry into CAL_STALE -/
  stale : Bool := false
  /-- clock since which a pass waits for a converter (R225, R243); reset none -/
  waits : Option Nat := none
  /-- clock of the last deferral or discarded pass, from which it is next due (R222, R243); reset 0 -/
  tried : Nat := 0
  deriving DecidableEq, Repr

/-- An outstanding Lehr probe (R231, R237). -/
structure Probe where
  seq : BitVec 16
  /-- T1, 48-bit form -/
  t1 : BitVec 48
  /-- its FLAGS showed LOCKED -/
  locked : Bool
  /-- clock at which it was sent -/
  at_ : Nat
  /-- it has been counted as unanswered (R238) -/
  told : Bool := false
  deriving DecidableEq, Repr

/-- Calibration counters and probe state of one port (CAL_PORT group 1). -/
structure CalPort where
  /-- CAL_POLICY: suspended (R244); trigger in 0.1 °C, reset 20 (Table 3-18) -/
  suspended : Bool := false
  trigger : Nat := 20
  /-- deferral reason (Table 6-7); reset 0 -/
  reason : Nat := 0
  /-- the last pass was deferred (R243); reset false -/
  deferred : Bool := false
  /-- passes accepted, rejected, deferred; relocks (32 bits each; Table 6-8); reset 0 -/
  accepted : Nat := 0
  rejected : Nat := 0
  deferrals : Nat := 0
  relocks : Nat := 0
  /-- partner: 0 unknown, 1 echoes, 2 silent; unanswered probes (R238); reset 0 -/
  partner : Nat := 0
  unanswered : Nat := 0
  /-- next probe number; the probes of which no echo has come, the last 64, oldest first (R231, R237); reset 0,
  none -/
  seq : BitVec 16 := 0
  out : List Probe := []
  /-- used pairs of the running asymmetry pass: mean and asym, 2^-16 ns; probes sent in it (R237) -/
  pairs : List (Int × Int) := []
  probes : Nat := 0
  /-- measured mean link delay and asymmetry, ps, and the clock of their pass, plus 1 (R239); reset none -/
  mean : Int := 0
  asym : Int := 0
  asymAt : Nat := 0
  /-- the probe held for echoing: the frame, T2 and its clock (R236); reset none -/
  echo : Option (Bytes × BitVec 48 × Nat) := none
  /-- clock of the last probe sent, plus 1 (R238); reset 0 -/
  probeAt : Nat := 0
  /-- cycles of the last probe and of the last echo, plus 1 (R233); reset 0 -/
  probeCyc : Nat := 0
  echoCyc : Nat := 0
  /-- corrected ns, plus 1, at which the closed intervals of the last Lehr frame and of the last echo opened (R233); reset 0 -/
  usedAt : Nat := 0
  echoAt : Nat := 0
  /-- mode of the lane as it last locked, which with its rate selects the nominal delay (R224; log entry 146); reset 0 -/
  mode : Nat := 0
  deriving DecidableEq, Repr

/-- A sensor's account (Table 14-2). -/
structure Sensor where
  reading : Int := 0
  low : Int := 0
  high : Int := 0
  valid : Bool := false
  excluded : Bool := false
  /-- sampled at least once; clock of the sample -/
  seen : Bool := false
  at_ : Nat := 0
  deriving DecidableEq, Repr

/-- Delay points, calibration accounts and sensors as they stood until a clock value (R223, R229). -/
structure CalPast where
  till : Nat
  points : Sparse CalPoint
  ports : Sparse CalPort
  sensors : Sparse Sensor
  deriving DecidableEq, Repr

/-- The Lehr (chapter 6). -/
structure Cal where
  points : Sparse CalPoint := []
  ports : Sparse CalPort := []
  /-- converters out of service for a failed linearity test (8 bits; R219); reset 0 -/
  convBad : BitVec 8 := 0
  /-- CAL_SEG_NODE: round trip in ps and clock of the measurement, key 32 × s + node (R241); reset none -/
  nodes : Sparse (Option (Nat × Nat)) := []
  /-- what held before the changes of the last 100 µs, oldest first (R223, R229) -/
  past : List CalPast := []
  deriving DecidableEq, Repr

/-- Where an egress frame came from. -/
inductive EgSrc where
  /-- parison of a TXQ (queue, descriptor index); queues 128 and 129 stand for what a stack master
  sent here over K0 and K1, with index 4,096 × its TXQ + its index (R427), and queue 192 + q for the
  parisons of TXQq that outlive its stop on DETACHED (R90) -/
  | host (q idx : Nat)
  /-- ring forwarding, with the ingress port (R328) -/
  | fwd (inPort : Nat)
  /-- a frame the XD860 generates: Lehr probe, echo, agreement, negotiation, heartbeat, servo -/
  | own
  deriving DecidableEq, Repr

/-- A frame in an egress queue, plaintext from the destination address to the byte before the FCS,
as it stands before MACsec (R285). -/
structure EgFrame where
  id : Nat
  tc : Nat
  data : Bytes
  src : EgSrc
  /-- received whole, or built here (R277) -/
  whole : Bool := true
  /-- must end with an inverted FCS (R332) -/
  bad : Bool := false
  /-- judged late and still to be sent (Table 7-7) -/
  late : Bool := false
  /-- waits for the next opening edge of its gate, after this corrected ns (NEXT_WINDOW) -/
  waitFrom : Option Nat := none
  /-- ingress stamp of a forwarded frame (R197, R202, R229) -/
  rx : Option Stamp := none
  /-- a copy that was not admitted on CT_ASSUME_BYTES: it is not ready until it is whole (R277, R329) -/
  kept : Bool := false
  /-- sent ahead of the queues, or whole as an express frame (R278, R283) -/
  express : Bool := false
  deriving DecidableEq, Repr

/-- The protection of one frame, fixed when it starts (R285 step 3, R490). -/
structure SecUse where
  key : Bytes
  /-- SSCI and salt -/
  nonce : Bytes
  /-- packet number (R491) -/
  pn : Nat
  /-- SecTAG from its EtherType on -/
  tag : Bytes
  /-- the frame is encrypted as well (R490) -/
  conf : Bool
  deriving DecidableEq, Repr

/-- A frame on the line or suspended: what has left, and how (R276, R281). -/
structure OnLine where
  frame : EgFrame
  /-- level with which it was admitted, 0 express -/
  lvl : Nat
  /-- protected bytes without the FCS -/
  wire : Bytes
  /-- data bytes already sent in closed fragments -/
  gone : Nat
  /-- frame count 0–3, and the fragment count of the next continuation -/
  count : Nat
  frag : Nat
  /-- MACsec dropped or aborted: end with an inverted FCS -/
  stomp : Bool
  /-- egress stamp of its start (R216) -/
  stamp : Stamp
  /-- class of its residence correction, the worse of ingress and egress (R229); none where it has none -/
  resCls : Option (BitVec 2) := none
  /-- delimiter of the fragment on the line -/
  smd : Nat
  /-- addFragSize with which it was admitted (R278, R292) -/
  afs : Nat := 0
  /-- stacked preemption was confirmed when it was admitted (R280, R292) -/
  stk : Bool := false
  /-- ADMIT_GUARD_NS in ps and CT_ASSUME_BYTES with which it was admitted; its queue was shaped then (R292) -/
  guard : Nat := 0
  ctb : Nat := 0
  shaped : Bool := false
  /-- it was suspended when it was found wrong: its next fragment ends at its first legal point (R332) -/
  short : Bool := false
  /-- admitted as a cut-through frame on CT_ASSUME_BYTES (R277) -/
  ct : Bool
  /-- the fragment on the line is not to be its last: its gate closes before the rest could leave (R276, R463) -/
  inner : Bool := false
  /-- its protection, none where it goes unprotected -/
  sec : Option SecUse
  deriving DecidableEq, Repr

/-- What the deciding pass of a received frame comes to (Table 8-1 steps 5 to 12). -/
structure Verdict where
  /-- step 7 drops the frame whole; class, action and removal let it be forwarded -/
  drop : Bool
  fwd : Bool
  /-- traffic class and tag that the action gives -/
  tc : Nat
  tag : BitVec 32
  /-- the action's meter -/
  meter : Option Nat
  /-- the outer tag has DEI set (R313) -/
  dei : Bool
  /-- local copy: none, to the Gaffer (some none), to an RXQ -/
  dest : Option (Option Nat)
  /-- the Gaffer's servo gets a copy (R296) -/
  servo : Bool
  /-- SUBTYPE of a device frame that is consumed or handed to its function, 0 none (R296) -/
  device : Nat
  /-- stream handle, and the sequence number of the R-TAG (R337, R346) -/
  handle : Option Nat
  rtag : Option (BitVec 16)
  /-- offsets of the R-TAG EtherTypes (R349) -/
  rtags : List Nat
  /-- offset of the payload; a PTP message over UDP -/
  payOff : Nat
  ptpUdp : Bool
  /-- POLICE group of the handle as the pass read it (R361) -/
  pol : Bytes := []
  deriving DecidableEq, Repr

/-- Settings of a port that hold for a frame from the start of its pass (R315): MAX_FRAME of ACC_PORT, REPLAY_PROTECT
and REPLAY_WINDOW of MSEC_RX. -/
structure PassSet where
  maxFrame : Nat := 0
  replay : Bool := false
  window : Nat := 0
  deriving DecidableEq, Repr

/-- A frame whose deciding pass completed before its end: what had come of it, the pass, and the
cut-through copy if one was made (R329). -/
structure Early where
  pfx : Bytes
  /-- its pass took it as a protected frame (R315) -/
  sec : Bool
  /-- what the pass came to, and the cut-through copy -/
  verdict : Verdict
  copy : Option Nat
  /-- the settings of its pass; the pass began on too few bytes and is made at the frame's end (R315) -/
  set : PassSet := {}
  late : Bool := false
  /-- its ingress stamp, and the epoch of its pass -/
  stamp : Stamp
  epoch : BitVec 16
  deriving DecidableEq, Repr

/-- A reassembly context: frame count, next fragment count, bytes so far, ingress stamp of the first
fragment (R216, R282). -/
structure RxCtx where
  count : Nat
  next : Nat
  data : Bytes
  stamp : Stamp
  deriving DecidableEq, Repr

/-- A backbone port, transmit side (chapter 7) and MAC merge. -/
structure Port where
  /-- link up; rate in Gb/s (1, 10, 25); reset down -/
  up : Bool := false
  gbps : Nat := 25
  /-- egress queues, in order of readiness (R251); reset empty -/
  eg : List EgFrame := []
  /-- the frame on the line; the suspended frames, newest first; reset none -/
  line : Option OnLine := none
  susp : List OnLine := []
  /-- last frame count used (R281); reset 3, so that the first is 0 -/
  lastCount : Nat := 3
  /-- MAC merge: 0 disabled, 1 verifying, 2 standard, 3 stacked, 4 FAILED; attempts made; reset 0 -/
  merge : Nat := 0
  tries : Nat := 0
  /-- transmit addFragSize in force (R278, R284); reset 0 -/
  frag : Nat := 0
  /-- addFragSize that the partner has advertised since the last relock (R278); reset 0 -/
  partnerFrag : Nat := 0
  /-- stacked, transmit direction: 0 off, 1 offering, 2 confirmed, 3 refused, 4 silent; reset 0 -/
  sp : Nat := 0
  /-- offers made, and the nonce of the last (R284); reset 0 -/
  spTries : Nat := 0
  nonce : BitVec 16 := 0
  /-- stacked reception answered (R284); reset false -/
  spRx : Bool := false
  /-- the confirmation waits for a clear line (R284 step 2), with its fragment size; reset none -/
  spWait : Option Nat := none
  /-- SMD-V and SMD-R frames due (R278); reset none -/
  smds : List Bool := []
  /-- MAC hold asserted (R259); reset false -/
  hold : Bool := false
  /-- no new frame until the next cycle start: gate-copy mismatch (R257); reset false -/
  noNew : Bool := false
  /-- paused TCs and the clock at which each pause ends, in ps (R287); reset none -/
  pause : Sparse Nat := []
  /-- CBS credit of TC1 and TC2 in 10^-6 bit, and the clock of its last change (R252); reset 0 -/
  credit1 : Int := 0
  credit2 : Int := 0
  creditAt : Nat := 0
  /-- clock at which the last transmission left the line (R234); reset 0 -/
  freeAt : Nat := 0
  /-- TC_LEVEL in force (16 bits; R292); reset 0 -/
  levels : BitVec 16 := 0
  /-- staging cells held, and their high-water mark; cells held by forwarded frames (R269, R333); reset 0 -/
  cells : Nat := 0
  cellsMax : Nat := 0
  fwdCells : Nat := 0
  /-- parisons late, gate overruns (Table 7-12); reset 0 -/
  lates : Nat := 0
  overruns : Nat := 0
  /-- stamps in the timestamp FIFO (64 entries; R80); reset 0 -/
  fifo : Nat := 0
  /-- frames protected, frames dropped for want of a key or PN (64 bits each; Table 13-11); reset 0 -/
  prot : Nat := 0
  noKey : Nat := 0
  /-- reassembly contexts (R282); reset none -/
  ctxs : List RxCtx := []
  /-- frames being received whose deciding pass is complete (R325, R329); reset none -/
  early : List Early := []
  /-- F3 holds the port's plane; it waits for a cycle start to resume (R457); reset false -/
  resume : Bool := false
  deriving DecidableEq, Repr

/-- Mode agreement on the planes (Table 7-12, SCHED_AGREE group 1) and in the stack. -/
structure Agree where
  id : BitVec 16 := 0
  mode : Nat := 0
  /-- 0 none, 1 pending, 2 confirmed, 3 cancelled; reset 0 -/
  result : Nat := 0
  /-- BOUNDARY and MODE_TAG of the proposal (R266); reset 0 -/
  boundary : Nat := 0
  tag : BitVec 32 := 0
  /-- participants that accepted and that refused, 32 bits per plane; reset 0 -/
  acc : Sparse (BitVec 32) := []
  ref : Sparse (BitVec 32) := []
  /-- late REPLYs and REPLYs of unknown participants (Table 7-12); reset 0 -/
  lates : Nat := 0
  unknown : Nat := 0
  /-- DECIDE has passed (R266); reset false -/
  decided : Bool := false
  /-- it waits for the enables of the frozen stage (R149); reset false -/
  waits : Bool := false
  /-- planes proposed on (3 bits); reset 0 -/
  planes : BitVec 3 := 0
  /-- positions asked (R425), and the last REPLY of each: RESULT; reset none -/
  members : BitVec 8 := 0
  replies : Sparse Nat := []
  /-- SEGMENTS_MISSING judged or reported (16 bits); reset 0 -/
  segs : BitVec 16 := 0
  /-- PLANES_MISSING, STACK_MISSING found (R266, R426); reset 0 -/
  planesMiss : BitVec 3 := 0
  stackMiss : BitVec 8 := 0
  deriving DecidableEq, Repr

/-- A proposal taken as a participant (R268), on the planes or from the stack master (R426). -/
structure Follow where
  /-- 0 none, 1 accepted, 2 confirmed, 3 cancelled; reset 0 -/
  state : Nat := 0
  id : BitVec 16 := 0
  /-- position of the stack master, where it is the proposer -/
  proposer : BitVec 48 := 0
  /-- PROPOSER as accepted on each plane: the proposer's first port there (Table 7-4) -/
  proposers : Sparse (BitVec 48) := []
  /-- MODE, BOUNDARY and MODE_TAG accepted; cancelled after a CONFIRM (R268); reset 0 -/
  mode : Nat := 0
  boundary : Nat := 0
  tag : BitVec 32 := 0
  cancelled : Bool := false
  /-- DECIDE of a stack proposal, ns (R425); reset 0 -/
  decide : Nat := 0
  deriving DecidableEq, Repr

/-- Scheduled transmission (chapter 7). -/
structure Tx where
  ports : Sparse Port := []
  /-- active schedule mode (3 bits; Table 7-12); reset 0 -/
  mode : Nat := 0
  /-- SCHED_STATE agreement; boundary of the last switch (Table 7-12); reset 0 -/
  phase : Nat := 0
  switched : Nat := 0
  /-- boundary at which the mode last changed, ns (R235); reset 0 -/
  changed : Nat := 0
  /-- gate-copy mismatches (Table 7-12); reset 0 -/
  mismatches : Nat := 0
  /-- the own proposal and the one taken as a participant (R266, R268) -/
  agree : Agree := {}
  follow : Follow := {}
  /-- the stack master's proposal (R426) -/
  member : Follow := {}
  /-- number given to the next egress frame (model's own); reset 0 -/
  nextId : Nat := 0
  deriving DecidableEq, Repr

/-- A head in the glory loop (R318). -/
structure LoopHead where
  port : Nat
  /-- length of the protected frame with FCS; 0 while its end has not come -/
  len : Nat
  /-- decrypted frame, as far as it has come -/
  plain : Bytes
  /-- the frame has been received whole and is verified -/
  whole : Bool := true
  /-- the protected bytes that had come when a head entered before its frame's end, and how it began (R318,
  R329) -/
  pfx : Bytes := []
  smdE : Bool := false
  /-- the settings of its first pass (R315) -/
  set : PassSet := {}
  /-- TCI and SCI of its SecTAG -/
  tci : BitVec 8
  sci : Bytes
  /-- epoch and physical view of its first pass -/
  epoch : BitVec 16
  view : Nat
  /-- ingress stamp, and the clock at which it entered (R318) -/
  stamp : Stamp
  at_ : Nat
  deriving DecidableEq, Repr

/-- Token buckets of a meter, in 10^-6 bit, and the clock of the last fill (R312). -/
structure Meter where
  c : Nat := 0
  p : Nat := 0
  at_ : Nat := 0
  deriving DecidableEq, Repr

/-- Receive classification (chapter 8). -/
structure Rx where
  /-- physical view that is active (0 or 1); reset 1, so that instance 1 is the active view -/
  active : Nat := 1
  /-- active epoch, shadow epoch (16 bits each; R322); reset 0 and 1 -/
  epoch : BitVec 16 := 0
  shadow : BitVec 16 := 1
  /-- draining epoch (R322); reset none -/
  draining : Option (BitVec 16) := none
  /-- the loop, oldest first, and its high-water mark (R318); reset empty -/
  loop : List LoopHead := []
  loopMax : Nat := 0
  /-- CLS_METER buckets (R312); reset full -/
  meters : Sparse Meter := []
  /-- next acceptable packet number, key 16 × (4 × port + channel) + AN (R316); reset 1 -/
  pns : Sparse Nat := []
  /-- frames handed to the Gaffer's queue, newest last (model's own record of hand-over); reset none -/
  gaffer : Nat := 0
  deriving DecidableEq, Repr

/-- Sequence recovery of a listener handle (R346). -/
structure Recov where
  takeAny : Bool := true
  seq : BitVec 16 := 0
  hist : BitVec 64 := 0
  /-- clock of the last NEW replica (R347) -/
  newAt : Nat := 0
  /-- last OUTCOME, inconsistent-plane count, dissenting cullet of A, B, C (Table 9-6); reset 0 -/
  outcome : Nat := 0
  inconsistent : Nat := 0
  dissA : Nat := 0
  dissB : Nat := 0
  dissC : Nat := 0
  deriving DecidableEq, Repr

/-- A replica as the elimination engine keeps it: all that its delivery needs (R353). -/
structure Replica where
  port : Nat
  digest : BitVec 64
  frame : Bytes
  /-- RXQ, none: the Gaffer -/
  dest : Option Nat
  /-- traffic class, colour, tag, epoch, ingress stamp and sequence number for its delivery -/
  tc : Nat
  colour : Nat
  tag : BitVec 32
  epoch : BitVec 16
  stamp : Stamp
  seq : BitVec 16
  /-- order of arrival -/
  num : Nat
  deriving DecidableEq, Repr

/-- A vote slot (R350). -/
structure Slot where
  /-- its place in the order of opening -/
  id : Nat
  /-- the stream and the number that it votes on -/
  handle : Nat
  seq : BitVec 16
  /-- voting replicas, in order of arrival -/
  votes : List Replica
  /-- pending cullet, at most one per port -/
  pend : List Replica
  /-- it is of its stream’s reserved slots (R358) -/
  reserved : Bool
  /-- 0 window runs, 1 hold runs, 2 decided and kept -/
  phase : Nat
  /-- its window has expired and the hold has begun (Table 9-4) -/
  inHold : Bool := false
  /-- OUTCOME and winning digest of the decision -/
  outcome : Nat
  digest : Option (BitVec 64)
  /-- order of decision (R359) -/
  decidedAt : Nat
  deriving DecidableEq, Repr

/-- Streams and elimination (chapter 9). -/
structure Str where
  recov : Sparse Recov := []
  /-- next sequence number of talker handles (R343); reset 0 -/
  talk : Sparse (BitVec 16) := []
  /-- streams blocked by BLOCK_OVERSIZE (R340); reset none -/
  blocked : List Nat := []
  /-- open vote slots (R350); reset none -/
  slots : List Slot := []
  /-- slots opened so far (orders `Slot.id`); reset 0 -/
  opened : Nat := 0
  /-- slots high-water, exhaustions, reclaims (Table 9-6); reset 0 -/
  slotsMax : Nat := 0
  exhaustions : Nat := 0
  reclaims : Nat := 0
  /-- clock of the last exhaustion, plus 1 (R359); reset 0 -/
  lastExh : Nat := 0
  /-- decisions taken (orders `decidedAt`); reset 0 -/
  decisions : Nat := 0
  deriving DecidableEq, Repr

/-- A field node as the head sees it (R385). -/
structure Node where
  integrated : Bool := false
  lost : Bool := false
  misses : Nat := 0
  /-- MODES_HELD of the last accepted frame, and its CYCLE_COUNT; none: no report kept (R389, R391) -/
  modes : Option (BitVec 8 × BitVec 16) := none
  /-- last snapshot of its OUT buffer (R395); reset none -/
  snap : Option Bytes := none
  /-- calibration slots unanswered in succession (R242); reset 0 -/
  calMiss : Nat := 0
  deriving DecidableEq, Repr

/-- A segment (chapter 10). -/
structure Seg where
  /-- 0 LISTEN, 1 COLDSTART, 2 RUN, 3 YIELD, 4 CLOSED, 5 FENCED (Table 10-17); reset 0 -/
  head : Nat := 0
  /-- state before a fence (Table 10-10) -/
  before : Nat := 0
  /-- listen length L and cycles listened (R381); reset 2 -/
  listen : Nat := 2
  listened : Nat := 0
  /-- own entries are sent (Table 10-10); from the next cycle start -/
  sends : Bool := false
  sendsNext : Bool := false
  /-- mode in force for the cycle; CYCLE_COUNT; cycle start in corrected ns; a cycle has started -/
  mode : Nat := 0
  cycle : BitVec 16 := 0
  start : Nat := 0
  runs : Bool := false
  /-- other head: 0 absent, 1 agreeing, 2 disagreeing, 3 yielded to; error of its last sync, ns -/
  other : Nat := 0
  otherErr : Int := 0
  /-- TSTATE of its latest sync, 4 for a sync with the own ID (R382), 5 none heard; reset 5 -/
  otherTs : Nat := 5
  /-- a sync of it heard in this cycle; one that agreed; reset false -/
  heard : Bool := false
  agreed : Bool := false
  /-- cycles in succession without agreement, without any sync -/
  noAgree : Nat := 0
  noSync : Nat := 0
  /-- collisions in COLDSTART in succession; collisions (32 bits) -/
  coldCol : Nat := 0
  collisions : Nat := 0
  /-- the transmission of this entry is requested: entry number; corrected ns at which Ts_TXEN rises and
  falls for it (Tables 10-2 and 10-3); reset none, 0 -/
  sending : Option Nat := none
  rise : Nat := 0
  fall : Nat := 0
  /-- entries already started in this CYCLE_COUNT (R392) -/
  ran : List Nat := []
  /-- no further entry before the next cycle start; RESTART in its sync (R393) -/
  stopped : Bool := false
  restart : Bool := false
  /-- frame received in the running NODE entry (R384): mark from the cycle start in ps, overran, frame -/
  got : Option (Int × Bool × Bytes) := none
  /-- faults recorded once per cycle: mode mismatch, collision, wrong sender, block (R380, R384, R402) -/
  told : BitVec 4 := 0
  /-- cycles in succession with a block; a block in this cycle (R402) -/
  blockRun : Nat := 0
  blocked : Bool := false
  /-- HELD, SAFE (R399) -/
  held : Bool := false
  safe : Bool := false
  /-- CAL: node addressed last; the outstanding request's node and its mark from the cycle start, ps (R386) -/
  calLast : Option Nat := none
  calReq : Option (Nat × Int) := none
  /-- nodes of the segment (R386, R395) -/
  nodes : Sparse Node := []
  /-- SEG_NODE and SEG_SAFE bytes in force, copied at each cycle start (R409); reset all zero -/
  nodeCfg : List Host.Cell := []
  safeCfg : List Host.Cell := []
  /-- one-way delays D_i in ps in force, copied at each cycle start (R387); reset 0 -/
  delays : Sparse Nat := []
  deriving DecidableEq, Repr

/-- Windows of a segment's own entries in a mode (R400): the cycle in ns, 0 where the mode holds no table, and
opening and closing time of each window from the cycle start, ns. -/
structure Windows where
  cycle : Nat
  wins : List (Nat × Nat)
  deriving DecidableEq, Repr

/-- Segments and the Gauntlet (chapter 10). -/
structure SegAll where
  segs : Sparse Seg := []
  /-- the Gauntlet's own time, 2^-16 ns, as at a clock value (R400, R403); none before its first load; reset none -/
  own : Option (Int × Nat) := none
  /-- windows in use, by segment, none where none has been loaded (R400, R401); reset none -/
  wins : Sparse (Option Windows) := []
  /-- boundary in ns and windows of the mode that the hardware holds for it (R116, R400); reset none -/
  next : Option (Nat × Sparse (Option Windows)) := none
  /-- Δ at the last marker and the largest |Δ|, ns (Table 10-17); reset 0 -/
  delta : Int := 0
  deltaMax : Nat := 0
  /-- saturated corrections, blocks (32 bits each); reset 0 -/
  saturated : Nat := 0
  blocks : Nat := 0
  /-- windows closed by divergence; marker lost (Table 10-17); reset 0 -/
  diverged : Bool := false
  markerLost : Bool := false
  /-- clock since which |Δ| ≤ 1,000 ns at every marker (R406); reset none -/
  goodSince : Option Nat := none
  deriving DecidableEq, Repr

/-- A held reliable cascade frame (R413): its number, kind and frame without FCS. -/
structure KFrame where
  seq : BitVec 16
  frame : Bytes
  deriving DecidableEq, Repr

/-- One cascade link (R411–R417). -/
structure KLink where
  /-- PCS locked; DISCOVER frames seen; link up (R414); reset down -/
  up : Bool := false
  discovers : Nat := 0
  /-- LINK_SEQ sent next, expected next; an ACK is due (R413); reset 0 -/
  txSeq : BitVec 16 := 0
  rxSeq : BitVec 16 := 0
  rxAny : Bool := false
  /-- unacknowledged frames, oldest first, at most 256; resends of the oldest; resend rounds; reset none -/
  held : List KFrame := []
  resends : Nat := 0
  rounds : Nat := 0
  /-- reliable frames waiting for room, the most urgent first, in each priority the oldest first (R412) -/
  queue : List Bytes := []
  /-- from the last DISCOVER: neighbour position, serial, master, config, DUP, HOPS, handles, SERIAL_TAG -/
  nbr : Option Bytes := none
  /-- deepen ranges of the devices beyond the neighbour (R429); reset none -/
  far : List DeepRange := []
  /-- mean link delay, ps (Table 11-13); reset 0 -/
  mean : Int := 0
  deriving DecidableEq, Repr

/-- A relay to one position (R423). -/
structure Relay where
  /-- bytes of the message written so far; reset none -/
  msg : Bytes := []
  /-- 0 idle, 1 outstanding, 2 answered, 3 unreachable; reset 0 -/
  state : Nat := 0
  tag : BitVec 16 := 0
  resp : Bytes := []
  /-- relayed by R424, not by an agent's write -/
  auto : Bool := false
  deriving DecidableEq, Repr

/-- Stack discovery, relays and the stack configuration (chapter 11). -/
structure Stack where
  links : Sparse KLink := []
  /-- own duplicates found (8 bits; R417); reset 0 -/
  dup : BitVec 8 := 0
  /-- discovery complete; master recognised, 0xFF none (R416, R418); reset false, 0xFF -/
  complete : Bool := false
  master : Nat := 0xFF
  /-- operational configuration 0–3 (Table 11-13), FIRST_HANDLE, HANDLE_COUNT; reset 0 -/
  config : Nat := 0
  first : Nat := 0
  count : Nat := 0
  /-- deepen ranges overlap: FS132 recorded (R429); reset false -/
  overlap : Bool := false
  /-- time exchange: next SEQ; outstanding request: link and what was sent; last error, ns; pairs over, within limit in succession (R419–R421) -/
  timeSeq : BitVec 16 := 0
  timeReq : Option (Nat × Probe) := none
  err : Int := 0
  overRun : Nat := 0
  inRun : Nat := 0
  disagree : Bool := false
  /-- serials learnt per position: of a neighbour in full, of others the tag (R416, R417); reset none -/
  serials : Sparse Nat := []
  relays : Sparse Relay := []
  deriving DecidableEq, Repr

/-- A declared mirror region (R438). -/
structure Region where
  on : Bool := false
  addr : Nat := 0
  size : Nat := 0
  /-- chunks of the copy being received, its SEQ; clock of the last complete copy, plus 1 -/
  part : Bytes := []
  partSeq : BitVec 32 := 0
  copied : Nat := 0
  mismatch : Bool := false
  deriving DecidableEq, Repr

/-- The twin function (chapter 11). -/
structure Twin where
  /-- operational TWIN_CONFIG (Table 3-19): enable, partner, link, period µs, missed, overlap ns; reset 0 -/
  on : Bool := false
  partner : Nat := 0
  link : Nat := 0
  period : Nat := 0
  missed : Nat := 0
  overlap : Nat := 0
  /-- role and partner role: 0 none, 1 ACTIVE, 2 STANDBY, 3 resynchronising, 4 alone; reset 0 -/
  role : Nat := 0
  pRole : Nat := 0
  /-- ROLE_SEQ own and partner (16 bits); HB_SEQ; reset 0 -/
  seq : BitVec 16 := 0
  pSeq : BitVec 16 := 0
  hbSeq : BitVec 16 := 0
  /-- paths heard [0] cascade, [1–3] A–C; partner's FLAGS; partner LOST -/
  paths : BitVec 4 := 0
  pFlags : BitVec 8 := 0
  pBoundary : Nat := 0
  lost : Bool := false
  /-- heartbeats with HOST_UP 0 in succession, and the HB_SEQ of the last one counted (R440); heartbeats
  missed on all paths (32 bits; Table 3-19); own periods since one was heard, for each path -/
  hostDown : Nat := 0
  hostSeq : BitVec 16 := 0
  missedAll : Nat := 0
  gaps : Sparse Nat := []
  /-- pending takeover boundary T (R441); yield announced with T and its request (R442) -/
  takeT : Option Nat := none
  yieldT : Option Nat := none
  yieldReq : Option Request := none
  yieldAcked : Bool := false
  /-- raw ns of the last takeover; mismatches (16+16 bits); corrections; MISSING_LOCAL; MISSING_ACTIVE; cancelled; region copies -/
  takeRaw : Nat := 0
  mism : Nat := 0
  corr : Nat := 0
  missLocal : Nat := 0
  missActive : Nat := 0
  cancelled : Nat := 0
  copies : Nat := 0
  /-- heartbeat link lost (Table 11-13) -/
  hbLost : Bool := false
  /-- mirror set: snapshot loaded; items 2 and 3 as last received, and their clocks, plus 1 (R435, R439); reset none -/
  snap : Bool := false
  sched : Bytes := []
  item2 : Nat := 0
  segs : Bytes := []
  item3 : Nat := 0
  /-- ASSIGNs waiting for their frame: handle, launch 48, SEQ, digest (R437) -/
  assigns : List (Nat × BitVec 48 × BitVec 16 × BitVec 64) := []
  /-- clock of the last mismatch fault per handle, plus 1 (R437) -/
  mismAt : Sparse Nat := []
  /-- mirror regions (R438); reset none -/
  regions : Sparse Region := []
  deriving DecidableEq, Repr

/-- One entry of the event ring (Table 12-6). -/
structure RingEntry where
  src : Nat
  cls : Nat
  injected : Bool
  raw : BitVec 80
  /-- CI09 cycle of the assertion (R452) -/
  cyc : Nat
  deriving DecidableEq, Repr

/-- One fault source's own counts (FAULT_SRC). -/
structure Source where
  /-- class in force, none for the default of Table 12-1; reset none -/
  cls : Option Nat := none
  /-- present and sticky status (R451); reset false -/
  present : Bool := false
  sticky : Bool := false
  /-- the real condition holds; an injection is held (R468); reset false -/
  cond : Bool := false
  hold : Bool := false
  /-- every assertion since the last clear was injected; reset false -/
  onlyInj : Bool := false
  /-- real and injected assertions (16 bits, saturating); reset 0 -/
  real : Nat := 0
  inj : Nat := 0
  deriving DecidableEq, Repr

/-- What the collector keeps of a source a second time, inverted: class, present, sticky and injection hold (R459). -/
structure SourceCopy where
  cls : Option Nat
  present : Bool
  sticky : Bool
  hold : Bool
  deriving DecidableEq, Repr

/-- The second, inverted copy of the collector's protected state (R459); reset the inverse of each reset value. -/
structure FaultCopy where
  srcs : List (Nat × SourceCopy) := []
  recSrc : Nat := 255
  recCls : Nat := 7
  recRaw : BitVec 80 := BitVec.allOnes 80
  recValid : Bool := true
  recOver : Bool := true
  recInj : Bool := true
  released : Bool := true
  f4 : Bool := true
  deriving DecidableEq, Repr

/-- The fault collector (chapter 12). -/
structure Faults where
  srcs : Sparse Source := []
  /-- first-fault record: source, class, raw time; VALID, OVERFLOW, INJECTED (R452); reset not VALID -/
  recSrc : Nat := 0
  recCls : Nat := 0
  recRaw : BitVec 80 := 0
  recValid : Bool := false
  recOver : Bool := false
  recInj : Bool := false
  /-- CI09 cycle in which the record was taken (R452); reset 0 -/
  recCyc : Nat := 0
  /-- event ring, oldest first, at most 64; write index; entries overwritten (R453); reset empty -/
  ring : List RingEntry := []
  ringAt : Nat := 0
  ringLost : Nat := 0
  /-- F4 latch (R464); reset 0 -/
  f4 : Bool := false
  /-- sources that hold a plane or a segment fail-silent: target 0–2 planes, 16–31 segments, and source (R457); reset none -/
  f3 : List (Nat × Nat) := []
  /-- SAFE_N released (R465); reset false -/
  released : Bool := false
  /-- readings in succession at or above 122 °C (R469); reset 0 -/
  hot : Nat := 0
  /-- raw count as AO-safety holds it (80 bits; R452); reset 0 -/
  aoRaw : BitVec 80 := 0
  /-- the second copy (R459) -/
  second : FaultCopy := {}
  deriving DecidableEq, Repr

/-- What the second copy of a source holds. -/
def Source.inverted (x : Source) : SourceCopy :=
  { cls := x.cls.map (7 - ·), present := !x.present, sticky := !x.sticky, hold := !x.hold }

/-- What the second copy holds while it agrees with the first (R459). -/
def Faults.inverted (f : Faults) : FaultCopy :=
  { srcs := f.srcs.map fun x => (x.1, x.2.inverted), recSrc := 255 - f.recSrc, recCls := 7 - f.recCls,
    recRaw := ~~~f.recRaw, recValid := !f.recValid, recOver := !f.recOver, recInj := !f.recInj,
    released := !f.released, f4 := !f.f4 }

/-- Both copies written (R459). -/
def Faults.paired (f : Faults) : Faults := { f with second := f.inverted }

/-- A key slot (R485). -/
structure Key where
  key : Bytes
  wrapped : Bool
  agent : BitVec 8
  ssci : Bytes
  salt : Bytes
  deriving DecidableEq, Repr

/-- A service session (R496). -/
structure Session where
  /-- 0 closed, 1 challenged, 2 open, 3 locked out; reset 0 -/
  state : Nat := 0
  /-- SESSION_ID, the two nonces, the session key and the address of the tool (R496); reset none -/
  id : BitVec 16 := 0
  nc : Bytes := []
  nd : Bytes := []
  sk : Bytes := []
  peer : Bytes := []
  /-- SEQ expected and SEQ of the next S_MSG sent; discards by tag or SEQ (R497) -/
  rxSeq : Nat := 1
  txSeq : Nat := 1
  bad : Nat := 0
  /-- clocks of failed proofs within 60 s (R496) -/
  fails : List Nat := []
  deriving DecidableEq, Repr

/-- Security and boot (chapter 13). -/
structure Sec where
  /-- locked; boot phase: 0 in reset, 1 ROM loads, 2 boot stage, 3 run stage, 4 halted; reset 0 -/
  locked : Bool := false
  phase : Nat := 0
  /-- host loading serves (R475); service loading (R476); reset false -/
  hostLoad : Bool := false
  svcLoad : Bool := false
  /-- SEC_STATE: slot booted 0xFF, REJECT, IMAGE_VERSION, ROLLBACK_INDEX; reset 0xFF, 0, 0, 0 -/
  slot : BitVec 8 := 0xFF
  reject : BitVec 8 := 0
  version : BitVec 32 := 0
  rollIndex : BitVec 32 := 0
  /-- next flash slot attempts left (R473); reset none -/
  tries : List Nat := []
  /-- the accepted image's OWNER_KEY and VENDOR_KEY_INDEX, for the lock (R479, R483); reset none -/
  ownerKey : Bytes := []
  vendorIx : Nat := 0
  /-- image bytes received over the host or service port (R475, R476); reset empty -/
  image : Bytes := []
  /-- fuses still to burn at the lock (R483): 1 owner hash, 2 revocations, 3 rollback; reset none -/
  burns : List Nat := []
  /-- alarms present and sticky (9 bits); keys zeroised (R492); reset 0 -/
  present : BitVec 9 := 0
  sticky : BitVec 9 := 0
  zeroised : Bool := false
  /-- key store by slot number (R485); reset empty -/
  keys : Sparse (Option Key) := []
  /-- sessions 0–7; reset closed -/
  sess : Sparse Session := []
  /-- a BOOT_DATA has arrived (R476); reset false -/
  bootSeen : Bool := false
  svcPeer : Bytes := []
  /-- restart of the Gaffer core: slot to load (R520); reset none -/
  restart : Bool := false
  deriving DecidableEq, Repr

/-- Fuses: they survive every reset and power loss (R27). -/
structure Fuses where
  /-- owner hash, empty while unprogrammed (R479); reset unprogrammed (DESIGN CHOICE, log entry 9) -/
  owner : Bytes := []
  /-- rollback counter 0–64 (R480); reset 0 (DESIGN CHOICE, log entry 9) -/
  rollback : Nat := 0
  /-- vendor keys revoked (4 bits; R478); reset 0 (DESIGN CHOICE, log entry 9) -/
  revoked : BitVec 4 := 0
  deriving DecidableEq, Repr

/-- An open firmware update (R512). -/
structure Update where
  agent : BitVec 8
  slot : Nat
  size : Nat
  /-- the slot is erased; sectors of it erased so far, in rising order (R512) -/
  erased : Bool
  sectors : Nat
  /-- byte ranges received, as (offset, length) -/
  got : List (Nat × Nat)
  failed : Bool
  deriving DecidableEq, Repr

/-- Management (chapter 14). -/
structure Mgmt where
  /-- sensors by number (Table 14-1); reset unsampled -/
  sensors : Sparse Sensor := []
  /-- life accumulators: powered s, hot s, equivalent 2^-32 s, power cycles (R504) -/
  powered : Nat := 0
  hot : Nat := 0
  equiv : Nat := 0
  cycles : Nat := 1
  /-- the last reset was a power-on of VDD_AO, and no run stage has started since (Table 14-5 type 10); reset true -/
  fresh : Bool := true
  /-- highest Tj of the running 10-minute interval; flash answered (R505) -/
  topTj : Int := -550
  flash : Bool := false
  flashErr : Bool := false
  /-- what limited the estimate last (R506) -/
  limiting : Nat := 0
  /-- log memory, oldest first (R508); next RECORD; oldest retained; not yet in flash; lost -/
  log : List (Nat × Bytes) := []
  nextRec : Nat := 0
  oldest : Nat := 0
  unflushed : Nat := 0
  logLost : Nat := 0
  /-- records lost that a type 9 record has told of (R508) -/
  lostTold : Nat := 0
  /-- type 1 records of each source in the running second, its clock second, and those withheld (R508) -/
  rate : Sparse (Nat × Nat × Nat) := []
  /-- open update (R512); reason of the last failed FW_FINISH; reset none -/
  update : Option Update := none
  finishErr : BitVec 8 := 0
  /-- clock of the last life addition, or from which it counts (R504) -/
  lifeAt : Nat := 0
  /-- the records in flash have been taken since the reset (R505, R507); reset false -/
  loaded : Bool := false
  deriving DecidableEq, Repr

/-- What a delivery to a receive queue carries besides the frame (Table 2-16). -/
structure RxMeta where
  /-- 0–5 P0–P5, 6 K0, 7 K1, 8 S -/
  inPort : Nat
  handle : Option Nat
  seq : Nat
  colour : Nat
  tc : Nat
  planes : Nat
  outcome : Nat
  epoch : Nat
  tag : Nat
  /-- an uncorrectable packet-buffer error was found in it -/
  ecc : Bool
  /-- stamps of the replicas, the delivered one first -/
  stamps : List Stamp
  deriving DecidableEq, Repr

/-- What the chip puts out toward the host, the ports and its own firmware, in order: the model's
own record of outputs. -/
inductive Out where
  /-- a flit toward the host -/
  | flit (b : Bytes)
  /-- a request to the UCIe adapter: true retrain, false take the link down (R53, Table 2-20) -/
  | adapter (retrain : Bool)
  /-- a frame or fragment on Pn: delimiter, fragment count, bytes with FCS or mCRC -/
  | port (p : Nat) (smd : Nat) (frag : Nat) (b : Bytes)
  /-- the frame in progress on a port 0–5, 6–7 K0–K1, 8 S was ended with an inverted FCS, or a fragment that was not
  its last with an inverted mCRC (R463) -/
  | abort (p : Nat) (inner : Bool)
  /-- a cascade frame with FCS on Kk -/
  | casc (k : Nat) (b : Bytes)
  /-- a service frame with FCS on S -/
  | svc (b : Bytes)
  /-- a KTB transmission on Ts: the bits of its line code (R368) -/
  | ktb (s : Nat) (line : List Bool)
  /-- a KTB transmission aborted with ESD and ESDERR (R367) -/
  | ktbAbort (s : Nat)
  /-- a frame handed to the Gaffer's servo, agreement or key software, with its stamps (R194, R296) -/
  | gaffer (port : Nat) (b : Bytes) (stamps : List Stamp)
  /-- a frame received on S for the key software, with its write-back (R218) -/
  | svcRx (b : Bytes) (wb : Bytes)
  deriving DecidableEq, Repr

/-- Fences held (R127). -/
structure Fences where
  device : Bool := false
  ports : BitVec 6 := 0
  planes : BitVec 3 := 0
  segs : BitVec 16 := 0
  deriving DecidableEq, Repr

/-- The whole machine. -/
structure State where
  pads : Pads := {}
  pw : Power := {}
  hl : Link := {}
  /-- TXQ0–63 at 0–63, RXQ0–63 at 64–127 (Table 2-12); from 128 on, descriptors kept without a queue
  (see `EgSrc.host`) -/
  qs : Sparse Queue := []
  /-- the groups below hold chapters 3 to 14 of the spec -/
  mb : Mail := {}
  ld : Ledger := {}
  tm : Time := {}
  cal : Cal := {}
  tx : Tx := {}
  rx : Rx := {}
  str : Str := {}
  sg : SegAll := {}
  sk : Stack := {}
  tw : Twin := {}
  fs : Faults := {}
  se : Sec := {}
  fuses : Fuses := {}
  mg : Mgmt := {}
  fences : Fences := {}
  /-- bytes of every Xiond object and table that software writes, at OID × 2^20 + offset; an
  unlisted byte is the object's reset byte (R10) -/
  objs : List Host.Cell := []
  /-- mailbox buffers, window 0 offsets 0x8000–0xFFFF (Table 2-8); reset 0 -/
  win0 : List Host.Cell := []
  /-- window 1 (Table 2-17); an unlisted byte is its reset byte (Table 10-15) -/
  win1 : List Host.Cell := []
  /-- SPI flash (Table 14-7); an unlisted byte is 0xFF, erased (DESIGN CHOICE, log entry 10) -/
  flash : List Host.Cell := []
  /-- counters of Table 14-8 (64 bits), keyed block × 64 + index; reset 0 -/
  cnt : Sparse (BitVec 64) := []
  /-- ns since power-up: the model's own clock (log entry 2); reset 0 -/
  clock : Nat := 0
  /-- draws made of free values: the model's own counter (DESIGN CHOICE 0, log entry 3) -/
  freeIx : Nat := 0
  /-- outputs in order: the model's own record (log entry 5); reset none -/
  outs : List Out := []
  /-- commands waiting, first in first out; reset empty -/
  pending : List Instr := []
  deriving DecidableEq, Repr

/-- The machine right after reset: RESET_N has risen after a power-up in mission mode with every
rail good, and no step of Table 1-10 has been taken. -/
def State.reset : State := {}

end Sys2Proof.Machine
end

