-- ==== Sys2Proof/Machine/Ops.lean ====
section
/-! DEFINITION. The named operations over the state: sparse tables and memories in their canonical
form, one update per group of fields, power domains, and the bytes of the Xiond objects. -/

namespace Sys2Proof.Machine

/-- Read of a sparse table: the listed value, or the default of that number. -/
def tget {α : Type} (d : Nat → α) : Sparse α → Nat → α
  | [], k => d k
  | (j, v) :: t, k => if j = k then v else tget d t k

/-- Put or replace an entry of a rising list. -/
def tput {α : Type} (k : Nat) (v : α) : Sparse α → Sparse α
  | [] => [(k, v)]
  | (j, w) :: t => if k < j then (k, v) :: (j, w) :: t else if k = j then (k, v) :: t else (j, w) :: tput k v t

/-- Remove the entries of a number. -/
def tdel {α : Type} (k : Nat) : Sparse α → Sparse α
  | [] => []
  | (j, w) :: t => if j = k then tdel k t else (j, w) :: tdel k t

/-- Write of a sparse table: an entry equal to its default is not listed. -/
def tset {α : Type} [DecidableEq α] (d : Nat → α) (t : Sparse α) (k : Nat) (v : α) : Sparse α :=
  if v = d k then tdel k t else tput k v t

/-- Canonical form: numbers strictly rising, no entry equal to its default. -/
def twf {α : Type} [DecidableEq α] (d : Nat → α) : Sparse α → Bool
  | [] => true
  | (k, v) :: t => decide (v ≠ d k) && t.all (fun x => k < x.1) && twf d t

/-- Update of one entry. -/
def tmod {α : Type} [DecidableEq α] (d : Nat → α) (t : Sparse α) (k : Nat) (f : α → α) : Sparse α :=
  tset d t k (f (tget d t k))

/-- `n` bytes of a memory from address `a`. -/
def mread (d : Nat → Byte) (m : List Host.Cell) (a : Nat) : Nat → Bytes
  | 0 => []
  | n + 1 => tget d m a :: mread d m (a + 1) n

/-- Bytes written to a memory from address `a`. -/
def mwrite (d : Nat → Byte) (m : List Host.Cell) (a : Nat) : Bytes → List Host.Cell
  | [] => m
  | b :: bs => mwrite d (tset d m a b) (a + 1) bs

/-- Canonical form of a memory whose unlisted bytes read as `d`. -/
abbrev Memory.wf (d : Nat → Byte) (m : List Host.Cell) : Prop := twf d m = true

namespace State
/-- Update of the group `pads`. -/
def modPads (s : State) (f : Pads → Pads) : State := { s with pads := f s.pads }
/-- Update of the group `pw`. -/
def modPw (s : State) (f : Power → Power) : State := { s with pw := f s.pw }
/-- Update of the group `hl`. -/
def modHl (s : State) (f : Link → Link) : State := { s with hl := f s.hl }
/-- Update of the group `mb`. -/
def modMb (s : State) (f : Mail → Mail) : State := { s with mb := f s.mb }
/-- Update of the group `ld`. -/
def modLd (s : State) (f : Ledger → Ledger) : State := { s with ld := f s.ld }
/-- Update of the group `tm`. -/
def modTm (s : State) (f : Time → Time) : State := { s with tm := f s.tm }
/-- Update of the group `cal`. -/
def modCal (s : State) (f : Cal → Cal) : State := { s with cal := f s.cal }
/-- Update of the group `tx`. -/
def modTx (s : State) (f : Tx → Tx) : State := { s with tx := f s.tx }
/-- Update of the group `rx`. -/
def modRx (s : State) (f : Rx → Rx) : State := { s with rx := f s.rx }
/-- Update of the group `str`. -/
def modStr (s : State) (f : Str → Str) : State := { s with str := f s.str }
/-- Update of the group `sg`. -/
def modSg (s : State) (f : SegAll → SegAll) : State := { s with sg := f s.sg }
/-- Update of the group `sk`. -/
def modSk (s : State) (f : Stack → Stack) : State := { s with sk := f s.sk }
/-- Update of the group `tw`. -/
def modTw (s : State) (f : Twin → Twin) : State := { s with tw := f s.tw }
/-- Update of the group `fs`, in both of its copies (R459). -/
def modFs (s : State) (f : Faults → Faults) : State := { s with fs := (f s.fs).paired }
/-- Update of the group `se`. -/
def modSe (s : State) (f : Sec → Sec) : State := { s with se := f s.se }
/-- Update of the group `mg`. -/
def modMg (s : State) (f : Mgmt → Mgmt) : State := { s with mg := f s.mg }
/-- Update of the group `fences`. -/
def modFences (s : State) (f : Fences → Fences) : State := { s with fences := f s.fences }
/-- `qs` set. -/
def setQs (s : State) (v : Sparse Queue) : State := { s with qs := v }
/-- `objs` set. -/
def setObjs (s : State) (v : List Host.Cell) : State := { s with objs := v }
/-- `win0` set. -/
def setWin0 (s : State) (v : List Host.Cell) : State := { s with win0 := v }
/-- `win1` set. -/
def setWin1 (s : State) (v : List Host.Cell) : State := { s with win1 := v }
/-- `flash` set. -/
def setFlash (s : State) (v : List Host.Cell) : State := { s with flash := v }
/-- `cnt` set. -/
def setCnt (s : State) (v : Sparse (BitVec 64)) : State := { s with cnt := v }
/-- `fuses` set. -/
def setFuses (s : State) (v : Fuses) : State := { s with fuses := v }
/-- `clock` set. -/
def setClock (s : State) (v : Nat) : State := { s with clock := v }
/-- `freeIx` set. -/
def setFreeIx (s : State) (v : Nat) : State := { s with freeIx := v }
/-- `outs` set. -/
def setOuts (s : State) (v : List Out) : State := { s with outs := v }
/-- `pending` set. -/
def setPending (s : State) (v : List Instr) : State := { s with pending := v }

end State

/-- Output added to the record of outputs. -/
def emit (s : State) (o : Out) : State := s.setOuts (s.outs ++ [o])

/-- A free value drawn: a number nothing constrains (log entry 3). -/
def draw (s : State) : Nat × State := (Config.freeNat s.freeIx, s.setFreeIx (s.freeIx + 1))

/-- Reset state of a domain (Table 4-3). -/
def domReset (d : Nat) : Domain :=
  if d ∈ [46, 47, 70, 71, 73, 74, 76, 77] then { state := 2, agent := 0, rank := 0 } else {}

/-- A domain's state; PD78 and PD79 are always ENABLED (R134). -/
def dom (s : State) (d : Nat) : Domain :=
  if d = 78 ∨ d = 79 then { state := 2 } else tget domReset s.ld.doms d

/-- The domain is ENABLED. -/
def enabled (s : State) (d : Nat) : Bool := (dom s d).state == 2

/-- The domain is ENABLED and in function: not isolated until a boundary (R149). -/
def on (s : State) (d : Nat) : Bool := enabled s d && !s.ld.isolated.contains d

/-- The domain is ENABLING, ENABLED or DISABLING (R146). -/
def drawn (s : State) (d : Nat) : Bool := (dom s d).state != 0

/-- A domain's state replaced. -/
def setDom (s : State) (d : Nat) (v : Domain) : State :=
  s.modLd fun l => { l with doms := tset domReset l.doms d v }

/-- Reset queue. -/
def queueReset (_ : Nat) : Queue := {}

/-- A queue: TXQq at q, RXQq at 64 + q. -/
def que (s : State) (q : Nat) : Queue := tget queueReset s.qs q

/-- Update of a queue. -/
def modQue (s : State) (q : Nat) (f : Queue → Queue) : State := s.setQs (tmod queueReset s.qs q f)

/-- A counter of Table 14-8: block OID and index. -/
def counter (s : State) (block i : Nat) : BitVec 64 := tget (fun _ => 0) s.cnt (block * 64 + i)

/-- Counter blocks (Table 14-8): number of counters and domains needed. -/
def counterBlock (oid : Nat) : Option (Nat × List Nat) :=
  let cls := oid / 0x10000; let inst := oid / 16 % 4096; let g := oid % 16
  if cls = 0x0B20 ∧ inst < 6 then
    if g = 0 then some (23, [6 + inst]) else if g = 1 then some (10, [6 + inst])
    else if g = 2 then some (32, [6 + inst, 62]) else if g = 3 then some (10, [12 + inst])
    else if g = 4 then some (11, [6 + inst]) else none
  else if g ≠ 0 then none
  else if cls = 0x0B22 ∧ inst < 2 then some (25, [26 + inst])
  else if cls = 0x0B23 ∧ inst = 0 then some (14, [49])
  else if cls = 0x0B24 ∧ inst = 0 then some (8, [29])
  else if cls = 0x0B25 ∧ inst < 16 then some (18, [30 + inst])
  else if 0x0B28 ≤ cls ∧ cls ≤ 0x0B2B then some (20, [49, 69])
  else if cls = 0x0B2C ∧ inst < 64 then some (12, [48])
  else if cls = 0x0B2C ∧ inst < 128 then some (8, [48])
  else if cls = 0x0B2D ∧ inst = 0 then some (22, [49])
  else none

/-- Every domain that a counter block needs is ENABLED; an increment toward a disabled one is lost (R133). -/
def blockOn (s : State) (block : Nat) : Bool :=
  match counterBlock block with
  | some (_, ds) => ds.all (on s)
  | none => false

/-- Saturating increment of a counter (R517). -/
def countN (s : State) (block i n : Nat) : State :=
  if blockOn s block then
    s.setCnt (tset (fun _ => 0) s.cnt (block * 64 + i)
      (BitVec.ofNat 64 (satAdd (2 ^ 64 - 1) (counter s block i).toNat n)))
  else s

/-- Increment by one. -/
def count (s : State) (block i : Nat) : State := countN s block i 1

/-- OID of class, instance and group (R107). -/
def oidOf (cls inst grp : Nat) : Nat := cls * 0x10000 + inst * 16 + grp

/-- Counter blocks of Table 14-8. -/
def cPort (p g : Nat) : Nat := oidOf 0x0B20 p g
def cCasc (k : Nat) : Nat := oidOf 0x0B22 k 0
def cTwin : Nat := 0x0B230000
def cSvc : Nat := 0x0B240000
def cSeg (s : Nat) : Nat := oidOf 0x0B25 s 0
def cStream (h : Nat) : Nat := oidOf (0x0B28 + h / 4096) (h % 4096) 0
def cTxq (q : Nat) : Nat := oidOf 0x0B2C q 0
def cRxq (q : Nat) : Nat := oidOf 0x0B2C (64 + q) 0
def cDev : Nat := 0x0B2D0000

/-- The core is in reset: RESET_N recognised low, no VDD_AO, or a rail not yet good (R24, R29). -/
def inReset (s : State) : Bool := s.pw.resetLow || !s.pw.aoRuns || s.pw.rails != 0x7F

/-- The core is held: in reset, or its islands are not clocked yet (R24, R29, R35, Table 1-10 step 7). -/
def held (s : State) : Bool := inReset s || !s.pw.clocked

/-- What AO-safety holds at the bumps whatever the core commands: SAFE_N is high only while it has
released the pins and holds no F4, and never in test mode (R20, R34); with an F4 latched, or in test
mode, no Ts_TXEN is high and every lane is in electrical idle; with an F4, EVT0–7 are low and
MODn_TXDIS is high (R464, Table 12-4 steps 5 to 7). -/
def interlock (s : State) : State :=
  let f4 := s.fs.f4
  let quiet := f4 || s.pw.testMode
  let free := s.fs.released && !quiet
  s.modPads fun p =>
    { p with safeN := if free then p.safeN else 0,
             txen := if quiet then 0 else p.txen,
             laneIdle := if quiet then 0x1FF else p.laneIdle,
             evt := if f4 then 0 else p.evt,
             modTxdis := if f4 then 0x3F else p.modTxdis }

/-- A command that reaches the core: held, the core discards it (R35, R133). -/
def run (s : State) (f : State → State) : Host.Outcome State Fault Refusal :=
  .next (if held s then s else interlock (f s))

/-- A command of the reset exit, which comes before or with the clocks of the islands (Table 1-10). -/
def atExit (s : State) (f : State → State) : Host.Outcome State Fault Refusal :=
  .next (if inReset s then s else interlock (f s))

/-- A command that acts in AO-safety while it has power, held in reset or not (R30). -/
def aoRun (s : State) (f : State → State) : Host.Outcome State Fault Refusal :=
  .next (if s.pw.aoRuns then interlock (f s) else s)

/-- A command that reaches the always-on domains, held in reset or not (R27, R30). -/
def always (s : State) (f : State → State) : Host.Outcome State Fault Refusal :=
  .next (interlock (f s))

end Sys2Proof.Machine
end

