-- ==== Sys2Proof/Machine/Objects.lean ====
section
/-! DEFINITION. The catalogue of the Xiond objects that the owning chapters list (Tables 3-12, 4-9,
5-5, 6-8, 7-12, 8-13, 9-6, 10-17, 11-13, 12-6, 13-11, 14-9): size, kind, domains, fields with their
legal ranges, reserved bits and reset bytes; and reads and writes of their stored bytes. -/

namespace Sys2Proof.Machine

/-- Kind of a group or table (R108). -/
inductive Kind where
  | immediate
  | staged
  | readOnly
  | rwl
  deriving DecidableEq, Repr

/-- A field with a legal range: offset, bytes, signed, least, greatest, further legal values. -/
structure Field where
  off : Nat
  len : Nat
  sg : Bool
  lo : Int
  hi : Int
  alt : List Int
  deriving DecidableEq, Repr

/-- An object: a group image (entries = 1) or a table. -/
structure Desc where
  kind : Kind
  table : Bool
  size : Nat
  entries : Nat
  /-- domains that must be ENABLED (Table 3-20) -/
  needs : List Nat
  /-- needs one of PD26 and PD27 as well (R446) -/
  casc : Bool
  fields : List Field
  /-- defined bits of each byte; a 1 elsewhere is a non-zero reserved field (R11) -/
  mask : Bytes
  /-- bytes that are read-only inside a writable image -/
  ro : List Nat
  reset : Bytes
  deriving DecidableEq, Repr

def fu (off len : Nat) (lo hi : Nat) (alt : List Int := []) : Field := ⟨off, len, false, lo, hi, alt⟩
def fi (off len : Nat) (lo hi : Int) : Field := ⟨off, len, true, lo, hi, []⟩
def ff (n : Nat) : Bytes := List.replicate n 0xFF
def zz (n : Nat) : Bytes := List.replicate n 0

/-- A group image. -/
def grp (kind : Kind) (needs : List Nat) (mask reset : Bytes) (fields : List Field := []) (ro : List Nat := []) : Desc :=
  ⟨kind, false, mask.length, 1, needs, false, fields, mask, ro, padTo mask.length reset⟩

/-- A read-only group of a given size. -/
def rog (needs : List Nat) (size : Nat) : Desc := grp .readOnly needs (ff size) []

/-- A table. -/
def tab (kind : Kind) (needs : List Nat) (entries : Nat) (mask : Bytes) (fields : List Field := []) (reset : Bytes := []) (ro : List Nat := []) : Desc :=
  ⟨kind, true, mask.length, entries, needs, false, fields, mask, ro, padTo mask.length reset⟩

/-- Port instances of the calibration chapter: 0–5, 6, 7, 16–31 (R245), with their domain. -/
def calDomain (i : Nat) : Option Nat :=
  if i < 6 then some (6 + i) else if i < 8 then some (26 + (i - 6)) else if 16 ≤ i ∧ i < 32 then some (30 + (i - 16)) else none

/-- Group address 03-4B-59-4D-00-0x. -/
def groupAddr (x : Nat) : Bytes := [0x03, 0x4B, 0x59, 0x4D, 0x00, BitVec.ofNat 8 x]

/-- Mask of an action (Table 8-11) without byte 15. -/
def actionMask : Bytes := ff 4 ++ [0xFF, 0x87, 0x3F, 0x07, 0x0F] ++ zz 6

/-- Ledger objects (Table 4-9). -/
def descLedger (cls inst g : Nat) : Option Desc :=
  if cls = 0x0100 ∧ inst = 0 ∧ g = 0 then some (rog [] 24)
  else if cls = 0x0100 ∧ inst = 0 ∧ g = 1 then some (grp .immediate [] (ff 16) (ff 16) ((List.range 16).map fun i => fu i 1 0 77 [255]))
  else if cls = 0x0101 ∧ inst < 80 ∧ g = 0 then some (rog [] 8)
  else if cls = 0x0102 ∧ g = 0 then
    let k := inst / 256; let i := inst % 256
    if (k = 1 ∧ (i < 12 ∨ (16 ≤ i ∧ i < 22))) ∨ (k = 2 ∧ i < 16) ∨ (k = 3 ∧ i < 6) then some (rog [] 12) else none
  else if cls = 0x0103 ∧ g = 0 ∧ (inst < 6 ∨ (16 ≤ inst ∧ inst < 32)) then
    let sg := decide (16 ≤ inst)
    some (grp .immediate [] ([1, 0xFF, 0, 0] ++ ff 4 ++ [0xFF, 0] ++ (if sg then ff 2 else zz 2) ++ ff 4)
      ([0, 0, 0, 0, 10, 0, 10, 0, 4, 0, if sg then 50 else 0, 0] ++ zz 4)
      ([fu 0 1 0 1, fu 4 2 1 1000, fu 6 2 1 1000, fu 8 1 2 8] ++ if sg then [fu 10 2 1 1000] else []) [1, 12, 13, 14, 15])
  else none

/-- Time objects (Table 5-5). -/
def descTime (cls inst g : Nat) : Option Desc :=
  if cls = 0x0200 ∧ inst = 0 ∧ g = 0 then some (grp .immediate [] (ff 8) [])
  else if cls = 0x0200 ∧ inst = 0 ∧ g = 1 then
    some (grp .immediate [68] (ff 12) (toLe 4 1000 ++ toLe 4 219902 ++ toLe 4 109951163)
      [fu 0 4 100 1000000, fu 4 4 1100 2199023, fu 8 4 1100 2147483647])
  else if cls = 0x0200 ∧ inst = 0 ∧ g = 2 then
    some (grp .immediate [68] ([1, 0xFF, 0xFF, 0] ++ ff 4) [] [fu 0 1 0 1] [1, 2, 4, 5, 6, 7])
  else if cls = 0x0201 ∧ inst = 0 ∧ g = 0 then
    some (grp .immediate [68] ([0xFF, 0xFF, 7, 0xFF, 0xFF, 0] ++ ff 10)
      ([0, 0, 7, 1, 0, 0] ++ toLe 2 100 ++ toLe 4 1000 ++ toLe 4 3600)
      [fu 0 1 0 1, fu 1 1 0 1, fu 3 1 0 1, fu 4 1 0 1, fu 6 2 10 10000, fu 8 4 100 60000, fu 12 4 1 604800])
  else if cls = 0x0201 ∧ inst = 0 ∧ g = 1 then some (rog [68] 32)
  else if cls = 0x0202 ∧ inst < 3 ∧ g = 0 then
    some (grp .immediate [68] (ff 5 ++ zz 3) [0, 0, 0xFD, 3, 8]
      [fu 0 1 0 127, fu 1 1 0 1, fi 2 1 (-7) 0, fu 3 1 2 10, fu 4 1 1 64])
  else if cls = 0x0202 ∧ inst < 3 ∧ g = 1 then some (rog [68] 32)
  else if cls = 0x0203 ∧ inst < 6 ∧ g = 0 then
    some (grp .immediate [68] (ff 2 ++ zz 6 ++ ff 8) [2, 1] [fu 0 1 0 2, fu 1 1 0 1])
  else if cls = 0x0204 ∧ inst = 0 ∧ g = 0 then some (rog [68] 32)
  else if cls = 0x0205 ∧ inst < 8 ∧ g = 0 then
    some (grp .immediate [68, 72] (ff 6 ++ zz 2 ++ ff 4) [] [fi 0 4 (-10000) 10000] [4, 5, 8, 9, 10, 11])
  else if cls = 0x0206 ∧ inst < 4 ∧ g = 0 then
    some (grp .immediate [68, 72] ([1, 3, 1, 0] ++ ff 14 ++ zz 2 ++ ff 4) [0, 1]
      [fu 0 1 0 1, fu 1 1 1 3, fu 2 1 0 1, fi 4 4 (-10000) 10000, fu 20 4 100 1000000000])
  else none

/-- Calibration objects (Table 6-8). -/
def descCal (cls inst g : Nat) : Option Desc :=
  match calDomain inst with
  | some d =>
    if cls = 0x0300 ∧ g = 0 then
      some (grp .immediate [d] ([1, 3, 0, 0] ++ ff 12) ([1, 1, 0, 0] ++ zz 4 ++ toLe 4 500 ++ toLe 4 100)
        [fu 0 1 0 1, fu 1 1 0 2, fi 4 4 (-100000) 100000, fu 8 4 100 900, fu 12 4 10 500])
    else if cls = 0x0300 ∧ g = 1 then some (rog [d] 40)
    else if cls = 0x0301 ∧ inst < 16 ∧ g = 0 then some (tab .readOnly [30 + inst] 32 (ff 8))
    else if cls = 0x0302 ∧ inst = 0 ∧ g = 0 then some (rog [70] 12)
    else none
  | none => if cls = 0x0301 ∧ inst < 16 ∧ g = 0 then some (tab .readOnly [30 + inst] 32 (ff 8)) else none

/-- Transmit objects (Table 7-12). -/
def descTx (cls inst g : Nat) : Option Desc :=
  if cls = 0x0400 ∧ inst < 6 then
    if g = 0 then some (grp .staged [6 + inst] (ff 3 ++ zz 1 ++ ff 14 ++ zz 2)
      ([0, 0, 0x0F, 0] ++ toLe 4 1000 ++ toLe 4 20000 ++ toLe 2 0 ++ toLe 2 1522 ++ toLe 2 2)
      [fu 4 4 0 16777215, fu 8 4 2000 10000000, fu 12 2 0 2048, fu 14 2 64 9622, fu 16 2 0 1000])
    else if g = 1 then some (rog [6 + inst] 16)
    else if g = 2 then some (grp .staged [6 + inst] (ff 8) [0, 0, 10, 0, 0, 3, 100, 0]
      [fu 0 1 0 1, fu 1 1 0 1, fu 2 1 1 128, fu 3 1 0 3, fu 4 1 0 1, fu 5 1 1 15, fu 6 2 0 10000])
    else if g = 3 then some (grp .staged [6 + inst] ([3, 0, 0, 0] ++ ff 8) [])
    else none
  else if cls = 0x0401 ∧ inst < 64 ∧ inst % 8 < 6 ∧ g = 0 then some (tab .staged [49] 1024 [0xFF, 0xFF, 0xFF, 3, 0xFF, 0, 0, 0])
  else if cls = 0x0402 ∧ inst < 8 ∧ g = 0 then
    some (grp .staged [49] (ff 20) (toLe 4 250000)
      ([fu 0 4 2000 1000000000] ++ (List.range 6).map fun p => fu (8 + 2 * p) 2 0 1024))
  else if cls = 0x0402 ∧ inst < 8 ∧ g = 1 then some (rog [49] 8)
  else if cls = 0x0403 ∧ inst = 0 ∧ g = 0 then some (rog [49] 16)
  else if cls = 0x0404 ∧ inst = 0 ∧ g = 0 then
    some (grp .immediate [49] ([1, 1, 7, 7] ++ ff 6 ++ zz 2 ++ ff 8)
      ([1, 0, 7, 6] ++ groupAddr 1 ++ zz 2 ++ toLe 4 250 ++ toLe 4 500)
      [fu 0 1 0 1, fu 1 1 0 1, fu 12 4 50 1000, fu 16 4 100 10000])
  else if cls = 0x0404 ∧ inst = 0 ∧ g = 1 then some (rog [49] 48)
  else if cls = 0x0405 ∧ inst < 3 ∧ g = 0 then some (tab .immediate [49] 32 (ff 6 ++ [3, 0]))
  else none

/-- Receive objects (Table 8-13). -/
def descRx (cls inst g : Nat) : Option Desc :=
  if cls = 0x0500 ∧ inst < 6 ∧ g = 0 then
    some (grp .immediate [6 + inst] (ff 7 ++ zz 1 ++ ff 8) (zz 6 ++ [1, 0] ++ toLe 2 2000)
      [fu 6 1 0 1, fu 8 2 64 9646, fu 10 1 0 3, fu 11 1 0 3])
  else if cls = 0x0500 ∧ inst < 6 ∧ g = 1 then some (grp .immediate [6 + inst] (ff 64) [])
  else if cls = 0x0501 ∧ inst = 0 ∧ g = 0 then some (tab .immediate [62] 16 (ff 6 ++ [0x3F, 0x80]))
  else if cls = 0x0502 ∧ inst = 0 ∧ g = 0 then
    some (tab .immediate [62] 64 ([0xFF, 0xFF, 0xFF, 0x7F, 0x07, 0x3F, 0x7F, 0x87] ++ ff 4 ++ zz 4))
  else if cls = 0x0503 ∧ inst = 0 ∧ g = 0 then some (rog [62] 16)
  else if cls = 0x0503 ∧ inst = 0 ∧ g = 1 then some (grp .immediate [62] (ff 4) (toLe 4 10000) [fu 0 4 1000 100000])
  else if cls = 0x0504 ∧ inst < 2 ∧ g = 0 then
    some (grp .immediate [62] (ff 20) (zz 8 ++ ff 12)
      ([fu 0 4 0 65535, fu 4 4 0 65536] ++ (List.range 12).map fun i => fu (8 + i) 1 0 63 [255]))
  else if cls = 0x0505 ∧ inst < 2 ∧ g = 0 then some (tab .immediate [62] 64 [0xFF, 0xFF, 0, 0x80])
  else if cls = 0x0506 ∧ inst < 2 ∧ g = 0 then
    some (tab .immediate [62] 16 (ff 36 ++ [0x3F, 0x03, 0, 0x80]) [fu 32 2 0 511, fu 34 1 1 16, fu 35 1 0 3])
  else if cls = 0x0507 ∧ inst < 2 ∧ g = 0 then some (tab .immediate [62] 6 (actionMask ++ [0]))
  else if cls = 0x0508 ∧ inst = 0 ∧ g = 0 then some (tab .immediate [] 65536 (ff 15 ++ [0xE0]))
  else if cls = 0x0509 ∧ inst = 0 ∧ g = 0 then
    some (tab .immediate [62] 2048 (ff 16 ++ [7] ++ zz 7)
      [fu 0 4 0 25000000, fu 4 4 0 25000000, fu 8 4 64 16777215, fu 12 4 64 16777215])
  else if cls = 0x050A ∧ inst < 6 ∧ g = 0 then
    some (grp .immediate [12 + inst] ([1, 0, 1, 0] ++ ff 4) [0, 0, 1] [fu 4 4 0 1073741823])
  else if cls = 0x050B ∧ inst < 6 ∧ g = 0 then some (tab .immediate [12 + inst] 4 (ff 16 ++ [1] ++ zz 3))
  else none

/-- Stream and plane objects (Table 9-6). -/
def descStr (cls inst g : Nat) : Option Desc :=
  if cls = 0x0600 ∧ inst = 0 ∧ g = 0 then
    some (tab .immediate [49] 16384 (ff 6 ++ [0xFF, 0xCF, 0x01, 0x3F, 0xFF, 0x3F, 0, 0, 0, 0x80]))
  else if cls = 0x0600 ∧ inst = 0 ∧ g = 1 then
    some (tab .immediate [49] 1024 (ff 6 ++ [0xFF, 0xCF, 0xFF, 0x3F, 0xFF, 0x3F, 0x3F] ++ ff 5 ++ [0x1F, 0] ++ ff 32 ++ zz 11 ++ [0x80]))
  else if 0x0601 ≤ cls ∧ cls ≤ 0x0604 then
    if g = 0 then some (grp .staged [49] ([1] ++ ff 9 ++ [0x3F, 0x1F] ++ ff 7 ++ [0])
        ([0, 0, 0, 32] ++ zz 4 ++ toLe 2 2000 ++ [0x3F, 1] ++ zz 4 ++ zz 2 ++ [3, 0])
        [fu 0 1 0 1, fu 1 1 0 2, fu 2 1 0 1, fu 3 1 2 64, fu 4 4 0 1048575, fu 8 2 1 65535, fu 12 4 0 1048575, fu 16 2 0 9600])
    else if g = 1 then
      if cls = 0x0601 then some (grp .staged [49] ([1, 1, 7, 3, 0xFF, 0xFF, 0, 0]) [0, 1, 7, 3] [fu 0 1 0 1, fu 1 1 0 1, fu 3 1 1 3]) else none
    else if g = 2 then some (grp .staged [49] [1, 1, 0xFF, 0xFF, 0xFF, 0x87, 0, 0] [] [fu 2 2 0 9600])
    else if g = 3 then some (rog [49, 69] 28)
    else none
  else if cls = 0x0605 ∧ inst = 0 ∧ g = 0 then some (grp .immediate [49] (ff 3 ++ zz 1) [] [fu 0 2 0 1024, fu 2 1 0 1])
  else if cls = 0x0605 ∧ inst = 0 ∧ g = 1 then some (rog [49] 16)
  else if cls = 0x0606 ∧ inst < 3 ∧ g = 0 then
    some (grp .immediate [49] [1, 0, 0xFF, 0xFF] ([1, 0] ++ toLe 2 512) [fu 0 1 0 1, fu 2 2 0 2048])
  else if cls = 0x0607 ∧ inst = 0 ∧ g = 0 then some (tab .immediate [49] 16 (ff 6 ++ [7, 0x80]))
  else none

/-- Segment objects (Table 10-17). -/
def descSeg (cls inst g : Nat) : Option Desc :=
  if cls = 0x0700 ∧ inst < 16 ∧ g = 0 then
    some (grp .staged [30 + inst] (ff 10 ++ zz 2) ([0, 0xFF, 0xB5, 0x88] ++ toLe 4 2000 ++ [BitVec.ofNat 8 (64 + inst), 0])
      [fu 0 1 0 31, fu 1 1 0 31 [255], fu 4 4 500 10000, fu 8 1 0 119, fu 9 1 0 1])
  else if cls = 0x0700 ∧ inst < 16 ∧ g = 1 then some (rog [30 + inst] 24)
  else if cls = 0x0701 ∧ inst < 128 ∧ g = 0 then
    some (grp .staged [49] (ff 5 ++ zz 3 ++ ff 4) (toLe 4 2000 ++ zz 4 ++ toLe 4 2500)
      [fu 0 4 250 1000000, fu 4 1 0 64, fu 8 4 1000 50000])
  else if cls = 0x0702 ∧ inst < 128 ∧ g = 0 then some (tab .staged [49] 64 (ff 6 ++ [7, 0x1F]))
  else if cls = 0x0703 ∧ inst < 16 ∧ g = 0 then some (tab .immediate [30 + inst] 32 ([0x0F, 0x0F] ++ zz 6) [fu 1 1 0 15])
  else if cls = 0x0704 ∧ inst < 16 ∧ g = 0 then some (tab .immediate [30 + inst] 32 ([0xFF, 0, 0, 0] ++ ff 112) [fu 0 1 0 112])
  else if cls = 0x0705 ∧ inst = 0 ∧ g = 0 then some (rog [71] 20)
  else none

/-- Twin and stack objects (Table 11-13). -/
def descTwin (cls inst g : Nat) : Option Desc :=
  let c (d : Desc) : Desc := { d with casc := true }
  if cls = 0x0800 ∧ inst = 0 ∧ g = 0 then some (c (rog [49] 32))
  else if cls = 0x0801 ∧ inst < 2 ∧ g = 0 then some (rog [26 + inst] 12)
  else if cls = 0x0802 ∧ inst = 0 ∧ g = 0 then
    some (c (grp .staged [49] (ff 12 ++ [7, 7] ++ ff 6) (toLe 4 20000 ++ toLe 2 1000 ++ toLe 2 14 ++ toLe 4 500 ++ [7, 6] ++ groupAddr 2)
      [fu 0 4 2000 10000000, fu 4 2 100 60000, fu 6 2 0 9600, fu 8 4 10 100000]))
  else if cls = 0x0802 ∧ inst = 0 ∧ g = 1 then some (c (rog [49] 36))
  else if cls = 0x0803 ∧ inst < 8 ∧ g = 0 then some (c (tab .immediate [49] 4096 (ff 1)))
  else if cls = 0x0804 ∧ inst < 8 ∧ g = 0 then some (c (rog [49] 8))
  else if cls = 0x0805 ∧ inst = 0 ∧ g = 0 then
    some (c (tab .immediate [49] 64 ([0xFF, 0, 0, 0] ++ ff 4) [fu 0 1 0 7 [255], fu 4 4 2000 10000000] ([0xFF, 0, 0, 0] ++ toLe 4 20000)))
  else if cls = 0x0806 ∧ inst = 0 ∧ g = 0 then some (c (tab .immediate [49] 64 [0xFF, 0, 0, 0] [fu 0 1 0 63 [255]] [0xFF]))
  else none

/-- Fault objects (Table 12-6). -/
def descFault (cls inst g : Nat) : Option Desc :=
  if cls = 0x0900 ∧ inst = 0 ∧ g = 0 then some (grp .immediate [] [0xFF, 0, 0, 0] [] [fu 0 1 0 1])
  else if cls = 0x0900 ∧ inst = 0 ∧ g = 1 then some (grp .immediate [] [0xFF, 0xFF, 0xFF, 0] [] [fu 0 1 0 1] [1, 2])
  else if cls = 0x0900 ∧ inst = 0 ∧ g = 2 then some (rog [] 16)
  else if cls = 0x0901 ∧ inst = 0 ∧ g = 0 then some (tab .readOnly [] 192 (ff 8))
  else if cls = 0x0902 ∧ inst = 0 ∧ g = 0 then some (tab .readOnly [] 64 (ff 16))
  else none

/-- Security objects (Table 13-11). -/
def descSec (cls inst g : Nat) : Option Desc :=
  if cls = 0x0A00 ∧ inst = 0 ∧ g = 0 then some (rog [] 16)
  else if cls = 0x0A00 ∧ inst = 0 ∧ g = 1 then some (grp .rwl [] ([0x7F, 3, 7, 0xFF, 0xFF, 0xFF, 0x0F] ++ zz 57) [])
  else if cls = 0x0A00 ∧ inst = 0 ∧ g = 2 then some (grp .rwl [] [1, 0, 0, 0] [])
  else if cls = 0x0A01 ∧ inst = 0 ∧ g = 0 then some (tab .readOnly [] 528 (ff 8))
  else if cls = 0x0A02 ∧ inst < 6 ∧ g = 0 then
    some (grp .immediate [12 + inst] (ff 8 ++ [3, 7, 0, 0] ++ ff 40)
      (zz 12 ++ ff 8 ++ (toLe 8 1 ++ toLe 8 1 ++ toLe 8 1 ++ toLe 8 1)))
  else if cls = 0x0A02 ∧ inst < 6 ∧ g = 1 then some (rog [12 + inst] 16)
  else if cls = 0x0A03 ∧ inst = 0 ∧ g = 0 then some (tab .immediate [29] 8 (ff 4) [] [] [1, 2, 3])
  else none

/-- Management objects (Tables 3-12 and 14-9). -/
def descMgmt (cls inst g : Nat) : Option Desc :=
  if inst ≠ 0 ∨ g ≠ 0 then none
  else if cls = 0x0B01 then
    some (grp .immediate [] (ff 8) (toLe 4 1000000 ++ toLe 4 5000000) [fu 0 4 1000000 1000000000, fu 4 4 1000000 500000000])
  else if cls = 0x0B02 then some (rog [49] 536)
  else if cls = 0x0B10 then some (grp .immediate [73] [0xFF, 0, 0, 0] [0x11])
  else if cls = 0x0B11 then some (rog [76] 20)
  else if cls = 0x0B12 then some (rog [73] 20)
  else none

/-- The object an OID names; none where no object is defined (R108). Counter blocks are not among
them: they are `counterBlock`. -/
def descOf (oid : Nat) : Option Desc :=
  let cls := oid / 0x10000; let inst := oid / 16 % 4096; let g := oid % 16
  let hi := cls / 256
  if hi = 1 then descLedger cls inst g else if hi = 2 then descTime cls inst g
  else if hi = 3 then descCal cls inst g else if hi = 4 then descTx cls inst g
  else if hi = 5 then descRx cls inst g else if hi = 6 then descStr cls inst g
  else if hi = 7 then descSeg cls inst g else if hi = 8 then descTwin cls inst g
  else if hi = 9 then descFault cls inst g else if hi = 10 then descSec cls inst g
  else if hi = 11 then descMgmt cls inst g else none

/-- Address of an object's byte in the object memory. -/
def objAddr (oid off : Nat) : Nat := oid * 0x100000 + off

/-- Reset byte of the object memory (R10). -/
def objReset (a : Nat) : Byte :=
  match descOf (a / 0x100000) with
  | some d => d.reset.getD (a % 0x100000 % d.size) 0
  | none => 0

/-- Physical OID of a classifier object: instance 1 of CLS_SET, CLS_ROOT, CLS_PAT and CLS_DEFAULT is
the active view, instance 0 the shadow or draining view (R320, R324). -/
def physOid (s : State) (oid : Nat) : Nat :=
  let cls := oid / 0x10000
  if 0x0504 ≤ cls ∧ cls ≤ 0x0507 then
    let v := if oid / 16 % 4096 = 1 then s.rx.active else 1 - s.rx.active
    oidOf cls v (oid % 16)
  else oid

/-- `n` stored bytes of an object from offset `off`. -/
def objRead (s : State) (oid off n : Nat) : Bytes := mread objReset s.objs (objAddr oid off) n

/-- Stored bytes of an object written. -/
def objWrite (s : State) (oid off : Nat) (b : Bytes) : State :=
  s.setObjs (mwrite objReset s.objs (objAddr oid off) b)

/-- Little-endian configuration field. -/
def cfg (s : State) (oid off n : Nat) : Nat := leNat (objRead s oid off n)

/-- Signed little-endian configuration field. -/
def cfgI (s : State) (oid off n : Nat) : Int := sgn (8 * n) (cfg s oid off n)

/-- Bit of a configuration byte. -/
def cfgBit (s : State) (oid off i : Nat) : Bool := bitN (cfg s oid off 1) i

/-- Domain that holds a stored byte, whose loss of power returns it to reset (R142). -/
def homeOf (a : Nat) : Option Nat :=
  let oid := a / 0x100000
  if oid = 0x05080000 then some (58 + a % 0x100000 / 16 % 4)
  else if oid = 0x02000000 then some 70
  else if oid / 0x10000 = 0x0205 ∨ oid / 0x10000 = 0x0206 then some 72
  else match descOf oid with
    | some d => d.needs.head?
    | none => none

/-- Domains an object needs, entry by entry for CLS_NODE (R306, R326). -/
def needsMet (s : State) (oid : Nat) (d : Desc) (first cnt : Nat) : Bool :=
  d.needs.all (on s) && (!d.casc || on s 26 || on s 27) &&
  (oid != 0x05080000 || (on s 62 && (List.range (min cnt 4)).all fun i => on s (58 + (first + i) % 4)))

/-- First byte of an image or entry that holds a non-zero reserved bit, read-only bytes apart. -/
def reservedAt (d : Desc) (b : Bytes) : Option Nat :=
  ((idxd b).find? fun x => !(d.ro.contains x.1) && (x.2 &&& ~~~ (d.mask.getD x.1 0)) != 0).map (·.1)

/-- First field outside its legal range. -/
def rangeAt (d : Desc) (b : Bytes) : Option Nat :=
  (d.fields.find? fun f =>
    let v : Int := if f.sg then sgn (8 * f.len) (le b f.off f.len) else (le b f.off f.len : Nat)
    !((f.lo ≤ v && v ≤ f.hi) || f.alt.contains v)).map (·.off)

/-- The further legality rules of single images and entries: the node, action, meter, LISTEN, SEG,
CLS_SET, identification and protection rules. Answers the first offending offset. -/
def extraAt (oid : Nat) (b : Bytes) : Option Nat :=
  let cls := oid / 0x10000; let g := oid % 16
  if cls = 0x0200 ∧ g = 0 then (if by_ b 0 % 2 = 1 then some 0 else none)
  else if cls = 0x0500 ∧ g = 0 then (if by_ b 0 % 2 = 1 then some 0 else none)
  else if cls = 0x0501 then (if by_ b 0 % 2 = 1 then some 0 else none)
  else if cls = 0x0504 then (if le b 0 4 + le b 4 4 > 65536 then some 4 else none)
  else if cls = 0x0508 then
    let kind := by_ b 15 / 32 % 4
    if kind ≥ 2 then some 15
    else if kind = 0 then
      if by_ b 12 ≥ 128 then some 12
      else if by_ b 13 ≥ 32 then some 13
      else if by_ b 13 / 4 % 8 > 5 then some 13
      else if by_ b 13 % 4 = 3 then some 13
      else if by_ b 12 % 128 + 2 ^ (by_ b 13 % 4) > 128 then some 12
      else if by_ b 14 ≠ 0 then some 14 else none
    else ((idxd (b.take 15)).find? fun x => (x.2 &&& ~~~ (actionMask.getD x.1 0)) != 0).map (·.1)
  else if cls = 0x0509 then (if le b 4 4 < le b 0 4 then some 4 else none)
  else if cls = 0x050B then
    ([0, 1, 2, 3].find? fun k => le b (8 + 2 * k) 2 > 0x7F && le b (8 + 2 * k) 2 != 0xFFFF).map fun k => 8 + 2 * k
  else if cls = 0x0600 ∧ g = 0 then (if by_ b 7 / 64 = 3 then some 6 else none)
  else if cls = 0x0600 ∧ g = 1 then
    (if by_ b 7 / 64 = 3 then some 6 else if by_ b 8 ≠ 4 ∧ by_ b 8 ≠ 6 ∧ by_ b 63 ≥ 128 then some 8 else none)
  else if 0x0601 ≤ cls ∧ cls ≤ 0x0604 ∧ g = 0 then
    let exp := by_ b 10
    let planes := [0, 1, 2].filter fun p => exp / 4 ^ p % 4 ≠ 0
    let m := by_ b 1
    if by_ b 2 = 1 ∧ m ≠ 0 then some 2
    else if m ≠ 0 ∧ le b 4 4 = 0 then some 4
    else if (m = 1 ∧ planes.length < 2) ∨ (m = 2 ∧ planes.length < 3) then some 10
    else if by_ b 11 % 4 = 3 then some 11
    else if by_ b 11 % 4 = 2 ∧ le b 12 4 = 0 then some 12
    else if by_ b 18 ≠ 0 ∧ by_ b 18 ≠ 3 then some 18 else none
  else if cls = 0x0700 then (if by_ b 0 = by_ b 1 then some 1 else none)
  else if cls = 0x0A02 then
    ([0, 1, 2, 3].find? fun a => le b (12 + 2 * a) 2 > 0x7F && le b (12 + 2 * a) 2 != 0xFFFF).map fun a => 12 + 2 * a
  else if cls = 0x0B10 then
    let c := by_ b 0
    (if c ≤ 1 ∨ (0x10 ≤ c ∧ c ≤ 0x13) ∨ (0x20 ≤ c ∧ c < 0x48 ∧ c % 16 < 8) ∨ c = 0xFF then none else some 0)
  else none

/-- First offending offset of an image or entry: reserved bits, ranges and further rules, lowest first. -/
def illegalAt (oid : Nat) (d : Desc) (b : Bytes) : Option Nat :=
  match reservedAt d b, rangeAt d b, extraAt oid b with
  | none, none, x => x
  | some a, none, none => some a
  | none, some a, none => some a
  | some a, some c, none => some (min a c)
  | some a, none, some c => some (min a c)
  | none, some a, some c => some (min a c)
  | some a, some c, some e => some (min a (min c e))

/-- Return the stored bytes held by a domain to their reset values (R142). -/
def clearHome (s : State) (d : Nat) : State :=
  let s := s.setObjs (s.objs.filter fun c => homeOf c.1 != some d)
  s.setCnt (s.cnt.filter fun c => match counterBlock (c.1 / 64) with
    | some (_, ds) => !ds.contains d
    | none => true)

end Sys2Proof.Machine
end

