-- ==== Sys2Proof/Machine/Clock.lean ====
section
/-! DEFINITION. Reading the time: raw count, corrected time and the 48-bit stamp form (R164–R172). -/

namespace Sys2Proof.Machine

def chanReset (_ : Nat) : Chan := {}

/-- Time-core channel 0–2 for X, Y, Z. -/
def chan (s : State) (i : Nat) : Chan := tget chanReset s.tm.chans i

def modChan (s : State) (i : Nat) (f : Chan → Chan) : State :=
  s.modTm fun t => { t with chans := tmod chanReset t.chans i f }

/-- Channels in the vote. -/
def voters (s : State) : List Nat := [0, 1, 2].filter fun i => (chan s i).inVote

/-- Corrected time of a channel at a raw count, in 2^-16 ns (R167). -/
def corrAt (c : Chan) (raw : Nat) : Nat :=
  uns 80 ((raw : Int) + c.off.toInt + c.rate.toInt * ((raw : Int) - c.anchor.toNat) / 2 ^ 40)

/-- Two channels show one raw count and one corrected time (R182). -/
def sameTime (a b : Chan) : Bool :=
  a.raw == b.raw &&
    ((a.off == b.off && a.rate == b.rate && a.anchor == b.anchor) || corrAt a a.raw.toNat == corrAt b b.raw.toNat)

/-- The lowest channel in the vote that shares its values with another one (R184). -/
def agreeing (s : State) : Option Nat :=
  (voters s).find? fun i => (voters s).any fun j => i != j && sameTime (chan s i) (chan s j)

/-- The channel whose values are the voted ones (R184). -/
def vch (s : State) : Chan := chan s ((agreeing s).getD 0)

/-- A voted time exists: PD68 ENABLED, two channels of the vote that agree, no failed vote (R111, R184, R464). -/
def timeOk (s : State) : Bool := on s 68 && (agreeing s).isSome && !s.tm.lostVote

/-- Voted raw count; 0 while no voted time exists. -/
def rawNow (s : State) : Nat := if timeOk s then (vch s).raw.toNat else 0

/-- Corrected time in 2^-16 ns; 0 while no voted time exists. -/
def now80 (s : State) : Nat := if timeOk s then corrAt (vch s) (vch s).raw.toNat else 0

/-- Corrected nanoseconds. -/
def nowNs (s : State) : Nat := now80 s / 65536

/-- The wrapping 48-bit form of a corrected time (R170). -/
def form48 (t : Nat) : BitVec 48 := BitVec.ofNat 48 t

def now48 (s : State) : BitVec 48 := form48 (now80 s)

/-- A 48-bit stamp extended against a corrected time, in 2^-16 ns (R172). -/
def extend (now : Nat) (ts : Nat) : Nat :=
  let ns := now / 65536
  let diff := sgn 32 (uns 32 ((ts / 65536 : Nat) - (ns : Int)))
  ((ns : Int) + diff).toNat * 65536 + ts % 65536

def planeReset (_ : Nat) : Plane := {}
def plane (s : State) (p : Nat) : Plane := tget planeReset s.tm.planes p

/-- Sync interval of a plane in ns (Table 5-5). -/
def syncNs (s : State) (p : Nat) : Nat := 1000000000 / 2 ^ (cfgI s (oidOf 0x0202 p 0) 2 1).natAbs

/-- The plane's offset is valid (R188). -/
def planeValid (s : State) (p : Nat) : Bool :=
  let x := plane s p
  cfgBit s 0x02010000 2 p && (x.state == 2 || x.state == 3) && x.seen && decide (s.clock < x.at_ + 3 * syncNs s p)

/-- Time in ps of a corrected time, for line-rate arithmetic. -/
def psOf (t : Nat) : Nat := t * 1000 / 65536

def nowPs (s : State) : Nat := psOf (now80 s)

/-- Milliseconds elapsed since a clock value. -/
def msSince (s : State) (t : Nat) : Nat := (s.clock - t) / 1000000

/-- The raw time AO-safety uses (R452). -/
def aoRaw (s : State) : BitVec 80 := if timeOk s then (vch s).raw else s.fs.aoRaw

/-- Received time of an order: the raw count in ns (R117). -/
def recvTime (s : State) : Nat := (aoRaw s).toNat / 65536

end Sys2Proof.Machine
end

