-- ==== Sys2Proof/Machine/Flags.lean ====
section
/-! DEFINITION. Messages toward the host and every event and status flag of the host link: flits and
credits (R50–R65), EV_PEND and EVT (R84–R87), HL_STATUS and HL_ERR (Tables 2-8 and 2-9). -/

namespace Sys2Proof.Machine

/-- LINK_STATE values (Table 2-9). -/
def lsDown : BitVec 4 := 0
def lsTraining : BitVec 4 := 1
def lsActive : BitVec 4 := 2
def lsQuiescing : BitVec 4 := 3
def lsDetached : BitVec 4 := 4
def lsRetrain : BitVec 4 := 5

/-- Bytes 240–251 of a flit: credits returned, ACK (Table 2-1). -/
def flitTail (l : Link) (ack : Nat) (valid : Bool) : Bytes :=
  toLe 1 l.rtP ++ toLe 2 l.rtPD ++ toLe 1 l.rtNP ++ toLe 1 l.rtLM ++ zz 3 ++
    toLe 2 (ack + (if valid then 0x8000 else 0)) ++ zz 2

/-- A flit with its CRC (Table 2-1). -/
def mkFlit (l : Link) (seq ty first : Nat) (area : Bytes) (ack : Nat) (valid : Bool) : Bytes :=
  let b := toLe 2 (seq + ty * 4096) ++ toLe 2 first ++ sub area 0 236 ++ flitTail l ack valid
  b ++ toLe 4 (crc32c b)

/-- Highest FLIT_SEQ received in order. -/
def lastGood (l : Link) : Nat := (l.rxSeq - 1).toNat

/-- The credits owed have been returned: the host holds them again (R61). -/
def noReturns (l : Link) : Link :=
  { l with gvP := l.gvP + l.rtP, gvPD := l.gvPD + l.rtPD, gvNP := l.gvNP + l.rtNP, gvLM := l.gvLM + l.rtLM,
           rtP := 0, rtPD := 0, rtNP := 0, rtLM := 0 }

/-- A numbered flit sent and held for replay (R51). -/
def sendNumbered (s : State) (ty first : Nat) (area : Bytes) (ack : Nat) (valid : Bool) : State :=
  let f := mkFlit s.hl s.hl.txSeq.toNat ty first area ack valid
  (emit s (.flit f)).modHl fun l =>
    { noReturns l with replay := l.replay ++ [⟨l.txSeq, f, 0⟩], txSeq := l.txSeq + 1 }

/-- A null flit (R51, R54). -/
def sendNull (s : State) : State :=
  (emit s (.flit (mkFlit s.hl 0 0 0xFFFF [] (lastGood s.hl) s.hl.rxAny))).modHl noReturns

/-- The NAK flit that names the expected sequence (R52); with 64 flits held for replay it waits for
room (R51; log entry 128). -/
def sendNak (s : State) : State :=
  if 64 ≤ s.hl.replay.length then s.modHl fun l => { l with nakDue := true }
  else count (sendNumbered (s.modHl fun l => { l with nakDue := false }) 2 0xFFFF [] s.hl.rxSeq.toNat true) cDev 5

/-- Class of a message by its type (Table 2-3). -/
def classOf (m : Bytes) : MsgClass :=
  let t := by_ m 0
  if t = 0x12 ∨ t = 0x02 then .nonPosted else if t = 0x30 then .linkMgmt
  else if t = 0x03 ∨ t = 0x04 ∨ t = 0x13 ∨ t = 0x14 then .completion else .posted

/-- Data credits of a message: 64-byte units of its data (Table 2-1). -/
def dataCredits (m : Bytes) : Nat := (m.length - 16 + 63) / 64

/-- The host has granted the credits that a message needs (R61). -/
def creditOk (l : Link) (m : Bytes) : Bool :=
  match classOf m with
  | .posted => decide (1 ≤ l.crP) && decide (dataCredits m ≤ l.crPD)
  | .nonPosted => decide (1 ≤ l.crNP)
  | .linkMgmt => decide (1 ≤ l.crLM)
  | .completion => true

/-- Credits taken by a message sent. -/
def takeCredit (l : Link) (m : Bytes) : Link :=
  match classOf m with
  | .posted => { l with crP := l.crP - 1, crPD := l.crPD - dataCredits m }
  | .nonPosted => { l with crNP := l.crNP - 1 }
  | .linkMgmt => { l with crLM := l.crLM - 1 }
  | .completion => l

/-- A later message may pass an earlier one (Table 2-6). -/
def mayPass (later earlier : Bytes) : Bool :=
  let relaxed := bitN (by_ later 1) 1
  match classOf later, classOf earlier with
  | _, .linkMgmt => false
  | .linkMgmt, _ => false
  | .posted, .posted => relaxed
  | .posted, _ => true
  | .nonPosted, .posted => false
  | .nonPosted, _ => true
  | .completion, .posted => relaxed
  | .completion, .nonPosted => true
  | .completion, .completion => sub later 2 2 != sub earlier 2 2

/-- A DMWR or DMRD is not issued while DMA_ENABLE is 0 (R523). -/
def dmaHeld (l : Link) (m : Bytes) : Bool := !l.ctrl.getLsbD 0 && (by_ m 0 == 0x11 || by_ m 0 == 0x12)

/-- The message that may go now: the earliest with credits that may pass every one before it. A DMA message
that is not issued holds nothing up: an EVT reports only write-backs that have been sent (R64, R523). -/
def nextMsg (l : Link) : List Waiting → List Waiting → Option (Waiting × List Waiting)
  | _, [] => none
  | before, m :: rest =>
    if creditOk l m.msg && !dmaHeld l m.msg && before.all (fun b => mayPass m.msg b.msg || dmaHeld l b.msg)
    then some (m, before ++ rest) else nextMsg l (before ++ [m]) rest

/-- A message header (Table 2-2). -/
def msgHeader (ty attr tag len f6 lo hi : Nat) : Bytes :=
  toLe 1 ty ++ toLe 1 attr ++ toLe 2 tag ++ toLe 2 len ++ toLe 2 f6 ++ toLe 4 lo ++ toLe 4 hi

/-- EVT message of a vector (Table 2-2, R87). -/
def evtMsg (s : State) (v : Nat) : Bytes :=
  let t := tget (fun _ => 0) s.hl.evSetAt v
  msgHeader 0x20 0 0 0 v (t / 65536) (t % 65536)

/-- An EVT of a vector may be sent as its bit, its mask and EV_ENABLE stand (R85). -/
def evtDue (l : Link) (v : Nat) : Bool := l.evPend.getLsbD v && !l.evMask.getLsbD v && l.ctrl.getLsbD 1

/-- What is sent for a message whose turn has come: an EVT shows the bit as it stands now, or is not
sent where its bit has been cleared or blocked since (R85, R87; log entry 129). -/
def sendable (s : State) (m : Bytes) : Option Bytes :=
  if by_ m 0 = 0x20 then (if evtDue s.hl (le m 6 2) then some (evtMsg s (le m 6 2)) else none) else some m

/-- An EVT leaves: its vector's interval and reference instant begin (R85, R86). -/
def evtLeft (s : State) (m : Bytes) : State :=
  if by_ m 0 ≠ 0x20 then s else
  let v := le m 6 2
  let now := s.clock + 1
  s.modHl fun l => { l with evAgain := setBit l.evAgain v false, evLast := tset (fun _ => 0) l.evLast v now }

/-- The flits of one message: the message starts a flit of its own (log entry 6). -/
def sendFlits (s : State) (first : Nat) : List Bytes → State
  | [] => s
  | a :: rest => sendFlits (sendNumbered s 1 first a (lastGood s.hl) s.hl.rxAny) 0xFFFF rest

/-- A message put behind those that wait, with the vector whose event its sending is; with no link to carry
it, it is gone. -/
def queueMsg (s : State) (m : Bytes) (vec : Option Nat) : State :=
  let m := m ++ List.replicate ((4 - m.length % 4) % 4) 0
  if s.hl.trained || s.hl.training then s.modHl fun l => { l with waiting := l.waiting ++ [⟨classOf m, m, vec⟩] }
  else s

/-- DMWR and EVT may be sent: not DETACHED, and no quiesce of the host (R91, R522). -/
def outboundOk (s : State) : Bool :=
  s.hl.state != lsDetached && s.hl.state != lsDown && s.hl.state != lsTraining && !s.hl.quiesce

/-- An EVT of the vector waits for credits or for room. -/
def evtWaits (s : State) (v : Nat) : Bool := s.hl.waiting.any fun x => by_ x.msg 0 == 0x20 && le x.msg 6 2 == v

/-- The EVT of a vector need not wait for its holdoff any more. -/
def evtFree (s : State) (v : Nat) : State := s.modHl fun l => { l with evWait := setBit l.evWait v false }

/-- The EVT of a vector put behind the messages that wait; one that already waits serves. -/
def evtQueue (s : State) (v : Nat) : State :=
  if evtWaits s v then evtFree s v else queueMsg (evtFree s v) (evtMsg s v) none

/-- The EVT of a vector whose bit is set goes by `go`, waits for its holdoff, or does not go (R85). -/
def evtTryBy (go : State → Nat → State) (s : State) (v : Nat) : State :=
  if s.hl.evMask.getLsbD v || !s.hl.ctrl.getLsbD 1 || !outboundOk s then s
  else
    let last := tget (fun _ => 0) s.hl.evLast v
    let hold := (tget (fun _ => (0 : BitVec 16)) s.hl.evHoldoff v).toNat * 100
    if last = 0 ∨ last - 1 + hold ≤ s.clock then go s v
    else s.modHl fun l => { l with evWait := setBit l.evWait v true }

/-- A source mapped to vector v has an event, whose EVT goes by `go` (R85, R86). -/
def raiseBy (go : State → Nat → State) (s : State) (v : Nat) : State :=
  if s.hl.evPend.getLsbD v then s.modHl fun l => { l with evAgain := setBit l.evAgain v true }
  else
    let t := (now48 s).toNat
    evtTryBy go (s.modHl fun l =>
      { l with evPend := setBit l.evPend v true, evAgain := setBit l.evAgain v false,
               evSetAt := tset (fun _ => 0) l.evSetAt v t }) v

/-- A message has left: a write-back is made with it, which is its queue's event (R64, R85, R86). -/
def msgLeft (s : State) (w : Waiting) : State :=
  match w.vec with
  | some v => raiseBy evtQueue (evtLeft s w.msg) v
  | none => evtLeft s w.msg

/-- Send what the link, its credits and the replay buffer allow, fuel-bounded. -/
def pumpFuel : Nat → State → State
  | 0, s => s
  | k + 1, s =>
    if !s.hl.trained then s else
    match nextMsg s.hl [] s.hl.waiting with
    | none => s
    | some (w, rest) =>
      let left (l : Link) : Link := { l with waiting := rest }
      match sendable s w.msg with
      | none => pumpFuel k (s.modHl left)
      | some m =>
        let fl := chunks 236 m
        if s.hl.replay.length + fl.length > 64 then s else
        pumpFuel k (msgLeft (sendFlits (s.modHl fun l => takeCredit (left l) m) 0 fl) w)

/-- Send the NAK and the messages that may go; each sent may put one EVT behind them. -/
def pump (s : State) : State :=
  let s := if s.hl.nakDue && s.hl.trained then sendNak s else s
  pumpFuel (2 * s.hl.waiting.length) s

/-- A message toward the host, and the vector of the event that its sending is. -/
def sendVec (s : State) (m : Bytes) (vec : Option Nat) : State :=
  if s.hl.trained || s.hl.training then pump (queueMsg s m vec) else s

/-- A message toward the host. -/
def sendMsg (s : State) (m : Bytes) : State := sendVec s m none

/-- A link-management message (Table 2-4). -/
def sendLm (s : State) (code arg : Nat) : State :=
  sendMsg s (msgHeader 0x30 0 0 0 code (arg % 2 ^ 32) (arg / 2 ^ 32))

/-- Send the EVT of a vector now; one that already waits to be sent serves. -/
def evtNow (s : State) (v : Nat) : State :=
  if evtWaits s v then evtFree s v else sendMsg (evtFree s v) (evtMsg s v)

/-- The EVT of a vector whose bit is set may go, wait for its holdoff, or not go (R85). -/
def evtTry (s : State) (v : Nat) : State := evtTryBy evtNow s v

/-- A source mapped to vector v has an event (R85). -/
def raiseEvent (s : State) (v : Nat) : State := raiseBy evtNow s v

/-- HL_STATUS flags by bit number 7–11. -/
def setFlag (s : State) (bit : Nat) : State :=
  if s.hl.flags.getLsbD (bit - 7) then s
  else raiseEvent (s.modHl fun l => { l with flags := setBit l.flags (bit - 7) true }) 126

/-- LINK_STATE set; a change raises vector 126. -/
def setLinkState (s : State) (v : BitVec 4) : State :=
  if s.hl.state = v then s else raiseEvent (s.modHl fun l => { l with state := v }) 126

/-- Reset values of a mailbox channel. -/
def chanReset3 (_ : Nat) : Channel := {}
def mbox (s : State) (n : Nat) : Channel := tget chanReset3 s.mb.chans n
def modMbox (s : State) (n : Nat) (f : Channel → Channel) : State :=
  s.modMb fun m => { m with chans := tmod chanReset3 m.chans n f }

/-- A channel of the host sent the request. -/
def viaMb : Via → Bool
  | .mb _ => true
  | _ => false

/-- FW_READY set. Its becoming 1 raises vector 126 and takes the channels out of OFFLINE; its becoming 0 puts
them there, and no request of theirs is answered any more (Table 3-7). -/
def setFwReady (s : State) (v : Bool) : State :=
  if s.hl.fwReady = v then s
  else if v then
    let s := [0, 1, 2, 3].foldl (fun s n => modMbox s n fun c => if c.state = 0 then { c with state := 1 } else c) s
    raiseEvent (s.modHl fun l => { l with fwReady := true }) 126
  else
    let s := [0, 1, 2, 3].foldl (fun s n => modMbox s n fun c => { c with state := 0 }) s
    let s := s.modMb fun m => { m with taken := m.taken.filter fun r => !viaMb r.via }
    s.modHl fun l => { l with fwReady := false }

/-- HL_ERR takes the header of the first bad message since HL_STATUS was last cleared (Table 2-8). -/
def noteErr (s : State) (hdr : Bytes) : State :=
  if s.hl.errHeld then s else s.modHl fun l => { l with err := BitVec.ofNat 64 (le hdr 0 8), errHeld := true }

end Sys2Proof.Machine
end

