-- ==== Sys2Proof/Machine/Transport.lean ====
section
/-! DEFINITION. Outputs on the cascade links and the service port, agents, and the writing of a
response to its sender (R93–R104, R411–R415, R495–R497). -/

namespace Sys2Proof.Machine

/-- AGENT code of a sender (Table 3-2). -/
def agentOf : Via → Nat
  | .mb n => 0x10 + n.val
  | .master p => 0x20 + p.val
  | .partner p => 0x30 + p.val
  | .session k => 0x40 + k.val
  | .run => 0x01
  | .boot => 0x00

/-- Authority code: MB1 and MB2 are one agent (R95). -/
def authAgent (v : Via) : Nat := if v = .mb 2 then 0x11 else agentOf v

/-- An AGENT code is the sender's own; MB1 and MB2 both count as 0x11 (R95, R518). -/
def sameAgent (code : BitVec 8) (v : Via) : Bool := (if code = 0x12 then 0x11 else code.toNat) == authAgent v

/-- Rank of a sender (Tables 3-1 and 3-2). -/
def rankOf : Via → Nat
  | .mb n => if n = 0 then 1 else if n = 3 then 5 else 3
  | .master _ => 2
  | .partner _ => 3
  | .session _ => 4
  | .run => 3
  | .boot => 0

/-- Own stack position (R6). -/
def pos (s : State) : Nat := s.pw.stackPos.toNat

def klinkReset (_ : Nat) : KLink := {}
def klink (s : State) (k : Nat) : KLink := tget klinkReset s.sk.links k
def modKlink (s : State) (k : Nat) (f : KLink → KLink) : State :=
  s.modSk fun x => { x with links := tmod klinkReset x.links k f }

/-- Cascade and service transmitters are silent: F4, a device fence, test mode or no power (R127, R464, R34). -/
def silent (s : State) : Bool := s.fs.f4 || s.fences.device || s.pw.testMode

/-- Put ACK fields into a cascade frame and emit it with its FCS (Table 11-1). -/
def kEmit (s : State) (k : Nat) (f : Bytes) : State :=
  if silent s || !on s (26 + k) then s
  else
    let l := klink s k
    let f := patch f 5 (toLe 1 (by_ f 5 % 2 + (if l.rxAny then 2 else 0)))
    let f := patch f 8 (toBe 2 (if l.rxAny then (l.rxSeq - 1).toNat else 0))
    count (emit s (.casc k (withFcs f))) (cCasc k) 0

/-- A cascade frame before its FCS: header, body, zero pad to byte 59 (R411). -/
def kFrame (kind src dst hops flags seq : Nat) (body : Bytes) : Bytes :=
  padTo 60 ([1, BitVec.ofNat 8 kind, BitVec.ofNat 8 src, BitVec.ofNat 8 dst, BitVec.ofNat 8 hops, BitVec.ofNat 8 flags]
    ++ toBe 2 seq ++ zz 2 ++ toBe 2 body.length ++ zz 4 ++ body)

/-- Give a reliable frame its LINK_SEQ, hold it and send it (R413). -/
def kHold (s : State) (k : Nat) (f : Bytes) : State :=
  let l := klink s k
  let f := patch f 6 (toBe 2 l.txSeq.toNat)
  kEmit (modKlink s k fun l => { l with held := l.held ++ [⟨l.txSeq, f⟩], txSeq := l.txSeq + 1 }) k f

/-- Send waiting reliable frames while fewer than 256 are unacknowledged, fuel-bounded (R413). -/
def kPumpFuel : Nat → State → Nat → State
  | 0, s, _ => s
  | n + 1, s, k =>
    match (klink s k).queue with
    | [] => s
    | f :: rest =>
      if (klink s k).held.length ≥ 256 then s
      else kPumpFuel n (kHold (modKlink s k fun l => { l with queue := rest }) k f) k

def kPump (s : State) (k : Nat) : State := kPumpFuel (klink s k).queue.length s k

/-- Kinds of Table 11-2 that are reliable. -/
def kReliable (kind : Nat) : Bool := [0x10, 0x11, 0x12, 0x20, 0x21, 0x22, 0x31, 0x32].contains kind

/-- Priority of a reliable kind (Table 11-2). -/
def kPrio (kind : Nat) : Nat := if kind < 0x20 then 3 else if kind < 0x30 then 4 else 5

/-- A waiting reliable frame's place: behind those of its own and of more urgent priority (R412). -/
def kPlace (f : Bytes) : List Bytes → List Bytes
  | [] => [f]
  | g :: l => if kPrio (by_ f 1) < kPrio (by_ g 1) then f :: g :: l else g :: kPlace f l

/-- A built cascade frame out on one link: reliable frames need the link up. -/
def kOut (s : State) (k : Nat) (f : Bytes) : State :=
  if kReliable (by_ f 1) then
    if (klink s k).up then kPump (modKlink s k fun l => { l with queue := kPlace (patch f 5 [1]) l.queue }) k else s
  else kEmit s k f

/-- The position is marked duplicated (R417). -/
def dupAt (s : State) (p : Nat) : Bool := s.sk.dup.getLsbD p

/-- A duplicated device, this one or the addressee, takes part in no frame but DISCOVER, the time exchange and the
ACK of the link (R417). -/
def kShut (s : State) (kind dst : Nat) : Bool :=
  !([0x01, 0x02, 0x03, 0x05].contains kind) && (dupAt s (pos s) || dupAt s dst)

/-- A frame originated here on link k. -/
def kSend (s : State) (k kind dst : Nat) (body : Bytes) : State :=
  if kShut s kind dst then s else kOut s k (kFrame kind (pos s) dst 7 (if kReliable kind then 1 else 0) 0 body)

/-- Hops to position p over link k; 0xFF not reached (R416). -/
def hopsVia (s : State) (k p : Nat) : Nat :=
  if p = pos s then 0 else
  match (klink s k).nbr with
  | some d => if (klink s k).up then let h := by_ d (12 + p); if h + 1 > 7 then 0xFF else h + 1 else 0xFF
  | none => 0xFF

/-- The link with fewer hops to a position, K0 where equal (R415). -/
def linkTo (s : State) (p : Nat) : Nat := if hopsVia s 1 p < hopsVia s 0 p then 1 else 0

/-- A position is present: reached over either link, or the device's own (R416). -/
def present (s : State) (p : Nat) : Bool := p == pos s || hopsVia s 0 p != 0xFF || hopsVia s 1 p != 0xFF

def positions (s : State) : List Nat := (List.range 8).filter (present s)

/-- Deepen ranges of the other devices: the neighbours' own and those of the devices beyond them (R429). -/
def deepRanges (s : State) : List DeepRange :=
  ([0, 1].flatMap fun k => if !(klink s k).up then [] else
    (match (klink s k).nbr with
      | some d => if by_ d 10 = 2 then [{ pos := by_ d 8, first := be d 20 2, count := be d 22 2 }] else []
      | none => []) ++ (klink s k).far).filter (·.pos != pos s)

/-- A handle lies in a range. -/
def inRange (h : Nat) (r : DeepRange) : Bool := decide (r.first ≤ h) && decide (h < r.first + r.count)

/-- What the stack's state is to the host: whether discovery is complete, the master, the positions present and
duplicated, and the configuration (Table 11-13, log entry 214). -/
def stackView (s : State) : Bool × Nat × List Nat × BitVec 8 × Nat :=
  (s.sk.complete, s.sk.master, positions s, s.sk.dup, s.sk.config)

/-- A change of the stack's state sets event 127 (R84). -/
def stackEvent (was s : State) : State := if stackView was = stackView s then s else raiseEvent s 127

/-- Service address of a stack position (R495). -/
def svcAddr (s : State) : Bytes := [0x02, 0x4B, 0x59, 0x4D, 0x20, BitVec.ofNat 8 (pos s)]

/-- Bytes 14 on of a service frame: SUBTYPE, VERSION, body length, body (Table 13-9). -/
def svcBody (subtype : Nat) (body : Bytes) : Bytes := toLe 1 subtype ++ [1] ++ toBe 2 body.length ++ body

/-- A service frame to a tool (R495). -/
def svcSend (s : State) (dst : Bytes) (subtype : Nat) (body : Bytes) : State :=
  if silent s || !on s 29 then s
  else emit s (.svc (withFcs (padTo 60 (sub dst 0 6 ++ svcAddr s ++ [0x88, 0xB6] ++ svcBody subtype body))))

def sessReset (_ : Nat) : Session := {}
def sess (s : State) (k : Nat) : Session := tget sessReset s.se.sess k
def modSess (s : State) (k : Nat) (f : Session → Session) : State :=
  s.modSe fun x => { x with sess := tmod sessReset x.sess k f }

/-- An S_MSG of the XD860 with its SEQ and TAG (R497). -/
def svcMsg (s : State) (k : Nat) (msg : Bytes) : State :=
  let z := sess s k
  if z.state ≠ 2 then s else
  let body := toBe 2 z.id.toNat ++ toBe 4 z.txSeq ++ msg
  let head := toLe 1 0x54 ++ [1] ++ toBe 2 (body.length + 32) ++ body
  let tag := hmacSha256 z.sk head
  svcSend (modSess s k fun z => { z with txSeq := z.txSeq + 1 }) z.peer 0x54 (body ++ sub tag 0 32)

/-- An update that a session opened ends with it (R515). -/
def dropUpdate (s : State) (agent : Nat) : State :=
  s.modMg fun m => { m with update := m.update.filter fun u => u.agent.toNat != agent }

/-- A session ends; with a reason, an open one is told so by S_CLOSE (R497, R498). -/
def sessClose (s : State) (k : Nat) (reason : Option Nat) : State :=
  let z := sess s k
  let s := match reason with
    | some c =>
      if z.state ≠ 2 then s else
      let body := toBe 2 z.id.toNat ++ toLe 1 c
      let tag := hmacSha256 z.sk (toLe 1 0x55 ++ [1] ++ toBe 2 35 ++ body)
      svcSend s z.peer 0x55 (body ++ sub tag 0 32)
    | none => s
  let s := if z.state = 2 then dropUpdate s (0x40 + k) else s
  modSess s k fun z => { state := if z.state = 3 then 3 else 0, fails := z.fails }

/-- A Xiond response message (Table 3-9, R104). -/
def respMsg (r : Request) (status : Nat) (staged : Bool) (payload : Bytes) : Bytes :=
  let h := toLe 2 r.opcode.toNat ++ toLe 2 r.tag.toNat ++ toLe 2 payload.length ++
    toLe 2 (0x8000 + (if staged then 0x4000 else 0) + status) ++ toLe 4 r.oid.toNat
  h ++ toLe 4 (crc32c (h ++ payload)) ++ payload

/-- Address of a mailbox buffer in window 0 (Table 2-8). -/
def reqBuf (n : Nat) : Nat := 0x8000 + n * 0x2000
def rspBuf (n : Nat) : Nat := 0x9000 + n * 0x2000

/-- Reset byte of the mailbox buffers. -/
def win0Reset (_ : Nat) : Byte := 0

/-- Deliver a response message to its sender (Table 3-7, R422, R497). -/
def deliver (s : State) (r : Request) (status : Nat) (msg : Bytes) : State :=
  match r.via with
  | .mb n =>
    if (mbox s n).state = 3 then
      let s := s.setWin0 (mwrite win0Reset s.win0 (rspBuf n) msg)
      let s := modMbox s n fun c => { c with state := 4, lastTag := r.tag, lastStatus := BitVec.ofNat 8 status }
      raiseEvent s (121 + n)
    else s
  | .master p => kSend s (linkTo s p) 0x11 p msg
  | .partner p => kSend s (linkTo s p) 0x11 p msg
  | .session k => svcMsg s k msg
  | .run => s
  | .boot => s

/-- Answer a request; it leaves the taken requests. -/
def respondWith (s : State) (r : Request) (status : Nat) (staged : Bool) (payload : Bytes) : State :=
  let s := if status = 6 then count s cDev 10 else s
  let s := s.modMb fun m => { m with taken := m.taken.erase r }
  deliver s r status (respMsg r status staged payload)

/-- Status codes (Table 3-16). -/
def stOk : Nat := 0x00
def stBusy : Nat := 0x01
def stUnknown : Nat := 0x02
def stRange : Nat := 0x03
def stState : Nat := 0x04
def stAuth : Nat := 0x05
def stConflict : Nat := 0x06
def stBudget : Nat := 0x07
def stResource : Nat := 0x08
def stJump : Nat := 0x09
def stEpoch : Nat := 0x0A
def stIntegrity : Nat := 0x0B
def stLocked : Nat := 0x0C
def stTimeout : Nat := 0x0D
def stPartial : Nat := 0x0E
def stGrave : Nat := 0x0F

/-- What a command's checks and effect come to. -/
inductive Answer where
  /-- ST_OK with a payload, in the new state -/
  | ok (s : State) (payload : Bytes)
  /-- staged, ST_OK with STAGED = 1 and a payload -/
  | staged (s : State) (payload : Bytes)
  /-- a status and its payload, nothing changed -/
  | no (status : Nat) (payload : Bytes)
  /-- ST_OK or ST_PARTIAL with a payload and an effect -/
  | done (s : State) (status : Nat) (payload : Bytes)
  /-- no answer yet: it is written when the command completes -/
  | later (s : State)

/-- ST_RANGE that names a header byte offset (Table 3-16). -/
def badRange (byte : Nat) : Answer := .no stRange (toLe 2 byte)

end Sys2Proof.Machine
end

