-- ==== Sys2Proof/Machine/Ports.lean ====
section
/-! DEFINITION. Shared operations over the backbone ports, the TX descriptors in flight, the event
log and the segments, that the fault reactions and the families build on. -/

namespace Sys2Proof.Machine

def portReset (_ : Nat) : Port := {}
def prt (s : State) (p : Nat) : Port := tget portReset s.tx.ports p
def modPrt (s : State) (p : Nat) (f : Port → Port) : State :=
  s.modTx fun x => { x with ports := tmod portReset x.ports p f }

def dozeReset (_ : Nat) : Doze := {}
def doz (s : State) (u : Nat) : Doze := tget dozeReset s.ld.doze u
def modDoz (s : State) (u : Nat) (f : Doze → Doze) : State :=
  s.modLd fun l => { l with doze := tmod dozeReset l.doze u f }

def segReset (_ : Nat) : Seg := {}
def sgm (s : State) (i : Nat) : Seg := tget segReset s.sg.segs i
def modSgm (s : State) (i : Nat) (f : Seg → Seg) : State :=
  s.modSg fun x => { x with segs := tmod segReset x.segs i f }

/-- Cost of a domain in mW (Table 4-3). -/
def cost (d : Nat) : Nat :=
  if d < 6 then 185 else if d < 12 then 95 else if d < 18 then 140 else if d < 24 then 4
  else if d < 26 then 185 else if d < 28 then 70 else if d = 28 then 60 else if d = 29 then 30
  else if d < 46 then 6 else if d = 46 then 420 else if d = 47 then 180 else if d = 48 then 220
  else if d = 49 then 520 else if d < 58 then 85 else if d < 62 then 150 else if d < 64 then 160
  else if d = 64 then 60 else if d < 68 then 70 else if d = 68 then 40 else if d = 69 then 180
  else if d = 70 then 90 else if d = 71 then 12 else if d = 72 then 25 else if d = 73 then 120
  else if d < 76 then 30 else if d = 76 then 15 else if d = 77 then 20 else 0

/-- Ceiling in force (R143). -/
def ceiling (s : State) : Nat := min s.ld.bootCeil s.ld.thermal

/-- Charged by domains (R146). -/
def charged (s : State) : Nat := ((List.range 78).filter (drawn s)).foldl (fun a d => a + cost d) 0

/-- Domains that a list of orders will enable. -/
def impliedBy (os : List Order) (d : Nat) : Bool := os.any fun o => o.domains.contains d

/-- Reserved by a list of staged orders: the costs of the domains they imply that are not yet charged (R148). -/
def reservedOf (s : State) (os : List Order) : Nat :=
  ((List.range 78).filter fun d => !drawn s d && impliedBy os d).foldl (fun a d => a + cost d) 0

/-- Staged and frozen orders. -/
def allOrders (s : State) : List Order := s.mb.frozen ++ s.mb.stage

/-- The charged total of R146. -/
def chargedTotal (s : State) : Nat := charged s + reservedOf s (allOrders s)

/-- The port's own fence, its plane's or the device's is held (R127). -/
def fencedPort (s : State) (p : Nat) : Bool :=
  s.fences.device || s.fences.ports.getLsbD p || s.fences.planes.getLsbD (p / 2)

/-- The segment's own fence or the device's is held (R127). -/
def fencedSeg (s : State) (i : Nat) : Bool := s.fences.device || s.fences.segs.getLsbD i

/-- An F3 holds the target fail-silent: planes 0–2, segments 16–31 (R456). -/
def f3Holds (s : State) (t : Nat) : Bool := s.fs.f3.any (·.1 == t)

/-- The port transmits nothing (R127, R456, R464, R34). -/
def portSilent (s : State) (p : Nat) : Bool :=
  s.fs.f4 || fencedPort s p || f3Holds s (p / 2) || (prt s p).resume || s.pw.testMode

/-- OIDs of the transmit groups of a port (Table 7-12). -/
def oTxs (p : Nat) : Nat := oidOf 0x0400 p 0
def oMerge (p : Nat) : Nat := oidOf 0x0400 p 2
def oCbs (p : Nat) : Nat := oidOf 0x0400 p 3

/-- STAGING_CELLS claimed by a port (Table 7-12). -/
def stagingCells (s : State) (p : Nat) : Nat := cfg s (oTxs p) 12 2

/-- A port that counts as down for a parison (R273). -/
def downFor (s : State) (p : Nat) : Bool :=
  !on s (6 + p) || !(prt s p).up || (doz s p).status != 0 || fencedPort s p || stagingCells s p == 0

/-- Cells of a parison on each of its ports (R269). -/
def cellsOf (len : Nat) : Nat := (len + 64 + 255) / 256

/-- LENGTH of a TX descriptor (Table 2-14). -/
def descLen (d : Bytes) : Nat := le d 22 2

/-- HANDLE of a descriptor, where valid (Table 2-14). -/
def descHandle (d : Bytes) : Option Nat := if by_ d 25 / 128 = 1 then some (le d 24 2 % 16384) else none

/-- TC and LAUNCH_VALID of a descriptor (Table 2-14). -/
def descTc (d : Bytes) : Nat := by_ d 27 % 8

def descLaunch (d : Bytes) : Bool := bitN (by_ d 27) 5

/-- A queued, suspended or started frame of a descriptor on a port. -/
def mine (q idx : Nat) (f : EgFrame) : Bool := f.src == .host q idx
def started (s : State) (q idx p : Nat) : Bool :=
  let x := prt s p
  (x.line.map fun l => mine q idx l.frame).getD false || x.susp.any fun l => mine q idx l.frame

/-- TX descriptor of a queue by its ring index. -/
def recOf (s : State) (q idx : Nat) : Option TxRec := (que s q).recs.find? (·.idx == idx)

def modRec (s : State) (q idx : Nat) (f : TxRec → TxRec) : State :=
  modQue s q fun u => { u with recs := u.recs.map fun r => if r.idx = idx then f r else r }

/-- How a frame ended on one port. -/
inductive PortEnd where
  | sent (late : Bool)
  | dropped
  | safe
  | down
  | noKey
  deriving DecidableEq, Repr

/-- STATUS once every port is decided and none has sent the frame: late or oversize on a port, withheld or
aborted by an F3 or F4, dropped for want of a key, for which the spec states no STATUS (a free value, log
entry 12), or no port up (R76, R271, R272, Table 2-15). -/
def finalStatus (s : State) (r : TxRec) : BitVec 8 × State :=
  if r.sent ≠ 0 then (if r.sentLate then 2 else 0, s)
  else if r.dropped then (1, s)
  else if r.safe then (8, s)
  else if r.keyless then let (v, s) := draw s; (BitVec.ofNat 8 v, s)
  else if r.down then (7, s)
  else (1, s)

/-- Staging cells of a descriptor's frame freed on one port. -/
def freeCells (s : State) (p : Nat) (r : TxRec) : State :=
  if r.cellsOn.getLsbD p then modPrt s p fun x => { x with cells := x.cells - cellsOf (descLen r.desc) } else s

/-- A descriptor kept without a queue is over once it is decided. -/
def keepRec (q : Nat) (r : TxRec) : Bool :=
  match r.phase with
  | .done _ => q < 192
  | _ => true

/-- The frame of a descriptor is decided on one port: its cells are freed, and with its last port its
write-back is decided. -/
def settle (s : State) (q idx p : Nat) (e : PortEnd) : State :=
  match recOf s q idx with
  | none => s
  | some r =>
    if !r.todo.getLsbD p then s else
    let s := freeCells s p r
    let r := { r with todo := setBit r.todo p false, cellsOn := setBit r.cellsOn p false }
    let r := match e with
      | .sent late => { r with sent := setBit r.sent p true, sentLate := r.sentLate || late }
      | .safe => { r with safe := true }
      | .down => { r with down := true }
      | .dropped => { r with dropped := true }
      | .noKey => { r with keyless := true }
    let (r, s) := if r.todo = 0 then
        let (v, s) := finalStatus s r
        ({ r with phase := .done v }, s)
      else (r, s)
    modQue (modRec s q idx fun _ => r) q fun u => { u with recs := u.recs.filter (keepRec q) }

/-- A descriptor's frame is over on every port with one STATUS. -/
def endRec (s : State) (q idx : Nat) (status : BitVec 8) : State :=
  match recOf s q idx with
  | none => s
  | some r =>
    let s := (ones r.cellsOn).foldl (fun s p => freeCells s p r) s
    let s := modRec s q idx fun r => { r with phase := .done status, todo := 0, cellsOn := 0 }
    modQue s q fun u => { u with recs := u.recs.filter (keepRec q) }

/-- A port's stamp of a frame recorded, or lost where the timestamp FIFO is full (R79, R80). -/
def stampRec (s : State) (q idx : Nat) (st : Stamp) : State :=
  if !(que s q).stamped then s
  else if (prt s st.port).fifo ≥ 64 then modRec s q idx fun r => { r with lost := setBit r.lost st.port true }
  else modRec (modPrt s st.port fun p => { p with fifo := p.fifo + 1 }) q idx fun r => { r with stamps := r.stamps ++ [st] }

/-- Cells of a forwarded frame: one for each 256 bytes received, FCS included (R333, log entry 41). -/
def fwdCellsOf (len : Nat) : Nat := (len + 4 + 255) / 256

/-- Withhold one egress frame from a port (R456). -/
def withhold (s : State) (p : Nat) (f : EgFrame) (e : PortEnd) : State :=
  match f.src with
  | .host q idx => let s := settle s q idx p e
                   if e = .safe then count s (cPort p 1) 8 else s
  | .fwd _ => modPrt s p fun x => { x with fwdCells := x.fwdCells - fwdCellsOf f.data.length }
  | _ => s

/-- A confirmed stacked direction and a new TC_LEVEL take effect once no preemptable frame is in
progress or suspended (R284, R292). -/
def settleLevels (s : State) (p : Nat) : State :=
  let x := prt s p
  let busy := !x.susp.isEmpty || (x.line.map fun l => l.lvl != 0).getD false
  if busy then s else
  let lv := BitVec.ofNat 16 (cfg s (oTxs p) 0 2)
  modPrt s p fun x => match x.spWait with
    | some a => { x with levels := lv, spWait := none, merge := 3, frag := max x.frag a }
    | none => { x with levels := lv }

/-- The frame in progress ends with an inverted FCS, a fragment that is not its last with an inverted mCRC, and the
suspended ones send no more (R463). -/
def abortLine (s : State) (p : Nat) (e : PortEnd) : State :=
  let x := prt s p
  let s := match x.line with
    | some l => withhold (emit s (.abort p l.inner)) p l.frame e
    | none => s
  let s := x.susp.foldl (fun s l => withhold s p l.frame e) s
  let now := s.clock
  settleLevels (modPrt s p fun x =>
    { x with freeAt := if x.line.isSome then now else x.freeAt, line := none, susp := [] }) p

/-- Everything queued on a port is withheld as well (R456, R464). -/
def silencePort (s : State) (p : Nat) (e : PortEnd) : State :=
  let s := abortLine s p e
  let s := (prt s p).eg.foldl (fun s f => withhold s p f e) s
  modPrt s p fun x => { x with eg := [] }

/-- A forwarded copy found to be wrong after it became ready: discarded where it has not started,
else it ends with an inverted FCS or mCRC (R332). -/
def stompCopy (s : State) (eg id : Nat) : State :=
  let x := prt s eg
  let s := if (x.eg ++ (x.line.toList ++ x.susp).map (·.frame)).any fun f => f.id == id && !f.bad
    then count s (cPort eg 1) 5 else s
  match x.eg.find? (·.id == id) with
  | some f => modPrt s eg fun x =>
      { x with eg := x.eg.filter (·.id != id), fwdCells := x.fwdCells - fwdCellsOf f.data.length }
  | none =>
    let mark (l : OnLine) : OnLine :=
      if l.frame.id = id then { l with stomp := true, frame := { l.frame with bad := true, whole := true } } else l
    let cut (l : OnLine) : OnLine := if l.frame.id = id then { mark l with short := true } else l
    modPrt s eg fun x => { x with line := x.line.map mark, susp := x.susp.map cut }

/-- The draining view becomes the shadow view when no frame carries its epoch any more (R323). -/
def drainCheck (s : State) : State :=
  match s.rx.draining with
  | some e =>
    if s.rx.loop.any (·.epoch == e) then s
    else s.modRx fun r => { r with draining := none, shadow := r.epoch + 1 }
  | none => s

/-- Heads leave the glory loop (R318, R323). -/
def dropHeads (s : State) (l : List LoopHead) : State :=
  drainCheck (s.modRx fun r => { r with loop := r.loop.filter fun h => !l.contains h })

/-- Heads of frames that are still being received on a port. -/
def openHeads (s : State) (p : Nat) : List LoopHead := s.rx.loop.filter fun h => h.port == p && !h.whole

/-- Receptions in progress on a port end without a frame: their forwarded copies are stomped (R332). -/
def dropEarly (s : State) (p : Nat) (l : List Early) : State :=
  let eg := if p % 2 = 0 then p + 1 else p - 1
  let s := l.foldl (fun s e => match e.copy with
    | some id => stompCopy s eg id
    | none => s) s
  modPrt s p fun x => { x with early := x.early.filter fun e => !l.contains e }

/-- Byte that holds TS_VALID, TS_LOST, CAL_CLASS and, for TX, TS_PORT (R79). -/
def stampByte (st : Option Stamp) (lost port : Nat) : Nat :=
  (match st with
   | some x => 128 + x.cls.toNat * 16 + port
   | none => 48) + (if lost = 0 then 0 else 64)

/-- RX write-back (Table 2-16). -/
def rxWb (m : RxMeta) (stamped : Bool) (st : Option Stamp) (lost status len recIx : Nat) : Bytes :=
  let st := if stamped then st else none
  toLe 6 (match st with
    | some x => x.at48.toNat
    | none => 0) ++ toLe 1 (stampByte st (if stamped then lost else 0) 0) ++ toLe 1 m.inPort ++ toLe 2 len ++
  toLe 2 (match m.handle with
    | some h => 0x8000 + h
    | none => 0) ++ toLe 2 m.seq ++ toLe 1 (m.colour * 8 + m.tc) ++ toLe 1 status ++
  toLe 1 (m.planes * 8 + m.outcome) ++ toLe 1 (if stamped then recIx else 0) ++ toLe 2 m.epoch ++ toLe 4 m.tag ++
  zz 7 ++ [0x80]

/-- The segment's transmission on the line is aborted and Tn_TXEN is low (R367, R463). -/
def segQuiet (s : State) (i : Nat) : State :=
  let s := if (sgm s i).sending.isSome then emit s (.ktbAbort i) else s
  let s := s.modPads fun p => { p with txen := setBit p.txen i false, txd := setBit p.txd i false }
  modSgm s i fun g => { g with sending := none }

/-- A record enters log memory; where that is full the oldest leaves it, lost where it is not in flash yet
(Table 14-5, R508). -/
def logPut (s : State) (type flags : Nat) (data : Bytes) : State :=
  let n := s.mg.nextRec
  let b := toLe 4 n ++ toLe 10 (aoRaw s).toNat ++ toLe 1 type ++ toLe 1 flags ++ sub data 0 12
  let r := b ++ toLe 4 (crc32c b)
  let s := count s cDev 19
  if s.mg.log.length ≥ 2048 then
    let lost := decide (2048 ≤ s.mg.unflushed)
    let s := if lost then count s cDev 20 else s
    s.modMg fun m => { m with log := m.log.drop 1 ++ [(n, r)], nextRec := n + 1,
                              unflushed := if lost then m.unflushed else m.unflushed + 1,
                              logLost := m.logLost + b1 lost,
                              oldest := if lost && (m.log.head?.map (·.1)) == some m.oldest then m.oldest + 1 else m.oldest }
  else s.modMg fun m => { m with log := m.log ++ [(n, r)], nextRec := n + 1, unflushed := m.unflushed + 1 }

/-- Records not in flash yet, and whether one of them tells of lost ones. -/
def logRest (s : State) : List (Nat × Bytes) := s.mg.log.drop (s.mg.log.length - s.mg.unflushed)
def lossTold (s : State) : Bool := (logRest s).any fun x => by_ x.2 14 == 9

/-- A type 9 record: the records lost since the last one told, with the one that it displaces itself (R508). -/
def logLoss (s : State) : State :=
  let full := decide (2048 ≤ s.mg.unflushed)
  let s := logPut s 9 0 (toLe 4 (s.mg.logLost - s.mg.lostTold + b1 full))
  s.modMg fun m => { m with lostTold := m.logLost }

/-- A record in the event log; a loss is told at once, unless a record in log memory that is still to reach flash
has told of one (R508). -/
def logAdd (s : State) (type flags : Nat) (data : Bytes) : State :=
  if !on s 76 then s else
  let lost := s.mg.logLost
  let s := logPut s type flags data
  if s.mg.logLost = lost ∨ lossTold s = true then s else logLoss s

/-- The log record of a fault assertion: singly up to sixteen in a second, then counted (R508). -/
def logFault (s : State) (src cls : Nat) (injected : Bool) : State :=
  let sec := s.clock / 1000000000
  let (at_, n, held) := tget (fun _ => (0, 0, 0)) s.mg.rate src
  let (n, held) := if at_ = sec then (n, held) else (0, 0)
  if n < 16 then
    let s := logAdd s 1 (b1 injected) (toLe 2 src ++ toLe 1 cls)
    s.modMg fun m => { m with rate := tset (fun _ => (0, 0, 0)) m.rate src (sec, n + 1, held) }
  else s.modMg fun m => { m with rate := tset (fun _ => (0, 0, 0)) m.rate src (sec, n, held + 1) }

/-- At the end of a second, one record counts the assertions withheld from the log (R508). -/
def logSummaries (s : State) (cls : Nat → Nat) : State :=
  let s' := s.mg.rate.foldl (fun s e =>
    if e.2.2.2 = 0 then s else logAdd s 1 2 (toLe 2 e.1 ++ toLe 1 (cls e.1) ++ zz 1 ++ toLe 4 e.2.2.2)) s
  s'.modMg fun m => { m with rate := [] }

/-- The commit report (Table 3-14). -/
def reportOf (boundary result planes stack segs applied : Nat) (disp : List Order) (n : Nat) : Bytes :=
  let e := disp.take 64
  toLe 8 boundary ++ toLe 1 result ++ toLe 1 planes ++ toLe 1 stack ++ zz 1 ++ toLe 2 segs ++ toLe 2 applied ++
    toLe 2 n ++ toLe 2 e.length ++ zz 4 ++
    e.flatMap fun o => [o.agent, 0] ++ toLe 2 o.tag.toNat ++ toLe 4 o.oid.toNat

/-- The pending COMMIT ends: its report is kept, logged and answered (R121). -/
def endCommit (s : State) (result planes stack segs applied : Nat) : State :=
  match s.mb.boundary with
  | none => s
  | some b =>
    let rep := reportOf b result planes stack segs applied s.mb.frozenDisp s.mb.frozenDispCount
    let req := s.mb.commit
    let s := s.modMb fun m => { m with boundary := none, commit := none, held := false, selfBad := false,
                                       report := rep, frozenDisp := [], frozenDispCount := 0 }
    let s := count s cDev (if result = 0 then 11 else 12)
    let s := logAdd s 6 0 (toLe 1 result ++ toLe 1 planes ++ toLe 1 stack ++ zz 1 ++ toLe 2 segs ++ toLe 2 applied)
    match req with
    | some r => respondWith s r result false rep
    | none => s

end Sys2Proof.Machine
end

