-- ==== Sys2Proof/Machine/Collector.lean ====
section
/-! DEFINITION. The fault collector: sources and classes (Table 12-1), one assertion latched
(R448–R453), and the F2, F3 and F4 reactions (R456–R464). -/

namespace Sys2Proof.Machine

/-- A source of Table 12-1: level (true) or event, default class, permitted classes; none reserved. -/
def srcInfo (n : Nat) : Option (Bool × Nat × List Nat) :=
  if n < 6 then some (true, 4, [4])
  else if n < 12 then some (true, 1, [1, 4])
  else if n = 12 ∨ n = 14 ∨ n = 16 then some (true, 4, [4])
  else if n = 13 ∨ n = 15 then some (true, 1, [1])
  else if n = 17 ∨ n = 25 then some (true, 1, [1, 4])
  else if n = 24 then some (false, 4, [4])
  else if n = 26 then some (false, 1, [1, 4])
  else if n = 27 ∨ n = 36 ∨ n = 64 ∨ n = 67 then some (false, 1, [1])
  else if 32 ≤ n ∧ n ≤ 34 then some (true, 2, [2])
  else if n = 35 then some (false, 4, [4])
  else if n = 37 then some (false, 1, [0, 1])
  else if n = 38 ∨ n = 39 ∨ n = 40 ∨ n = 42 ∨ n = 43 then some (true, 1, [0, 1])
  else if n = 41 ∨ n = 51 ∨ n = 53 ∨ n = 76 then some (false, 0, [0, 1])
  else if n = 48 ∨ n = 49 ∨ n = 50 ∨ n = 59 ∨ n = 75 then some (false, 1, [0, 1])
  else if n = 52 ∨ n = 65 ∨ n = 66 then some (true, 1, [1])
  else if n = 56 then some (false, 2, [2, 4])
  else if n = 57 then some (false, 1, [1, 2])
  else if n = 58 then some (false, 2, [2])
  else if n = 72 then some (false, 4, [4])
  else if n = 73 ∨ n = 74 then some (false, 2, [2, 4])
  else if 80 ≤ n ∧ n < 128 then
    match n % 8 with
    | 0 | 1 | 6 => some (true, 1, [0, 1])
    | 2 => some (false, 2, [2, 3])
    | 3 | 4 => some (false, 3, [3, 4])
    | _ => some (false, 0, [0, 1])
  else if n = 128 ∨ n = 129 ∨ n = 134 ∨ n = 137 ∨ n = 138 then some (false, 1, [0, 1])
  else if n = 130 ∨ n = 142 then some (true, 1, [0, 1])
  else if n = 131 ∨ n = 132 ∨ n = 135 then some (true, 1, [1])
  else if n = 133 ∨ n = 136 ∨ n = 139 then some (false, 1, [1])
  else if n = 140 then some (false, 3, [3, 4])
  else if n = 141 then some (true, 3, [3, 4])
  else if 144 ≤ n ∧ n < 192 then
    match (n - 144) % 3 with
    | 0 => some (false, 0, [0, 1])
    | 1 => some (false, 1, [1, 3])
    | _ => some (false, 3, [3, 4])
  else none

def srcReset (_ : Nat) : Source := {}
def srcOf (s : State) (n : Nat) : Source := tget srcReset s.fs.srcs n
def modSrc (s : State) (n : Nat) (f : Source → Source) : State :=
  s.modFs fun x => { x with srcs := tmod srcReset x.srcs n f }

/-- Class in force of a source (R448, R449); that of FS024 is fixed and read from no copy (R459). -/
def clsOf (s : State) (n : Nat) : Nat :=
  if n = 24 then 4 else
  match (srcOf s n).cls with
  | some c => c
  | none => match srcInfo n with
    | some (_, d, _) => d
    | none => 0

/-- Targets that an F3 of a source makes fail-silent: planes 0–2, segments 16–31 (R450). -/
def f3Targets (n : Nat) : List Nat :=
  if 80 ≤ n ∧ n < 128 then [(n - 80) / 8 / 2]
  else if 144 ≤ n ∧ n < 192 then [16 + (n - 144) / 3]
  else if n = 140 ∨ n = 141 then (List.range 16).map (16 + ·)
  else []

/-- Number of the CI09 cycle of 31.25 ns that runs. -/
def ci09 (s : State) : Nat := s.clock * 4 / 125

/-- Of two assertions of one CI09 cycle, (cls, n) is treated ahead of the other: descending class, then ascending
source (R452). -/
def aheadOf09 (n cls n' cls' : Nat) : Bool := decide (cls' < cls) || (cls == cls' && decide (n < n'))

/-- The first-fault record takes an assertion (R452). One of the CI09 cycle in which the record was taken that is to
be treated ahead of it has the record, but for an injected one behind a real one of its class. -/
def recordFault (f : Faults) (n cls : Nat) (inj : Bool) (raw : BitVec 80) (cyc : Nat) : Faults :=
  if !f.recValid then
    { f with recValid := true, recSrc := n, recCls := cls, recRaw := raw, recInj := inj, recCyc := cyc }
  else if cls > f.recCls ∨ (f.recInj ∧ !inj ∧ cls ≥ f.recCls) ∨
      (f.recCyc = cyc ∧ cls = f.recCls ∧ n < f.recSrc ∧ f.recInj = inj) then
    { f with recOver := true, recSrc := n, recCls := cls, recRaw := raw, recInj := inj, recCyc := cyc }
  else { f with recOver := true }

/-- An assertion in its place in the ring: before those of its own CI09 cycle that it is ahead of (R452, R453). -/
def ringPlace (l : List RingEntry) (e : RingEntry) : List RingEntry :=
  let k := (l.reverse.takeWhile fun x => x.cyc == e.cyc && aheadOf09 e.src e.cls x.src x.cls).length
  l.take (l.length - k) ++ e :: l.drop (l.length - k)

/-- The event ring takes an assertion (R453). -/
def ringAdd (f : Faults) (e : RingEntry) : Faults :=
  if f.ring.length ≥ 64 then
    { f with ring := (ringPlace f.ring e).drop 1, ringAt := (f.ringAt + 1) % 64, ringLost := satAdd (2 ^ 32 - 1) f.ringLost 1 }
  else { f with ring := ringPlace f.ring e, ringAt := (f.ringAt + 1) % 64 }

/-- Drive SAFE_N0 and SAFE_N1 (R465); the pads follow their drivers. -/
def setSafeN (s : State) (high : Bool) : State :=
  (s.modFs fun f => { f with released := high }).modPads fun p =>
    { p with safeN := if high then 3 else 0, safePad := if high then 3 else 0 }

/-- Fail-silence of one F3 target (R456). -/
def f3Silence (s : State) (t : Nat) : State :=
  if t < 3 then silencePort (silencePort s (2 * t) .safe) (2 * t + 1) .safe
  else
    let s := segQuiet s (t - 16)
    modSgm s (t - 16) fun g => { g with head := 4, sends := false, sendsNext := false }

/-- The F3 reaction: the source holds its targets until the F3 exit (R457). -/
def reactF3 (s : State) (n : Nat) : State :=
  (f3Targets n).foldl (fun s t =>
    let s := if s.fs.f3.contains (t, n) then s else s.modFs fun f => { f with f3 := f.f3 ++ [(t, n)] }
    f3Silence s t) s

/-- DMA stops: what was read or fetched, a frame that a stack member has among it, is written back with SAFE_STATE
(R464, R524). -/
def safeQueue (u : Queue) : Queue :=
  { u with recs := u.recs.map fun r => match r.phase with
      | .done _ => r
      | _ => { r with phase := .done 8, todo := 0 } }

/-- The condition of a level source ends: the present bit follows, but a source in force at F3 waits
for PRESENT_BIT_EXPIRY (R451, R468). -/
def condOff (s : State) (n : Nat) : State :=
  let c := clsOf s n
  modSrc s n fun x => { x with cond := false, present := x.hold || (c == 3 && x.present) }

/-- OVER and SHED_EXHAUSTED end (R150 step 4). -/
def overEnds (s : State) : State :=
  condOff (condOff (s.modLd fun l => { l with exceeds := false, exhausted := false }) 65) 66

/-- OVER clears as soon as the total is at or below the ceiling (R150 step 4). -/
def underCeil (s : State) : State := if s.ld.exceeds && decide (chargedTotal s ≤ ceiling s) then overEnds s else s

/-- Domains that a commit which will not apply has enabled, or is enabling, are disabled again (R149). -/
def undoMoves (s : State) : State :=
  let s := s.modLd fun l =>
    { l with plan := l.plan.filter fun x => x.2.2 != .commit,
             moving := l.moving.map fun x => if x.2 = .commit then (x.1, .undo) else x }
  let off (l : List Nat) : List (Bool × Nat × Move) := l.map fun d => (false, d, .undo)
  match s.ld.moving, s.ld.isolated.reverse with
  | none, d :: rest =>
    (setDom s d { dom s d with state := 3 }).modLd fun l => { l with moving := some (d, .undo), plan := off rest ++ l.plan }
  | _, l => s.modLd fun x => { x with plan := x.plan ++ off l }

/-- The F4 reaction and latch (R462, R464, R116). -/
def reactF4 (s : State) : State :=
  if s.fs.f4 then s else
  let s := s.modFs fun f => { f with f4 := true }
  let s := [0, 1, 2, 3, 4, 5].foldl (fun s p => silencePort s p .safe) s
  let s := [6, 7, 8].foldl (fun s p => if s.pads.laneIdle.getLsbD p then s else emit s (.abort p false)) s
  let s := (List.range 16).foldl segQuiet s
  let s := (List.range 16).foldl (fun s i =>
    if on s (30 + i) then modSgm s i fun g => { g with head := 4, sends := false, sendsNext := false } else s) s
  let s := setSafeN s false
  let s := s.modPads fun p => { p with evt := 0, modTxdis := 0x3F, laneIdle := 0x1FF, txen := 0, txd := 0 }
  let s := (List.range 64).foldl (fun s q => if (que s q).recs.isEmpty then s else modQue s q safeQueue) s
  let s := s.modTw fun t => { t with takeT := none }
  let s := raiseEvent s 126
  let frozen := s.mb.frozen
  let s := endCommit (undoMoves s) stGrave 0 0 0 0
  s.modMb fun m => { m with stage := frozen ++ m.stage, frozen := [] }

/-- Orders lost when the Gaffer halts, and the report that says so (R116). -/
def loseStage (s : State) : State :=
  if s.mb.held then s
  else if s.mb.stage.isEmpty && s.mb.frozen.isEmpty && s.mb.boundary.isNone then s
  else
    let s := (undoMoves s).modTx fun t => { t with phase := 0, agree := {}, follow := {}, member := {} }
    underCeil <| s.modMb fun m =>
      { m with stage := [], frozen := [], boundary := none, commit := none, displaced := [], displacedCount := 0,
               frozenDisp := [], frozenDispCount := 0, selfBad := false,
               report := reportOf (m.boundary.getD 0) stState 0 0 0 0 [] 0 }

/-- The Gaffer core is reset and the boot ROM starts again: from the firmware it was running, or with
the load that was going on (R458, R515, R520). -/
def gafferReset (s : State) : State :=
  let s := loseStage s
  let s := setFwReady s false
  let s := s.modMb fun m => { m with taken := [], commit := none }
  let s := s.modMg fun m => { m with update := none }
  if s.se.phase = 2 ∨ s.se.phase = 3 then
    s.modSe fun x =>
      { x with phase := 1, restart := true, hostLoad := false, svcLoad := false,
               tries := if x.slot = 0 then [0, 1] else if x.slot = 1 then [1, 0] else [] }
  else if s.se.hostLoad then setFwReady s true
  else s

/-- A table entry with an uncorrectable error loses VALID (R458). -/
def dropEntry (s : State) (n : Nat) (ipTable : Bool) (entry : Nat) : State :=
  let clear (s : State) (oid size at_ : Nat) : State :=
    objWrite s oid (entry * size + at_) [BitVec.ofNat 8 (cfg s oid (entry * size + at_) 1 % 128)]
  if n = 73 then
    if ipTable then (if entry < 1024 then clear s 0x06000001 64 63 else s)
    else (if entry < 16384 then clear s 0x06000000 16 15 else s)
  else if n = 74 then (if entry < 65536 then clear s 0x05080000 16 15 else s)
  else s

/-- The F2 reaction of a source (R458). -/
def reactF2 (s : State) (n : Nat) (ipTable : Bool) (entry : Nat) : State :=
  if 32 ≤ n ∧ n ≤ 34 then
    let now := s.clock
    modChan s (n - 32) fun c => if c.inVote then { c with inVote := false, resync := !c.retired, since := now } else c
  else if n = 56 ∨ n = 57 ∨ n = 58 then gafferReset s
  else if n = 73 ∨ n = 74 then dropEntry s n ipTable entry
  else if 80 ≤ n ∧ n < 128 ∧ n % 8 = 2 then modPrt s ((n - 80) / 8) fun p => { p with noNew := true }
  else s

/-- Status, record, ring, counts and present bit of one assertion (R451–R453, R468). -/
def latchFault (s : State) (n cls : Nat) (inj : Bool) : State :=
  let level := match srcInfo n with
    | some (l, _, _) => l
    | none => false
  let raw := aoRaw s
  let c := ci09 s
  let s := s.modFs fun f => ringAdd (recordFault f n cls inj raw c) ⟨n, cls, inj, raw, c⟩
  modSrc s n fun x =>
    { x with present := x.present || level || cls == 3, sticky := true,
             onlyInj := if x.sticky then x.onlyInj && inj else inj,
             real := if inj then x.real else satAdd 65535 x.real 1,
             inj := if inj then satAdd 65535 x.inj 1 else x.inj }

/-- One assertion of a source: latched, logged, interrupted, and its class's reaction performed, an
injected one only under INJECT_REACT (R448, R467). -/
def assertWith (s : State) (n : Nat) (inj : Bool) (ipTable : Bool) (entry : Nat) : State :=
  let cls := clsOf s n
  let s := latchFault s n cls inj
  let s := logFault s n cls inj
  let s := if cls ≥ 1 then raiseEvent s 120 else s
  if inj && cfg s 0x09000000 0 1 == 0 then s
  else if cls = 2 then reactF2 s n ipTable entry
  else if cls = 3 then reactF3 s n
  else if cls = 4 then reactF4 s
  else s

/-- A real assertion. -/
def fault (s : State) (n : Nat) : State := assertWith s n false false 0

/-- The condition of a level source becomes true: a real assertion at its rise (R447, R468). -/
def condOn (s : State) (n : Nat) : State :=
  if (srcOf s n).cond then s else fault (modSrc s n fun x => { x with cond := true }) n

/-- A real assertion while the core is held: AO-safety latches it, with the F4 latch or the targets of an F3; the
core has nothing to isolate, to log or to interrupt with (R28, R30, R461). -/
def latchHeld (s : State) (n : Nat) : State :=
  let cls := clsOf s n
  let s := latchFault s n cls false
  if cls = 4 then (setSafeN s false).modFs fun f => { f with f4 := true }
  else if cls = 3 then s.modFs fun f =>
    { f with f3 := (f3Targets n).foldl (fun l t => if l.contains (t, n) then l else l ++ [(t, n)]) f.f3 }
  else s

/-- A real assertion of a source that AO-safety detects, the core held or not (R461). -/
def aoFault (s : State) (n : Nat) : State := if held s then latchHeld s n else fault s n

/-- The same for a level source, at the rise of its condition. -/
def aoOn (s : State) (n : Nat) : State :=
  if (srcOf s n).cond then s else aoFault (modSrc s n fun x => { x with cond := true }) n

/-- The deepen range of this device overlaps one of a lower position (R429). -/
def rangesMeet (s : State) : Bool :=
  s.sk.config == 2 && (deepRanges s).any fun r =>
    decide (r.pos < pos s) && decide (s.sk.first < r.first + r.count) && decide (r.first < s.sk.first + s.sk.count)

/-- FS132 follows the ranges (R429). -/
def checkRanges (s : State) : State :=
  let o := rangesMeet s
  let s := s.modSk fun x => { x with overlap := o }
  if o then condOn s 132 else condOff s 132

end Sys2Proof.Machine
end

