-- ==== Sys2Proof/Machine/HostLink.lean ====
section
/-! DEFINITION. The host link below the queues: training, flits and replay, link loss, window 0 and
window 1, events, quiesce (chapter 2). -/

namespace Sys2Proof.Machine

/-- Update of every queue. -/
def eachQue (s : State) (f : Nat → Queue → Queue) : State :=
  (List.range 128).foldl (fun s i => modQue s i (f i)) s

/-- A frame of a host queue takes the name it keeps while its queue is stopped (R90). -/
def keepName (f : EgFrame) : EgFrame :=
  match f.src with
  | .host q idx => if q < 64 then { f with src := .host (192 + q) idx } else f
  | _ => f

def keepPort (s : State) (p : Nat) : State :=
  modPrt s p fun x =>
    { x with eg := x.eg.map keepName, line := x.line.map (fun l => { l with frame := keepName l.frame }),
             susp := x.susp.map fun l => { l with frame := keepName l.frame } }

/-- The ports of a staged frame on which it has not started drop it (Table 2-11, R442, R443). -/
def dropUnstarted (s : State) (q : Nat) (r : TxRec) : State :=
  (ones r.todo).foldl (fun s p =>
    if started s q r.idx p then s
    else settle (modPrt s p fun x => { x with eg := x.eg.filter fun f => !mine q r.idx f }) q r.idx p .dropped) s

/-- A talker frame of an ACTIVE or alone twin whose launch lies beyond the overlap limit of the entry into DETACHED
(R443). -/
def beyondOverlap (s : State) (r : TxRec) : Bool :=
  s.tw.on && (s.tw.role == 1 || s.tw.role == 4) && (descHandle r.desc).isSome && descLaunch r.desc &&
    decide (s.hl.detachedTime + s.tw.overlap * 65536 < r.launch)

/-- On entry into DETACHED a queue forgets its descriptors; its staged parisons are still sent in
their windows, or discarded but for those that have started (R90, R443, Table 2-11). -/
def keepParisons (s : State) (q : Nat) : State :=
  let s := (que s q).recs.foldl (fun s r => match r.phase with
    | .staged => if s.hl.detach.getLsbD 0 || beyondOverlap s r then dropUnstarted s q r else s
    | .done _ => s
    | _ => endRec s q r.idx 6) s
  let kept := (que s q).recs.filter (·.phase == .staged)
  if kept.isEmpty then s else modQue s (192 + q) fun u => { u with recs := u.recs ++ kept }

/-- Every queue stops with ERR 5 (Table 2-20 step 3, R89). -/
def stopAll (s : State) : State :=
  raiseEvent (eachQue s fun _ u => { u with stopped := true, err := 5, reading := false }) 126

/-- Stamps leave their port's FIFO with the write-back (R80). -/
def freeStamps (s : State) (ports : Nat) : State :=
  ([0, 1, 2, 3, 4, 5].filter (bitN ports)).foldl (fun s p => modPrt s p fun x => { x with fifo := x.fifo - 1 }) s

/-- The stamps of every write-back of a queue that will not be written leave their FIFOs (R80, R89). -/
def dropStamps (s : State) (i : Nat) : State :=
  let u := que s i
  let s := if u.stamped then u.recs.foldl (fun s r => freeStamps s (ofBits 6 (r.stamps.map (·.port))).toNat) s else s
  u.wbs.foldl (fun s w => freeStamps s (by_ w.record 2)) s

/-- DETACHED is entered: parisons follow PARISON_POLICY, queues forget their descriptors, and
DMA_ENABLE reads 0 (R90, R91, Table 2-11). -/
def enterDetached (s : State) : State :=
  if s.hl.state = lsDetached then s else
  let s := s.modHl fun l => { l with detachedAt := s.clock, detachedTime := now80 s }
  let s := (List.range 64).foldl keepParisons ((List.range 128).foldl dropStamps s)
  let s := [0, 1, 2, 3, 4, 5].foldl keepPort s
  let s := eachQue s fun _ u => { u with recs := [], bufs := [], wbs := [], closing := false }
  let s := s.modHl fun l =>
    { l with holdOver := false, dmaSaved := l.ctrl.getLsbD 0, ctrl := setBit l.ctrl 0 false }
  setLinkState s lsDetached

/-- Header of a DMRD (Table 2-2). -/
def dmrdHdr (d : Dmrd) : Bytes := msgHeader 0x12 0 d.tag d.len 0 (d.addr % 2 ^ 32) (d.addr / 2 ^ 32 % 2 ^ 32)

/-- A DMRD has timed out: it is noted, and its tag stays out of use for twice HL_CPL_TIMEOUT (R60, R66). -/
def timedOut (s : State) (d : Dmrd) : State :=
  let till := s.clock + 2 * s.hl.cplTimeout.toNat * 50000
  fault (setFlag (noteErr (s.modHl fun l => { l with deadTags := l.deadTags ++ [(d.tag, till)] }) (dmrdHdr d)) 9) 50

/-- Every outstanding DMRD is treated as timed out at once (R66, R89). -/
def killDmrds (s : State) : State := s.hl.dmrds.foldl timedOut (s.modHl fun l => { l with dmrds := [] })

/-- The flit layer after the link has gone down: nothing is held, owed or waiting, and the next training
is a new link-up. -/
def linkDown (l : Link) : Link :=
  { l with trained := false, training := false, rate := 0, width := 0, half := 0, asked := false, waiting := [],
           evWait := 0, replay := [], nakDue := false, txSeq := 0, rxSeq := 0, rxAny := false, rxBad := false,
           rxPart := [], rtP := 0, rtPD := 0, rtNP := 0, rtLM := 0, anew := true, leaving := false }

/-- The flit layer starts anew with the next training. -/
def linkFresh (s : State) : State := (s.modHl linkDown).modPads fun p => { p with ucieTx := 0 }

/-- The link is declared lost (R53, R54, R89). -/
def declareLost (s : State) : State :=
  let s := (linkFresh s).modHl fun l => { l with losses := l.losses + 1, lossTold := false }
  let s := count s cDev 7
  let s := killDmrds s
  let s := match s.hl.detachVia with
    | some v =>
      let s := s.modHl fun l => { l with detachVia := none }
      match s.mb.taken.find? (fun r => r.via == v && r.opcode == 0x00C0) with
      | some r => respondWith s r stOk false []
      | none => s
    | none => s
  let s := enterDetached (stopAll s)
  let s := if s.hl.hostLost then s else raiseEvent (s.modHl fun l => { l with hostLost := true }) 126
  condOn s 52

/-- UCIE_PHY_READY: link training may proceed (Table 1-10 step 8). -/
def execUciePhyReady (s : State) : Host.Outcome State Fault Refusal :=
  run s fun s => s.modPw fun p => { p with ucieReady := true }

/-- LINK_TRAINING_START (R48). -/
def execLinkTrainingStart (s : State) : Host.Outcome State Fault Refusal :=
  run s fun s =>
    if !s.pw.ucieReady || s.hl.training then s else
    let first := !s.hl.everTrained
    let s := (s.modPads fun p => { p with ucieTx := 1 }).modHl fun l =>
      { l with trained := false, training := true, rate := 0, width := 0, half := 0, everTrained := true,
               retrains := if first then l.retrains else BitVec.ofNat 16 (satAdd 65535 l.retrains.toNat 1) }
    if s.hl.state = lsQuiescing ∨ s.hl.state = lsDetached then s
    else setLinkState s (if first then lsTraining else lsRetrain)

/-- The grants of Table 2-5 at a link-up. -/
def grant (l : Link) : Link :=
  { l with crP := 16, crPD := 32, crNP := 32, crLM := 4, gvP := 32, gvPD := 64, gvNP := 64, gvLM := 4, anew := false }

/-- A link-management message waits to be sent. -/
def lmWaits (s : State) : Bool := s.hl.waiting.any fun x => x.cls == .linkMgmt

/-- The DETACH_NOTICE of a detach has left: LINK_STATE becomes DETACHED and the adapter takes the link down
(Table 2-20 step 5). -/
def leave (s : State) : State :=
  if s.hl.leaving && !lmWaits s then emit (linkFresh (enterDetached s)) (.adapter false) else s

/-- LINK_TRAINING_COMPLETE (R48, R61, R91): a link-up grants the credits of Table 2-5; a retraining of a
link that was not lost keeps credits, numbers and held flits (log entry 133). -/
def execLinkTrainingComplete (rate : Fin 4) (half : Fin 3) (s : State) : Host.Outcome State Fault Refusal :=
  run s fun s =>
    if !s.hl.training then s else
    let s := (s.modPads fun p => { p with ucieTx := 2 }).modHl fun l =>
      { (if l.anew then grant l else l) with
        trained := true, training := false, asked := false, rate := BitVec.ofNat 8 (4 * (rate.val + 1)),
        width := if half.val = 0 then 16 else 8, half := BitVec.ofNat 2 half.val,
        replay := l.replay.map fun f => { f with replays := 0 } }
    let s := if s.hl.state = lsQuiescing ∨ s.hl.state = lsDetached then s else setLinkState s lsActive
    let s := if s.hl.lossTold then s else sendLm (s.modHl fun l => { l with lossTold := true }) 2 s.hl.losses
    leave (pump s)

/-- Flits up to and with a sequence number are acknowledged. -/
def ackReplay (s : State) (seq : BitVec 12) : State :=
  match findIx (fun x : HeldFlit => x.seq == seq) s.hl.replay with
  | some (i, _) => s.modHl fun l => { l with replay := l.replay.drop (i + 1) }
  | none => s

/-- A NAK names the expected sequence: what lies before it is acknowledged and the rest replayed; at
the fourth replay in succession of one flit, retraining is requested (R52, R53). -/
def takeNak (s : State) (seq : BitVec 12) : State :=
  let s := ackReplay s (seq - 1)
  if s.hl.replay.isEmpty then s else
  let s := s.hl.replay.foldl (fun s x => emit s (.flit x.flit)) s
  let s := count (s.modHl fun l => { l with replay := l.replay.map fun f => { f with replays := f.replays + 1 } }) cDev 6
  if !s.hl.asked && s.hl.replay.any (fun f => decide (4 ≤ f.replays)) then
    let s := emit (s.modHl fun l => { l with asked := true }) (.adapter true)
    fault (setFlag s 10) 53
  else s

/-- NAK_RECEIVE (R52). -/
def execNakReceive (seq : BitVec 12) (s : State) : Host.Outcome State Fault Refusal :=
  run s fun s => if s.hl.trained then leave (pump (takeNak s seq)) else s

/-- RETRAIN_TIMEOUT (R53). -/
def execRetrainTimeout (s : State) : Host.Outcome State Fault Refusal :=
  run s fun s => if s.hl.asked then declareLost s else s

/-- NULL_FLIT_SEND (R54). -/
def execNullFlitSend (s : State) : Host.Outcome State Fault Refusal :=
  run s fun s => if s.hl.trained then sendNull s else s

/-- FLIT_RECEIVE_TIMEOUT (R54). -/
def execFlitReceiveTimeout (s : State) : Host.Outcome State Fault Refusal :=
  run s fun s => if s.hl.trained then declareLost s else s

/-- ADAPTER_LINK_DOWN (R89). The model's choice (log entry 200): a link that retrains after it was active is lost
by the report too. -/
def execAdapterLinkDown (s : State) : Host.Outcome State Fault Refusal :=
  run s fun s =>
    if s.hl.trained || (s.hl.training && (s.hl.state == lsRetrain || s.hl.state == lsQuiescing)) then declareLost s else s

/-- A message is malformed (R58). -/
def malformed (s : State) (hdr : Bytes) : State :=
  fault (setFlag (noteErr (count s cDev 8) hdr) 7) 48

/-- A failed read was answered (R66); it is no poisoned message, so HL_ERR does not take it (Table 2-8). -/
def readFailed (s : State) : State := fault (setFlag s 8) 49

/-- A poisoned message was received (R66, Table 2-8). -/
def poisonSeen (s : State) (hdr : Bytes) : State := readFailed (noteErr s hdr)

/-- The 16 header bytes of a window request. -/
def winHdr (ty : Nat) (m : WinMsg) : Bytes :=
  toLe 1 ty ++ toLe 1 m.attr.toNat ++ toLe 2 m.tag.toNat ++ toLe 2 m.length.toNat ++ toLe 2 m.resv6.toNat ++
    toLe 4 m.offset.toNat ++ toLe 1 m.window.toNat ++ toLe 3 m.resv13.toNat

/-- A window request is malformed; a write carries no tag (Table 2-2, R58). -/
def winMalformed (write : Bool) (m : WinMsg) : Bool :=
  m.attr.toNat ≥ 4 || m.resv6 != 0 || m.resv13 != 0 || m.length.toNat < 4 || m.length.toNat > 64 ||
  m.length.toNat % 4 != 0 || (if write then m.tag != 0 else m.tag.toNat ≥ 1024)

/-- Window, size and alignment of an access are legal for its region (Table 2-3, R56, R68, R81). -/
def winLegal (m : WinMsg) : Bool :=
  let n := m.length.toNat; let o := m.offset.toNat
  if m.window = 0 then
    o + n ≤ 0x10000 && (if o ≥ 0x8000 then o % 4 == 0 else (n == 4 || n == 8) && o % n == 0)
  else m.window = 1 && o % 4 == 0 && o + n ≤ 0x80000

/-- A register's domain is held in reset: queue registers in PD48, state buffers in PD30 + s, from the first
byte to the last (R56, R133). The model's choice (log entry 196): no reset bars a read of the timestamp records,
which show zeros while PD48 is off. -/
def winHeld (s : State) (m : WinMsg) : Bool :=
  let o := m.offset.toNat
  if m.window = 0 then ((0x1000 ≤ o && o < 0x1400) || (0x2000 ≤ o && o < 0x3000)) && !on s 48
  else [o, o + m.length.toNat - 1].any fun a => a < 0x40000 && !on s (30 + a / 0x4000)

/-- Reset byte of window 1 (Table 10-15). -/
def win1Reset (a : Nat) : Byte :=
  if a < 0x40000 then
    let o := a % 0x4000
    if 0x1000 ≤ o ∧ o < 0x2000 then (if o % 0x80 = 5 then 2 else if o % 0x80 = 14 then 3 else 0) else 0
  else 0

/-- Queue index of a configuration or doorbell offset: TXQq at q, RXQq at 64 + q. -/
def queOff (o : Nat) : Nat := if o < 0x2000 then (o - 0x1000) / 8 else (o - 0x2000) / 32

/-- Event vector of a queue (Table 2-13). -/
def queVec (s : State) (i : Nat) : Nat :=
  match (que s i).vector with
  | some v => v.toNat
  | none => i / 2

/-- CTRL of a queue as read (Table 2-13). -/
def ctrlRead (s : State) (i : Nat) : Nat :=
  let u := que s i
  b1 u.enable * 2 ^ 31 + b1 u.stamped * 2 ^ 30 + b1 u.stopped * 2 ^ 29 + (u.slot.getD 0) * 2 ^ 24 + u.err.toNat * 2 ^ 20 +
    (if i < 64 then u.defLate.toNat * 2 ^ 13 else 0) + queVec s i

/-- HL_STATUS (Table 2-9). -/
def hlStatus (s : State) : Nat :=
  s.hl.flags.toNat * 128 + b1 s.fs.f4 * 64 + b1 s.hl.fwReady * 32 + b1 s.hl.hostLost * 16 + s.hl.state.toNat

/-- The 32-bit word of window 0 at a word offset below 0x8000 (Table 2-8). -/
def reg0 (s : State) (o : Nat) : Nat :=
  let l := s.hl
  if o = 0 then 0x08600000 + Config.siliconRevision.toNat * 256 + 1
  else if o = 4 then hlStatus s
  else if o = 8 then l.ctrl.toNat
  else if o = 0xC then l.rate.toNat + l.width.toNat * 256 + l.half.toNat * 8192 + l.retrains.toNat * 65536
  else if o = 0x10 then l.cplTimeout.toNat
  else if o = 0x14 then l.detach.toNat
  else if o = 0x18 then l.err.toNat % 2 ^ 32
  else if o = 0x1C then l.err.toNat / 2 ^ 32
  else if 0x100 ≤ o ∧ o < 0x110 then l.evMask.toNat / 2 ^ (8 * (o - 0x100)) % 2 ^ 32
  else if 0x110 ≤ o ∧ o < 0x120 then l.evPend.toNat / 2 ^ (8 * (o - 0x110)) % 2 ^ 32
  else if 0x200 ≤ o ∧ o < 0x240 then
    let n := (o - 0x200) / 16
    let c := mbox s n
    if o % 16 = 4 then c.lastTag.toNat * 65536 + c.lastStatus.toNat * 256 + b1 c.overwrite * 16 + c.state.toNat
    else if o % 16 = 8 then (if n = 0 then 1 else if n = 3 then 5 else 3) * 65536 + 4080
    else 0
  else if 0x400 ≤ o ∧ o < 0x500 then
    let v := (o - 0x400) / 2
    let h (v : Nat) : Nat := (tget (fun _ => (0 : BitVec 16)) l.evHoldoff v).toNat
    h v + h (v + 1) * 65536
  else if 0x1000 ≤ o ∧ o < 0x1400 then (if o % 8 = 0 then (que s (queOff o)).tail.toNat else 0)
  else if 0x2000 ≤ o ∧ o < 0x3000 then
    let u := que s (queOff o)
    match o % 32 with
    | 0 => u.base.toNat % 2 ^ 32
    | 4 => u.base.toNat / 2 ^ 32
    | 8 => u.size.toNat
    | 12 => ctrlRead s (queOff o)
    | 16 => u.head.toNat
    | 20 => u.wb.toNat
    | _ => 0
  else 0

/-- `n` 4-byte words of window 0 registers. -/
def regs0 (s : State) (o : Nat) : Nat → Bytes
  | 0 => []
  | n + 1 => toLe 4 (reg0 s o) ++ regs0 s (o + 4) n

/-- What a window read returns. -/
def winRead (s : State) (m : WinMsg) : Bytes :=
  let o := m.offset.toNat; let n := m.length.toNat
  if m.window = 0 then (if o ≥ 0x8000 then mread win0Reset s.win0 o n else regs0 s o (n / 4))
  else mread win1Reset s.win1 o n

/-- The stamping slots that enabled queues of one direction hold (R82). -/
def slotsHeld (s : State) (rx : Bool) : List Nat :=
  (List.range 64).filterMap fun q => (que s (q + if rx then 64 else 0)).slot

/-- A queue starts, or keeps ENABLE 0 with ERR 4 or 3 (R69, R82). -/
def queueStart (s : State) (i : Nat) : State :=
  let u := que s i
  let n := u.size.toNat
  if u.base.toNat % 4096 ≠ 0 ∨ !([16, 32, 64, 128, 256, 512, 1024, 2048, 4096].contains n) then
    modQue s i fun u => { u with err := 4 }
  else if u.tail.toNat ≥ n then modQue s i fun u => { u with err := 3 }
  else
    let busy := slotsHeld s (64 ≤ i)
    let slot := if u.stamped then (List.range 8).find? (fun k => !busy.contains k) else none
    modQue s i fun u => { u with enable := true, err := 0, stopped := false, slot := slot }

/-- Queues of one direction with STAMPED set (R71). -/
def stampedCount (s : State) (rx : Bool) : Nat :=
  ((List.range 64).filter fun q => (que s (q + if rx then 64 else 0)).stamped).length

/-- STAMPED written (R68 and R71): ignored while enabled, refused on a ninth queue. -/
def stampSet (s : State) (i : Nat) (want : Bool) : State :=
  let u := que s i
  if u.enable || u.stamped == want then s
  else if want && stampedCount s (64 ≤ i) ≥ 8 then setFlag s 11
  else modQue s i fun u => { u with stamped := want }

/-- CTRL written (Table 2-13, R69–R71). -/
def ctrlWrite (s : State) (i v : Nat) : State :=
  let vec := v % 128
  let s := if vec < 120 then modQue s i fun u =>
      { u with vector := if vec = i / 2 then none else some (BitVec.ofNat 7 vec) } else s
  let s := if i < 64 then modQue s i fun u => { u with defLate := BitVec.ofNat 2 (bitsN v 14 13) } else s
  let s := stampSet s i (bitN v 30)
  let u := que s i
  if bitN v 31 && !u.enable then queueStart s i
  else if !bitN v 31 && u.enable then modQue s i fun u => { u with closing := true }
  else s

/-- Queue registers take writes: PD48 ENABLED and ATTACH accepted since any DETACHED (R91, R133). -/
def queuesOpen (s : State) : Bool := on s 48 && s.hl.state != lsDetached

/-- A queue stops on an error; what it has read and not fetched is FLUSHED (R72, R524). -/
def stopQueue (s : State) (i : Nat) (err : BitVec 4) : State :=
  raiseEvent (modQue s i fun u =>
    { u with stopped := true, err := err,
             recs := u.recs.map fun r => if r.phase = .read then { r with phase := .done 6, todo := 0 } else r }) 126

/-- A doorbell written (R69, R72). -/
def tailWrite (s : State) (i v : Nat) : State :=
  let s := modQue s i fun u => { u with tail := BitVec.ofNat 12 v }
  let u := que s i
  if u.enable && !u.stopped && !u.closing && u.tail.toNat ≥ u.size.toNat then stopQueue s i 3 else s

/-- A word of a queue configuration block written (Table 2-12). -/
def queWrite (s : State) (i o v : Nat) : State :=
  let u := que s i
  if o = 0 ∧ !u.enable then modQue s i fun u => { u with base := BitVec.ofNat 64 (u.base.toNat / 2 ^ 32 * 2 ^ 32 + v) }
  else if o = 4 ∧ !u.enable then modQue s i fun u => { u with base := BitVec.ofNat 64 (u.base.toNat % 2 ^ 32 + v * 2 ^ 32) }
  else if o = 8 ∧ !u.enable then modQue s i fun u => { u with size := BitVec.ofNat 13 v }
  else if o = 12 then ctrlWrite s i v
  else s

/-- HL_CTRL written; while DETACHED DMA_ENABLE is recorded for ATTACH (Table 2-10, R91). -/
def hlCtrlSet (s : State) (v : Nat) : State :=
  let kept := BitVec.ofNat 32 v &&& 0x3C007
  if s.hl.state = lsDetached then
    s.modHl fun l => { l with ctrl := setBit kept 0 false, dmaSaved := bitN v 0 }
  else pump (s.modHl fun l => { l with ctrl := kept })

/-- W1C bits of HL_STATUS written (Table 2-9). -/
def hlStatusW1c (s : State) (v : Nat) : State :=
  let b := bitsN v 11 7
  if b = 0 then s
  else s.modHl fun l => { l with flags := l.flags &&& ~~~ BitVec.ofNat 5 b, err := 0, errHeld := false }

/-- EV_MASK[w] written; a vector unmasked while pending sends its EVT (R87). -/
def evMaskSet (s : State) (w v : Nat) : State :=
  let vs := (List.range 32).map (32 * w + ·)
  let was := s.hl.evMask
  let s := s.modHl fun l => { l with evMask := vs.foldl (fun m i => setBit m i (bitN v (i - 32 * w))) l.evMask }
  vs.foldl (fun s i =>
    if was.getLsbD i && !s.hl.evMask.getLsbD i && s.hl.evPend.getLsbD i then evtTry s i else s) s

/-- EV_PEND[w] written: each 1 clears its bit, which is set again where an event followed the
reference instant (R86). -/
def evPendW1c (s : State) (w v : Nat) : State :=
  (List.range 32).foldl (fun s k =>
    let i := 32 * w + k
    if bitN v k && s.hl.evPend.getLsbD i then
      let again := s.hl.evAgain.getLsbD i
      let s := s.modHl fun l =>
        { l with evPend := setBit l.evPend i false, evWait := setBit l.evWait i false, evAgain := setBit l.evAgain i false }
      if again then raiseEvent s i else s
    else s) s

/-- POST on a channel (Table 3-7). -/
def post (s : State) (n : Nat) : State :=
  let c := mbox s n
  if c.state = 1 ∨ c.state = 4 then
    let t := recvTime s
    modMbox s n fun c => { c with state := 2, at_ := t }
  else s

/-- ACK on a channel (Table 3-7). -/
def ack (s : State) (n : Nat) : State :=
  if (mbox s n).state = 4 then modMbox s n fun c => { c with state := 1 } else s

/-- ABANDON on a channel (Table 3-7). -/
def abandon (s : State) (n : Nat) : State :=
  if (mbox s n).state = 2 then modMbox s n fun c => { c with state := 1 } else s

/-- MBn_DOORBELL written: only the highest-numbered bit acts (R99). -/
def doorbell (s : State) (n v : Nat) : State :=
  if bitN v 2 then abandon s n else if bitN v 1 then ack s n else if bitN v 0 then post s n else s

/-- One word written to a window 0 register. -/
def reg0Write (s : State) (o v : Nat) : State :=
  if o = 4 then hlStatusW1c s v
  else if o = 8 then hlCtrlSet s v
  else if o = 0x10 then
    let t := v % 65536
    if 1 ≤ t ∧ t ≤ 1000 then s.modHl fun l => { l with cplTimeout := BitVec.ofNat 16 t } else s
  else if o = 0x14 then s.modHl fun l => { l with detach := BitVec.ofNat 32 v &&& 0xFFFF0003 }
  else if 0x100 ≤ o ∧ o < 0x110 then evMaskSet s ((o - 0x100) / 4) v
  else if 0x110 ≤ o ∧ o < 0x120 then evPendW1c s ((o - 0x110) / 4) v
  else if 0x200 ≤ o ∧ o < 0x240 then
    let n := (o - 0x200) / 16
    if o % 16 = 0 then doorbell s n v
    else if o % 16 = 4 ∧ bitN v 4 then modMbox s n fun c => { c with overwrite := false }
    else s
  else if 0x400 ≤ o ∧ o < 0x500 then
    let i := (o - 0x400) / 2
    s.modHl fun l =>
      let t := tset (fun _ => (0 : BitVec 16)) l.evHoldoff i (BitVec.ofNat 16 v)
      { l with evHoldoff := tset (fun _ => (0 : BitVec 16)) t (i + 1) (BitVec.ofNat 16 (v / 65536)) }
  else if 0x1000 ≤ o ∧ o < 0x1400 then (if o % 8 = 0 && queuesOpen s then tailWrite s (queOff o) v else s)
  else if 0x2000 ≤ o ∧ o < 0x3000 then (if queuesOpen s then queWrite s (queOff o) (o % 32) v else s)
  else s

/-- Bytes written to the mailbox buffers: a request buffer in POSTED or RUNNING discards them and
sets OVERWRITE (R101). -/
def bufWrite (s : State) (o : Nat) : Bytes → State
  | [] => s
  | b :: bs =>
    let n := (o - 0x8000) / 0x2000
    let busy := (o - 0x8000) % 0x2000 < 0x1000 && ((mbox s n).state == 2 || (mbox s n).state == 3)
    let s := if busy then modMbox s n fun c => { c with overwrite := true }
      else s.setWin0 (tset win0Reset s.win0 o b)
    bufWrite s (o + 1) bs

/-- Words written to window 0 registers, lowest offset first. -/
def regsWrite (s : State) (o : Nat) : List Bytes → State
  | [] => s
  | w :: ws => regsWrite (reg0Write s o (leNat w)) (o + 4) ws

/-- Bytes of window 1 that the host writes: the OUT buffers of the segments but for their reserved bytes
5–15 (R81, R394, Table 10-15). -/
def outByte (a : Nat) : Bool :=
  decide (a < 0x40000) && decide (a % 0x4000 < 0x1000) && !(decide (5 ≤ a % 0x80) && decide (a % 0x80 ≤ 15))

/-- A legal window write lands: host writes of window 1 reach OUT buffers only, and none while
DETACHED (R81, R394, R399). -/
def winWrite (s : State) (m : WinMsg) : State :=
  let o := m.offset.toNat
  if m.window = 0 then (if o ≥ 0x8000 then bufWrite s o m.data else regsWrite s o (chunks 4 m.data))
  else if s.hl.state != lsDetached then
    s.setWin1 ((idxd m.data).foldl (fun w x => if outByte (o + x.1) then tset win1Reset w (o + x.1) x.2 else w) s.win1)
  else s

/-- A window write message, its credits taken and returned (R61, R66, R68). -/
def takeMwr (s : State) (m : WinMsg) : State :=
  let n := (m.length.toNat + 63) / 64
  let s := s.modHl fun l => { l with gvP := l.gvP - 1, gvPD := l.gvPD - n, rtP := l.rtP + 1, rtPD := l.rtPD + n }
  let h := winHdr 1 m
  if winMalformed true m then malformed s h
  else if m.attr.getLsbD 0 then poisonSeen s h
  else if winLegal m && !winHeld s m then winWrite s m
  else s

/-- MWR (R68). -/
def execMwr (m : WinMsg) (s : State) : Host.Outcome State Fault Refusal :=
  run s fun s => if s.hl.trained then takeMwr s m else s

/-- A window read message and its completion (R56, R57). The model's choice (log entry 134): one with
POISON sets POISON_SEEN and is answered as if it had none. -/
def takeMrd (s : State) (m : WinMsg) : State :=
  let s := s.modHl fun l => { l with gvNP := l.gvNP - 1, rtNP := l.rtNP + 1 }
  let h := winHdr 2 m
  if winMalformed false m then malformed s h else
  let s := if m.attr.getLsbD 0 then poisonSeen s h else s
  if !winLegal m then sendMsg s (msgHeader 4 0 m.tag.toNat 0 1 0 0)
  else if winHeld s m then sendMsg s (msgHeader 4 0 m.tag.toNat 0 2 0 0)
  else sendMsg s (msgHeader 3 0 m.tag.toNat m.length.toNat 0 0 0 ++ winRead s m)

/-- MRD (R56). -/
def execMrd (m : WinMsg) (s : State) : Host.Outcome State Fault Refusal :=
  run s fun s => if s.hl.trained then takeMrd s m else s

/-- The credit of a link-management message taken and owed again (R61). -/
def lmCredit (s : State) : State := s.modHl fun l => { l with gvLM := l.gvLM - 1, rtLM := l.rtLM + 1 }

/-- HOST_QUIESCE taken (R522). -/
def takeQuiesce (s : State) : State :=
  if s.hl.state = lsActive ∨ s.hl.state = lsQuiescing then
    let s := s.modHl fun l =>
      { l with quiesce := true, evWait := 0, waiting := l.waiting.filter fun x => x.cls != .posted }
    setLinkState s lsQuiescing
  else s

/-- HOST_QUIESCE (R522). -/
def execHostQuiesce (s : State) : Host.Outcome State Fault Refusal :=
  run s fun s => if s.hl.trained then leave (pump (takeQuiesce (lmCredit s))) else s

/-- HL_CTRL_WRITE (R523). -/
def execHlCtrlWrite (v : BitVec 32) (s : State) : Host.Outcome State Fault Refusal :=
  run s fun s => hlCtrlSet s v.toNat

/-- HL_STATUS_CLEAR (R68). -/
def execHlStatusClear (v : BitVec 32) (s : State) : Host.Outcome State Fault Refusal :=
  run s fun s => hlStatusW1c s v.toNat

/-- EV_MASK_WRITE (R87). -/
def execEvMaskWrite (word : Fin 4) (v : BitVec 32) (s : State) : Host.Outcome State Fault Refusal :=
  run s fun s => evMaskSet s word.val v.toNat

/-- EV_PEND_CLEAR (R86). -/
def execEvPendClear (word : Fin 4) (v : BitVec 32) (s : State) : Host.Outcome State Fault Refusal :=
  run s fun s => evPendW1c s word.val v.toNat

/-- EV_HOLDOFF_EXPIRY (R85). -/
def execEvHoldoffExpiry (vec : Fin 128) (s : State) : Host.Outcome State Fault Refusal :=
  run s fun s =>
    let v := vec.val
    if !s.hl.evWait.getLsbD v then s
    else if s.hl.evPend.getLsbD v && !s.hl.evMask.getLsbD v && s.hl.ctrl.getLsbD 1 && outboundOk s then evtNow s v
    else s.modHl fun l => { l with evWait := setBit l.evWait v false }

/-- TXQ_TAIL_WRITE (R72). -/
def execTxqTailWrite (q : Fin 64) (v : BitVec 32) (s : State) : Host.Outcome State Fault Refusal :=
  run s fun s => if queuesOpen s then tailWrite s q.val v.toNat else s

/-- RXQ_TAIL_WRITE (R72). -/
def execRxqTailWrite (q : Fin 64) (v : BitVec 32) (s : State) : Host.Outcome State Fault Refusal :=
  run s fun s => if queuesOpen s then tailWrite s (64 + q.val) v.toNat else s

/-- Index of a queue in the state. -/
def queIx (d : Dir) (q : Nat) : Nat :=
  match d with
  | .tx => q
  | .rx => 64 + q

/-- QUEUE_ENABLE (R69). -/
def execQueueEnable (d : Dir) (q : Fin 64) (v : BitVec 32) (s : State) : Host.Outcome State Fault Refusal :=
  run s fun s => if queuesOpen s then ctrlWrite s (queIx d q.val) v.toNat else s

/-- QUEUE_DISABLE (R70). -/
def execQueueDisable (d : Dir) (q : Fin 64) (v : BitVec 32) (s : State) : Host.Outcome State Fault Refusal :=
  run s fun s => if queuesOpen s then ctrlWrite s (queIx d q.val) v.toNat else s

/-- STAMPED_WRITE (R71). -/
def execStampedWrite (d : Dir) (q : Fin 64) (v : BitVec 32) (s : State) : Host.Outcome State Fault Refusal :=
  run s fun s => if queuesOpen s then ctrlWrite s (queIx d q.val) v.toNat else s

/-- HOLD_LIMIT_EXPIRY: while DETACHED the segments turn to safe values at their next cycle start (R399). -/
def execHoldLimitExpiry (s : State) : Host.Outcome State Fault Refusal :=
  run s fun s =>
    if s.hl.state = lsDetached ∧ s.hl.detach.toNat / 65536 ≠ 0 then s.modHl fun l => { l with holdOver := true } else s

/-- POST (R100). -/
def execPost (n : Fin 4) (s : State) : Host.Outcome State Fault Refusal := run s fun s => post s n.val

/-- ACK (R100). -/
def execAck (n : Fin 4) (s : State) : Host.Outcome State Fault Refusal := run s fun s => ack s n.val

/-- ABANDON (R100). -/
def execAbandon (n : Fin 4) (s : State) : Host.Outcome State Fault Refusal := run s fun s => abandon s n.val

end Sys2Proof.Machine
end

