-- ==== Sys2Proof/Machine/Command.lean ====
section
/-! DEFINITION. Xiond requests: taking them, the checks of R105 in their order, and answering; with
PING, GET_INFO, DETACH and ATTACH (chapter 3). -/

namespace Sys2Proof.Machine

/-- The opcodes of Tables 3-17 to 3-19. -/
def opcodes : List Nat :=
  [0x01, 0x02, 0x10, 0x11, 0x20, 0x21, 0x22, 0x30, 0x31, 0x32, 0x38, 0x39, 0x40, 0x41, 0x42, 0x50, 0x51, 0x52, 0x53,
   0x58, 0x59, 0x60, 0x61, 0x62, 0x63, 0x70, 0x71, 0x80, 0x81, 0x82, 0x83, 0x88, 0x89, 0x90, 0x91, 0x92, 0xA0, 0xA1,
   0xA2, 0xA3, 0xB0, 0xB1, 0xC0, 0xC1, 0xC2]

/-- Opcodes of one service right (Table 13-10). -/
def rightOps (bit : Nat) : List Nat :=
  match bit with
  | 0 => [0x01, 0x02, 0x10, 0x21, 0x39, 0x42, 0x50, 0x53, 0x58, 0x60, 0x71, 0x81, 0x88, 0x92, 0xB0, 0xB1]
  | 1 => [0x11, 0x20, 0x22, 0x30, 0x31, 0x32, 0x38, 0x59, 0x52]
  | 2 => [0x40, 0x41]
  | 3 => [0x61, 0x62, 0x63, 0x70]
  | 4 => [0x90, 0x91]
  | 5 => [0xA0, 0xA1, 0xA2, 0xA3]
  | 6 => [0x51]
  | 7 => [0x80, 0x82, 0x83, 0x89]
  | _ => []

/-- SEC_PROT byte 0 flag (Table 13-5). -/
def protFlag (s : State) (i : Nat) : Bool := cfgBit s 0x0A000001 0 i

/-- Rights in force of a session: SEC_SVC within SERVICE_RIGHTS_MAX (R499). -/
def rightsOf (s : State) (k : Nat) : Nat := cfg s 0x0A030000 (4 * k) 1 &&& cfg s 0x0A000001 3 1

/-- The opcode is in the agent's list (Tables 3-1, 3-2, 13-6 and 13-10). -/
def opAllowed (s : State) (v : Via) (op : Nat) : Bool :=
  match v with
  | .mb n =>
    if n = 0 then [0xC2, 0xC0, 0x60].contains op
    else if n = 1 then op != 0xC2 && op != 0xC0
    else if n = 2 then [0x01, 0x02, 0x20, 0x21, 0x22, 0x90, 0x91, 0xA0, 0xA1, 0xA2, 0xA3].contains op
    else [0x01, 0x02, 0x10, 0x21, 0x39, 0x42, 0x50, 0x58, 0x60, 0x62, 0x70, 0x71, 0x81, 0x88, 0x92, 0xB0, 0xB1].contains op
  | .master _ => !([0xC2, 0xC0, 0xC1, 0x90, 0x91, 0xA0, 0xA1, 0xA2, 0xA3].contains op)
  | .partner _ => [0x01, 0x02, 0x30, 0x31, 0x81, 0x82].contains op
  | .session k => (List.range 8).any fun b => bitN (rightsOf s k) b && (rightOps b).contains op
  | .run => [0x51, 0x11, 0x90].contains op
  | .boot => op == 0x40

/-- KEY_AGENTS admits the agent (Table 13-6). -/
def keyAgent (s : State) (v : Via) : Bool :=
  match v with
  | .mb n => (n == 1 && cfgBit s 0x0A000001 2 0) || (n == 2 && cfgBit s 0x0A000001 2 1)
  | .session _ => cfgBit s 0x0A000001 2 2
  | _ => false

/-- Host loading serves the opcode on this channel (R475). -/
def loadServes (v : Via) (op : Nat) : Bool :=
  match v with
  | .mb n => op == 1 || op == 2 || (n == 2 && (op == 0xA0 || op == 0xA1 || op == 0xA2))
  | _ => false

/-- Step 6 of R105: ST_AUTH or ST_LOCKED. Host loading serves its opcodes on the channels that R475 names; the
image that it brings is not an update. -/
def authCheck (s : State) (v : Via) (op : Nat) : Option Nat :=
  if !opAllowed s v op && !(s.se.hostLoad && loadServes v op) then some stAuth
  else if (op = 0x90 ∨ op = 0x91) ∧ !keyAgent s v then some stAuth
  else if op = 0x62 ∧ protFlag s 3 then some stLocked
  else if 0xA0 ≤ op ∧ op ≤ 0xA3 ∧ protFlag s 6 ∧ !s.se.hostLoad then some stLocked
  else none

/-- What R125 serves while an F4 is latched. Of GROUP 0xF the model serves none but the two objects that R125
names whole (log entry 205). -/
def graveServed (op oid : Nat) : Bool :=
  [0x01, 0x02, 0x50, 0x60, 0x71, 0x81, 0x88, 0x92, 0xB0, 0xB1].contains op ||
  ((op == 0x10 || op == 0x21) &&
    (oid / 0x1000000 == 9 || oid == 0x0A000000 || oid == 0x0B110000 || oid == 0x0B120000 || oid == 0x0B020000))

/-- An ATTR_SET that withdraws the release of SAFE_N: RELEASE written 0, which is accepted in every state (R465). -/
def withdraws (r : Request) : Bool :=
  r.opcode == 0x11 && r.oid == 0x09000001 && bitN (le r.payload 0 4) 0 && by_ r.payload 4 == 0

/-- The instance has an attribute group. -/
def anyGroup (oid : Nat) : Bool :=
  (List.range 15).any fun g => match descOf (oid / 16 * 16 + g) with
    | some d => !d.table
    | none => false

/-- The instance has any group, table or counter block. -/
def anyObject (oid : Nat) : Bool :=
  (List.range 15).any fun g => (descOf (oid / 16 * 16 + g)).isSome || (counterBlock (oid / 16 * 16 + g)).isSome

/-- Step 8 of R105: the OID rules of R109. An undefined instance comes before GROUP 0xF (log entry 204). -/
def oidCheck (op oid : Nat) : Option (Nat × Bytes) :=
  let wrong := some (stRange, toLe 2 8)
  let unknown := some (stUnknown, ([] : Bytes))
  let d := descOf oid
  let c := counterBlock oid
  if oid % 16 = 15 ∧ [0x10, 0x11, 0x20, 0x21, 0x22, 0x38, 0x39, 0x70, 0x71].contains op then
    if !anyObject oid then unknown
    else if op = 0x10 ∧ anyGroup oid then none else wrong
  else if op = 0x10 ∨ op = 0x11 then
    match d with
    | some d => if d.table then wrong else none
    | none => if c.isSome then wrong else unknown
  else if op = 0x20 ∨ op = 0x21 ∨ op = 0x22 then
    match d with
    | some d => if d.table then none else wrong
    | none => if c.isSome then wrong else unknown
  else if op = 0x70 ∨ op = 0x71 then
    if c.isSome then none else if d.isSome then wrong else unknown
  else if op = 0x38 ∨ op = 0x39 then
    if oid = 0x05030000 then none else if d.isSome || c.isSome then wrong else unknown
  else if oid ≠ 0 then wrong else none

/-- A Xiond request read from its bytes (Table 3-9). -/
def parseReq (v : Via) (b : Bytes) (at_ : Nat) (busy : Bool) : Request :=
  let len := le b 4 2
  let pay := if len ≤ 4080 then sub b 16 len else []
  { via := v, opcode := BitVec.ofNat 16 (le b 0 2), tag := BitVec.ofNat 16 (le b 2 2),
    word6 := BitVec.ofNat 16 (le b 6 2), oid := BitVec.ofNat 32 (le b 8 4), length := len, payload := pay,
    crcOk := le b 12 4 == crc32c (sub b 0 12 ++ pay), busy := busy, at_ := at_ }

/-- Steps 1 to 5 of R105. -/
def earlyCheck (s : State) (r : Request) : Option (Nat × Bytes) :=
  let op := r.opcode.toNat
  if r.length > 4080 then some (stRange, toLe 2 4)
  else if !r.crcOk then some (stIntegrity, [])
  else if r.busy || (s.se.hostLoad && !loadServes r.via op) then some (stBusy, [])
  else if !opcodes.contains op then some (stUnknown, [])
  else if r.word6.toNat ≥ 2 then some (stRange, toLe 2 6)
  else none

/-- CHECK_ONLY of a request (R106). -/
def checkOnly (r : Request) : Bool := r.word6.getLsbD 0

/-- Payload of a refusal: under CHECK_ONLY empty for every opcode but COMMIT (R106). -/
def refusalPayload (r : Request) (p : Bytes) : Bytes := if checkOnly r && r.opcode != 0x0031 then [] else p

/-- A request taken: answered at once where steps 1 to 5 refuse it, else held for its opcode. -/
def takeReq (s : State) (r : Request) : State :=
  let s := s.modMb fun m => { m with taken := m.taken ++ [r] }
  match earlyCheck s r with
  | some (st, p) => respondWith s r st false (refusalPayload r p)
  | none => s

/-- A request of a remote agent arrives at its MAC (R97, R117); with no Gaffer to take it, it is gone. -/
def arrive (s : State) (v : Via) (b : Bytes) : State :=
  if !s.hl.fwReady then s else
  let busy := (s.mb.remote ++ s.mb.taken).any fun r => r.via == v && !r.busy
  let r := parseReq v b (recvTime s) busy
  s.modMb fun m => { m with remote := m.remote ++ [r] }

/-- Order of service: received time, then rank, then AGENT (R117). -/
def reqKey (at_ : Nat) (v : Via) : Nat := at_ * 65536 + rankOf v * 256 + agentOf v

/-- REQUEST_TAKE: MB0 first, then by received time (R102). -/
def execRequestTake (s : State) : Host.Outcome State Fault Refusal :=
  run s fun s =>
    let posted := ([0, 1, 2, 3] : List (Fin 4)).filter fun n => (mbox s n.val).state == 2
    let takeMb (n : Fin 4) : State :=
      let c := mbox s n.val
      let r := parseReq (.mb n) (mread win0Reset s.win0 (reqBuf n.val) 4096) c.at_ false
      takeReq (count (modMbox s n.val fun c => { c with state := 3 }) cDev 9) r
    if posted.contains 0 then takeMb 0 else
    let kMb (n : Fin 4) : Nat := reqKey (mbox s n.val).at_ (.mb n)
    let bestMb := posted.foldl (fun (b : Option (Fin 4)) n => match b with
      | none => some n
      | some m => if kMb n < kMb m then some n else some m) none
    let bestRm := s.mb.remote.foldl (fun (b : Option Request) r => match b with
      | none => some r
      | some m => if reqKey r.at_ r.via < reqKey m.at_ m.via then some r else some m) none
    let takeRm (r : Request) : State := takeReq (s.modMb fun m => { m with remote := m.remote.erase r }) r
    match bestMb, bestRm with
    | none, none => s
    | some n, none => takeMb n
    | none, some r => takeRm r
    | some n, some r => if kMb n ≤ reqKey r.at_ r.via then takeMb n else takeRm r

/-- MAILBOX_SERVICE_LIMIT_MISSED (R102). -/
def execMailboxServiceLimitMissed (s : State) : Host.Outcome State Fault Refusal :=
  run s fun s => fault s 57

/-- An answer put into effect, or only reported under CHECK_ONLY (R106). -/
def settleAnswer (s : State) (r : Request) (a : Answer) : State :=
  if checkOnly r then
    match a with
    | .ok _ p => respondWith s r stOk false (refusalPayload r p)
    | .staged _ _ => respondWith s r stOk false []
    | .no st p => respondWith s r st false (refusalPayload r p)
    | .done _ st p => respondWith s r st false (refusalPayload r p)
    | .later _ => respondWith s r stOk false []
  else
    match a with
    | .ok t p => respondWith t r stOk false p
    | .staged t p => respondWith t r stOk true p
    | .no st p => respondWith s r st false p
    | .done t st p => respondWith t r st false p
    | .later t => t

/-- FW_BEGIN names an image that is too large, which R512 judges ahead of authority and protection (log
entry 170). -/
def sizeFirst (r : Request) : Bool := r.opcode == 0xA0 && r.length == 8 && decide (492032 < le r.payload 0 4)

/-- A taken request served: steps 6 to 8 of R105, then the opcode's own checks and effect. -/
def serve (s : State) (r : Request) (f : State → Request → Answer) : State :=
  let op := r.opcode.toNat
  let oid := r.oid.toNat
  match authCheck s r.via op with
  | some st => if sizeFirst r then respondWith s r stRange false (refusalPayload r (toLe 2 16)) else respondWith s r st false []
  | none =>
    if s.fs.f4 && !graveServed op oid && !withdraws r then respondWith s r stGrave false [] else
    match oidCheck op oid with
    | some (st, p) => respondWith s r st false (refusalPayload r p)
    | none => settleAnswer s r (f s r)

/-- A taken request marked as acted on, so that it is acted on once. -/
def markServed (s : State) (r : Request) : State :=
  s.modMb fun m => { m with taken := m.taken.map fun x => if x = r then { x with served := true } else x }

/-- The opcode's command for one agent: its taken request is served; with none, nothing happens. -/
def runCmd (v : Via) (op : Nat) (f : State → Request → Answer) (s : State) : Host.Outcome State Fault Refusal :=
  run s fun s =>
    match s.mb.taken.find? fun r => r.via == v && r.opcode.toNat == op && !r.served with
    | some r => serve (markServed s r) { r with served := true } f
    | none => s

/-- The payload has exactly this size, or the request names byte 4 (Table 3-16). -/
def sized (r : Request) (n : Nat) (a : Answer) : Answer := if r.length = n then a else badRange 4

/-- Reserved payload bytes are 0, or the request names the first that is not (R11). -/
def reserved (r : Request) (offs : List Nat) (a : Answer) : Answer :=
  match offs.find? fun o => by_ r.payload o != 0 with
  | some o => badRange (16 + o)
  | none => a

/-- PING: bytes 0 to 63 of any content (R126). -/
def execPing (via : Via) (s : State) : Host.Outcome State Fault Refusal :=
  runCmd via 0x01 (fun s r => if r.length ≤ 64 then .ok s r.payload else badRange 4) s

/-- GET_INFO (R126, R475). -/
def execGetInfo (via : Via) (s : State) : Host.Outcome State Fault Refusal :=
  runCmd via 0x02 (fun s r => sized r 0
    (.ok s (toLe 2 0x0860 ++ toLe 1 Config.siliconRevision.toNat ++ [1] ++
      toLe 4 (if s.se.hostLoad then 0 else s.se.version.toNat) ++
      toLe 1 (if s.se.hostLoad then 0xFF else s.se.slot.toNat) ++ toLe 1 (pos s) ++ toLe 1 (agentOf r.via) ++
      toLe 1 (rankOf r.via) ++ toLe 8 Config.dieSerial.toNat ++ zz 4))) s

/-- DETACH: QUIESCING, answered when the drain is complete (R88, R522). -/
def execDetach (via : Via) (s : State) : Host.Outcome State Fault Refusal :=
  runCmd via 0xC0 (fun s r => sized r 0
    (if s.hl.state ≠ lsActive then .no stState []
     else .later (setLinkState (s.modHl fun l => { l with detachVia := some r.via }) lsQuiescing))) s

/-- Queues after ATTACH: disabled, at index 0, without error (R92); they keep BASE, SIZE and the
fields of CTRL that the host writes. -/
def attachQueue (u : Queue) : Queue :=
  { u with enable := false, stopped := false, err := 0, slot := none, head := 0, wb := 0, tail := 0,
           closing := false, reading := false, recs := [], bufs := [], wbs := [] }

/-- ATTACH accepted (R92). -/
def attach (s : State) : State :=
  let s := s.modHl fun l =>
    { l with hostLost := false, quiesce := false, holdOver := false, ctrl := setBit l.ctrl 0 l.dmaSaved }
  let s := condOff s 52
  let s := eachQue s fun _ u => attachQueue u
  let s := sendLm s 3 0
  let was := ones s.hl.evPend
  was.foldl evtTry (setLinkState s lsActive)

/-- ATTACH (R92). -/
def execAttach (via : Via) (s : State) : Host.Outcome State Fault Refusal :=
  runCmd via 0xC1 (fun s r => sized r 0
    (if s.hl.state ≠ lsDetached ∨ !s.hl.trained then .no stState [] else .ok (attach s) [])) s

end Sys2Proof.Machine
end

