-- ==== Sys2Proof/Machine/LedgerOps.lean ====
section
/-! DEFINITION. Domains: costs and dependencies (Table 4-3), the ceiling, the registry, what a domain
loses and gains when it is switched, and the one-at-a-time moves of the ledger (chapter 4). -/

namespace Sys2Proof.Machine

/-- Dependencies of a domain, PD68's two channels apart (Table 4-3). -/
def deps (d : Nat) : List Nat :=
  if d < 6 then [] else if d < 12 then [d - 6, 50, 62, 68] else if d < 18 then [d - 6, 64]
  else if d < 26 then [] else if d < 28 then [d - 2, 49, 68] else if d = 29 then [28, 73]
  else if 30 ≤ d ∧ d < 46 then [68, 71] else if d = 47 then [46] else if d = 48 then [47, 49, 50]
  else if 50 ≤ d ∧ d < 58 then [49] else if 58 ≤ d ∧ d < 62 then [62] else if d = 62 ∨ d = 63 then [49]
  else if d = 64 then [62] else if 65 ≤ d ∧ d < 68 then [70] else if d = 68 ∨ d = 69 then [49]
  else if d = 72 then [68] else if 74 ≤ d ∧ d < 78 then [73] else []

/-- Dependencies met under a view of which domains are ENABLED (R135). -/
def depsMet (isOn : Nat → Bool) (d : Nat) : Bool :=
  (deps d).all isOn && (d != 68 || decide (2 ≤ ([65, 66, 67].filter isOn).length))

/-- An ENABLED domain depends on the domain; for a channel in the vote, PD68 with two in it (R139, R187). -/
def needed (s : State) (d : Nat) : Bool :=
  (List.range 78).any (fun e => enabled s e && (deps e).contains d) ||
  (65 ≤ d && d < 68 && enabled s 68 && (chan s (d - 65)).inVote && decide ((voters s).length ≤ 2))

/-- Thermal ceiling of a junction temperature (R144). -/
def thermalCeil (tj : Int) : Nat :=
  if tj ≤ 1050 then 7200 else if tj ≥ 1150 then 5800 else 7200 - 14 * (tj - 1050).toNat

/-- Headroom, floored at 0 (R146, R147). -/
def headroom (s : State) : Nat := ceiling s - chargedTotal s

/-- The eight ENABLED domains of largest cost, ties in ascending number, 0xFF after the last (R147). -/
def topDomains (s : State) : Bytes :=
  let ins (l : List Nat) (d : Nat) : List Nat := l.takeWhile (fun e => cost e ≥ cost d) ++ d :: l.dropWhile (fun e => cost e ≥ cost d)
  let l := ((List.range 78).filter (enabled s)).foldl ins []
  let b := (l.take 8).map (BitVec.ofNat 8)
  b ++ List.replicate (8 - b.length) 0xFF

/-- ST_BUDGET payload (R147). -/
def budgetPayload (s : State) (need room : Nat) : Bytes := toLe 4 need ++ toLe 4 room ++ topDomains s

/-- ST_RESOURCE payload (Table 3-16). -/
def resourcePayload (id ownerOid agent : Nat) : Bytes := toLe 4 id ++ toLe 4 ownerOid ++ toLe 1 agent ++ zz 3

/-- Identifier of a resource (R151). -/
def resId (kind i : Nat) : Nat := 0x01020000 + 0x1000 * kind + 0x10 * i

/-- Owner of a comparator, and of a pin EVT0–7 or CAP0–3 (index 0–11). -/
def compOwner (s : State) (i : Nat) : Option (Nat × Nat) := tget (fun _ => none) s.ld.comps i
def pinOwner (s : State) (i : Nat) : Option (Nat × Nat) := tget (fun _ => none) s.ld.pins i

/-- The receive pins of Pn are claimed by PD00 + n or PD18 + n (Table 4-8). -/
def rxPinOwner (s : State) (n : Nat) : Option Nat :=
  if drawn s n then some n else if drawn s (18 + n) then some (18 + n) else none

/-- The claim on receive pins that stands against an enable (R152). -/
def pinConflict (s : State) (d : Nat) : Option Bytes :=
  let n := if d < 6 then some d else if 18 ≤ d ∧ d < 24 then some (d - 18) else none
  match n with
  | some n => match rxPinOwner s n with
    | some e => some (resourcePayload (resId 1 (16 + n)) (oidOf 0x0101 e 0) (dom s e).agent.toNat)
    | none => none
  | none => none

/-- Cells that a list of staged orders has reserved for a port. -/
def cellsStaged (os : List Order) (p : Nat) : Nat :=
  os.foldl (fun a o => match o.cells with
    | some (q, n) => if q = p then max a n else a
    | none => a) 0

/-- Cells counted for a port: the larger of claim and reservation (R154). -/
def cellCount (s : State) (p : Nat) : Nat := max (stagingCells s p) (cellsStaged (allOrders s) p)

def ports6 : List Nat := [0, 1, 2, 3, 4, 5]

/-- Cells counted for all ports. -/
def cellTotal (s : State) : Nat := ports6.foldl (fun a p => a + cellCount s p) 0

/-- ENABLED packet-buffer banks. -/
def banks (s : State) : Nat := ((List.range 8).filter fun b => enabled s (50 + b)).length

/-- Holder of a port's staging cells: the reserving order's agent where its count is the larger, else
the agent that set the claim (R154, R156). -/
def cellHolder (s : State) (p : Nat) : Nat :=
  match (allOrders s).find? fun o => match o.cells with
      | some (q, n) => q == p && decide (stagingCells s p < n)
      | none => false with
  | some o => o.agent.toNat
  | none => tget (fun _ => 0) s.ld.cellAgent p

/-- The claim that stands against a disable: PD72's pins and comparators, and a bank's cells (R139, R156). -/
def disableConflict (s : State) (d : Nat) : Option Bytes :=
  if d = 72 then
    match (List.range 12).find? (fun i => (pinOwner s i).isSome) with
    | some i => match pinOwner s i with
      | some (o, a) => some (resourcePayload (resId 1 i) o a)
      | none => none
    | none => match (List.range 16).find? (fun i => (compOwner s i).isSome) with
      | some i => match compOwner s i with
        | some (o, a) => some (resourcePayload (resId 2 i) o a)
        | none => none
      | none => none
  else if 50 ≤ d ∧ d < 58 ∧ cellTotal s > 1024 * (banks s - 1) then
    match ports6.reverse.find? (fun p => cellCount s p != 0) with
    | some p => some (resourcePayload (resId 3 p) (oTxs p) (cellHolder s p))
    | none => none
  else none

/-- Cells of the pool that no frame holds: 1,024 per ENABLED bank less what the ports' staged and forwarded
frames hold (R154, R156). -/
def cellsFree (s : State) : Nat := 1024 * banks s - ports6.foldl (fun a p => a + (prt s p).cells + (prt s p).fwdCells) 0

/-- The frames hold more cells than the pool has (R154, R333). -/
def poolOver (s : State) : Bool :=
  decide (1024 * banks s < ports6.foldl (fun a p => a + (prt s p).cells + (prt s p).fwdCells) 0)

/-- Forwarded copies of a port that hold cells and are not stomped, by number. -/
def fwdLive (s : State) (p : Nat) : List EgFrame :=
  let x := prt s p
  (x.eg ++ ((x.line.toList ++ x.susp).map (·.frame))).filter fun f => !f.bad && match f.src with
    | .fwd _ => true
    | _ => false

/-- Cells of the pool held by parisons and by forwarded copies that are not stomped. -/
def cellsHeld (s : State) : Nat :=
  ports6.foldl (fun a p => a + (prt s p).cells + (fwdLive s p).foldl (fun a f => a + fwdCellsOf f.data.length) 0) 0

/-- A forwarded copy loses its cells: one that has not started is dropped for want of a cell, one that has is
stomped (R156, R332, R333). -/
def fwdEvict (s : State) (p id : Nat) : State :=
  match (prt s p).eg.find? (·.id == id) with
  | some f => count (modPrt s p fun x =>
      { x with eg := x.eg.filter (·.id != id), fwdCells := x.fwdCells - fwdCellsOf f.data.length }) (cPort p 1) 7
  | none => stompCopy s p id

/-- Forwarded frames that find no free cell when the pool shrinks; which ones is a free value (R156, log entry
209). -/
def fwdShrink : Nat → State → State
  | 0, s => s
  | k + 1, s =>
    if cellsHeld s ≤ 1024 * banks s then s else
    let l := ports6.flatMap fun p => (fwdLive s p).map fun f => (p, f.id)
    let (v, s) := draw s
    match l[v % l.length]? with
    | some (p, id) => fwdShrink k (fwdEvict s p id)
    | none => s

/-- A packet-buffer bank has left the pool (R156). -/
def bankGone (s : State) : State :=
  fwdShrink (ports6.foldl (fun a p => a + (fwdLive s p).length) 0) s

/-- Domains never disabled (R136). -/
def neverOff (d : Nat) : Bool := [46, 47, 73, 74, 77].contains d

/-- FS080 + 8n follows its condition: link down while the PCS/MAC is ENABLED and the port neither
dozes nor is fenced (Table 12-1). -/
def linkFault (s : State) (n : Nat) : State :=
  if on s (6 + n) && !(prt s n).up && (doz s n).status == 0 && !fencedPort s n then condOn s (80 + 8 * n)
  else condOff s (80 + 8 * n)

/-- A lane transmitter leaves or enters electrical idle (R34, R41, R464). The model's choice (log entry
195): MODn_TXDIS goes with the lane, so the enable of PD00 + n lowers it. -/
def laneIdle (s : State) (lane : Nat) (idle : Bool) : State :=
  let quiet := idle || s.fs.f4 || s.pw.testMode
  s.modPads fun p =>
    { p with laneIdle := setBit p.laneIdle lane quiet,
             modTxdis := if lane < 6 then setBit p.modTxdis lane quiet else p.modTxdis }

/-- OIDs of a segment's groups and tables. -/
def oSeg (i : Nat) : Nat := oidOf 0x0700 i 0
def oSegNode (i : Nat) : Nat := oidOf 0x0703 i 0
def oSegSafe (i : Nat) : Nat := oidOf 0x0704 i 0
def oSegMode (m i : Nat) : Nat := oidOf 0x0701 (16 * m + i) 0
def oSegSlot (m i : Nat) : Nat := oidOf 0x0702 (16 * m + i) 0

def segOwn (s : State) (i : Nat) : Nat := cfg s (oSeg i) 0 1
def segOther (s : State) (i : Nat) : Nat := cfg s (oSeg i) 1 1

/-- Windows of a segment's own entries in a mode, by a reader of schedule memory: object, offset, bytes (R400). -/
def segWindows (rd : Nat → Nat → Nat → Nat) (m i : Nat) : Windows :=
  let md := oSegMode m i; let sl := oSegSlot m i
  { cycle := rd md 0 4 * 1000,
    wins := (List.range (rd md 4 1)).filterMap fun e =>
      let at_ := rd sl (8 * e) 4; let k := rd sl (8 * e + 6) 1 % 8
      if rd sl (8 * e + 7) 1 % 32 ≠ rd (oSeg i) 0 1 then none
      else if k = 1 ∨ k = 2 then some (at_, at_ + rd sl (8 * e + 4) 2 * 100)
      else if k = 4 then some (at_, at_ + rd md 8 4 + 59800)
      else none }

def noWindows (_ : Nat) : Option Windows := none

/-- The Gauntlet's own time of now, 2^-16 ns (R400): it runs from GUARD_XTAL, at its nominal rate (log entry 154). -/
def gauntTime (s : State) : Option Int := s.sg.own.map fun x => x.1 + (((s.clock : Int) - x.2) * 65536)

/-- The Gauntlet changes mode once its own time has reached the boundary (R401). -/
def gauntTurn (s : State) : State :=
  match s.sg.next, gauntTime s with
  | some (b, w), some t =>
    if ((b * 65536 : Nat) : Int) ≤ t then
      s.modSg fun x => { x with next := none, wins := (List.range 16).foldl (fun ws i =>
        if (tget noWindows ws i).isSome then tset noWindows ws i (tget noWindows w i) else ws) x.wins }
    else s
  | _, _ => s

/-- The Gauntlet loads a segment's windows of the running mode, once CI07 runs (R401). Its own time starts as the
voted time with the first load (log entry 154). -/
def gauntletLoad (s : State) (i : Nat) : State :=
  if s.pw.guardRuns && on s 71 then
    let s := gauntTurn s
    let w := segWindows (cfg s) s.tx.mode i
    let now := ((now80 s : Nat) : Int); let c := s.clock
    s.modSg fun x => { x with own := some (x.own.getD (now, c)), wins := tset noWindows x.wins i (some w) }
  else s

/-- LISTEN is entered with the listen length of R381. -/
def segListen (s : State) (i l : Nat) : State :=
  modSgm s i fun g =>
    { g with head := 0, listen := l, listened := 0, sends := false, sendsNext := false, noAgree := 0, noSync := 0 }

/-- A segment's domain is enabled: LISTEN, or CLOSED or FENCED where something holds it (R378, R401). -/
def segStart (s : State) (i : Nat) : State :=
  let s := segListen s i (2 + segOwn s i)
  let s := if s.fs.f4 || f3Holds s (16 + i) then modSgm s i fun g => { g with head := 4 }
    else if fencedSeg s i then modSgm s i fun g => { g with head := 5, before := 0 } else s
  if s.fs.f4 || f3Holds s (16 + i) then s else gauntletLoad s i

/-- The voter starts: every enabled channel loads RAW_INIT_NS, the initial permit is armed, the time
state is FREE_RUNNING (R165, R177, R192). -/
def voterStart (s : State) : State :=
  let raw := BitVec.ofNat 80 (cfg s 0x02000000 0 8 * 65536)
  let s := [0, 1, 2].foldl (fun s i =>
    if enabled s (65 + i) && !(chan s i).retired then
      modChan s i fun c => { c with raw := raw, off := 0, rate := 0, anchor := 0, inVote := true, resync := false }
    else s) s
  let c := s.clock
  let s := s.modMb fun m => { m with lastBoundary := 0 }
  s.modTm fun t =>
    { t with state := 2, since := c, permit := 2, permitAgent := 0, succ := 0, lostVote := false, pending := none, rates := [(c, 0)] }

/-- What stamps are formed from is kept as it stood, before it changes (R223, R229). -/
def keepPast (s : State) : State :=
  let now := s.clock; let sensors := s.mg.sensors
  s.modCal fun c =>
    { c with past := (c.past.filter fun x => decide (now ≤ x.till + 100000)) ++
        if c.past.any (·.till == now) then [] else [⟨now, c.points, c.ports, sensors⟩] }

/-- Delay points of a domain that is enabled: never calibrated since, those of a lane due for a relock pass
(R224, R226). -/
def freshPts (s : State) (d : Nat) : State :=
  let now := s.clock
  let (pts, due) : List Nat × BitVec 4 :=
    if 6 ≤ d ∧ d < 12 then ([2 * (d - 6), 2 * (d - 6) + 1], 1)
    else if 24 ≤ d ∧ d < 28 then ([12 + 2 * (d % 2), 13 + 2 * (d % 2)], 1)
    else if 30 ≤ d ∧ d < 46 then ([16 + 2 * (d - 30), 17 + 2 * (d - 30)], 0)
    else if d = 70 then ([48], 0) else ([], 0)
  let s := if pts.isEmpty then s else keepPast s
  pts.foldl (fun s pt => s.modCal fun c => { c with points := tset (fun _ => {}) c.points pt { relock := now, due := due } }) s

/-- What a domain takes up when it is ENABLED and not isolated. -/
def gain (s : State) (d : Nat) : State :=
  let s := freshPts s d
  if d < 6 then laneIdle s d false
  else if d < 12 then linkFault s (d - 6)
  else if d = 24 ∨ d = 25 then laneIdle s (6 + (d - 24)) false
  else if d = 28 then laneIdle s 8 false
  else if 30 ≤ d ∧ d < 46 then segStart s (d - 30)
  else if 65 ≤ d ∧ d < 68 ∧ enabled s 68 then
    let now := s.clock
    modChan s (d - 65) fun c => if c.retired then c else { c with inVote := false, resync := true, since := now }
  else if d = 68 then voterStart s
  else if d = 76 then let now := s.clock; s.modMg fun m => { m with lifeAt := now }
  else s

/-- A port's link is down: what waits on it meets PORT_DOWN, reassembly and forwarding end (R76, R282). -/
def portGone (s : State) (p : Nat) : State :=
  let s := dropHeads (dropEarly (silencePort s p .down) p (prt s p).early) (openHeads s p)
  modPrt s p fun x => { x with up := false, ctxs := [] }

/-- Entries whose number satisfies a test leave a sparse table. -/
def keep {α : Type} (f : Nat → Bool) (t : Sparse α) : Sparse α := t.filter fun x => f x.1

/-- The segment's time-triggered state and its window 1 area return to reset (R142). -/
def segWipe (s : State) (i : Nat) : State :=
  let s := segQuiet s i
  let s := s.modSg fun x => { x with segs := keep (· != i) x.segs }
  let s := s.modCal fun c => { c with nodes := c.nodes.filter (fun x => x.1 / 32 != i),
                                      points := keep (fun k => k != 16 + 2 * i && k != 17 + 2 * i) c.points }
  s.setWin1 (s.win1.filter fun c => c.1 / 0x4000 != i)

/-- The DMA engines' state returns to reset: queues, outstanding reads, whose tags stay out of use, parisons,
stamps on their way and the timestamp records (R60, R142, R269). -/
def dmaWipe (s : State) : State :=
  let till := s.clock + 2 * s.hl.cplTimeout.toNat * 50000
  let s := s.modHl fun l => { l with dmrds := [], deadTags := l.deadTags ++ l.dmrds.map fun d => (d.tag, till) }
  let hosts (f : EgFrame) : Bool := match f.src with
    | .host _ _ => true
    | _ => false
  let s := ports6.foldl (fun s p => modPrt s p fun x =>
    { x with cells := 0, fifo := 0, eg := x.eg.filter fun f => !hosts f }) s
  let s := s.setWin1 (s.win1.filter fun c => c.1 < 0x40000)
  s.setQs []

/-- The heartbeat logic that PD26 + k held is at its reset state again; the loss of the link is noted (R142, R430,
Table 11-13). -/
def hbForget (t : Twin) : Twin :=
  { t with hbSeq := 0, gaps := [], paths := 0, lost := false, pRole := 0, pFlags := 0, pBoundary := 0, hostDown := 0,
           hostSeq := 0, takeT := none, hbLost := true }

/-- The points of Kk are forgotten; FS130 ends where no point of the other link is CAL_STALE (R142, R451). -/
def kPointsGone (s : State) (k : Nat) : State :=
  let s := s.modCal fun c => { c with points := keep (fun j => j / 2 != 6 + k) c.points }
  if s.cal.points.any fun x => decide (12 ≤ x.1) && decide (x.1 < 16) && x.2.stale then s else condOff s 130

/-- A disabled domain keeps no state (R142). -/
def lose (s : State) (d : Nat) : State :=
  let s := clearHome s d
  if d < 6 then laneIdle (linkFault (portGone s d) d) d true
  else if d < 12 then
    let n := d - 6
    let s := portGone s n
    let s := s.modTx fun t => { t with ports := keep (· != n) t.ports }
    let s := s.modCal fun c => { c with ports := keep (· != n) c.ports, points := keep (fun k => k / 2 != n) c.points }
    let s := s.modLd fun l => { l with cellAgent := keep (· != n) l.cellAgent }
    condOff (condOff s (80 + 8 * n)) (80 + 8 * n + 6)
  else if d < 18 then
    let s := modPrt s (d - 12) fun x => { x with prot := 0, noKey := 0 }
    s.modRx fun r => { r with pns := r.pns.filter fun x => x.1 / 64 != d - 12 }
  else if d = 24 ∨ d = 25 then
    laneIdle (kPointsGone s (d - 24)) (6 + (d - 24)) true
  else if d = 26 ∨ d = 27 then
    let k := d - 26
    let s := kPointsGone (s.modCal fun c => { c with ports := keep (· != 6 + k) c.ports }) k
    let up := (klink s k).up
    let hb := s.tw.on && s.tw.link == k
    let s := if hb then s.modTw hbForget else s
    stackEvent s <| checkRanges <| s.modSk fun x =>
      { x with links := keep (· != k) x.links, complete := x.complete && !up, master := if up then 0xFF else x.master,
               timeReq := x.timeReq.filter fun r => r.1 != k }
  else if d = 28 then laneIdle s 8 true
  else if d = 29 then
    let s := (List.range 8).foldl (fun s k => if (sess s k).state = 2 then dropUpdate s (0x40 + k) else s) s
    s.modSe fun x => { x with sess := [] }
  else if 30 ≤ d ∧ d < 46 then segWipe s (d - 30)
  else if d = 48 then dmaWipe s
  else if d = 49 then
    let s := s.modTx fun t => { t with mode := 0, phase := 0, switched := 0, changed := 0, mismatches := 0, agree := {}, follow := {}, member := {} }
    let s := s.modStr fun x => { x with talk := [], blocked := [] }
    let s := s.modTw fun t => { t with assigns := [], mismAt := [] }
    s.modMb fun m => { m with report := List.replicate 24 0 }
  else if d = 62 then s.modRx fun r => { r with active := 1, epoch := 0, shadow := 1, draining := none, meters := [] }
  else if d = 64 then drainCheck (s.modRx fun r => { r with loop := [], loopMax := 0 })
  else if 65 ≤ d ∧ d < 68 then
    let i := d - 65
    let s := modChan s i fun c => { retired := c.retired, outvotes := c.outvotes, times := c.times }
    condOff s (32 + i)
  else if d = 68 then
    let s := s.modTm fun t =>
      { chans := t.chans, outvoteRaw := t.outvoteRaw, outvoteVals := t.outvoteVals }
    let s := [0, 1, 2].foldl (fun s i =>
      let c := chan s i
      let s := modChan s i fun c => { retired := c.retired, outvotes := c.outvotes, times := c.times }
      if c.retired then s else condOff s (32 + i)) s
    [38, 39, 40, 42, 43].foldl condOff s
  else if d = 69 then s.modStr fun x => { talk := x.talk, blocked := x.blocked }
  else if d = 70 then condOff (s.modCal fun c => { c with points := keep (· != 48) c.points, convBad := 0 }) 142
  else if d = 71 then
    condOff (s.modSg fun x => { x with delta := 0, deltaMax := 0, saturated := 0, blocks := 0, diverged := false,
                                       markerLost := false, goodSince := none, own := none, wins := [], next := none }) 141
  else if d = 72 then
    let s := s.modTm fun t => { t with outs := [], caps := [] }
    let s := s.modLd fun l => { l with comps := [], pins := [] }
    s.modPads fun p => { p with evt := 0 }
  else if d = 76 then
    s.modMg fun m => { m with powered := 0, hot := 0, equiv := 0, cycles := 0, log := [], unflushed := 0,
                              oldest := if m.oldest < m.nextRec - m.unflushed then m.oldest else m.nextRec,
                              logLost := 0, lostTold := 0, rate := [] }
  else s

end Sys2Proof.Machine
end

