-- ==== Sys2Proof/Machine/Ledger.lean ====
section
/-! DEFINITION. The ledger's commands: domain orders and the moves they start, the thermal ceiling,
shedding, doze and wake (R134–R163). -/

namespace Sys2Proof.Machine

/-- OID of a unit's DOZE object (Table 4-9): 0–5 P0–P5, 16–31 T0–T15. -/
def oDoze (u : Nat) : Nat := oidOf 0x0103 u 0

/-- A unit that can doze. -/
def dozeUnit (u : Nat) : Bool := u < 6 || (16 ≤ u && u < 32)

/-- The domain that a unit's doze is judged by: the lane of a port, the segment's domain (R161). -/
def dozeDomain (u : Nat) : Nat := if u < 6 then u else 30 + (u - 16)

/-- OVER and SHED_EXHAUSTED follow the charged total and the ceiling in force (R150). -/
def checkOver (s : State) : State :=
  if ceiling s < chargedTotal s then condOn (s.modLd fun l => { l with exceeds := true }) 65 else overEnds s

/-- Payload of DOMAIN_ENABLE and DOMAIN_DISABLE: charged total and ceiling in force (Table 3-18). -/
def domainPayload (s : State) : Bytes := toLe 4 (chargedTotal s) ++ toLe 4 (ceiling s)

/-- A move of the ledger for this purpose is in progress or still planned. -/
def planned (s : State) (m : Move) : Bool :=
  s.ld.plan.any (fun x => x.2.2 == m) || (s.ld.moving.map (fun x => x.2 == m)).getD false

/-- The last move of a doze or wake has been made: the unit dozes, or is awake again (R157, R159). -/
def settleMove (s : State) (m : Move) : State :=
  if planned s m then s else
  match m with
  | .doze u => modDoz s u fun d => { d with status := 2 }
  | .wake u =>
    let s := modDoz s u fun d => { d with status := 0, held := [] }
    let s := objWrite s (oDoze u) 0 [0]
    if u < 6 then linkFault s u else s
  | _ => s

/-- An adjustment that waits for its point when PD68 starts to be disabled is discarded (R174). -/
def dropAdjust (s : State) : State :=
  match s.tm.pending with
  | none => s
  | some a =>
    let s := s.modTm fun t => { t with pending := none }
    match a.via with
    | none => s
    | some v => match s.mb.taken.find? (fun r => r.via == v && r.opcode == 0x0051) with
      | some r => respondWith s r stState false []
      | none => s

/-- A domain starts to be enabled: its cost is charged (R140 step 1). -/
def startEnable (s : State) (d : Nat) (agent : BitVec 8) (rank : Nat) (m : Move) : State :=
  (setDom s d { state := 1, agent := agent, rank := rank }).modLd fun l => { l with moving := some (d, m) }

/-- A domain starts to be disabled; the charge stays until its switch is open (R141 step 1). A channel leaves
the vote at once (R184). -/
def startDisable (s : State) (d : Nat) (m : Move) : State :=
  let s := setDom s d { dom s d with state := 3 }
  let s := s.modLd fun l => { l with moving := some (d, m) }
  if d = 68 then dropAdjust s
  else if 65 ≤ d ∧ d < 68 then modChan s (d - 65) fun c => { c with inVote := false, resync := false }
  else s

/-- The agent that a planned enable is charged to, with its rank: of the frozen order that implies the domain,
else the one that the domain keeps (R149, R159). -/
def enabler (s : State) (d : Nat) (m : Move) : BitVec 8 × Nat :=
  match m, s.mb.frozen.find? fun o => o.domains.contains d with
  | .commit, some o => (o.agent, o.rank)
  | _, _ => ((dom s d).agent, (dom s d).rank)

/-- The next planned move starts; a move that is already made, or whose dependencies are not met, is
passed over, and so is an enable under an F4. Fuel-bounded by the plan (R137, R149, R464). -/
def advanceFuel : Nat → State → State
  | 0, s => s
  | k + 1, s =>
    if s.ld.moving.isSome then s else
    match s.ld.plan with
    | [] => s
    | (en, d, m) :: rest =>
      let s := s.modLd fun l => { l with plan := rest }
      let x := dom s d
      if en then
        let (a, r) := enabler s d m
        if x.state = 0 ∧ depsMet (enabled s) d ∧ !s.fs.f4 then startEnable s d a r m
        else advanceFuel k (settleMove s m)
      else if x.state = 2 then startDisable s d m
      else advanceFuel k (settleMove s m)

/-- Start what is planned and may start. -/
def advance (s : State) : State := advanceFuel s.ld.plan.length s

/-- Moves added behind those planned. -/
def plan (s : State) (l : List (Bool × Nat × Move)) : State :=
  advance (s.modLd fun x => { x with plan := x.plan ++ l })

/-- The domain that an order names. -/
def domOperand (r : Request) : Nat := by_ r.payload 0

/-- The checks and effect of DOMAIN_ENABLE (R139). -/
def domainEnable (s : State) (r : Request) : Answer :=
  sized r 4 (if domOperand r > 77 then badRange 16 else reserved r [1, 2, 3] (
    let d := domOperand r
    if enabled s d then .ok s (domainPayload s)
    else if s.ld.moving.isSome then .no stBusy []
    else if !depsMet (enabled s) d then .no stState []
    else match pinConflict s d with
      | some p => .no stResource p
      | none =>
        if s.ld.exceeds ∨ headroom s < cost d then .no stBudget (budgetPayload s (cost d) (headroom s))
        else .later (startEnable s d (BitVec.ofNat 8 (agentOf r.via)) (rankOf r.via) (.order r.via))))

/-- The boot stage enables a domain that it needs, as AGENT 0x00 of rank 0 (R96, R135, Table 13-7 step 8). Which
domain is the image's own choice: a free value (log entry 207). -/
def bootEnable (s : State) : State :=
  let (x, s) := draw s
  match domainEnable s { via := .boot, opcode := 0x40, tag := 0, word6 := 0, oid := 0, length := 4,
                         payload := toLe 4 (x % 78), crcOk := true, busy := false, at_ := s.clock } with
  | .later t => t
  | _ => s

/-- DOMAIN_ENABLE (R139). Boot code writes directly, before the lock, and posts no request (Table 3-2). -/
def execDomainEnable (via : Via) (s : State) : Host.Outcome State Fault Refusal :=
  if via == .boot && s.se.phase == 2 && !s.se.locked && !s.fs.f4 then run s bootEnable
  else runCmd via 0x40 domainEnable s

/-- The checks and effect of DOMAIN_DISABLE (R139). -/
def domainDisable (s : State) (r : Request) : Answer :=
  sized r 4 (if domOperand r > 77 then badRange 16 else reserved r [1, 2, 3] (
    let d := domOperand r
    if (dom s d).state = 0 then .ok s (domainPayload s)
    else if neverOff d then .no stState []
    else if (dom s d).rank < rankOf r.via then .no stAuth []
    else if s.ld.moving.isSome then .no stBusy []
    else if needed s d then .no stState []
    else match disableConflict s d with
      | some p => .no stResource p
      | none => .later (startDisable s d (.order r.via))))

/-- DOMAIN_DISABLE (R139). -/
def execDomainDisable (via : Via) (s : State) : Host.Outcome State Fault Refusal :=
  runCmd via 0x41 domainDisable s

/-- The order that a move answers is answered. -/
def answerMove (s : State) (m : Move) (op : BitVec 16) (status : Nat) (payload : Bytes) : State :=
  match m with
  | .order v => match s.mb.taken.find? (fun r => r.via == v && r.opcode == op) with
    | some r => respondWith s r status false payload
    | none => s
  | _ => s

/-- A domain is ENABLED. One that a frozen stage implies stays isolated until its boundary; one that a
failed commit implied is disabled again (R149). -/
def enableDone (s : State) (d : Nat) (m : Move) : State :=
  let s := setDom s d { dom s d with state := 2 }
  let s := s.modLd fun l => { l with moving := none }
  let s := if (m = .commit ∧ s.mb.boundary.isSome) ∨ m = .undo then s.modLd fun l => { l with isolated := l.isolated ++ [d] }
    else gain s d
  let s := answerMove s m 0x40 stOk (domainPayload s)
  let s := settleMove s m
  if m = .undo then plan s [(false, d, .undo)] else advance s

/-- Log record of the ledger (Table 14-6 type 7): 0 shed, 1 wake refused, 2 enable failed. -/
def logLedger (s : State) (d what : Nat) : State :=
  logAdd s 7 0 (toLe 1 d ++ toLe 1 what ++ toLe 2 (uns 16 s.ld.tj))

/-- An answer that DOMAIN_ENABLE may have, with the payload that goes with its status, picked by a free value
(Tables 3-16 and 3-18, R124). -/
def enableAnswer (s : State) (d v : Nat) : Nat × Bytes :=
  let w := v / 11
  match v % 11 with
  | 0 => (stOk, domainPayload s)
  | 1 => (stBusy, [])
  | 2 => (stUnknown, [])
  | 3 => (stRange, toLe 2 w)
  | 4 => (stState, [])
  | 5 => (stAuth, [])
  | 6 => (stBudget, budgetPayload s (cost d) (headroom s))
  | 7 => (stResource, resourcePayload (w % 2 ^ 32) (w / 2 ^ 32 % 2 ^ 32) (w / 2 ^ 64 % 256))
  | 8 => (stIntegrity, [])
  | 9 => (stLocked, [])
  | _ => (stGrave, [])

/-- An enable fails: the charge is released and FS064 recorded; a frozen stage that implied the
domain cannot be agreed. Which of its answers an order gets is not stated: a free value (R140, R149,
log entry 13). -/
def enableFailed (s : State) (d : Nat) (m : Move) : State :=
  let x := dom s d
  let s := setDom s d (match m with
    | .wake _ => { x with state := 0 }
    | _ => {})
  let s := s.modLd fun l => { l with moving := none }
  let s := logLedger (fault s 64) d 2
  let s := if (m = .commit ∨ impliedBy s.mb.frozen d) ∧ s.mb.boundary.isSome then
      (s.modMb fun b => { b with selfBad := true }).modLd fun l => { l with plan := l.plan.filter fun y => y.2.2 != .commit }
    else s
  let (v, s) := match m with
    | .order _ => draw s
    | _ => (0, s)
  let a := enableAnswer s d v
  let s := answerMove s m 0x40 a.1 a.2
  checkOver (advance (settleMove s m))

/-- A domain is DISABLED: its charge is released and it keeps no state (R141, R142). A dozing unit's
domains keep who enabled them. -/
def disableDone (s : State) (d : Nat) (m : Move) : State :=
  let x := dom s d
  let s := setDom s d (match m with
    | .doze _ => if d < 18 ∨ d ≥ 24 then { x with state := 0 } else {}
    | _ => {})
  let s := s.modLd fun l => { l with moving := none, isolated := l.isolated.erase d }
  let s := if 50 ≤ d ∧ d < 58 then bankGone s else s
  let s := checkOver (lose s d)
  let s := answerMove s m 0x41 stOk (domainPayload s)
  advance (settleMove s m)

/-- LEDGER_QUERY (R163). -/
def execLedgerQuery (via : Via) (s : State) : Host.Outcome State Fault Refusal :=
  runCmd via 0x42 (fun s r => sized r 0
    (.ok s (toLe 4 s.ld.bootCeil ++ toLe 4 (ceiling s) ++ toLe 4 (chargedTotal s) ++ toLe 2 (uns 16 s.ld.tj) ++ zz 2 ++
      toLe 10 ((List.range 80).foldl (fun a d => if (dom s d).state = 0 then a else a + 2 ^ d) 0) ++ zz 6))) s

def sensorReset (_ : Nat) : Sensor := {}
def sensor (s : State) (i : Nat) : Sensor := tget sensorReset s.mg.sensors i

/-- Tj as the ledger and the collector take it: the hottest die sensor not excluded, 115.0 °C where
fewer than three remain; the last value before any sample (R145, R503). -/
def hottest (s : State) : Int :=
  if (List.range 8).all (fun i => !(sensor s i).seen && !(sensor s i).excluded) then s.ld.tj
  else
    let ok := (List.range 8).filter fun i => (sensor s i).seen && (sensor s i).valid && !(sensor s i).excluded
    if ok.length < 3 then 1150 else ok.foldl (fun a i => max a (sensor s i).reading) (-2 ^ 31)

/-- Ceilings of the readings of the last second with one more reading: the front is the highest that
every one of them supports (R145). -/
def ceilQueue (l : List (Nat × Nat)) (now new : Nat) : List (Nat × Nat) :=
  let l := match l.reverse with
    | [] => []
    | (_, c) :: t => ((now, c) :: t).reverse
  let l := l.filter fun x => x.2 < new && now < x.1 + 1000000000
  l ++ [(now, new)]

/-- FS015 and FS016 follow Tj (R469). -/
def tjFaults (s : State) (tj : Int) : State :=
  let s := if tj > 1150 then condOn s 15 else if tj ≤ 1140 then condOff s 15 else s
  let s := s.modFs fun f => { f with hot := if tj ≥ 1220 then f.hot + 1 else 0 }
  if s.fs.hot ≥ 2 then condOn s 16 else if tj ≤ 1210 then condOff s 16 else s

/-- TJ_READING (R145). -/
def execTjReading (s : State) : Host.Outcome State Fault Refusal :=
  run s fun s =>
    let tj := hottest s
    let q := ceilQueue s.ld.rising s.clock (thermalCeil tj)
    let s := s.modLd fun l => { l with tj := tj, rising := q, thermal := (q.headD (0, 7200)).2 }
    checkOver (tjFaults s tj)

/-- The domains of LEDGER_SHED up to its end (Table 4-9). -/
def shedList (s : State) : List Nat := ((objRead s 0x01000001 0 16).map BitVec.toNat).takeWhile (· != 0xFF)

/-- The next domain to shed (R150). -/
def shedNext (s : State) : Option Nat :=
  (shedList s).find? fun d =>
    (dom s d).state != 0 && !neverOff d && !needed s d && (disableConflict s d).isNone

/-- LEDGER_SHED (R150). -/
def execLedgerShed (s : State) : Host.Outcome State Fault Refusal :=
  run s fun s =>
    let s := checkOver s
    if !s.ld.exceeds || s.ld.moving.isSome then s else
    match shedNext s with
    | some d => startDisable (logLedger s d 0) d .shed
    | none => condOn (s.modLd fun l => { l with exhausted := true }) 66

/-- DOZE written 1: ST_STATE on a unit whose domain is DISABLED, ST_BUSY in mid-move (R157, R160, R161). A
domain that is still ENABLING dozes with the others. -/
def dozeEnter (s : State) (u : Nat) : Except Nat State :=
  let st := (doz s u).status
  if st = 1 ∨ st = 3 then .error stBusy
  else if (dom s (dozeDomain u)).state = 0 then .error stState
  else
    let ds := if u < 6 then [12 + u, 6 + u, u] else [dozeDomain u]
    let was := ds.filter fun d => (dom s d).state == 1 || (dom s d).state == 2
    let s := modDoz s u fun d => { d with status := 1, held := was.reverse }
    let s := objWrite s (oDoze u) 0 [1]
    let s := if u < 6 then linkFault s u else s
    let lane := dom s u
    let s := if u < 6 ∧ (dom s (18 + u)).state = 0 then
        setDom s (18 + u) { state := 0, agent := lane.agent, rank := lane.rank } else s
    let moves := ds.map fun d => (false, d, Move.doze u)
    .ok (plan s (moves ++ (if u < 6 then [(true, 18 + u, Move.doze u)] else [])))

/-- A dozing unit wakes under one budget check, but under an F4 (R159, R160, R464). -/
def wakeUp (s : State) (u : Nat) : State :=
  if s.fs.f4 then s else
  let held := sortAsc ((doz s u).held.map Int.ofNat) |>.map Int.toNat
  let sum := held.foldl (fun a d => if drawn s d then a else a + cost d) 0
  let freed := if u < 6 ∧ drawn s (18 + u) then cost (18 + u) else 0
  if s.ld.exceeds ∨ headroom s + freed < sum then logLedger (fault s 67) (dozeDomain u) 1
  else
    let s := modDoz s u fun d => { d with status := 3, wakes := d.wakes + 1 }
    let off := if u < 6 then [(false, 18 + u, Move.wake u)] else []
    plan s (off ++ held.map fun d => (true, d, Move.wake u))

/-- DOZE written 0 (R159, R161). -/
def dozeLeave (s : State) (u : Nat) : Except Nat State :=
  let st := (doz s u).status
  if st = 1 ∨ st = 3 then .error stBusy
  else
    let s := objWrite s (oDoze u) 0 [0]
    .ok (if st = 2 then wakeUp s u else s)

/-- DOZE_ENTRY (R157). -/
def execDozeEntry (unit : Fin 32) (s : State) : Host.Outcome State Fault Refusal :=
  run s fun s =>
    if !dozeUnit unit.val then s else
    match dozeEnter s unit.val with
    | .ok t => t
    | .error _ => s

/-- DOZE_EXIT; the ledger enables nothing under an F4 (R159, R464). -/
def execDozeExit (unit : Fin 32) (s : State) : Host.Outcome State Fault Refusal :=
  run s fun s =>
    if !dozeUnit unit.val || s.fs.f4 then s else
    match dozeLeave s unit.val with
    | .ok t => t
    | .error _ => s

/-- WAKE_PATTERN_MATCH: the wake detector of a dozing port (R159). -/
def execWakePatternMatch (p : Fin 6) (s : State) : Host.Outcome State Fault Refusal :=
  run s fun s => if (doz s p.val).status = 2 ∧ on s (18 + p.val) then wakeUp s p.val else s

/-- ENERGY_DETECT: AO-safety watches the line of a dozing segment (R160). -/
def execEnergyDetect (i : Fin 16) (s : State) : Host.Outcome State Fault Refusal :=
  run s fun s => if (doz s (16 + i.val)).status = 2 then wakeUp s (16 + i.val) else s

/-- LEDGER_CEIL_WRITE: boot code only, before the protection lock; off the range or the step it
changes nothing (R143, Table 4-6). -/
def execLedgerCeilWrite (v : BitVec 32) (s : State) : Host.Outcome State Fault Refusal :=
  run s fun s =>
    let c := v.toNat % 8192
    if s.se.locked ∨ c < 1000 ∨ 7200 < c ∨ c % 10 ≠ 0 then s
    else checkOver (s.modLd fun l => { l with bootCeil := c })

end Sys2Proof.Machine
end

