-- ==== Sys2Proof/Machine/CalOps.lean ====
section
/-! DEFINITION. Delay points of the Lehr: domains, sensors, ages and classes, and the stamps that
carry them (R216–R230, R239). -/

namespace Sys2Proof.Machine

def calPtReset (_ : Nat) : CalPoint := {}
/-- Delay point (Table 6-1): 2n and 2n + 1 transmit and receive of Pn, 12–15 of Kk, 16–47 of Ts, 48 TREF. -/
def calPt (s : State) (pt : Nat) : CalPoint := tget calPtReset s.cal.points pt
def modCalPt (s : State) (pt : Nat) (f : CalPoint → CalPoint) : State :=
  s.modCal fun c => { c with points := tmod calPtReset c.points pt f }

def calPortReset (_ : Nat) : CalPort := {}
/-- Calibration account of a port instance (R245). -/
def calPort (s : State) (i : Nat) : CalPort := tget calPortReset s.cal.ports i
def modCalPort (s : State) (i : Nat) (f : CalPort → CalPort) : State :=
  s.modCal fun c => { c with ports := tmod calPortReset c.ports i f }

/-- Port instance of a point (R245). -/
def calInst (pt : Nat) : Nat := if pt < 16 then pt / 2 else 16 + (pt - 16) / 2

/-- Transmit and receive points of a port instance. -/
def ptsOf (i : Nat) : List Nat := if i < 8 then [2 * i, 2 * i + 1] else [16 + 2 * (i - 16), 17 + 2 * (i - 16)]

/-- Domain of a point. -/
def ptDomain (pt : Nat) : Nat := if pt = 48 then 70 else (calDomain (calInst pt)).getD 70

/-- The point's lane or segment is up (R228). -/
def ptUp (s : State) (pt : Nat) : Bool :=
  on s (ptDomain pt) &&
    (if pt < 12 then (prt s (pt / 2)).up else if pt < 16 then on s (24 + (pt - 12) / 2) && (klink s ((pt - 12) / 2)).up else true)

/-- Nearest sensor of a point (Table 14-1). -/
def ptSensor (pt : Nat) : Nat := if pt < 12 then pt / 4 else if pt < 16 then 3 else 7

/-- Temperature at a point: its nearest sensor, the hottest where that is excluded (R227, R503). -/
def ptTemp (s : State) (pt : Nat) : Int :=
  let x := sensor s (ptSensor pt)
  if x.seen && x.valid && !x.excluded then x.reading else hottest s

/-- Temperature trigger of a point (R227). -/
def ptTrigger (s : State) (pt : Nat) : Nat := if pt = 48 then 20 else (calPort s (calInst pt)).trigger

/-- The die temperature at the point differs from its recorded Tj by more than the trigger. -/
def ptDrift (s : State) (pt : Nat) : Bool :=
  (calPt s pt).delay.isSome && decide ((ptTrigger s pt : Int) < (ptTemp s pt - (calPt s pt).tj).natAbs)

/-- CAL_CLASS of a point (R226, Table 6-3). -/
def ptClass (s : State) (pt : Nat) : Nat :=
  let x := calPt s pt
  if x.delay.isNone || x.stale then 2
  else
    let age := s.clock - x.at_
    if age ≥ 60000000000 then 2 else if age ≥ 1000000000 || ptDrift s pt then 1 else 0

/-- Age of a point in ms, saturating; infinite where never calibrated (R226, R230). -/
def ptAge (s : State) (pt : Nat) : Nat :=
  let x := calPt s pt
  if x.delay.isNone then 0xFFFFFFFF else min 0xFFFFFFFF (msSince s x.at_)

/-- Asymmetry in ps subtracted from a port's receive stamps (R239); on a cascade link source 2 acts as 1
(R420). -/
def asymOf (s : State) (i : Nat) : Int :=
  let src := cfg s (oidOf 0x0300 i 0) 1 1
  let set := cfgI s (oidOf 0x0300 i 0) 4 4
  if i ≥ 16 ∨ src = 0 then 0
  else if i < 6 ∧ src = 2 ∧ (calPort s i).asymAt ≠ 0 then (calPort s i).asym
  else set

/-- ps in units of 2^-16 ns. -/
def psUnits (ps : Int) : Int := ps * 65536 / 1000

/-- A hardware stamp of this instant, moved by some ps: fraction bits [9:0] are 0 (R166). What lies
below the tick is a free value (log entry 3). -/
def stampAt (s : State) (port cls : Nat) (movePs : Int) : Stamp × State :=
  let sb := (Config.subTick s.freeIx).toNat * 1024
  let t := ((now80 s : Int) + sb + psUnits movePs) / 1024 * 1024
  ({ port := port, at48 := BitVec.ofNat 48 (uns 48 t), cls := BitVec.ofNat 2 cls }, s.setFreeIx (s.freeIx + 1))

/-- TAP_TX or TAP_RX of a point at a Tj, linear in Tj between the fused values (R217), and beyond them on
the same line (log entry 147). -/
def tapDelay (pt : Nat) (tj : Int) : Int :=
  let f := Config.tapFusePs pt
  if tj ≤ 250 then f 0 + (f 1 - f 0) * (tj + 400) / 650 else f 1 + (f 2 - f 1) * (tj - 250) / 1000

/-- Rate of a point in Gb/s; 0 for the points of segments and TREF. -/
def ptRate (s : State) (pt : Nat) : Nat := if pt < 12 then (prt s (pt / 2)).gbps else if pt < 16 then 25 else 0

/-- Delay of a point at the bump: calibrated or nominal, plus its tap delay at the present Tj (R216, R224,
R230). -/
def ptDelay (s : State) (pt : Nat) : Int :=
  ((calPt s pt).delay.getD (Config.nominalDelayPs pt (ptRate s pt) (calPort s (calInst pt)).mode)) + tapDelay pt (ptTemp s pt)

/-- Wire time of one byte in ps at a rate. -/
def psPerByte (gbps : Nat) : Nat := if gbps = 25 then 320 else if gbps = 10 then 800 else 8000

/-- Wire time in ps of `n` bytes at a lane's rate. -/
def lanePs (s : State) (i n : Nat) : Int := n * psPerByte (ptRate s (2 * i))

/-- The state that a stamp is formed from whose mark passed at a clock value of the last 100 µs: delays, classes
and temperatures as they stood then (R223, R229). -/
def atMark (s : State) (t : Nat) : State :=
  let s := { s with clock := t }
  match s.cal.past.find? fun x => decide (t < x.till) with
  | some x => (s.modCal fun c => { c with points := x.points, ports := x.ports }).modMg fun m => { m with sensors := x.sensors }
  | none => s

/-- Clock at which the mark of a frame passed of which `n` bytes have come since. -/
def markAt (s : State) (i n : Nat) : Nat := s.clock - (lanePs s i n).toNat / 1000

/-- Egress stamp of Pn, or of Kk as port 6 + k, of a frame whose first preamble bit leaves the bump now. Its mark
passes the bump 8 bytes later; the digital stamp lies the path's own delay before that, a free value (log entry
212), and the transmit delay is added to it (R216, R223, R229, R289). -/
def txStamp (s : State) (i : Nat) : Stamp × State :=
  let m := s.clock + (lanePs s i 8).toNat / 1000
  let path := Config.pathPs (2 * i) s.freeIx
  let (st, s) := stampAt s i (ptClass s (2 * i)) (lanePs s i 8 + (ptDelay s (2 * i) - path))
  ({ st with mark := m }, s)

/-- Class of a transmit point at a mark that has passed (R229). -/
def txClassAt (s : State) (st : Stamp) : Stamp := { st with cls := BitVec.ofNat 2 (ptClass (atMark s st.mark) (2 * st.port)) }

/-- Ingress stamp of Pn, or of Kk as port 6 + k, of a frame of which `n` bytes have come since its mark, less
the receive delay and an asymmetry as they stood at the mark (R216, R223, R229, R239). -/
def rxStampAt (s : State) (i n : Nat) (asym : State → Int) : Stamp × State :=
  let m := markAt s i n
  let v := atMark s m
  let (st, s) := stampAt s i (ptClass v (2 * i + 1)) (-(lanePs s i n + ptDelay v (2 * i + 1) + asym v))
  ({ st with mark := m }, s)

/-- Ingress stamp of Pn, less the asymmetry in force, with the link delay in force (R202, R239). -/
def rxStamp (s : State) (i n : Nat) : Stamp × State :=
  let (st, t) := rxStampAt s i n fun v => asymOf v i
  ({ st with link := cfgI s (oidOf 0x0203 i 0) 8 8 }, t)

/-- Converters in service that serve no pass. -/
def freeConv (s : State) : Nat :=
  8 - popc s.cal.convBad - ((List.range 49).filter fun pt => (calPt s pt).running).length

/-- PERIOD_MS and PASS_LIMIT_MS of a point in ns (Table 6-8); TREF is sampled every 100 ms (Table 6-1). -/
def ptPeriod (s : State) (pt : Nat) : Nat := (if pt = 48 then 100 else cfg s (oidOf 0x0300 (calInst pt) 0) 8 4) * 1000000
def ptLimit (s : State) (pt : Nat) : Nat := (if pt = 48 then 100 else cfg s (oidOf 0x0300 (calInst pt) 0) 12 4) * 1000000

/-- Rank of the pass that a point is due for: relock, run-now, temperature, periodic (R225). -/
def ptDue (s : State) (pt : Nat) : Option Nat :=
  let x := calPt s pt
  let from_ := max x.tried (if x.delay.isSome then x.at_ else 0)
  if x.due.getLsbD 0 then some 0 else if x.due.getLsbD 1 then some 1 else if x.due.getLsbD 2 then some 2
  else if (x.delay.isNone && x.tried == 0) || decide (from_ + ptPeriod s pt ≤ s.clock) then some 3 else none

/-- A pass of the point could start but for a converter. -/
def ptReady (s : State) (pt : Nat) : Bool :=
  on s 70 && ptUp s pt && !(calPt s pt).running && !(pt != 48 && (calPort s (calInst pt)).suspended)

/-- Point `a` is served before point `b`: by rank, and among periodic passes the older (R225). -/
def ptBefore (s : State) (a b : Nat) : Bool :=
  match ptDue s a, ptDue s b with
  | some x, some y => decide (x < y) ||
      (x == 3 && y == 3 && (if (calPt s a).delay.isNone then (calPt s b).delay.isSome
        else (calPt s b).delay.isSome && decide ((calPt s a).at_ < (calPt s b).at_)))
  | some _, none => true
  | none, _ => false

/-- Due passes that are served before the point's. -/
def aheadOf (s : State) (pt : Nat) : Nat :=
  ((List.range 49).filter fun a => a != pt && ptReady s a && ptBefore s a pt).length

/-- A pass starts on a point (R220). -/
def passRuns (s : State) (pt : Nat) : State :=
  let now := s.clock
  modCalPt s pt fun x => { x with running := true, start := now, waits := none }

/-- FS142 follows TREF and the converters (Table 12-1). -/
def trefFault (s : State) : State :=
  if (calPt s 48).stale || s.cal.convBad != 0 then condOn s 142 else condOff s 142

/-- A condition is present; where another point had raised it, the assertion is recorded again. -/
def raiseAgain (s : State) (n : Nat) : State := if (srcOf s n).cond then fault s n else condOn s n

/-- The levels that say a point is CAL_STALE follow the points (Table 12-1). -/
def staleFaults (s : State) (pt : Nat) : State :=
  let st (k : Nat) : Bool := (calPt s k).stale
  if pt < 12 then
    let n := pt / 2
    if st pt then raiseAgain s (80 + 8 * n + 6)
    else if st (2 * n) || st (2 * n + 1) then s else condOff s (80 + 8 * n + 6)
  else if pt < 16 then
    if st pt then raiseAgain s 130 else if [12, 13, 14, 15].any st then s else condOff s 130
  else if pt = 48 then if st 48 then raiseAgain s 142 else trefFault s
  else s

/-- A deferred point is due at once: what had deferred it is gone (R243). -/
def retryNow (s : State) (i : Nat) : State :=
  (ptsOf i).foldl (fun s pt => modCalPt s pt fun x => { x with tried := 0 }) s

/-- Passes that lacked a brim are due at once where the gate lists have changed (R243). -/
def brimRetry (s : State) : State :=
  [0, 1, 2, 3, 4, 5].foldl (fun s i => if (calPort s i).deferred && (calPort s i).reason == 1 then retryNow s i else s) s

/-- Difference of two 48-bit stamps, signed (R237). -/
def diff48 (a b : BitVec 48) : Int := (a - b).toInt

/-- An offset step took effect at or after a clock value. -/
def steppedSince (s : State) (t : Nat) : Bool := s.tm.stepAt != 0 && decide (t ≤ s.tm.stepAt - 1)

/-- Points of a lane that relocks: never calibrated, in a mode that the spec leaves open (a free value, log
entry 146), a relock pass due and started where a converter is free (R224). -/
def relockPts (s : State) (i : Nat) : State :=
  let now := s.clock
  let (m, s) := draw (keepPast s)
  let s := (ptsOf i).foldl (fun s pt => modCalPt s pt fun _ => { relock := now, due := 1 }) s
  let s := modCalPort s i fun c => { c with relocks := satAdd (2 ^ 32 - 1) c.relocks 1, mode := m % 3 }
  let s := (ptsOf i).foldl staleFaults s
  (ptsOf i).foldl (fun s pt => if on s 70 && !(calPort s i).suspended && freeConv s != 0 then passRuns s pt else s) s

end Sys2Proof.Machine
end

