-- ==== Sys2Proof/Machine/Time.lean ====
section
/-! DEFINITION. Network time: reading and adjusting it, permits, the vote of the channels, the servo's
plane vote, time states, timed outputs and captures (chapter 5). -/

namespace Sys2Proof.Machine

/-- TIME_READ payload (R171, R215). -/
def timePayload (s : State) : Bytes :=
  if !timeOk s then zz 12 ++ [2] ++ zz 19
  else
    let ns := nowNs s
    toLe 6 (ns / 1000000000) ++ toLe 4 (ns % 1000000000) ++ toLe 2 (now80 s % 65536) ++ toLe 1 s.tm.state ++ zz 3 ++
      toLe 8 (rawNow s / 65536) ++ toLe 2 (rawNow s % 65536) ++ zz 6

/-- TIME_READ (R171). -/
def execTimeRead (via : Via) (s : State) : Host.Outcome State Fault Refusal :=
  runCmd via 0x50 (fun s r => sized r 0 (.ok s (timePayload s))) s

/-- Fields of TIME_LIMITS and TIME_SERVO (Table 5-5). -/
def jumpLimit (s : State) : Nat := cfg s 0x02000001 0 4
def rateStepLimit (s : State) : Nat := cfg s 0x02000001 4 4
def rateSlewMax (s : State) : Nat := cfg s 0x02000001 8 4
def servoOwner (s : State) : Nat := cfg s 0x02010000 0 1

/-- Rate in force, 2^-40 units. -/
def rateNow (s : State) : Int := if timeOk s then (vch s).rate.toInt else 0

/-- A value moved into an interval around a centre. -/
def clampTo (centre : Int) (span : Nat) (v : Int) : Int := max (centre - span) (min (centre + span) v)

/-- Disarm the permit. -/
def disarm (s : State) : State := s.modTm fun t => { t with permit := 0, permitAgent := 0, permitEnd := 0 }

/-- Arm a permit for an agent (R176). -/
def armPermit (s : State) (agent : Nat) : State :=
  let till := s.clock + 10000000000
  s.modTm fun t => { t with permit := 1, permitAgent := BitVec.ofNat 8 agent, permitEnd := till }

/-- An adjustment accepted; it awaits its point (R168). -/
def beginAdjust (s : State) (rate : Option Int) (step : Option Int) (permit : Bool) (via : Option Via) (servo : Bool) : State :=
  let at_ := rawNow s / 65536
  s.modTm fun t =>
    { t with pending := some { rate := rate.map (BitVec.ofInt 32), step := step, permit := permit, via := via,
                               servo := servo, at_ := at_ } }

/-- The agents that may send TIME_ADJUST under the present owner (R173). -/
def mayAdjust (s : State) (v : Via) : Bool :=
  match v with
  | .mb n => servoOwner s == 1 && n == 1
  | .session _ => servoOwner s == 1
  | .run => servoOwner s == 0
  | _ => false

/-- ST_JUMP payload (R175). -/
def jumpPayload (s : State) (step : Int) (rate : Int) (badStep : Bool) : Bytes :=
  if badStep then toLe 10 (uns 80 step) ++ toLe 4 (jumpLimit s)
  else toLe 10 (uns 80 (rate - rateNow s)) ++ toLe 4 (rateStepLimit s)

/-- The checks and effect of TIME_ADJUST (R173–R176). -/
def timeAdjust (s : State) (r : Request) : Answer :=
  sized r 24 (
    if by_ r.payload 0 ≥ 8 then badRange 16
    else reserved r [1, 2, 3, 18, 19, 20, 21, 22, 23] (
      if !mayAdjust s r.via then .no stAuth []
      else if !on s 68 then .no stState []
      else if s.tm.pending.isSome then .no stState []
      else
        let f := by_ r.payload 0
        let rv := bitN f 0
        let rate := sgn 32 (le r.payload 4 4)
        let step := if bitN f 1 then sgn 80 (le r.payload 8 10) else 0
        let badStep := decide (jumpLimit s * 65536 < step.natAbs)
        let badRate := rv && decide (rateStepLimit s < (rate - rateNow s).natAbs)
        let rate? := if rv then some rate else none
        let step? := if bitN f 1 then some step else none
        if badStep || badRate then
          if bitN f 2 ∧ s.tm.permit ≠ 0 then .later (beginAdjust (disarm s) rate? step? true (some r.via) true)
          else .done (fault s 37) stJump (jumpPayload s step rate badStep)
        else .later (beginAdjust s rate? step? false (some r.via) true)))

/-- TIME_ADJUST (R175). -/
def execTimeAdjust (via : Via) (s : State) : Host.Outcome State Fault Refusal :=
  runCmd via 0x51 timeAdjust s

/-- PERMIT_ARM: an agent of rank 3 or higher authority that may send ATTR_SET arms the permit, or the
Gaffer itself (R176, R181). -/
def execPermitArm (via : Via) (s : State) : Host.Outcome State Fault Refusal :=
  run s fun s => if on s 68 && opAllowed s via 0x11 && rankOf via ≤ 3 then armPermit s (agentOf via) else s

/-- PERMIT_EXPIRY: an armed permit only (R176, R177). -/
def execPermitExpiry (s : State) : Host.Outcome State Fault Refusal :=
  run s fun s => if s.tm.permit = 1 then disarm s else s

/-- The vote fails: nothing is driven, FS035 (R184). -/
def voteFail (s : State) : State :=
  if !on s 68 || s.tm.lostVote then s else fault (s.modTm fun t => { t with lostVote := true }) 35

/-- A channel is outvoted while the other two agree; the third time within 24 hours retires it (R184–R186). -/
def outvote (s : State) (ch : Nat) (values : BitVec 8) : State :=
  let now := s.clock
  let raw := (vch s).raw
  let s := s.modTm fun t => { t with outvoteRaw := raw, outvoteVals := values }
  let s := modChan s ch fun c =>
    { c with inVote := false, resync := true, since := now, outvotes := satAdd (2 ^ 32 - 1) c.outvotes 1,
             times := c.times.filter (fun t => now < t + 86400000000000) ++ [now] }
  let s := condOn s (32 + ch)
  if 3 ≤ (chan s ch).times.length then
    fault (modChan s ch fun c => { c with retired := true, resync := false }) 36
  else s

/-- CHANNEL_OUTVOTED (R184, Table 5-1). -/
def execChannelOutvoted (ch : Fin 3) (values : BitVec 8) (s : State) : Host.Outcome State Fault Refusal :=
  run s fun s =>
    if !timeOk s || !(chan s ch.val).inVote then s
    else if (voters s).length = 3 then outvote s ch.val values
    else voteFail s

/-- VOTE_FAILED (R184). -/
def execVoteFailed (s : State) : Host.Outcome State Fault Refusal := run s voteFail

/-- The time state changes, with its log record (Table 5-3, Table 14-6 type 8). -/
def setTimeState (s : State) (v : Nat) : State :=
  if s.tm.state = v then s else
  let was := s.tm.state
  let now := s.clock
  let s := s.modTm fun t => { t with state := v, since := now, succ := 0 }
  let s := logAdd s 8 0 (toLe 1 was ++ toLe 1 v)
  if was = 2 then condOff s 43 else s

/-- A servo update: an adjustment that takes effect (R192, Table 5-3). -/
def servoTook (s : State) : State :=
  let now := s.clock
  let s := s.modTm fun t => { t with updates := satAdd (2 ^ 32 - 1) t.updates 1, lastUpdate := now }
  let ref := !s.pw.refLost
  if s.tm.state = 2 then
    let s := s.modTm fun t => { t with succ := if ref then t.succ + 1 else 0 }
    if 2 ≤ s.tm.succ then setTimeState s 0 else s
  else if s.tm.state = 1 ∧ ref then setTimeState s 0
  else s

def modPlane (s : State) (p : Nat) (f : Plane → Plane) : State :=
  s.modTm fun t => { t with planes := tmod planeReset t.planes p f }

/-- FS038 and FS042 follow the planes' states (R189, R190). -/
def planeFaults (s : State) : State :=
  let any (f : Plane → Bool) : Bool := [0, 1, 2].any fun p => f (plane s p)
  let dis := any fun x => x.state == 3
  let s := if dis then condOn s 38 else condOff s 38
  if any fun x => x.expired then condOn s 42 else condOff s 42

/-- The median vote marks or clears DISAGREE (Table 5-2). -/
def markFar (s : State) (med : Int) : State :=
  let lim := cfg s 0x02010000 6 2 * 65536
  planeFaults ([0, 1, 2].foldl (fun s p => modPlane s p fun x =>
    let far := if lim < (x.off - med).natAbs then x.far + 1 else 0
    { x with far := min 3 far, state := if 3 ≤ far then 3 else if far = 0 then 2 else x.state }) s)

/-- Plane time vote: the voted offset, none where there is no servo update (Table 5-2). -/
def planeVote (s : State) : Option Int × State :=
  let ok := [0, 1, 2].filter (planeValid s)
  let offs := ok.map fun p => (plane s p).off
  match offs with
  | [_, _, _] => (some (median offs), condOff (condOff (markFar s (median offs)) 39) 40)
  | [a, b] =>
    if (a - b).natAbs ≤ cfg s 0x02010000 6 2 * 65536 then (some ((a + b) / 2), condOff (condOff s 39) 40)
    else (none, condOn (condOff s 40) 39)
  | [a] => if cfg s 0x02010000 3 1 = 1 then (some a, condOn (condOff s 39) 40) else (none, condOff (condOff s 39) 40)
  | _ => (none, condOff (condOff s 39) 40)

/-- The Gaffer's servo acts on an error of corrected time, in 2^-16 ns: within the jump limit by a rate
and a step of its filter, beyond it by a permit's step or by rate alone (R181). The filter's law is
not stated: its values are free within the limits (log entry 3). -/
def servoAct (s : State) (err : Int) : State :=
  if s.tm.pending.isSome then s else
  let cur := rateNow s
  let base := Config.servoRate s.freeIx err cur
  let want := Config.servoStep s.freeIx err cur
  let s := s.setFreeIx (s.freeIx + 1)
  let lim := jumpLimit s * 65536
  if err.natAbs ≤ lim then
    let s := s.modTm fun t => { t with slewing := false }
    beginAdjust s (some (clampTo cur (rateStepLimit s) base)) (some (clampTo 0 lim want)) false none true
  else if s.tm.permit ≠ 0 then
    beginAdjust (disarm s) (some (clampTo cur (rateStepLimit s) base)) (some (-err)) true none true
  else if cfg s 0x02010000 4 1 = 1 then
    beginAdjust (disarm (armPermit s 1)) (some (clampTo cur (rateStepLimit s) base)) (some (-err)) true none true
  else
    let s := if s.tm.slewing then s else fault (s.modTm fun t => { t with slewing := true }) 37
    let goal := if err > 0 then base - rateSlewMax s else base + rateSlewMax s
    beginAdjust s (some (clampTo cur (rateStepLimit s) goal)) none false none true

/-- The Gaffer's servo runs: OWNER 0, run stage, a voted time. -/
def servoRuns (s : State) : Bool := timeOk s && servoOwner s == 0 && s.se.phase == 3

/-- SERVO_UPDATE (R188–R190). -/
def execServoUpdate (p : Fin 3) (offset : BitVec 80) (s : State) : Host.Outcome State Fault Refusal :=
  run s fun s =>
    if !timeOk s then s else
    let x := plane s p.val
    let wasSettling := decide (0 < x.settle)
    let now := s.clock
    let s := modPlane s p.val fun x =>
      { x with off := offset.toInt, at_ := now, seen := true, settle := x.settle - 1,
               state := if x.settle = 1 ∧ x.state = 1 then 2 else x.state }
    let gap := [0, 1, 2].foldl (fun a q => min a (syncNs s q)) (syncNs s 0)
    if wasSettling || !planeValid s p.val || !servoRuns s || cfg s 0x02010000 1 1 != 0 then s
    else if s.tm.votedAt ≠ 0 ∧ now < s.tm.votedAt - 1 + gap then s
    else
      let (v, s) := planeVote (s.modTm fun t => { t with votedAt := now + 1 })
      match v with
      | some v => servoAct (s.modTm fun t => { t with voted := v }) v
      | none => s

/-- GRANDMASTER_CHANGE (R190). -/
def execGrandmasterChange (p : Fin 3) (identity : BitVec 64) (s : State) : Host.Outcome State Fault Refusal :=
  run s fun s =>
    if !on s 68 then s
    else if (plane s p.val).gm = identity then
      planeFaults (modPlane s p.val fun x => { x with expired := false, state := if x.state = 0 then 2 else x.state })
    else
      let n := cfg s (oidOf 0x0202 p.val 0) 4 1
      fault (planeFaults (modPlane s p.val fun x =>
        { x with gm := identity, state := 1, settle := n, far := 0, expired := false,
                 changes := satAdd (2 ^ 32 - 1) x.changes 1 })) 41

/-- ANNOUNCE_TIMEOUT (R190). -/
def execAnnounceTimeout (p : Fin 3) (s : State) : Host.Outcome State Fault Refusal :=
  run s fun s =>
    if !on s 68 then s
    else planeFaults (modPlane s p.val fun x => { x with state := 0, settle := 0, far := 0, expired := true })

/-- Mean of the rates in force over the last 16 s, weighted by time, floored (Table 5-3). -/
def meanRate (s : State) : Int :=
  let lo := s.clock - 16000000000
  let (acc, tot, _) := s.tm.rates.foldl (fun (a : Int × Nat × Nat) (x : Nat × Int) =>
    let (acc, tot, till) := a
    let w := till - max x.1 lo
    (acc + x.2 * w, tot + w, min till x.1)) (0, 0, s.clock)
  if tot = 0 then rateNow s else acc / tot

/-- HOLDOVER_ENTRY: the Gaffer as owner sets its mean rate, which is no servo update (Table 5-3). -/
def execHoldoverEntry (s : State) : Host.Outcome State Fault Refusal :=
  run s fun s =>
    if !timeOk s || s.tm.state != 0 then s else
    let s := setTimeState s 1
    if servoOwner s ≠ 0 ∨ s.tm.pending.isSome then s
    else beginAdjust s (some (clampTo (rateNow s) (rateStepLimit s) (meanRate s))) none false none false

/-- HOLDOVER_MAX (Table 5-3). -/
def execHoldoverMax (s : State) : Host.Outcome State Fault Refusal :=
  run s fun s => if !timeOk s || s.tm.state != 1 then s else condOn (setTimeState s 2) 43

def outReset (_ : Nat) : TimedOut := {}
def tout (s : State) (n : Nat) : TimedOut := tget outReset s.tm.outs n
def modTout (s : State) (n : Nat) (f : TimedOut → TimedOut) : State :=
  s.modTm fun t => { t with outs := tmod outReset t.outs n f }

/-- OIDs of the timed outputs and captures, their owners' names in the registry (R214). -/
def oTout (n : Nat) : Nat := oidOf 0x0205 n 0
def oTcap (n : Nat) : Nat := oidOf 0x0206 n 0

/-- Level driven on EVTn; low while an F4 is latched (R208). -/
def driveEvt (s : State) (n : Nat) (high : Bool) : State :=
  s.modPads fun p => { p with evt := setBit p.evt n (high && !s.fs.f4) }

/-- Comparators that an owner may take: free ones and its own (R153, R204). -/
def compsFree (s : State) (oid : Nat) : List Nat :=
  (List.range 16).filter fun i => match compOwner s i with
    | none => true
    | some (o, _) => o == oid

/-- All comparators and the pin of an owner are released. -/
def releaseRes (s : State) (oid : Nat) : State :=
  let mine (x : Nat × Option (Nat × Nat)) : Bool := (x.2.map fun y => y.1 == oid).getD false
  s.modLd fun l => { l with comps := l.comps.filter (fun x => !mine x), pins := l.pins.filter fun x => !mine x }

/-- An owner claims its pin and the lowest-numbered free comparators (R153). -/
def claimRes (s : State) (oid pin n agent : Nat) : State :=
  let s := releaseRes s oid
  let take := (compsFree s oid).take n
  s.modLd fun l =>
    { l with pins := tset (fun _ => none) l.pins pin (some (oid, agent)),
             comps := take.foldl (fun c i => tset (fun _ => none) c i (some (oid, agent))) l.comps }

/-- Refusal for want of comparators: the lowest-numbered one that another owner has claimed (R153). -/
def compRefusal (s : State) (oid n : Nat) : Option Bytes :=
  if n ≤ (compsFree s oid).length then none
  else match (List.range 16).find? fun i => !(compsFree s oid).contains i with
    | some i => match compOwner s i with
      | some (o, a) => some (resourcePayload (resId 2 i) o a)
      | none => none
    | none => none

/-- The checks and effect of TIMED_OUT_SET (R203, R204). Mode 0 gives no pulse, so its PERIOD and WIDTH stand
unread (log entry 153). -/
def timedOutSet (s : State) (r : Request) : Answer :=
  sized r 24 (
    let p := r.payload
    let n := by_ p 0; let mode := by_ p 1; let pol := by_ p 2
    let start := le p 4 10; let per := le p 16 4; let wid := le p 20 4
    if n > 7 then badRange 16 else if mode > 2 then badRange 17 else if pol > 1 then badRange 18
    else reserved r [3, 14, 15] (
      if mode ≠ 0 ∧ (per < 100 ∨ 1000000000 < per) then badRange 32
      else if mode ≠ 0 ∧ (wid < 4 ∨ (if mode = 2 then per < wid + 4 else 1000000000 < wid)) then badRange 36
      else if !on s 68 || !on s 72 then .no stState []
      else if mode = 0 then
        .ok (driveEvt (releaseRes (modTout s n fun o =>
          { missed := o.missed, cls := o.cls }) (oTout n)) n false) []
      else if start < now80 s + 10000 * 65536 then .no stState []
      else match compRefusal s (oTout n) mode with
        | some q => .no stResource q
        | none =>
          let s := claimRes s (oTout n) n mode (agentOf r.via)
          let s := modTout s n fun o =>
            { mode := mode, pol := pol == 1, start := start, period := per, width := wid, state := 1,
              missed := o.missed, cls := o.cls }
          .ok (driveEvt s n (pol == 1)) []))

/-- TIMED_OUT_SET (R204). -/
def execTimedOutSet (via : Via) (s : State) : Host.Outcome State Fault Refusal :=
  runCmd via 0x52 timedOutSet s

/-- Corrected time of an edge of an output (R203). -/
def edgeTime (o : TimedOut) (e : Nat) : Nat :=
  o.start + ((e / 2) * o.period + (if e % 2 = 1 then o.width else 0)) * 65536

/-- An output's trailing edge of a one-shot ends it, with its event (R208). -/
def outDone (s : State) (n : Nat) : State :=
  raiseEvent (modTout s n fun o => { o with state := 3 }) 125

/-- An edge of corrected time t is placed at the bump: DELAY_PS earlier, in steps of 2^-6 ns, with the class
of TREF (R166, R205, R229). -/
def placeEdge (s : State) (n t : Nat) : State :=
  let at_ := ((t : Int) - psUnits (cfgI s (oTout n) 0 4)) / 1024 * 1024
  let c := ptClass s 48
  modTout s n fun o => { o with last := t + 1, placed := at_.toNat, cls := BitVec.ofNat 2 c }

/-- An output produces its next edge, or counts it where it is closer than 4 ns to the last (R205). -/
def outEdge (s : State) (n : Nat) : State :=
  let o := tout s n
  let t := edgeTime o o.edge
  let lead := o.edge % 2 == 0
  let close := o.last != 0 && decide (((t : Int) - (o.last - 1 : Nat)).natAbs < 4 * 65536)
  let s := modTout s n fun o => { o with edge := o.edge + 1, state := 2 }
  let s := if close then count (modTout s n fun o => { o with missed := satAdd (2 ^ 32 - 1) o.missed 1 }) cDev 13
    else driveEvt (placeEdge s n t) n (lead != o.pol)
  if o.mode = 1 ∧ !lead then outDone s n else s

/-- TIMED_OUTPUT_EDGE; the comparators are stopped under an F4 (R203, R208). -/
def execTimedOutputEdge (n : Fin 8) (s : State) : Host.Outcome State Fault Refusal :=
  run s fun s =>
    let o := tout s n.val
    if !on s 72 || !timeOk s || s.fs.f4 || o.mode == 0 || o.state == 3 then s else outEdge s n.val

/-- First edge of an output after a corrected time (R207). -/
def edgeAfter (o : TimedOut) (t : Nat) : Nat :=
  if t < o.start then 0
  else
    let ns := (t - o.start) / 65536
    let k := if o.mode = 2 then ns / o.period else 0
    let e := 2 * k
    if edgeTime o (e + 1) ≤ t then e + 2 else e + 1

/-- A forward step passes over edges: none is produced, and a trailing edge missed takes place now (R207);
the comparators are stopped under an F4 (R208). -/
def outStep (s : State) (n : Nat) : State :=
  let o := tout s n
  if o.mode = 0 ∨ o.state = 3 ∨ s.fs.f4 then s else
  let e := edgeAfter o (now80 s)
  if e ≤ o.edge then s else
  let trail := decide (o.edge + 1 < e) || o.edge % 2 == 1
  let s := modTout s n fun o => { o with edge := e, state := 2 }
  let s := if trail then driveEvt (placeEdge s n (now80 s)) n o.pol else s
  if o.mode = 1 ∧ 2 ≤ e then outDone s n else s

def capReset (_ : Nat) : Capture := {}
def cap (s : State) (n : Nat) : Capture := tget capReset s.tm.caps n
def modCap (s : State) (n : Nat) (f : Capture → Capture) : State :=
  s.modTm fun t => { t with caps := tmod capReset t.caps n f }

/-- TIMED_CAP fields (Table 5-5). -/
def capOn (s : State) (n : Nat) : Bool := cfgBit s (oTcap n) 0 0
def capWindowed (s : State) (n : Nat) : Bool := cfgBit s (oTcap n) 2 0

/-- What stands against a TIMED_CAP image: its comparator (R152, R209). -/
def capRefusal (s : State) (n : Nat) (image : Bytes) : Option Bytes :=
  if by_ image 0 = 1 ∧ by_ image 2 = 1 then compRefusal s (oTcap n) 1 else none

/-- A TIMED_CAP image takes effect: pin and comparator claimed or released, the window open again (R209). -/
def capApply (s : State) (agent n : Nat) (image : Bytes) : State :=
  let s := objWrite s (oTcap n) 0 image
  let s := if by_ image 0 = 1 then claimRes s (oTcap n) (8 + n) (by_ image 2) agent else releaseRes s (oTcap n)
  modCap s n fun c => { c with shut := false }

/-- TIMED_CAP_WRITE (R209). The fields that the image changes are legal, or nothing happens. -/
def execTimedCapWrite (via : Via) (n : Fin 4) (image : Bytes) (s : State) : Host.Outcome State Fault Refusal :=
  run s fun s =>
    let old := objRead s (oTcap n.val) 0 24
    let image := sub image 0 24
    let legal := match descOf (oTcap n.val) with
      | none => false
      | some d => (reservedAt d image).isNone &&
        d.fields.all fun f => sub image f.off f.len == sub old f.off f.len || (rangeAt { d with fields := [f] } image).isNone
    if !legal || !on s 68 || !on s 72 || !opAllowed s via 0x11 || (capRefusal s n.val image).isSome then s
    else capApply s (agentOf via) n.val image

/-- Stamp of an edge on CAPn at a corrected time: DELAY_PS less, to 2^-6 ns (R166, R210). -/
def capStamp (s : State) (n at_ : Nat) : Nat := (((at_ : Int) - psUnits (cfgI s (oTcap n) 4 4)) / 1024 * 1024).toNat

/-- CAPTURE: an edge on CAPn is stamped, or lost and counted (R209–R211). -/
def execCapture (n : Fin 4) (rising : Bool) (sub : BitVec 7) (s : State) : Host.Outcome State Fault Refusal :=
  run s fun s =>
    let n := n.val
    if !on s 72 || !timeOk s || !capOn s n || (cap s n).shut then s else
    let edge := cfg s (oTcap n) 1 1
    if !(bitN edge (if rising then 0 else 1)) then s else
    let at_ := corrAt (vch s) ((vch s).raw.toNat + sub.toNat * 1024)
    let w0 := cfg s (oTcap n) 8 10
    if capWindowed s n && !(decide (w0 ≤ at_) && decide (at_ < w0 + cfg s (oTcap n) 20 4 * 65536)) then s else
    let t := capStamp s n at_
    let c := cap s n
    if c.last ≠ 0 ∧ ((t : Int) - (c.last - 1 : Nat)).natAbs < 100 * 65536 then
      count (modCap s n fun c => { c with lost := satAdd 255 c.lost 1 }) cDev 14
    else if c.stamps.length ≥ 16 then
      count (raiseEvent (modCap s n fun c => { c with lost := satAdd 255 c.lost 1, last := t + 1 }) 125) cDev 14
    else
      let st : Stamp := { port := n, at48 := form48 t, cls := BitVec.ofNat 2 (ptClass s 48) }
      raiseEvent (modCap s n fun c => { c with stamps := c.stamps ++ [st], last := t + 1 }) 125

/-- CAPTURE_WINDOW_CLOSE (R209). -/
def execCaptureWindowClose (n : Fin 4) (s : State) : Host.Outcome State Fault Refusal :=
  run s fun s =>
    if on s 72 && capOn s n.val && capWindowed s n.val then modCap s n.val fun c => { c with shut := true } else s

/-- CAPTURE_READ payload: each stamp with its class (Table 3-18). -/
def capPayload (c : Capture) : Bytes :=
  toLe 1 c.stamps.length ++ toLe 1 c.lost ++ zz 2 ++
    c.stamps.flatMap fun x => toLe 6 x.at48.toNat ++ toLe 1 x.cls.toNat ++ zz 1

/-- CAPTURE_READ (R212). -/
def execCaptureRead (via : Via) (s : State) : Host.Outcome State Fault Refusal :=
  runCmd via 0x53 (fun s r => sized r 4 (
    let n := by_ r.payload 0
    if n > 3 then badRange 16
    else reserved r [1, 2, 3] (
      if !on s 68 || !on s 72 || !capOn s n then .no stState []
      else
        let c := cap s n
        .done (modCap s n fun c => { c with stamps := [], lost := 0 })
          (if c.lost = 0 then stOk else stPartial) (capPayload c)))) s

end Sys2Proof.Machine
end

