-- ==== Sys2Proof/Machine/View.lean ====
section
/-! DEFINITION. Objects as a list of staged orders would leave them, and the schedule lists read in
such a view (R110, R253–R255, R262). -/

namespace Sys2Proof.Machine

/-- The byte of an object that one order writes, if it does: a taken word of an ATTR_SET, an entry of
a TABLE_WRITE or TABLE_CLEAR (Table 3-17). Read-only bytes of an image are not written. -/
def orderByte (oid off : Nat) (o : Order) : Option Byte :=
  if o.oid.toNat ≠ oid then none
  else if o.opcode = 0x11 then
    let ro := match descOf oid with
      | some d => d.ro.contains off
      | none => false
    if bitN (le o.payload 0 4) (off / 4) ∧ 4 + off < o.payload.length ∧ !ro then some (o.payload.getD (4 + off) 0) else none
  else if o.opcode = 0x20 then
    let size := le o.payload 6 2
    let first := le o.payload 0 4
    let e := off / size
    if size ≠ 0 ∧ first ≤ e ∧ e < first + le o.payload 4 2 then some (o.payload.getD (8 + (off - first * size)) 0) else none
  else if o.opcode = 0x22 then
    match descOf oid with
    | some d =>
      let first := le o.payload 0 4; let n := le o.payload 4 4
      let e := off / d.size
      if first ≤ e ∧ (n = 0 ∨ e < first + n) then some (objReset (objAddr oid off)) else none
    | none => none
  else none

/-- A byte of an object under a list of orders in received order: the last that writes it. -/
def viewByte (s : State) (os : List Order) (oid off : Nat) : Byte :=
  (os.reverse.findSome? (orderByte oid off)).getD (tget objReset s.objs (objAddr oid off))

/-- `n` bytes of an object under a list of orders. -/
def viewRead (s : State) (os : List Order) (oid off : Nat) : Nat → Bytes
  | 0 => []
  | n + 1 => viewByte s os oid off :: viewRead s os oid (off + 1) n

/-- Little-endian field of an object under a list of orders. -/
def vcfg (s : State) (os : List Order) (oid off n : Nat) : Nat := leNat (viewRead s os oid off n)

/-- OIDs of the schedule objects (Table 7-12). -/
def oMode (m : Nat) : Nat := oidOf 0x0402 m 0
def oGcl (m p : Nat) : Nat := oidOf 0x0401 (8 * m + p) 0

/-- ENTRY_COUNT of a port's list and CYCLE_NS of a mode. -/
def entryCount (s : State) (os : List Order) (m p : Nat) : Nat := vcfg s os (oMode m) (8 + 2 * p) 2
def cycleNs (s : State) (os : List Order) (m : Nat) : Nat := vcfg s os (oMode m) 0 4

/-- One gate entry: interval in ns, PREEMPT_OP, gates (Table 7-1). -/
structure GateEntry where
  ns : Nat
  op : Nat
  gates : Nat
  deriving DecidableEq, Repr

/-- A port's gate list of a mode, empty where it has none (R255). -/
def gateList (s : State) (os : List Order) (m p : Nat) : List GateEntry :=
  (List.range (entryCount s os m p)).map fun e =>
    let b := viewRead s os (oGcl m p) (8 * e) 8
    { ns := le b 0 3, op := by_ b 3 % 4, gates := by_ b 4 }

/-- First check of R255 that a gate list fails, as FIRST FAILURE and its entry (Table 7-12). -/
def gclFail (cycle : Nat) (l : List GateEntry) : Option (Nat × Nat) :=
  if l.isEmpty then none
  else match findIx (fun e : GateEntry => e.ns < 32 || e.op == 3) l with
    | some (i, _) => some (2, i)
    | none =>
      if l.foldl (fun a e => a + e.ns) 0 ≠ cycle then some (1, 0xFFFF)
      else if l.any (·.op == 1) && !l.any (·.op == 2) then some (3, 0xFFFF)
      else none

/-- The mode that a list of orders activates: its STAGE_MODE (R262). -/
def modeOf (os : List Order) : Option Nat :=
  (os.reverse.find? fun o => o.opcode == 0x30).map fun o => by_ o.payload 0

end Sys2Proof.Machine
end

