-- ==== Sys2Proof/Machine/TxOps.lean ====
section
/-! DEFINITION. Operations of a backbone port's transmit side: gates and admission, frame assembly,
the choice of the next frame, starting, cutting and ending it (R247–R288). -/

namespace Sys2Proof.Machine

/-- Wire time of `b` bytes on the line with preamble and gap, in ps (R274). -/
def wirePs (s : State) (p b : Nat) : Nat := (b + 20) * psPerByte (prt s p).gbps

/-- The operational list of a port. -/
def gates (s : State) (p : Nat) : List GateEntry := gateList s [] s.tx.mode p

/-- Cycle of the active mode in ps. -/
def cyclePs (s : State) : Nat := cycleNs s [] s.tx.mode * 1000

/-- Entry at a position of the cycle: its number and its start, in ps. -/
def entryAtFuel (off : Nat) : List GateEntry → Nat → Nat → Nat × Nat
  | [], i, st => (i - 1, st)
  | e :: es, i, st => if off < st + e.ns * 1000 ∨ es.isEmpty then (i, st) else entryAtFuel off es (i + 1) (st + e.ns * 1000)

def entryAt (l : List GateEntry) (off : Nat) : Nat × Nat := entryAtFuel off l 0 0

/-- The entries of a list with their starts in ps. -/
def entryStarts : List GateEntry → Nat → List (Nat × GateEntry)
  | [], _ => []
  | e :: es, st => (st, e) :: entryStarts es (st + e.ns * 1000)

/-- HOLD_ADVANCE_NS of a port in ps (Table 7-12). -/
def holdAdvance (s : State) (p : Nat) : Nat := cfg s (oMerge p) 6 2 * 1000

/-- Position in the cycle at a corrected time in ps (R254). -/
def cyclePos (s : State) (t : Nat) : Nat := if cyclePs s = 0 then 0 else t % cyclePs s

/-- The list from the entry in force on, once round, with what is left of that entry first. -/
def fromNow (s : State) (p t : Nat) : List (Nat × Nat) :=
  let l := gates s p
  let off := cyclePos s t
  let (i, st) := entryAt l off
  match l.drop i with
  | [] => []
  | e :: es => (st + e.ns * 1000 - off, e.gates) :: ((es ++ l.take i ++ [e]).map fun x => (x.ns * 1000, x.gates))

/-- Gate q is open at a corrected time in ps, or no list is active (R249, R255). -/
def gateOpen (s : State) (p q t : Nat) : Bool :=
  match fromNow s p t with
  | [] => true
  | (_, g) :: _ => bitN g q

/-- ps to the next closing edge of gate q; none where it never closes (R275). -/
def toClose (q : Nat) : List (Nat × Nat) → Option Nat
  | [] => none
  | (d, g) :: rest => if bitN g q then (toClose q rest).map (· + d) else some 0

/-- The boundary of a set that the hardware holds, as a close of gate q in the last cycle before it (R264). -/
def boundaryClose (s : State) (p q t : Nat) : Option Nat :=
  match s.mb.boundary, modeOf s.mb.frozen with
  | some b, some m =>
    let b := b * 1000
    match gateList s s.mb.frozen m p with
    | e :: _ => if s.mb.held && decide (t < b) && decide (b ≤ t + cyclePs s) && !bitN e.gates q then some (b - t) else none
    | [] => none
  | _, _ => none

/-- ps until gate q closes (R264, R275). -/
def closeIn (s : State) (p q t : Nat) : Option Nat :=
  match toClose q (fromNow s p t), boundaryClose s p q t with
  | some a, some b => some (min a b)
  | some a, none => some a
  | none, b => b

/-- Longest run of open entries of gate q in ns, counted across the cycle end; none where it never
closes (R272). -/
def longestRun (l : List GateEntry) (q : Nat) : Option Nat :=
  if l.all fun e => bitN e.gates q then none
  else
    let (_, best) := (l ++ l).foldl (fun (a : Nat × Nat) e =>
      let run := if bitN e.gates q then a.1 + e.ns else 0
      (run, max a.2 run)) (0, 0)
    some best

/-- ps from a corrected time to the next opening edge of gate q; none where none comes (R271). -/
def toOpen (q : Nat) (was : Bool) : List (Nat × Nat) → Nat → Option Nat
  | [], _ => none
  | (d, g) :: rest, acc => if bitN g q && !was then some acc else toOpen q (bitN g q) rest (acc + d)

def openIn (s : State) (p q t : Nat) : Option Nat :=
  match fromNow s p t with
  | [] => none
  | (d, g) :: rest => toOpen q (bitN g q) rest d

/-- MAC merge is active on the port (R278). -/
def mergeOn (s : State) (p : Nat) : Bool := (prt s p).merge == 2 || (prt s p).merge == 3

/-- Level of a frame: express, L1–L3, all express without MAC merge, one preemptable class without
stacked preemption (R248, R283). -/
def levelOf (s : State) (p : Nat) (f : EgFrame) : Nat :=
  let x := prt s p
  let l := x.levels.toNat / 4 ^ f.tc % 4
  if f.express || !mergeOn s p then 0 else if x.merge = 3 then l else min l 1

/-- SEC_TXSC of a port (Table 13-11). -/
def oSec (p : Nat) : Nat := oidOf 0x0A02 p 0

/-- The port protects its frames: PD12 + n ENABLED and ENABLE set. -/
def secOn (s : State) (p : Nat) : Bool := on s (12 + p) && cfgBit s (oSec p) 9 0

/-- Key store by slot number (R485). -/
def keyAt (s : State) (slot : Nat) : Option Key := tget (fun _ => none) s.se.keys slot

/-- The transmit channel has a key and a packet number left (R490, R491). -/
def secKeyed (s : State) (p : Nat) : Bool :=
  let an := cfg s (oSec p) 8 1 % 4
  (keyAt s (cfg s (oSec p) (12 + 2 * an) 2)).isSome && cfg s (oSec p) (20 + 8 * an) 8 != 0

/-- Bytes that MACsec adds to a frame: SecTAG and ICV; an EAPOL frame for which there is no key goes in
clear (R490). -/
def secBytes (s : State) (p : Nat) (data : Bytes) : Nat :=
  if !secOn s p || (be data 12 2 == 0x888E && !secKeyed s p) then 0 else if cfgBit s (oSec p) 9 1 then 32 else 24

/-- CT_ASSUME_BYTES of a port (Table 7-12). -/
def ctBytes (s : State) (p : Nat) : Nat := cfg s (oTxs p) 14 2

/-- Bytes of a frame on the wire from destination address to FCS (R274, R285); a frame whose end has not
come counts CT_ASSUME_BYTES (R277). -/
def lineBytes (s : State) (p : Nat) (f : EgFrame) : Nat :=
  if f.whole then max 60 (f.data.length + secBytes s p f.data) + 4 else ctBytes s p

/-- ADMIT_GUARD_NS of a port in ps. -/
def guardPs (s : State) (p : Nat) : Nat := cfg s (oTxs p) 16 2 * 1000

/-- Shortest fragment with its mCRC: 64 × (1 + a) bytes (R275). -/
def minFrag (s : State) (p : Nat) : Nat := 64 * (1 + (prt s p).frag)

/-- B bytes of gate q are admitted at a corrected time in ps, whole or, where they can be split, by their first
fragment, under a guard and a shortest fragment (R275). -/
def admitsBy (s : State) (p q lvl b t guard frag : Nat) : Bool :=
  match closeIn s p q t with
  | none => true
  | some c =>
    decide (wirePs s p b + guard ≤ c) ||
    (lvl != 0 && decide (frag + 64 ≤ b) && decide (wirePs s p frag + guard ≤ c))

/-- B bytes of gate q are admitted under the settings in force (R275). -/
def admitted (s : State) (p q lvl b t : Nat) : Bool := admitsBy s p q lvl b t (guardPs s p) (minFrag s p)

/-- TC q is paused (R287). -/
def paused (s : State) (p q : Nat) : Bool :=
  let e := tget (fun _ => 0) (prt s p).pause q
  e != 0 && decide (s.clock * 1000 < e)

/-- CBS of a TC: enabled (R252). -/
def cbsOn (s : State) (p q : Nat) : Bool := (q == 1 || q == 2) && cfgBit s (oCbs p) 0 (q - 1)
def cbsSlope (s : State) (p q : Nat) : Int := cfg s (oCbs p) (4 * q) 4
def cbsCredit (x : Port) (q : Nat) : Int := if q = 1 then x.credit1 else x.credit2

/-- ps within the first `d` ps of a list from now on during which gate q is open. -/
def openWithin (q : Nat) : List (Nat × Nat) → Nat → Nat
  | [], _ => 0
  | (n, g) :: rest, d => (if bitN g q then min n d else 0) + openWithin q rest (d - n)

/-- ps of the `d` ps from a corrected time on during which gate q is open, or no list is active (R252). -/
def openPs (s : State) (p q t d : Nat) : Nat :=
  let l := fromNow s p t
  let c := cyclePs s
  if l.isEmpty ∨ c = 0 then d else d / c * openWithin q l c + openWithin q l (d % c)

/-- Credit of one shaped queue after the last `dt` ns (R252): it grows only for the time that the gate was
open; the gate is judged by the corrected time at both ends, whose rate differs from the raw count's by at
most 100 ppm (log entry 144). -/
def cbsAfter (s : State) (p q : Nat) (dt : Nat) : Int :=
  let x := prt s p
  let c := cbsCredit x q
  let sending := (x.line.map fun l => l.frame.tc == q).getD false
  let waits := x.eg.any (fun f => f.tc == q && !f.kept) || x.susp.any fun l => l.frame.tc == q
  if !cbsOn s p q then 0
  else if sending then c + (cbsSlope s p q - x.gbps * 1000000) * dt
  else if waits then c + cbsSlope s p q * openPs s p q (nowPs s - dt * 1000) (dt * 1000) / 1000
  else min c 0

/-- Credits brought up to this instant (R252). -/
def cbsUpdate (s : State) (p : Nat) : State :=
  let dt := s.clock - (prt s p).creditAt
  let a := cbsAfter s p 1 dt; let b := cbsAfter s p 2 dt
  let now := s.clock
  modPrt s p fun x => { x with credit1 := a, credit2 := b, creditAt := now }

/-- Credits of every port brought up to this instant, before its gates or the time change (R252). -/
def cbsAll (s : State) : State := [0, 1, 2, 3, 4, 5].foldl cbsUpdate s

/-- A frame that waits for an opening edge may go (Table 7-7). -/
def waited (s : State) (p : Nat) (f : EgFrame) (t : Nat) : Bool :=
  match f.waitFrom with
  | none => true
  | some w => match openIn s p f.tc (w * 1000) with
    | some d => decide (w * 1000 + d ≤ t)
    | none => true

/-- The MAC hold keeps preemptable frames off the line; on a port without a gate list no hold applies (R255,
R259). -/
def holds (s : State) (p : Nat) : Bool := (prt s p).hold && !(gates s p).isEmpty

/-- The queue's credit lets it send (R249, R252). -/
def creditOf (s : State) (p q : Nat) : Bool := !cbsOn s p q || decide (0 ≤ cbsCredit (prt s p) q)

/-- The head of queue q is eligible (R249). -/
def eligible (s : State) (p : Nat) (f : EgFrame) (t : Nat) : Bool :=
  let lvl := levelOf s p f
  gateOpen s p f.tc t && !paused s p f.tc && waited s p f t && admitted s p f.tc lvl (lineBytes s p f) t &&
    creditOf s p f.tc && !(lvl != 0 && holds s p)

/-- A cut-through copy whose gate is open and that is not admitted on CT_ASSUME_BYTES (R277). -/
def turnedAway (s : State) (p : Nat) (f : EgFrame) (t : Nat) : Bool :=
  !f.whole && gateOpen s p f.tc t && !admitted s p f.tc (levelOf s p f) (ctBytes s p) t

/-- Head of a queue: its oldest frame that is ready (R251). -/
def headOf (s : State) (p q : Nat) : Option EgFrame := (prt s p).eg.find? fun f => f.tc == q && !f.kept

/-- The eligible head of the highest-numbered queue of a level. -/
def pickLevel (s : State) (p lvl t : Nat) : Option EgFrame :=
  [7, 6, 5, 4, 3, 2, 1, 0].findSome? fun q => match headOf s p q with
    | some f => if levelOf s p f = lvl ∧ eligible s p f t then some f else none
    | none => none

/-- Shortest data of a fragment of a frame on the line (R276). -/
def minData (l : OnLine) : Nat := 64 * (1 + l.afs) - 4

/-- Remaining bytes of a frame on the line with its FCS; of one whose end has not come, by the CT_ASSUME_BYTES of
its admission (R277, R292). -/
def restBytes (l : OnLine) : Nat :=
  if l.frame.whole then max 60 (l.wire.length - l.gone) + 4 else max 64 (l.ctb - l.gone)

/-- A suspended frame may resume: R249 on its remaining bytes, whatever is paused (R250, R288), with the bytes of a
fragment at hand (R330), under the settings with which it was admitted (R292). -/
def mayResume (s : State) (p : Nat) (l : OnLine) (t : Nat) : Bool :=
  gateOpen s p l.frame.tc t && !holds s p && (!l.shaped || creditOf s p l.frame.tc) &&
    (l.frame.whole || decide (l.gone + minData l ≤ l.wire.length)) &&
    admitsBy s p l.frame.tc l.lvl (restBytes l) t l.guard (64 * (1 + l.afs))

/-- What the port sends next (R250). -/
inductive Pick where
  | new (f : EgFrame)
  | resume (l : OnLine)
  | none
  deriving DecidableEq, Repr

/-- Levels L1 to L3 in turn (R250). -/
def pickPreemptable (s : State) (p t : Nat) : List Nat → Pick
  | [] => .none
  | l :: ls =>
    match (prt s p).susp.find? (·.lvl == l) with
    | some x => if mayResume s p x t then .resume x else pickPreemptable s p t ls
    | none => match pickLevel s p l t with
      | some f => .new f
      | none => pickPreemptable s p t ls

/-- No new frame starts: after a gate-copy mismatch (R257), and while a domain of the port is DISABLING
(R141 step 2). -/
def barred (s : State) (p : Nat) : Bool :=
  ((prt s p).noNew && !(gates s p).isEmpty) || [p, 6 + p, 12 + p].any fun d => (dom s d).state == 3

/-- Transmission selection (R250). -/
def pick (s : State) (p t : Nat) : Pick :=
  let r : Pick := match pickLevel s p 0 t with
    | some f => .new f
    | none => pickPreemptable s p t [1, 2, 3]
  match r with
  | .new f => if barred s p then
      (match pickPreemptable (modPrt s p fun x => { x with eg := [] }) p t [1, 2, 3] with
       | .resume l => .resume l
       | _ => .none) else .new f
  | r => r

/-- Offset of the EtherType behind at most `n` VLAN tags. -/
def etherOff (b : Bytes) : Nat → Nat → Nat
  | 0, o => o
  | n + 1, o => if [0x8100, 0x88A8, 0x9100].contains (be b o 2) then etherOff b n (o + 4) else o

/-- Offset of a PTP header, none where the frame is no PTP frame (Table 5-4). -/
def ptpOff (b : Bytes) : Option Nat :=
  let o := etherOff b 2 12
  if be b o 2 = 0x88F7 ∧ o + 36 ≤ b.length then some (o + 2) else none

/-- correctionField plus an amount (R201). -/
def addCorrection (s : State) (p : Nat) (b : Bytes) (o : Nat) (amount : Int) : Bytes × State :=
  let old := be b (o + 8) 8
  if old = 2 ^ 63 - 1 then (b, s)
  else
    let v := sgn 64 old + amount
    if v > 2 ^ 63 - 1 then (patch b (o + 8) (toBe 8 (2 ^ 63 - 1)), count s (cPort p 4) 3)
    else
      let (x, s) := if v < -2 ^ 63 then draw s else (uns 64 v, s)
      (patch b (o + 8) (toBe 8 x), count s (cPort p 4) 0)

/-- A correction added, with the class of the residence time in it (R201, R229). -/
def addResidence (s : State) (p : Nat) (b : Bytes) (o : Nat) (amount : Int) (cls : BitVec 2) :
    Bytes × Option (BitVec 2) × State :=
  let (b, s) := addCorrection s p b o amount
  (b, some cls, s)

/-- Transparent-clock edit of a forwarded frame at its egress stamp, with the class of its residence
correction: the worse of ingress and egress (R196–R202, R229). -/
def tcEdit (s : State) (p : Nat) (f : EgFrame) (st : Stamp) : Bytes × Option (BitVec 2) × State :=
  match f.src, f.rx, ptpOff f.data with
  | .fwd inPort, some rx, some o =>
    let mode := cfg s (oidOf 0x0203 inPort 0) 0 1
    let link := if mode = 2 then rx.link else 0
    let ty := by_ f.data o % 16
    let res : Nat := (st.at48 - rx.at48).toNat
    let cls := if rx.cls.toNat < st.cls.toNat then st.cls else rx.cls
    let plane := p / 2
    let pid := sub f.data (o + 20) 10
    let seq := BitVec.ofNat 16 (be f.data (o + 30) 2)
    if mode = 0 then (f.data, none, s)
    else if ty = 0 ∧ by_ f.data (o + 6) / 2 % 2 = 1 then
      let mine := s.tm.pairs.filter fun x => x.plane == plane
      let old := if mine.length ≥ 16 then mine.head? else none
      let now := s.clock
      (f.data, none, s.modTm fun t =>
        { t with pairs := (match old with
            | some x => t.pairs.erase x
            | none => t.pairs) ++ [⟨plane, res, cls, pid, seq, inPort, now⟩] })
    else if ty = 0 ∨ (ty = 1 ∧ mode = 1) then addResidence s p f.data o (res + link) cls
    else if ty = 8 then
      match s.tm.pairs.find? fun x => x.plane == plane && x.portId == pid && x.seq == seq && x.inPort == inPort &&
          decide (s.clock ≤ x.at_ + 100000000) with
      | some x => addResidence (count (s.modTm fun t => { t with pairs := t.pairs.erase x }) (cPort p 4) 1) p f.data o
          (x.residence + link) x.cls
      | none => (f.data, none, count s (cPort p 4) 2)
    else (f.data, none, s)
  | _, _, _ => (f.data, none, s)

/-- The transmit channel takes a packet number for one frame; none where it has no key or no number
left (R490, R491). -/
def secTake (s : State) (p : Nat) (userLen : Nat) : Option (SecUse × State) :=
  let an := cfg s (oSec p) 8 1 % 4
  let pn := cfg s (oSec p) (20 + 8 * an) 8
  match keyAt s (cfg s (oSec p) (12 + 2 * an) 2) with
  | none => none
  | some k =>
    if pn = 0 then none else
    let sci := cfgBit s (oSec p) 9 1
    let conf := cfgBit s (oSec p) 9 2
    let tci := (if sci then 0x20 else 0) + (if conf then 0x0C else 0) + an
    let tag : Bytes := [0x88, 0xE5] ++ toLe 1 tci ++ toLe 1 (if userLen < 48 then userLen else 0) ++ toBe 4 (pn % 2 ^ 32) ++
      (if sci then objRead s (oSec p) 0 8 else [])
    let s := objWrite s (oSec p) (20 + 8 * an) (toLe 8 (pn + 1))
    let s := count (modPrt s p fun x => { x with prot := x.prot + 1 }) (cPort p 3) 8
    some ({ key := k.key, nonce := k.ssci ++ k.salt, pn := pn, tag := tag, conf := conf }, s)

/-- A frame protected and padded, before its FCS (R285 steps 3 and 4). -/
def protect (f : Bytes) (u : Option SecUse) : Bytes :=
  match u with
  | none => padTo 60 f
  | some u => padTo 60 (f.take 12 ++ u.tag ++ gcmProtect u.key u.nonce u.pn (f.take 12 ++ u.tag) (f.drop 12) u.conf)

/-- A frame protected whose end is not yet known: what has come so far, without its ICV. -/
def sealPart (f : Bytes) (u : Option SecUse) : Bytes :=
  match u with
  | none => f
  | some u =>
    let x := gcmProtect u.key u.nonce u.pn (f.take 12 ++ u.tag) (f.drop 12) u.conf
    f.take 12 ++ u.tag ++ x.take (x.length - 16)

/-- SMD-S and SMD-C codes and fragment counts of IEEE 802.3br (R279). -/
def smdS (c : Nat) : Nat := [0xE6, 0x4C, 0x7F, 0xB3].getD (c % 4) 0
def smdC (c : Nat) : Nat := [0x61, 0x52, 0x9E, 0x2A].getD (c % 4) 0
def fragCode (c : Nat) : Nat := [0xE6, 0x4C, 0x7F, 0xB3].getD (c % 4) 0

/-- Frame count of the next preemptable frame: the one after the last used, past those held (R281). -/
def nextCount (x : Port) : Nat :=
  ([1, 2, 3, 4].find? fun k => !x.susp.any fun l => l.count == (x.lastCount + k) % 4).map (fun k => (x.lastCount + k) % 4)
    |>.getD 0

/-- A frame of the port is over: its cells are free, its descriptor told (R269, R333). -/
def finish (s : State) (p : Nat) (f : EgFrame) (e : PortEnd) : State :=
  match f.src with
  | .host q idx => settle s q idx p e
  | .fwd _ => modPrt s p fun x => { x with fwdCells := x.fwdCells - fwdCellsOf f.data.length }
  | .own => s

/-- Take a frame out of the egress queues. -/
def unqueue (s : State) (p id : Nat) : State := modPrt s p fun x => { x with eg := x.eg.filter (·.id != id) }

/-- A frame put on the free line: stamped, edited and protected; one that has no key is dropped
(R281, R285, R490). -/
def beginAt (s : State) (p : Nat) (f : EgFrame) (smd? : Option Nat) (st : Stamp) : State :=
  let s := cbsUpdate s p
  let lvl := levelOf s p f
  let s := unqueue s p f.id
  let drop (s : State) : State :=
    finish (count (modPrt s p fun x => { x with noKey := x.noKey + 1 }) (cPort p 3) 9) p f .noKey
  let (data, res, s') := tcEdit s p f st
  let go (u : Option SecUse) (s : State) : State :=
    let wire := if f.whole then protect data u else sealPart data u
    let c := if lvl = 0 then 0 else nextCount (prt s p)
    modPrt s p fun x =>
      { x with line := some { frame := { f with data := data }, lvl := lvl, wire := wire, gone := 0, count := c, frag := 0,
                              stomp := f.bad, stamp := st, smd := smd?.getD (if lvl = 0 then 0xD5 else smdS c), ct := !f.whole, sec := u,
                              afs := x.frag, stk := x.merge == 3, resCls := res, guard := guardPs s p, ctb := ctBytes s p,
                              shaped := cbsOn s p f.tc },
               lastCount := if lvl = 0 then x.lastCount else c }
  if smd?.isSome || !secOn s p then go none s'
  else match secTake s' p (data.length - 12) with
    | some (u, s) => go (some u) s
    | none => if be data 12 2 = 0x888E then go none s' else drop s

/-- A queued frame put on the free line, stamped now. -/
def begin_ (s : State) (p : Nat) (f : EgFrame) (smd? : Option Nat) : State :=
  let (st, s) := txStamp s p
  beginAt s p f smd? st

/-- A suspended frame resumes with its SMD-C (R280, R281). -/
def resume (s : State) (p : Nat) (l : OnLine) : State :=
  let s := cbsUpdate s p
  modPrt s p fun x =>
    { x with susp := x.susp.erase l, line := some { l with smd := smdC l.count } }

/-- An SMD-V or SMD-R frame may go now: it ends before the next opening edge of any gate (R278). -/
def smdFits (s : State) (p t : Nat) : Bool :=
  (List.range 8).all fun q => match openIn s p q t with
    | some d => decide (wirePs s p 64 ≤ d)
    | none => true

/-- The frame of an SMD-V or SMD-R: 60 zero bytes. -/
def smdFrame : EgFrame := { id := 0, tc := 0, data := zz 60, src := .own, express := true }

/-- The port's next frame goes on the free line, fuel-bounded over frames dropped for want of a key. -/
def startFuel : Nat → State → Nat → State
  | 0, s, _ => s
  | k + 1, s, p =>
    let x := prt s p
    if x.line.isSome || portSilent s p || !x.up || !on s (6 + p) then s else
    let t := nowPs s
    match x.smds with
    | v :: rest =>
      if smdFits s p t && !barred s p then begin_ (modPrt s p fun x => { x with smds := rest }) p smdFrame (some (if v then 0x07 else 0x19))
      else match pick s p t with
        | .new f => startFuel k (begin_ s p f none) p
        | .resume l => resume s p l
        | .none => s
    | [] =>
      match pick s p t with
      | .new f => startFuel k (begin_ s p f none) p
      | .resume l => resume s p l
      | .none => s

/-- Cut-through copies that are turned away at the head of their queues are not ready until they are whole
(R277, R329). -/
def keepBack (s : State) (p : Nat) : State :=
  let t := nowPs s
  let heads := [0, 1, 2, 3, 4, 5, 6, 7].filterMap fun q => match headOf s p q with
    | some f => if turnedAway s p f t then some f.id else none
    | none => none
  if heads.isEmpty then s
  else modPrt s p fun x => { x with eg := x.eg.map fun f => if heads.contains f.id then { f with kept := true } else f }

/-- `n` data bytes of the fragment end at a legal point of the frame on the line (R276); of a frame whose
end has not come, within the bytes received (R330). -/
def legalCut (l : OnLine) (n : Nat) : Bool :=
  (l.gone + n) % 8 == 0 && decide (minData l ≤ n) && decide (l.gone + n + (if l.frame.whole then 60 else 0) ≤ l.wire.length)

/-- The first legal point at or after `n` data bytes of the fragment. -/
def firstLegal (l : OnLine) (n : Nat) : Option Nat :=
  let n := max n (minData l)
  let n := n + (8 - (l.gone + n) % 8) % 8
  if legalCut l n then some n else none

/-- The latest legal point from `lo` to `hi` data bytes of the fragment. -/
def lastLegal (l : OnLine) (lo hi : Nat) : Option Nat :=
  let n := min hi (l.wire.length - (if l.frame.whole then 60 else 0) - l.gone)
  let n := n - (l.gone + n) % 8
  if lo ≤ n ∧ legalCut l n then some n else none

/-- Data bytes of the fragment that can leave, with mCRC and gap, before C', where `sent` of them have left
by now; none where the gate never closes (R275, R276). -/
def byClose (s : State) (p : Nat) (l : OnLine) (sent : Nat) : Option Nat :=
  (closeIn s p l.frame.tc (nowPs s)).map fun c => sent + (c - l.guard) / psPerByte (prt s p).gbps - 16

/-- Whether the fragment that has just gone on the line is to end before its frame does, at C' (R275, R276, R463). -/
def markInner (s : State) (p : Nat) : State :=
  match (prt s p).line with
  | none => s
  | some l =>
    let total := if l.frame.whole then l.wire.length else l.ctb
    let b := l.lvl != 0 && (byClose s p l 0).any fun n => decide (l.gone + n < total)
    modPrt s p fun x => { x with line := some { l with inner := b } }

/-- FRAME_TRANSMIT_START's effect on a port. -/
def startNext (s : State) (p : Nat) : State :=
  let s := cbsUpdate s p
  if (prt s p).line.isSome then s else markInner (startFuel ((prt s p).eg.length + 1) (keepBack s p) p) p

/-- A frame to a stack master as its member's TX_DONE (R427), built from a decided descriptor that no
queue of its own stamps. -/
def txWbPlain (r : TxRec) (status : BitVec 8) : Bytes :=
  sub r.desc 8 8 ++ zz 6 ++ [0x30] ++ [status] ++ toLe 2 r.seq.toNat ++ toLe 1 r.sent.toNat ++ zz 12 ++ [0x80]

/-- TX_DONE for every frame of a stack master that is decided here (R427). -/
def flushDown (s : State) : State :=
  [0, 1].foldl (fun s k =>
    let u := que s (128 + k)
    let fin := u.recs.filterMap fun r => match r.phase with
      | .done v => some (r, v)
      | _ => none
    if fin.isEmpty then s else
    let s := modQue s (128 + k) fun u => { u with recs := u.recs.filter fun r => match r.phase with
      | .done _ => false
      | _ => true }
    fin.foldl (fun s (r, v) =>
      let body := toLe 1 (r.idx / 4096) ++ zz 1 ++ toBe 2 (r.idx % 4096) ++ txWbPlain r v
      let dst := if s.sk.master < 8 then s.sk.master else match (klink s k).nbr with
        | some d => by_ d 8
        | none => 0
      kSend s (linkTo s dst) 0x32 dst body) s) s

/-- Counters of a transmission that has ended: its last bytes left (Table 14-8). -/
def countEnd (s : State) (p : Nat) (l : OnLine) : State :=
  let s := count s (cPort p 0) 11
  let s := countN s (cPort p 0) 12 (l.wire.length + 4)
  let s := count s (cPort p 0) (if l.lvl = 0 then 13 else 14)
  match l.frame.src with
  | .host _ _ => let s := count s (cPort p 1) 0; if l.frame.late then count s (cPort p 1) 2 else s
  | _ => s

/-- The frame or last fragment on the line ends, with its FCS or with an inverted one (R285, R463). -/
def endLine (s : State) (p : Nat) (l : OnLine) (bad : Bool) : State :=
  let s := cbsUpdate s p
  let l := { l with stamp := if l.gone = 0 then txClassAt s l.stamp else l.stamp }
  let fcs := if bad then crc32 l.wire ^^^ 0xFFFFFFFF else crc32 l.wire
  let s := emit s (.port p l.smd (if l.gone = 0 then 0 else fragCode (l.frag - 1)) (l.wire.drop l.gone ++ toLe 4 fcs))
  let now := s.clock
  let s := modPrt s p fun x => { x with line := none, freeAt := now }
  let s := countEnd s p l
  let s := match l.frame.src with
    | .host q idx => if bad then s else stampRec s q idx l.stamp
    | _ => s
  flushDown (settleLevels (finish s p l.frame (if bad then .dropped else .sent l.frame.late)) p)

/-- The frame on the line is cut after `n` data bytes: the fragment ends with its mCRC and the frame
is suspended; one that is to be stomped ends there with an inverted mCRC (R276, R280, R332). -/
def cutLine (s : State) (p : Nat) (l : OnLine) (n : Nat) : State :=
  let s := cbsUpdate s p
  let l := { l with stamp := if l.gone = 0 then txClassAt s l.stamp else l.stamp }
  let sofar := l.wire.take (l.gone + n)
  let crc := if l.stomp then mcrc sofar ^^^ 0xFFFFFFFF else mcrc sofar
  let s := emit s (.port p l.smd (if l.gone = 0 then 0 else fragCode (l.frag - 1)) (sub l.wire l.gone n ++ toLe 4 crc))
  let s := count s (cPort p 0) 14
  let now := s.clock
  if l.stomp then flushDown (finish (modPrt s p fun x => { x with line := none, freeAt := now }) p l.frame .dropped)
  else modPrt s p fun x =>
    { x with line := none, freeAt := now, susp := { l with gone := l.gone + n, frag := l.frag + 1 } :: x.susp }

/-- A frame in a port's egress queues (R251). -/
def enqueue (s : State) (p : Nat) (f : EgFrame) : State :=
  let s := cbsUpdate s p
  let n := s.tx.nextId
  let s := s.modTx fun t => { t with nextId := n + 1 }
  modPrt s p fun x => { x with eg := x.eg ++ [{ f with id := n + 1 }] }

/-- Port address of Pn, ACC_PORT bytes 0–5. -/
def portAddr (s : State) (p : Nat) : Bytes := objRead s (oidOf 0x0500 p 0) 0 6

/-- A frame of the XD860's own on a port that can carry it (R247). -/
def sendOwn (s : State) (p tc : Nat) (express : Bool) (data : Bytes) : State :=
  if !on s (6 + p) || !(prt s p).up || portSilent s p then s
  else enqueue s p { id := 0, tc := tc, data := data, src := .own, express := express }

/-- SCHED_AGREE.TC (Table 7-12). -/
def agreeTc (s : State) : Nat := cfg s 0x04040000 3 1

/-- Destination 01-80-C2-00-00-0E of Lehr and negotiation frames. -/
def lldpAddr : Bytes := [0x01, 0x80, 0xC2, 0x00, 0x00, 0x0E]

/-- A negotiation frame (Table 7-10). -/
def spFrame (s : State) (p sub nonce levels frag : Nat) : Bytes :=
  padTo 60 (lldpAddr ++ portAddr s p ++ [0x88, 0xB6] ++ toLe 1 sub ++ [1] ++ toBe 2 nonce ++ toLe 1 levels ++ toLe 1 frag)

/-- SP_OFFER sent (R284 step 1). -/
def sendOffer (s : State) (p : Nat) : State :=
  sendOwn s p (agreeTc s) true (spFrame s p 0x30 (prt s p).nonce.toNat 3 (cfg s (oMerge p) 3 1))

/-- MAC merge becomes active; stacked preemption is offered where set (R278, R284). -/
def mergeActive (s : State) (p : Nat) : State :=
  let s := modPrt s p fun x => { x with merge := 2 }
  if cfg s (oMerge p) 4 1 = 1 then
    let (n, s) := draw s
    sendOffer (modPrt s p fun x => { x with sp := 1, spTries := 1, nonce := BitVec.ofNat 16 n }) p
  else s

/-- MAC merge starts over: relock, or the MMERGE group rewritten; a hold stays for the frame in progress (R278, R279,
R284, R292). -/
def mergeStart (s : State) (p : Nat) : State :=
  let own := cfg s (oMerge p) 3 1
  let s := modPrt s p fun x =>
    { x with merge := 0, tries := 0, frag := max own x.partnerFrag, sp := 0, spTries := 0, spRx := false, spWait := none, smds := [],
             hold := x.hold && (!x.susp.isEmpty || (x.line.map fun l => l.lvl != 0).getD false) }
  if cfg s (oMerge p) 0 1 = 0 || !(prt s p).up then s
  else if cfg s (oMerge p) 1 1 = 1 then mergeActive s p
  else modPrt s p fun x => { x with merge := 1, tries := 1, smds := [true] }

/-- A frame can never be admitted: neither whole nor split fits the longest run of open entries of
its TC (R272). -/
def neverFits (s : State) (p : Nat) (f : EgFrame) : Bool :=
  match longestRun (gates s p) f.tc with
  | none => false
  | some run =>
    let fits (b : Nat) : Bool := decide (wirePs s p b + guardPs s p ≤ run * 1000)
    let b := lineBytes s p f
    !(fits b || (levelOf s p f != 0 && decide (minFrag s p + 64 ≤ b) && fits (minFrag s p)))

/-- Offset behind the last VLAN tag, of TPID 0x8100, 0x88A8 or 0x9100, or behind the source address (Table
8-5), fuel-bounded. -/
def tagsEnd (b : Bytes) : Nat → Nat → Nat
  | 0, o => o
  | n + 1, o => if [0x8100, 0x88A8, 0x9100].contains (be b o 2) then tagsEnd b n (o + 4) else o

/-- R-TAG after the last VLAN tag or the source address (R285, R343). -/
def withRtag (data : Bytes) (seq : Nat) : Bytes :=
  let o := tagsEnd data (data.length / 4) 12
  data.take o ++ [0xF1, 0xC1, 0, 0] ++ toBe 2 seq ++ data.drop o

/-- TALK group of a handle (Table 9-6). -/
def oStream (h g : Nat) : Nat := oidOf (0x0601 + h / 4096) (h % 4096) g
def oTalk (h : Nat) : Nat := oStream h 1

/-- The frame of a descriptor assembled as far as step 1 of R285, as it was numbered when its descriptor was
read (R343). -/
def parison (r : TxRec) : Bytes := if r.rtag then withRtag r.data r.seq.toNat else r.data

/-- Late policy of a descriptor (Table 2-14, Table 7-7); a frame of a stack master takes the queue
default of the TXQ of the same number. -/
def latePolicy (s : State) (q idx : Nat) (d : Bytes) : Nat :=
  let l := by_ d 27 / 8 % 4
  if l ≠ 0 then l else (que s (if q < 64 then q else if q < 192 then idx / 4096 else q - 192)).defLate.toNat

/-- Cells of a parison taken on its ports (R269, R270). -/
def takeCells (s : State) (q idx : Nat) (ps : List Nat) (n : Nat) : State :=
  let s := ps.foldl (fun s p => modPrt s p fun x =>
    { x with cells := x.cells + n, cellsMax := max x.cellsMax (x.cells + n) }) s
  modRec s q idx fun r => { r with cellsOn := ofBits 6 ps }

/-- The ports hold the free cells that a frame needs (R270, R292). -/
def cellsFit (s : State) (r : TxRec) (ps : List Nat) : Bool :=
  ps.all fun p => decide ((prt s p).cells + cellsOf (descLen r.desc) ≤ stagingCells s p)

/-- The descriptor a readiness or lateness event names: the host queue's own, one that outlives its
queue, or the one a stack master sent here with that queue and index (R427). -/
def whichRec (s : State) (q idx : Nat) : Option (Nat × Nat) :=
  if (recOf s q idx).isSome then some (q, idx)
  else if (recOf s (192 + q) idx).isSome then some (192 + q, idx)
  else if (recOf s 128 (q * 4096 + idx)).isSome then some (128, q * 4096 + idx)
  else if (recOf s 129 (q * 4096 + idx)).isSome then some (129, q * 4096 + idx)
  else none

end Sys2Proof.Machine
end

