-- ==== Sys2Proof/Machine/TwinOps.lean ====
section
/-! DEFINITION. What the twin and the stack add to a talker frame: numbering and the comparison of
output (R435–R437), and the way of a frame to a stack member (R427, R429). -/

namespace Sys2Proof.Machine

/-- Counter of a talker handle and its write (R343). -/
def talkSeq (s : State) (h : Nat) : BitVec 16 := tget (fun _ => 0) s.str.talk h
def setTalk (s : State) (h : Nat) (v : BitVec 16) : State :=
  s.modStr fun x => { x with talk := tset (fun _ => 0) x.talk h v }

/-- The unit withholds its talker frames: STANDBY or resynchronising (R436). -/
def standsBy (s : State) : Bool := s.tw.on && (s.tw.role == 2 || s.tw.role == 3)

/-- The unit leads: ACTIVE or alone. -/
def leads (s : State) : Bool := s.tw.on && (s.tw.role == 1 || s.tw.role == 4)

/-- The TXQs, and what they leave to be sent in DETACHED (R90). -/
def talkerQueues : List Nat := List.range 64 ++ (List.range 64).map (192 + ·)

/-- LAUNCH_TIME of a descriptor (Table 2-14). -/
def launchField (d : Bytes) : Nat := le d 16 6

/-- The twin digest of a descriptor's frame (R437). -/
def twinDigest (s : State) (r : TxRec) : BitVec 64 :=
  BitVec.ofNat 64 (crc64 (r.data.drop (cfg s 0x08020000 6 2)))

/-- ASSIGN for a staged talker frame (R435, Table 11-8). -/
def sendAssign (s : State) (h : Nat) (r : TxRec) : State :=
  kSend s s.tw.link 0x20 s.tw.partner
    (toBe 2 h ++ toBe 2 r.seq.toNat ++ toBe 6 (launchField r.desc) ++ zz 2 ++ toBe 8 (twinDigest s r).toNat)

/-- One digest mismatch: counted, with a fault at most once a second for each handle (R437). -/
def digestMismatch (s : State) (h : Nat) : State :=
  let s := count (s.modTw fun t => { t with mism := satAdd (2 ^ 32 - 1) t.mism 1 }) cTwin 5
  let last := tget (fun _ => 0) s.tw.mismAt h
  if last ≠ 0 ∧ s.clock < last - 1 + 1000000000 then s
  else
    let now := s.clock
    fault (s.modTw fun t => { t with mismAt := tset (fun _ => 0) t.mismAt h (now + 1) }) 134

/-- An own frame meets the ASSIGN of the same handle and launch time: its number is adopted and the
digests are compared (R436, R437). -/
def meetAssign (s : State) (q idx h : Nat) (seq : BitVec 16) (digest : BitVec 64) : State :=
  match recOf s q idx with
  | none => s
  | some r =>
    let own := twinDigest s r
    let s := if r.seq = seq then s
      else
        let s := count (s.modTw fun t => { t with corr := satAdd (2 ^ 32 - 1) t.corr 1 }) cTwin 10
        setTalk s h (seq + 1)
    let s := modRec s q idx fun r => { r with seq := seq, assigned := true }
    if own = digest then count s cTwin 4 else digestMismatch s h

/-- What the twin function does when a talker frame has been staged (R435–R437). -/
def talkerStaged (s : State) (q idx : Nat) : State :=
  match recOf s q idx with
  | none => s
  | some r =>
    match descHandle r.desc with
    | none => s
    | some h =>
      if leads s then sendAssign s h r
      else if standsBy s then
        let key := BitVec.ofNat 48 (launchField r.desc)
        match s.tw.assigns.find? fun a => a.1 == h && a.2.1 == key with
        | some a =>
          meetAssign (s.modTw fun t => { t with assigns := t.assigns.erase a }) q idx h a.2.2.1 a.2.2.2
        | none => s
      else s

/-- The recognised stack master is this device. -/
def isMaster (s : State) : Bool := s.sk.complete && s.sk.master == pos s

/-- Owner of a handle outside the own deepen range (R429). -/
def ownerOf (s : State) (h : Nat) : Option Nat := ((deepRanges s).find? (inRange h)).map (·.pos)

/-- Member position to which a frame of TXQq travels (R427, R429). -/
def memberOf (s : State) (q : Nat) (d : Bytes) : Option Nat :=
  if !isMaster s || 64 ≤ q then none
  else if s.sk.config = 1 then
    let m := cfg s 0x08050000 (8 * q) 1
    if m < 8 ∧ m ≠ pos s then some m else none
  else if s.sk.config = 2 then
    match descHandle d with
    | some h =>
      if s.sk.first ≤ h ∧ h < s.sk.first + s.sk.count then none
      else ownerOf s h
    | none => none
  else none

/-- LEAD_NS of TXQq's entry in WIDEN_TX. -/
def widenLead (s : State) (q : Nat) : Nat := cfg s 0x08050000 (8 * q + 4) 4

/-- The frame of a mapped queue leaves as TRAFFIC_DOWN (R427, Table 11-6). -/
def sendDown (s : State) (q m : Nat) (r : TxRec) : State :=
  kSend s (linkTo s m) 0x31 m
    (toLe 1 q ++ zz 1 ++ toBe 2 r.idx ++ zz 8 ++ r.desc.drop 8 ++ r.data)

/-- Ports of a talker's set: PLANES and DIRECTION of its TALK group (R344). -/
def talkPorts (s : State) (h : Nat) : BitVec 6 :=
  let planes := cfg s (oTalk h) 2 1; let dir := cfg s (oTalk h) 3 1
  ofBits 6 ((List.range 6).filter fun p => bitN planes (p / 2) && bitN dir (p % 2))

/-- Defined bits of a TX descriptor (Table 2-14). -/
def descMask : Bytes := ff 24 ++ [0xFF, 0xBF, 0x3F, 0x3F, 0, 0, 0, 0]

/-- LENGTH, DONE and the reserved fields of a TX descriptor are legal (R75). -/
def descFormOk (d : Bytes) : Bool :=
  decide (14 ≤ descLen d) && decide (descLen d ≤ 9600) &&
    (idxd d).all (fun x => x.2 &&& ~~~ (descMask.getD x.1 0) == 0)

/-- A TX descriptor names ports that its frame may be sent on (R75, R342, R436). -/
def descPortsOk (s : State) (d : Bytes) : Bool :=
  match descHandle d with
  | none => by_ d 26 % 64 != 0
  | some h => decide (h < 4096) && cfg s (oTalk h) 0 1 == 1 && !(s.sk.config == 3 && !descLaunch d)

/-- A TX descriptor taken by this device: numbered, with its launch time extended and its port set
(R270, R343, R344); one that R75 refuses is done with BAD_DESC. -/
def takeDesc (s : State) (idx : Nat) (d : Bytes) (elsewhere : Bool) : TxRec × State :=
  let r : TxRec :=
    { idx := idx, desc := d, phase := .read, data := [], seq := 0, launch := extend (now80 s) (launchField d),
      todo := BitVec.ofNat 6 (by_ d 26), sent := 0, sentLate := false, late := 0, safe := false, down := false,
      stamps := [], lost := 0, member := none, withheld := false, assigned := false, cellsOn := 0, fail := 0 }
  if !descFormOk d then ({ r with phase := .done 5, todo := 0 }, s)
  else if elsewhere then (r, s)
  else if !descPortsOk s d then ({ r with phase := .done 5, todo := 0 }, s)
  else
    match descHandle d with
    | none => (r, s)
    | some h =>
      let r := { r with todo := talkPorts s h }
      if cfg s (oTalk h) 1 1 = 1 then
        let n := talkSeq s h
        ({ r with seq := n, rtag := true }, count (setTalk s h (n + 1)) (cStream h) 19)
      else (r, s)

/-- A talker frame with no port at all is down everywhere (R273). -/
def noPorts (r : TxRec) : TxRec :=
  if r.phase = .read ∧ r.todo = 0 then { r with phase := .done 7 } else r

end Sys2Proof.Machine
end

