-- ==== Sys2Proof/Machine/Tx.lean ====
section
/-! DEFINITION. Scheduled transmission: what a port does at a transmission's start and end, at gate
entries, readiness and lateness, MAC merge and its negotiation, pauses and relocks (chapter 7). -/

namespace Sys2Proof.Machine

/-- FRAME_TRANSMIT_START (R250). -/
def execFrameTransmitStart (p : Fin 6) (s : State) : Host.Outcome State Fault Refusal :=
  run s fun s => flushDown (startNext s p.val)

/-- TRANSMISSION_END: a frame that is still being received cannot end yet (R329); one that was found wrong
while it was suspended ends at its first legal point (R332). -/
def execTransmissionEnd (p : Fin 6) (s : State) : Host.Outcome State Fault Refusal :=
  run s fun s =>
    match (prt s p.val).line with
    | some l =>
      if !l.frame.whole then s else
      match (if l.short then firstLegal l 0 else none) with
      | some n => settleLevels (cutLine s p.val l n) p.val
      | none => endLine s p.val l (l.stomp || l.frame.bad)
    | none => s

/-- A frame above the frame on the line waits to go: a suspended one that may resume, or the eligible head of a
queue whose TC lies above it in the levels that were in force when it was admitted, where new frames may start (R250,
R280, R292). -/
def waitsAbove (s : State) (p : Nat) (l : OnLine) (t : Nat) : Bool :=
  let lv (f : EgFrame) : Nat :=
    let v := (prt s p).levels.toNat / 4 ^ f.tc % 4
    if f.express then 0 else if l.stk then v else min v 1
  ((prt s p).susp.any fun x => decide (x.lvl < l.lvl) && mayResume s p x t) ||
    (!barred s p && [7, 6, 5, 4, 3, 2, 1, 0].any fun q => match headOf s p q with
      | some f => decide (lv f < l.lvl) && (lv f == 0 || !(prt s p).susp.any (·.lvl == lv f)) && eligible s p f t
      | none => false)

/-- A hold or an eligible frame above its level preempts the frame on the line (R280). -/
def displaced (s : State) (p : Nat) (l : OnLine) : Bool := holds s p || waitsAbove s p l (nowPs s)

/-- Where the frame on the line is cut when `sent` data bytes of its fragment have left: at its next legal
point for a hold or a frame above it, else at the latest one by C' that its rest does not make (R276, R280),
or the latest one that received bytes cover (R330). -/
def cutPoint (s : State) (p : Nat) (l : OnLine) (sent : Nat) : Option Nat :=
  if displaced s p l then firstLegal l sent
  else match byClose s p l sent with
    | some n =>
      if l.frame.whole && decide (l.wire.length ≤ l.gone + n) then none else lastLegal l sent n
    | none => if l.frame.whole then none else lastLegal l sent l.wire.length

/-- PREEMPTION of a preemptable frame of whose fragment `sent` data bytes have left (R276, R280, R330). -/
def execPreemption (p : Fin 6) (sent : Nat) (s : State) : Host.Outcome State Fault Refusal :=
  run s fun s =>
    match (prt s p.val).line with
    | some l =>
      if l.lvl = 0 then s else
      let s := cbsUpdate s p.val
      match cutPoint s p.val l sent with
      | some n => flushDown (settleLevels (cutLine s p.val l n) p.val)
      | none => s
    | none => s

/-- A gate overrun counted (R261, R276). -/
def countOverrun (s : State) (p : Nat) : State :=
  count (modPrt s p fun x => { x with overruns := satAdd (2 ^ 32 - 1) x.overruns 1 }) (cPort p 1) 4

/-- GATE_OVERRUN, with `sent` data bytes of the fragment gone: a preemptable frame is cut at its first legal
point from here on, where one remains; a cut-through frame that cannot be cut ends here with an inverted FCS
(R276, R277). -/
def execGateOverrun (p : Fin 6) (sent : Nat) (s : State) : Host.Outcome State Fault Refusal :=
  run s fun s =>
    match (prt s p.val).line with
    | some l =>
      let s := countOverrun s p.val
      if l.lvl ≠ 0 then
        match firstLegal l sent with
        | some n => flushDown (settleLevels (cutLine s p.val l n) p.val)
        | none => s
      else if l.ct then
        endLine s p.val { l with wire := l.wire.take (l.gone + sent) } true
      else s
    | none => s

/-- A cycle of the port starts: it reloads its copy of the list, and where it waited for one it takes up
again (R127, R257, R457). -/
def cycleStart (s : State) (p : Nat) : State := modPrt s p fun x => { x with noNew := false, resume := false }

/-- GATE_ENTRY_START: the entry in force at the voted time starts (R256, R257, R259). A port without a list
has no copy and no hold (R255). -/
def execGateEntryStart (p : Fin 6) (copyAgrees : Bool) (s : State) : Host.Outcome State Fault Refusal :=
  run s fun s =>
    let p := p.val
    let l := gates s p
    if !on s (6 + p) || !timeOk s then s
    else if l.isEmpty then modPrt (cycleStart s p) p fun x => { x with hold := false }
    else
    let s := cbsUpdate s p
    let (i, _) := entryAt l (cyclePos s (nowPs s))
    let s := if i = 0 then cycleStart s p else s
    let op := (l.getD i ⟨0, 0, 0⟩).op
    let s := if op = 1 ∧ mergeOn s p then modPrt s p fun x => { x with hold := true }
      else if op = 2 then modPrt s p fun x => { x with hold := false } else s
    if copyAgrees then s
    else
      let s := s.modTx fun t => { t with mismatches := satAdd (2 ^ 32 - 1) t.mismatches 1 }
      let s := modPrt (count s (cPort p 1) 9) p fun x => { x with noNew := true }
      fault s (80 + 8 * p + 2)

/-- A HOLD entry of the list starts within HOLD_ADVANCE_NS, or entry 0 of the held mode at its boundary is
one (R259, R264). -/
def holdNear (s : State) (p : Nat) : Bool :=
  let adv := holdAdvance s p
  let off := cyclePos s (nowPs s)
  let c := cyclePs s
  (entryStarts (gates s p) 0).any (fun x => x.2.op == 1 && decide ((x.1 + c - off) % c ≤ adv)) ||
    match s.mb.boundary, modeOf s.mb.frozen with
    | some b, some m => match gateList s s.mb.frozen m p with
      | e :: _ => s.mb.held && e.op == 1 && decide (nowPs s ≤ b * 1000) && decide (b * 1000 ≤ nowPs s + adv)
      | [] => false
    | _, _ => false

/-- HOLD, HOLD_ADVANCE_NS ahead of a HOLD entry, while MAC merge is active (R259). -/
def execHold (p : Fin 6) (s : State) : Host.Outcome State Fault Refusal :=
  run s fun s =>
    if on s (6 + p.val) && mergeOn s p.val && timeOk s && holdNear s p.val then
      modPrt s p.val fun x => { x with hold := true }
    else s

/-- A parison becomes ready on one port: it is queued, or its port counts as down, is held
fail-silent, or can never admit it (R269–R273, R456). A standby withholds its talker frame (R436); a detached
unit discards one beyond the overlap limit (R443). -/
def readyOn (s : State) (q idx p : Nat) (r : TxRec) : State :=
  let x := prt s p
  if !r.todo.getLsbD p || r.phase ≠ .staged || r.withheld || x.eg.any (mine q idx) || started s q idx p then s
  else if standsBy s && (descHandle r.desc).isSome then modRec s q idx fun r => { r with withheld := true }
  else if s.hl.state == lsDetached && beyondOverlap s r then settle s q idx p .dropped
  else if downFor s p || !r.cellsOn.getLsbD p then settle s q idx p .down
  else if f3Holds s (p / 2) then count (settle s q idx p .safe) (cPort p 1) 8
  else
    let late := r.late.getLsbD p
    let tol := r.launch / 65536 + cfg s (oTxs p) 4 4
    let f : EgFrame := { id := 0, tc := descTc r.desc, data := parison r, src := .host q idx, late := late,
                         waitFrom := if late ∧ latePolicy s q idx r.desc = 3 then some tol else none }
    if neverFits s p f then settle (count s (cPort p 1) 3) q idx p .dropped else enqueue s p f

/-- An earlier descriptor of the same TXQ, port and TC has yet to become ready (R251). -/
def behind (s : State) (q idx p : Nat) (r : TxRec) : Bool :=
  ((que s q).recs.takeWhile fun x => x.idx != idx).any fun x =>
    x.idx / 4096 == idx / 4096 && x.todo.getLsbD p && descTc x.desc == descTc r.desc && !x.withheld &&
      !(prt s p).eg.any (mine q x.idx) && !started s q x.idx p

/-- A parison's readiness has come on a port: it becomes ready in the order of its TXQ (R251). -/
def ripen (s : State) (q idx p : Nat) (r : TxRec) : State :=
  if behind s q idx p r then modRec s q idx fun r => { r with ripe := setBit r.ripe p true }
  else readyOn s q idx p r

/-- Parisons of a queue whose readiness has come and that no earlier one holds up any more (R251). -/
def ripenRest (s : State) (q p : Nat) : State :=
  (que s q).recs.foldl (fun s r =>
    if r.ripe.getLsbD p then match recOf s q r.idx with
      | some r => ripen (modRec s q r.idx fun r => { r with ripe := setBit r.ripe p false }) q r.idx p r
      | none => s
    else s) s

/-- A frame of a stack master that waits here for cells is staged, after the earlier ones of its queue
(R270, R292, R427). -/
def stageDown (s : State) (q idx : Nat) : State :=
  match recOf s q idx with
  | none => s
  | some r =>
    let first := ((que s q).recs.takeWhile fun x => x.idx != idx).all fun x => x.idx / 4096 != idx / 4096 || x.phase != .read
    let ps := (ones r.todo).filter fun p => !downFor s p
    if decide (q < 128) || r.phase != .read || !first || !cellsFit s r ps then s
    else talkerStaged (takeCells (modRec s q idx fun r => { r with phase := .staged }) q idx ps (cellsOf (descLen r.desc))) q idx

/-- PARISON_READY (R251, R269). -/
def execParisonReady (q : Fin 64) (idx : BitVec 12) (p : Fin 6) (s : State) : Host.Outcome State Fault Refusal :=
  run s fun s =>
    match whichRec s q.val idx.toNat with
    | some (a, i) =>
      let s := stageDown s a i
      match recOf s a i with
      | some r => flushDown (ripenRest (ripen s a i p.val r) a p.val)
      | none => s
    | none => s

/-- A withheld frame reaches its launch time plus LAUNCH_TOL_NS: it is written back SENT with no
ports; one that no ASSIGN named is MISSING_ACTIVE (R436, R437). -/
def withheldEnd (s : State) (q idx : Nat) (r : TxRec) : State :=
  let s := if r.assigned then s
    else count (s.modTw fun t => { t with missActive := satAdd (2 ^ 32 - 1) t.missActive 1 }) cTwin 7
  endRec s q idx 0

/-- A parison is late on one port and its policy applies (Table 7-7). -/
def lateOn (s : State) (q idx p : Nat) (r : TxRec) : State :=
  if !descLaunch r.desc || !r.todo.getLsbD p || r.late.getLsbD p || started s q idx p then s
  else if r.withheld || (standsBy s && (descHandle r.desc).isSome) then withheldEnd s q idx r
  else
    let s := modPrt s p fun x => { x with lates := satAdd (2 ^ 32 - 1) x.lates 1 }
    let pol := latePolicy s q idx r.desc
    if pol = 2 ∨ pol = 3 then
      let s := modRec s q idx fun r => { r with late := setBit r.late p true }
      let now := nowNs s
      let g (f : EgFrame) : EgFrame :=
        if mine q idx f then { f with late := true, waitFrom := if pol = 3 then some now else none } else f
      modPrt s p fun x => { x with eg := x.eg.map g }
    else
      let s := modPrt s p fun x => { x with eg := x.eg.filter fun f => !mine q idx f }
      settle (count s (cPort p 1) 1) q idx p .dropped

/-- PARISON_LATE (R271). -/
def execParisonLate (q : Fin 64) (idx : BitVec 12) (p : Fin 6) (s : State) : Host.Outcome State Fault Refusal :=
  run s fun s =>
    match whichRec s q.val idx.toNat with
    | some (a, i) => match recOf s a i with
      | some r => flushDown (ripenRest (lateOn s a i p.val r) a p.val)
      | none => s
    | none => s

/-- SMD_V_RECEIVE: an enabled port answers with SMD-R (R278). -/
def execSmdVReceive (p : Fin 6) (s : State) : Host.Outcome State Fault Refusal :=
  run s fun s =>
    if on s (6 + p.val) && (prt s p.val).up && cfg s (oMerge p.val) 0 1 == 1 then
      modPrt s p.val fun x => { x with smds := x.smds ++ [false] }
    else s

/-- SMD_R_RECEIVE: the larger of the two addFragSize values is used from then on, and a verify that runs
succeeds (R278). -/
def execSmdRReceive (p : Fin 6) (addFragSize : Fin 4) (s : State) : Host.Outcome State Fault Refusal :=
  run s fun s =>
    if !on s (6 + p.val) || !(prt s p.val).up || cfg s (oMerge p.val) 0 1 == 0 then s else
    let s := modPrt s p.val fun x =>
      { x with partnerFrag := addFragSize.val, frag := max (cfg s (oMerge p.val) 3 1) addFragSize.val }
    if (prt s p.val).merge = 1 then mergeActive s p.val else s

/-- VERIFY_TIMEOUT: three attempts, then FAILED (R278). -/
def execVerifyTimeout (p : Fin 6) (s : State) : Host.Outcome State Fault Refusal :=
  run s fun s =>
    let x := prt s p.val
    if x.merge ≠ 1 then s
    else if x.tries < 3 then modPrt s p.val fun x => { x with tries := x.tries + 1, smds := x.smds ++ [true] }
    else count (modPrt s p.val fun x => { x with merge := 4 }) (cPort p.val 0) 15

/-- A frame of EtherType 0x88B6, VERSION 1 and one SUBTYPE, with a good FCS. -/
def isKin (f : Bytes) (sub : Nat) : Bool :=
  fcsOk f && decide (64 ≤ f.length) && be f 12 2 == 0x88B6 && by_ f 14 == sub && by_ f 15 == 1

/-- SP_OFFER taken and answered (R284). -/
def takeOffer (s : State) (p : Nat) (f : Bytes) : State :=
  let yes := cfg s (oMerge p) 4 1 == 1
  let s := count s (cPort p 4) 10
  let s := modPrt s p fun x => { x with spRx := yes }
  sendOwn s p (agreeTc s) true (spFrame s p 0x31 (be f 16 2) (if yes then 3 else 0) (cfg s (oMerge p) 3 1))

/-- SP_OFFER_RECEIVE (R284). -/
def execSpOfferReceive (p : Fin 6) (frame : Bytes) (s : State) : Host.Outcome State Fault Refusal :=
  run s fun s => if on s (6 + p.val) && (prt s p.val).up && isKin frame 0x30 then takeOffer s p.val frame else s

/-- The direction stays in standard fallback, with its fault (R284 step 3). -/
def spFallback (s : State) (p why : Nat) : State := fault (modPrt s p fun x => { x with sp := why }) (80 + 8 * p + 5)

/-- SP_ANSWER taken (R284). -/
def takeAnswer (s : State) (p : Nat) (f : Bytes) : State :=
  let s := count s (cPort p 4) 10
  let x := prt s p
  if x.sp ≠ 1 ∨ be f 16 2 ≠ x.nonce.toNat then s
  else if by_ f 18 = 3 then
    settleLevels (modPrt s p fun x => { x with sp := 2, spWait := some (by_ f 19 % 4) }) p
  else if by_ f 18 = 0 then spFallback s p 3
  else s

/-- SP_ANSWER_RECEIVE (R284). -/
def execSpAnswerReceive (p : Fin 6) (frame : Bytes) (s : State) : Host.Outcome State Fault Refusal :=
  run s fun s => if on s (6 + p.val) && (prt s p.val).up && isKin frame 0x31 then takeAnswer s p.val frame else s

/-- SP_OFFER_REPEAT (R284). -/
def execSpOfferRepeat (p : Fin 6) (s : State) : Host.Outcome State Fault Refusal :=
  run s fun s =>
    let x := prt s p.val
    if x.sp ≠ 1 then s
    else if x.spTries < cfg s (oMerge p.val) 5 1 then
      sendOffer (modPrt s p.val fun x => { x with spTries := x.spTries + 1 }) p.val
    else spFallback s p.val 4

/-- FC_MASK of a port (Table 7-12). -/
def fcMask (s : State) (p q : Nat) : Bool := cfgBit s (oTxs p) 2 q

/-- A TC paused for a number of quanta from now; 0 ends its pause (R287). -/
def setPause (s : State) (p q quanta : Nat) : State :=
  let till := if quanta = 0 then 0 else s.clock * 1000 + quanta * 64 * psPerByte (prt s p).gbps
  modPrt s p fun x => { x with pause := tset (fun _ => 0) x.pause q till }

/-- A MAC control frame is consumed; PAUSE and PFC act (R286, R287). -/
def takePause (s : State) (p : Nat) (f : Bytes) : State :=
  let s := count s (cPort p 0) 6
  let tcs := List.range 8
  if be f 14 2 = 0x0001 then
    tcs.foldl (fun s q => if fcMask s p q then setPause s p q (be f 16 2) else s) (count s (cPort p 0) 7)
  else if be f 14 2 = 0x0101 then
    tcs.foldl (fun s q => if fcMask s p q && bitN (be f 16 2) q then setPause s p q (be f (18 + 2 * q) 2) else s)
      (count s (cPort p 0) 8)
  else s

/-- PAUSE_RECEIVE (R287). -/
def execPauseReceive (p : Fin 6) (frame : Bytes) (s : State) : Host.Outcome State Fault Refusal :=
  run s fun s =>
    if on s (6 + p.val) && (prt s p.val).up && fcsOk frame && be frame 12 2 == 0x8808 then takePause s p.val frame else s

/-- PAUSE_EXPIRY (R287). -/
def execPauseExpiry (p : Fin 6) (tc : Fin 8) (s : State) : Host.Outcome State Fault Refusal :=
  run s fun s => modPrt s p.val fun x => { x with pause := tset (fun _ => 0) x.pause tc.val 0 }

/-- LANE_RELOCK: the lane of Pn or Kk has locked at a rate (R224, R279, R282). The partner has discarded
every context, so what was on the line or suspended is over (log entry 145). -/
def execLaneRelock (lane : Fin 8) (gbps : Nat) (s : State) : Host.Outcome State Fault Refusal :=
  run s fun s =>
    let i := lane.val
    if i < 6 then
      if !on s i || !on s (6 + i) || s.pw.testMode then s else
      let s := if (prt s i).ctxs.isEmpty then s else countN s (cPort i 0) 22 (prt s i).ctxs.length
      let s := modPrt (abortLine s i .down) i fun x => { x with up := true, gbps := gbps, ctxs := [], partnerFrag := 0 }
      let s := settleLevels (relockPts s i) i
      linkFault (mergeStart s i) i
    else if on s (24 + (i - 6)) && on s (26 + (i - 6)) then relockPts s i
    else s

end Sys2Proof.Machine
end

