-- ==== Sys2Proof/Machine/Cal.lean ====
section
/-! DEFINITION. Live calibration: passes and their evaluation, policy, staleness, brim probes and
echoes (chapter 6). -/

namespace Sys2Proof.Machine

/-- CAL_STATUS payload (R230, Table 3-18). -/
def calPayload (s : State) (i : Nat) : Bytes :=
  match ptsOf i with
  | [a, b] =>
    let old := if ptAge s a ≥ ptAge s b then a else b
    let asym := if i < 8 then (calPort s i).asym else 0
    toLe 1 (max (ptClass s a) (ptClass s b)) ++ toLe 1 (b1 (calPort s i).deferred) ++ zz 2 ++ toLe 4 (ptAge s old) ++
      toLe 2 (uns 16 (calPt s old).tj) ++ zz 6 ++ toLe 4 (uns 32 (ptDelay s a)) ++ toLe 4 (uns 32 (ptDelay s b)) ++
      toLe 4 (uns 32 asym)
  | _ => []

/-- CAL_STATUS (R230). -/
def execCalStatus (via : Via) (s : State) : Host.Outcome State Fault Refusal :=
  runCmd via 0x58 (fun s r => sized r 4 (
    let i := by_ r.payload 0
    match calDomain i with
    | none => badRange 16
    | some d => reserved r [1, 2, 3] (if !on s d then .no stState [] else .ok s (calPayload s i)))) s

/-- Port instances whose domain is ENABLED. -/
def calPorts (s : State) : List Nat :=
  (List.range 32).filter fun i => match calDomain i with
    | some d => on s d
    | none => false

/-- A pass of a port is deferred, with its reason (R243). -/
def defer (s : State) (i why : Nat) : State :=
  modCalPort s i fun c => { c with deferred := true, reason := why, deferrals := satAdd (2 ^ 32 - 1) c.deferrals 1 }

/-- CAL_POLICY on one port (R244): a suspension stops its passes, those of asymmetry too. -/
def policy (s : State) (i action trigger : Nat) : State :=
  let s := modCalPort (keepPast s) i fun c => { c with trigger := trigger }
  if action = 0 then
    if (calPort s i).suspended then retryNow (modCalPort s i fun c => { c with suspended := false }) i else s
  else if action = 1 then (ptsOf i).foldl (fun s pt => modCalPt s pt fun x => { x with due := x.due ||| 2 }) s
  else
    let s := modCalPort s i fun c => { c with suspended := true, pairs := [], probes := 0 }
    (ptsOf i).foldl (fun s pt =>
      if (calPt s pt).running then defer (modCalPt s pt fun x => { x with running := false, held := none }) i 4 else s) s

/-- CAL_POLICY (R244). -/
def execCalPolicy (via : Via) (s : State) : Host.Outcome State Fault Refusal :=
  runCmd via 0x59 (fun s r => sized r 4 (
    let i := by_ r.payload 0; let action := by_ r.payload 1; let trig := by_ r.payload 2
    if i ≠ 0xFF ∧ (calDomain i).isNone then badRange 16
    else if action > 2 then badRange 17
    else if trig < 5 ∨ 100 < trig then badRange 18
    else reserved r [3] (
      let is := if i = 0xFF then calPorts s else [i]
      if i ≠ 0xFF ∧ !(calPorts s).contains i then .no stState []
      else if action = 1 ∧ is.any (fun i => (ptsOf i).any fun pt => (calPt s pt).due.getLsbD 1) then .no stBusy []
      else .ok (is.foldl (fun s i => policy s i action trig) s) []))) s

/-- CODE_DENSITY_TEST (R219). -/
def execCodeDensityTest (conv : Fin 8) (ok : Bool) (s : State) : Host.Outcome State Fault Refusal :=
  run s fun s =>
    if !on s 70 then s
    else trefFault (s.modCal fun c => { c with convBad := setBit c.convBad conv.val (!ok) })

/-- CALIBRATION_PASS_START of a point that is due (R225, R243, R244): with no converter left by those served
before it, it waits with reason TDC_BUSY, and is deferred once it has waited PASS_LIMIT_MS. -/
def execCalibrationPassStart (pt : Fin 49) (s : State) : Host.Outcome State Fault Refusal :=
  run s fun s =>
    let pt := pt.val
    let i := calInst pt
    if !on s 70 || !on s (ptDomain pt) || (calPt s pt).running || (ptDue s pt).isNone then s
    else if pt ≠ 48 ∧ (calPort s i).suspended then defer s i 4
    else if freeConv s ≤ aheadOf s pt then
      let now := s.clock
      match (calPt s pt).waits with
      | none => modCalPort (modCalPt s pt fun x => { x with waits := some now }) i fun c => { c with reason := 3 }
      | some w =>
        if w + ptLimit s pt ≤ now then defer (modCalPt s pt fun x => { x with waits := some now }) i 3 else s
    else passRuns s pt

/-- A pass result is accepted (R222, R226). -/
def acceptPass (s : State) (pt : Nat) (d : Int) : State :=
  let now := s.clock
  let tj := ptTemp s pt
  let s := modCalPt (keepPast s) pt fun x =>
    { x with delay := some d, at_ := now, tj := tj, running := false, due := 0, held := none, steady := true, stale := false,
             waits := none, tried := 0 }
  let s := modCalPort s (calInst pt) fun c =>
    { c with accepted := satAdd (2 ^ 32 - 1) c.accepted 1, deferred := false, reason := 0 }
  staleFaults s pt

/-- The pass starts over at the next period with both results discarded (R222). -/
def dropPass (s : State) (pt : Nat) : State :=
  let now := s.clock
  modCalPt s pt fun x => { x with running := false, due := 0, held := none, tried := now }

/-- The samples that count: the middle 32 of 64, else the central half rounded down to an even count,
with the odd one left over on the high side (Table 6-2). -/
def central (samples : List Int) : List Int :=
  let a := sortAsc samples
  let n := a.length
  let m := if n = 64 then 32 else n / 2 / 2 * 2
  (a.drop ((n - m) / 2)).take m

/-- Closed intervals of a list in a cycle: start and length in ps of each run of entries with every gate
closed, counted across the cycle end (R233). -/
def closedRuns (l : List GateEntry) : List (Nat × Nat) :=
  let n := l.length
  let st := entryStarts l 0
  ((List.range n).zip st).filterMap fun x =>
    let before := (l.getD ((x.1 + n - 1) % n) ⟨0, 0, 0⟩).gates
    if x.2.2.gates ≠ 0 ∨ (before = 0 ∧ !(l.all (·.gates == 0) && x.1 == 0)) then none
    else some (x.2.1, ((l.drop x.1 ++ l.take x.1).takeWhile (·.gates == 0)).foldl (fun a e => a + e.ns * 1000) 0)

/-- Wire time W of a Lehr frame (Table 6-5). -/
def lehrPs (s : State) (p : Nat) : Nat := wirePs s p (64 + secBytes s p (zz 12 ++ [0x88, 0xB6]))

/-- Closed intervals that a Lehr frame fits with its margins: at least W + 40 ns (R233). -/
def brims (s : State) (p : Nat) : List (Nat × Nat) :=
  (closedRuns (gates s p)).filter fun r => decide (lehrPs s p + 40000 ≤ r.2)

/-- Number of the present cycle, and corrected ns at which an interval of it opened. -/
def cycleNo (s : State) : Nat := if cyclePs s = 0 then 0 else nowPs s / cyclePs s
def openedAt (s : State) (r : Nat × Nat) : Nat := (cycleNo s * cyclePs s + r.1) / 1000

/-- No probe in this cycle: it ends at a boundary whose set the hardware holds, or its list is of another
mode than the one before (R235). -/
def barredCycle (s : State) : Bool :=
  (match s.mb.boundary with
   | some b => s.mb.held && decide (b * 1000 ≤ nowPs s + (cyclePs s - cyclePos s (nowPs s)))
   | none => false) ||
  (s.tx.changed != 0 && decide (cycleNo s * cyclePs s ≤ s.tx.changed * 1000))

/-- An asymmetry pass cannot proceed for want of a brim (R243, Table 6-7). -/
def noBrim (s : State) (p : Nat) : Bool := !(gates s p).isEmpty && ((brims s p).isEmpty || barredCycle s)

/-- Reason of a pass that found too few marks (Table 6-7): no brim, or probes disabled; with brims and probes that
brought too few all the same, a free value among the two (log entry 211). -/
def thinReason (s : State) (pt : Nat) : Nat × State :=
  if pt < 12 ∧ noBrim s (pt / 2) then (1, s)
  else if 12 ≤ pt ∨ cfg s (oidOf 0x0300 (pt / 2) 0) 0 1 = 0 then (2, s)
  else let (v, s) := draw s; (1 + v % 2, s)

/-- CALIBRATION_PASS_END (R220–R222). -/
def execCalibrationPassEnd (pt : Fin 49) (samples : List Int) (s : State) : Host.Outcome State Fault Refusal :=
  run s fun s =>
    let pt := pt.val
    let x := calPt s pt
    if !x.running then s else
    let samples := samples.take 64
    if samples.length < 16 then
      let (why, s) := thinReason (dropPass s pt) pt
      defer s (calInst pt) why
    else
      let c := central samples
      let r := sumI c / c.length
      let spread := c.getLastD 0 - c.headD 0
      if spread > 40 then
        let now := s.clock
        let s := modCalPt s pt fun x => { x with start := now }
        let s := modCalPort s (calInst pt) fun c => { c with rejected := satAdd (2 ^ 32 - 1) c.rejected 1 }
        if pt < 12 then count s (cPort (pt / 2) 4) 9 else s
      else match x.held, x.delay with
        | some h, _ =>
          if (r - h).natAbs ≤ 40 then
            let s := acceptPass s pt r
            if pt < 12 then fault s (80 + 8 * (pt / 2) + 7) else s
          else dropPass s pt
        | none, some d =>
          if x.steady ∧ 200 < (r - d).natAbs then
            let now := s.clock
            modCalPt s pt fun x => { x with held := some r, start := now }
          else acceptPass s pt r
        | none, none => acceptPass s pt r

/-- A point's last accepted pass, or the relock or enable that left it without one, is 60 s old (R228). -/
def ptOld (s : State) (pt : Nat) : Bool :=
  let x := calPt s pt
  decide ((if x.delay.isSome then x.at_ else x.relock) + 60000000000 ≤ s.clock)

/-- CAL_STALE: once for each entry into it (R228). -/
def execCalStale (pt : Fin 49) (s : State) : Host.Outcome State Fault Refusal :=
  run s fun s =>
    let pt := pt.val
    if !ptUp s pt || (calPt s pt).stale || !ptOld s pt then s else
    let s := modCalPt (keepPast s) pt fun x => { x with stale := true }
    if 16 ≤ pt ∧ pt < 48 then fault s (144 + 3 * ((pt - 16) / 2) + 1) else staleFaults s pt

/-- The port can take a Lehr frame: a free line, and no bar on new frames (R233, R257). -/
def lehrFree (s : State) (p : Nat) : Bool :=
  let x := prt s p
  on s (6 + p) && x.up && !portSilent s p && x.line.isNone && !barred s p

/-- The closed interval that opened 20 ns ago, within a 2 ns tick (R233). -/
def brimNow (s : State) (p : Nat) : Option (Nat × Nat) :=
  (brims s p).find? fun r =>
    decide (r.1 + 20000 ≤ cyclePos s (nowPs s)) && decide (cyclePos s (nowPs s) < r.1 + 22000)

/-- Without a gate list the port has been idle for 200 ns and no frame is queued (R234). -/
def idleEnough (s : State) (p : Nat) : Bool :=
  let x := prt s p
  x.eg.all (·.kept) && x.susp.isEmpty && x.smds.isEmpty && decide (x.freeAt + 200 ≤ s.clock)

/-- An echo is held, ready at a clock value, and within its 1 ms (R236). -/
def echoReady (s : State) (p at_ : Nat) : Bool :=
  match (calPort s p).echo with
  | some (_, _, t2) => decide (t2 + 2000 ≤ at_) && decide (s.clock ≤ t2 + 1000000)
  | none => false

/-- A ready echo may go now: 20 ns into a closed interval that opened after it was ready and carries no other
Lehr frame, one in a cycle; without a list, on an idle port (R233, R234, R236). -/
def echoFits (s : State) (p : Nat) : Bool :=
  let c := calPort s p
  lehrFree s p && (if (gates s p).isEmpty then idleEnough s p && echoReady s p s.clock
    else match brimNow s p with
      | some r => echoReady s p (s.clock - 20) && c.usedAt != openedAt s r + 1 && c.echoCyc != cycleNo s + 1
      | none => false)

/-- The longest of some intervals, the earliest among equals. -/
def longestOf (l : List (Nat × Nat)) : Option (Nat × Nat) :=
  l.foldl (fun a r => match a with
    | some b => if b.2 < r.2 then some r else some b
    | none => some r) none

/-- A probe may go now: 20 ns into the longest closed interval that no echo of the cycle has taken or is due
in, one in a cycle; without a list, on an idle port (R233, R234). -/
def probeFits (s : State) (p : Nat) : Bool :=
  let c := calPort s p
  lehrFree s p && (if (gates s p).isEmpty then idleEnough s p
    else match brimNow s p with
      | some r => longestOf ((brims s p).filter fun x => c.echoAt != openedAt s x + 1) == some r &&
          c.usedAt != openedAt s r + 1 && c.probeCyc != cycleNo s + 1 && !echoFits s p
      | none => false)

/-- The closed interval of the present instant carries a Lehr frame. -/
def usesBrim (s : State) (p : Nat) (echo : Bool) : State :=
  match brimNow s p with
  | none => s
  | some r =>
    let o := openedAt s r + 1
    let n := cycleNo s + 1
    modCalPort s p fun c =>
      if echo then { c with usedAt := o, echoAt := o, echoCyc := n } else { c with usedAt := o, probeCyc := n }

/-- FLAGS of a Lehr frame (Table 6-4). -/
def lehrFlags (s : State) (p : Nat) (stepped : Bool) : Nat :=
  (if s.tm.state = 0 then 128 else 0) + ptClass s (2 * p) * 32 + (if stepped then 16 else 0)

/-- A Lehr frame built at its stamp and put on the line, whole. -/
def sendLehr (s : State) (p : Nat) (mk : Stamp → Bytes) : Stamp × State :=
  let (st, s) := txStamp s p
  let n := s.tx.nextId
  let s := s.modTx fun t => { t with nextId := n + 1 }
  (st, beginAt s p { id := n + 1, tc := 7, data := padTo 60 (mk st), src := .own, express := true } none st)

/-- Header of a Lehr frame (Table 6-4). -/
def lehrHead (s : State) (p sub seq flags : Nat) : Bytes :=
  lldpAddr ++ portAddr s p ++ [0x88, 0xB6] ++ toLe 1 sub ++ [1] ++ toBe 2 seq ++ toLe 1 flags ++ zz 1

/-- An unanswered probe counts; the fourth in succession marks the partner silent (R238). -/
def unanswered (s : State) (p : Nat) : State :=
  let n := (calPort s p).unanswered + 1
  let s := modCalPort s p fun c => { c with unanswered := n }
  if 4 ≤ n ∧ (calPort s p).partner ≠ 2 then
    let s := defer (modCalPort s p fun c => { c with partner := 2 }) p 5
    fault s (80 + 8 * p + 7)
  else s

/-- Probes that no echo has answered within 1 ms have gone unanswered, as the port finds when it comes to send the
next one (R236, R238, log entry 210). -/
def expireProbes (s : State) (p : Nat) : State :=
  let now := s.clock
  let gone (b : Probe) : Bool := !b.told && decide (b.at_ + 1000000 < now)
  let l := (calPort s p).out.filter gone
  l.foldl (fun s _ => unanswered s p) (modCalPort s p fun c =>
    { c with out := c.out.map fun b => if gone b then { b with told := true } else b })

/-- A silent partner gets one probe every 10 s (R238). -/
def probeRests (s : State) (p : Nat) : Bool :=
  let c := calPort s p
  c.partner == 2 && c.probeAt != 0 && decide (s.clock < c.probeAt - 1 + 10000000000)

/-- PROBE_SEND (R233–R235, R238, R243, R244). -/
def execProbeSend (p : Fin 6) (s : State) : Host.Outcome State Fault Refusal :=
  run s fun s =>
    let p := p.val
    if cfg s (oidOf 0x0300 p 0) 0 1 = 0 || (calPort s p).suspended || !on s (6 + p) then s
    else
    let s := expireProbes s p
    if noBrim s p then (if (calPort s p).deferred && (calPort s p).reason == 1 then s else defer s p 1)
    else if !probeFits s p || probeRests s p then s else
    let c := calPort s p
    let s := if c.probes ≥ 64 then modCalPort s p fun c => { c with pairs := [], probes := 0 } else s
    let s := usesBrim s p false
    let (st, s) := sendLehr s p fun st => lehrHead s p 0x10 c.seq.toNat (lehrFlags s p false) ++ toBe 6 st.at48.toNat
    let lk := s.tm.state == 0
    let now := s.clock
    count (modCalPort s p fun c =>
      let b : Probe := { seq := c.seq, t1 := st.at48, locked := lk, at_ := now }
      { c with seq := c.seq + 1, probes := c.probes + 1, out := (c.out ++ [b]).drop (c.out.length - 63), probeAt := now + 1 })
      (cPort p 4) 5

/-- A probe is consumed and held for echoing (R232, R236). -/
def takeProbe (s : State) (p : Nat) (f : Bytes) (t2 : Stamp) : State :=
  count (modCalPort s p fun c => { c with echo := some (f, t2.at48, t2.mark) }) (cPort p 4) 7

/-- The port takes protected frames only: PD12 + n ENABLED and MSEC_RX.ENABLE set (R316). -/
def secRx (s : State) (p : Nat) : Bool := on s (12 + p) && cfg s (oidOf 0x050A p 0) 0 1 == 1

/-- PROBE_RECEIVE (R236): where MACsec is enabled, a probe in clear is not verified and is dropped; a protected
one comes by FRAME_RECEIVE. -/
def execProbeReceive (p : Fin 6) (frame : Bytes) (s : State) : Host.Outcome State Fault Refusal :=
  run s fun s =>
    if !on s (6 + p.val) || !(prt s p.val).up || !isKin frame 0x10 then s
    else if secRx s p.val then count s (cPort p.val 3) 6
    else
      let (st, s) := rxStamp s p.val frame.length
      takeProbe s p.val frame st

/-- ECHO_SEND (R233, R234, R236); a probe that is not echoed within 1 ms is not echoed (log entry 148). -/
def execEchoSend (p : Fin 6) (s : State) : Host.Outcome State Fault Refusal :=
  run s fun s =>
    let p := p.val
    match (calPort s p).echo with
    | none => s
    | some (f, t2, at_) =>
      if s.clock > at_ + 1000000 then modCalPort s p fun c => { c with echo := none }
      else if !echoFits s p then s else
      let s := usesBrim s p true
      let (_, s) := sendLehr s p fun st =>
        lehrHead s p 0x11 (be f 16 2) (lehrFlags s p (steppedSince s at_)) ++ sub f 20 6 ++ toBe 6 t2.toNat ++ toBe 6 st.at48.toNat
      count (modCalPort s p fun c => { c with echo := none }) (cPort p 4) 6

/-- Sixteen used pairs end an asymmetry pass of a port or a cascade link (R237, R246). -/
def asymPass (s : State) (p : Nat) : State :=
  let c := calPort s p
  if c.pairs.length < 16 then s else
  let trim (l : List Int) : List Int := ((sortAsc l).drop 2).take 12
  let means := trim (c.pairs.map (·.1)); let asyms := trim (c.pairs.map (·.2))
  let s := modCalPort s p fun c => { c with pairs := [], probes := 0 }
  if (asyms.getLastD 0 - asyms.headD 0) * 1000 ≤ 100 * 65536 then
    let now := s.clock
    modCalPort s p fun c =>
      { c with mean := sumI means * 1000 / (12 * 65536), asym := sumI asyms * 1000 / (12 * 65536), asymAt := now + 1,
               accepted := satAdd (2 ^ 32 - 1) c.accepted 1, deferred := false, reason := 0 }
  else
    let s := modCalPort s p fun c => { c with rejected := satAdd (2 ^ 32 - 1) c.rejected 1 }
    if p < 6 then count s (cPort p 4) 9 else s

/-- A usable pair joins the running asymmetry pass (R237). -/
def usePair (s : State) (i : Nat) (rtt asym : Int) : State :=
  if (calPort s i).suspended then s
  else asymPass (modCalPort s i fun c => { c with pairs := c.pairs ++ [(rtt.tdiv 2, asym)] }) i

/-- An echo is consumed and, where it answers a probe that has no echo yet and is usable, gives a pair (R237). -/
def takeEcho (s : State) (p : Nat) (f : Bytes) (t4 : BitVec 48) : State :=
  let s := count s (cPort p 4) 7
  let t (o : Nat) : BitVec 48 := BitVec.ofNat 48 (be f o 6)
  match (calPort s p).out.find? fun b => be f 16 2 == b.seq.toNat && t 20 == b.t1 with
  | none => s
  | some b =>
    let s := modCalPort s p fun c => { c with out := c.out.erase b, unanswered := 0, partner := 1 }
    let locked := b.locked && bitN (by_ f 18) 7
    if (calPort s p).suspended then s
    else if !locked then defer s p 6
    else if bitN (by_ f 18) 4 || steppedSince s b.at_ || decide (65536 * 1000000 < (t 32 - t 26).toNat) then s
    else
      let rtt := diff48 t4 b.t1 - diff48 (t 32) (t 26)
      let asym := (diff48 t4 (t 32) - diff48 (t 26) b.t1).tdiv 2
      usePair (count s (cPort p 4) 8) p rtt asym

/-- ECHO_RECEIVE (R237). -/
def execEchoReceive (p : Fin 6) (frame : Bytes) (s : State) : Host.Outcome State Fault Refusal :=
  run s fun s =>
    if !on s (6 + p.val) || !(prt s p.val).up || !isKin frame 0x11 then s
    else if secRx s p.val then count s (cPort p.val 3) 6
    else
      let (st, s) := rxStamp s p.val frame.length
      takeEcho s p.val frame st.at48

end Sys2Proof.Machine
end

