-- ==== Sys2Proof/Machine/Dma.lean ====
section
/-! DEFINITION. The DMA engines and the descriptor queues: flits and messages received, reads of host
memory and their completions, fetches, deliveries and write-backs, and the end of a drain
(chapter 2). -/

namespace Sys2Proof.Machine

/-- DMWR and DMRD may be issued (R91, R522, R523), and no detach has written its last (Table 2-20). -/
def dmaOk (s : State) : Bool := s.hl.ctrl.getLsbD 0 && outboundOk s && !s.hl.leaving

/-- Nothing waits ahead of a posted message and its credits are there (R61). -/
def postedOk (s : State) : Bool :=
  !(s.hl.waiting.any fun x => x.cls == .posted) && decide (1 ≤ s.hl.crP) && decide (1 ≤ s.hl.crPD)

/-- The pieces of an access within a size limit and 4 KiB pages, as offset and length (Table 2-3): a page
is cut so that no piece of it is shorter than 4 bytes where the page holds as many. -/
def piecesFuel (maxw addr : Nat) : Nat → Nat → Nat → List (Nat × Nat)
  | 0, _, _ => []
  | k + 1, off, rest =>
    if rest = 0 then [] else
    let page := min rest (4096 - (addr + off) % 4096)
    let n := min maxw page
    let n := if 0 < page - n ∧ page - n < 4 ∧ 8 ≤ n then n - 4 else n
    (off, n) :: piecesFuel maxw addr k (off + n) (rest - n)

def pieces (maxw addr len : Nat) : List (Nat × Nat) := piecesFuel maxw addr (len + 1) 0 len

/-- The read that fetches a piece: one of 1 to 3 bytes at a page's edge is read as 4 bytes within its page,
since a DMRD has at least 4 (Table 2-3). -/
def readSpan (a n : Nat) : Nat × Nat :=
  if 4 ≤ n then (a, n) else (if 4096 < a % 4096 + 4 then a / 4096 * 4096 + 4092 else a, 4)

/-- MAX_WRITE and MAX_READ in bytes (Table 2-10). -/
def maxWrite (s : State) : Nat := 64 * 2 ^ min 2 (bitsN s.hl.ctrl.toNat 17 16)
def maxRead (s : State) : Nat := 64 * 2 ^ bitsN s.hl.ctrl.toNat 15 14

/-- A memory write to the host in as many DMWRs as it takes. 1 to 3 bytes that stand alone in a page have
no legal DMWR in Table 2-3; the model sends them as one of that LENGTH (log entry 136). -/
def writeMem (s : State) (addr : Nat) (data : Bytes) (attr : Nat) : State :=
  (pieces (maxWrite s) addr data.length).foldl (fun s x =>
    let a := addr + x.1
    sendMsg s (msgHeader 0x11 attr 0 x.2 0 (a % 2 ^ 32) (a / 2 ^ 32 % 2 ^ 32) ++ sub data x.1 x.2)) s

/-- The tag is neither outstanding nor kept out of use (R59, R60). -/
def tagFree (s : State) (t : Nat) : Bool :=
  !(s.hl.dmrds.any fun d => d.tag == t) && !(s.hl.deadTags.any fun x => x.1 == t && decide (s.clock < x.2))

/-- The next free tag from the one tried next, fuel-bounded. -/
def findTag (s : State) : Nat → Nat → Option Nat
  | 0, _ => none
  | k + 1, t => if tagFree s (t % 1024) then some (t % 1024) else findTag s k (t + 1)

/-- One memory read of the host issued, where a tag is free. -/
def readMem (s : State) (use : DmrdUse) (addr len : Nat) : Option State :=
  match findTag s 1024 s.hl.nextTag with
  | none => none
  | some t =>
    let d : Dmrd := { tag := t, use := use, addr := addr, len := len, got := [], bad := false, at_ := s.clock }
    some (sendMsg (s.modHl fun l =>
      { l with dmrds := l.dmrds ++ [d], nextTag := (t + 1) % 1024,
               deadTags := l.deadTags.filter fun x => decide (s.clock < x.2) }) (dmrdHdr d))

/-- Address of descriptor `idx` of a queue. -/
def descAddr (s : State) (i idx : Nat) : Nat := (que s i).base.toNat + 32 * idx

/-- The queue reads a further descriptor (R69, R70, R72, R88, R464, R523). -/
def fetches (s : State) (i : Nat) : Bool :=
  let u := que s i
  u.enable && !u.stopped && !u.closing && !u.reading && dmaOk s && s.hl.state != lsQuiescing && !s.fs.f4 &&
    on s 48 && u.head != u.tail

/-- A descriptor read issued in ring order. -/
def fetchDesc (s : State) (i : Nat) (use : Nat → DmrdUse) : State :=
  if !fetches s i then s else
  let u := que s i
  let idx := u.head.toNat
  match readMem s (use idx) (descAddr s i idx) 32 with
  | none => s
  | some s => modQue s i fun u => { u with reading := true, head := BitVec.ofNat 12 ((idx + 1) % u.size.toNat) }

/-- TX_DESCRIPTOR_FETCH (R270). -/
def execTxDescriptorFetch (q : Fin 64) (s : State) : Host.Outcome State Fault Refusal :=
  run s fun s => fetchDesc s q.val (.txDesc q.val)

/-- RX_DESCRIPTOR_FETCH (R77). -/
def execRxDescriptorFetch (q : Fin 64) (s : State) : Host.Outcome State Fault Refusal :=
  run s fun s => fetchDesc s (64 + q.val) (.rxDesc q.val)

/-- A frame's lead has been reached, or it has no launch time (R270, R427). -/
def leadDone (s : State) (q : Nat) (r : TxRec) : Bool :=
  let lead := if r.dest.isSome then widenLead s q else
    match ones r.todo with
    | p :: _ => cfg s (oTxs p) 8 4
    | [] => 0
  !descLaunch r.desc || decide (r.launch ≤ now80 s + lead * 65536)

/-- The reads of one frame's data issued; none is issued where the tags do not suffice. -/
def readFrame (s : State) (q : Nat) (r : TxRec) : Option State :=
  let addr := le r.desc 0 8
  let ps := pieces (maxRead s) addr (descLen r.desc)
  let s' := ps.foldl (fun (o : Option State) x => match o with
    | some s => let y := readSpan (addr + x.1) x.2
                readMem s (.txFrame q r.idx x.1) y.1 y.2
    | none => none) (some s)
  s'.map fun s => modRec s q r.idx fun r => { r with phase := .fetching ps.length }

/-- TX_FRAME_FETCH: the oldest frame not fetched whose lead is reached is fetched, one at a time for each
queue; for want of cells it waits, and the later ones with it (R270). One with no port up holds no cells (R273),
and needs no data but for the twin's comparison (R437). -/
def execTxFrameFetch (q : Fin 64) (s : State) : Host.Outcome State Fault Refusal :=
  run s fun s =>
    let q := q.val
    let u := que s q
    let busy := u.recs.any fun r => match r.phase with
      | .fetching _ => true
      | _ => false
    if busy || u.stopped || u.closing || !u.enable || !dmaOk s || s.hl.state == lsQuiescing || s.fs.f4 then s else
    match u.recs.find? fun r => r.phase == .read && leadDone s q r with
    | none => s
    | some r =>
      let member := r.dest.isSome
      let ps := if member then [] else (ones r.todo).filter fun p => !downFor s p
      if !member && !cellsFit s r ps then s
      else if !member && r.todo == 0 then endRec s q r.idx 7
      else if !member && ps.isEmpty && !(s.tw.on && (descHandle r.desc).isSome) then modRec s q r.idx fun r => { r with phase := .staged }
      else match readFrame s q r with
        | none => s
        | some s => if member then s else takeCells s q r.idx ps (cellsOf (descLen r.desc))

/-- A TX descriptor has been read (R75, R270, R343). -/
def txDescRead (s : State) (q idx : Nat) (d : Bytes) : State :=
  let s := modQue s q fun u => { u with reading := false }
  if !(que s q).enable then s else
  let dest := memberOf s q d
  let (r, s) := takeDesc s idx d dest.isSome
  let r := { r with dest := dest }
  let r := if s.fs.f4 && r.phase == .read then { r with phase := .done 8, todo := 0 }
    else if (que s q).stopped && r.phase == .read then { r with phase := .done 6, todo := 0 } else r
  modQue s q fun u => { u with recs := u.recs ++ [r] }

/-- An RX write-back with its DONE bit (Table 2-16). -/
def rxWbBad : Bytes := zz 6 ++ [0x30, 0] ++ zz 7 ++ [5] ++ zz 15 ++ [0x80]

/-- Bad descriptors at the head of the buffers are written back in ring order (R77). -/
def popBadFuel : Nat → State → Nat → State
  | 0, s, _ => s
  | k + 1, s, i =>
    match (que s i).bufs with
    | b :: rest =>
      if !b.bad then s
      else popBadFuel k (modQue s i fun u =>
        { u with bufs := rest, wbs := u.wbs ++ [{ idx := b.idx, addr := 0, data := [], poison := false, wb := rxWbBad,
                                                  record := [], recIx := 0 }] }) i
    | [] => s

def popBad (s : State) (i : Nat) : State := popBadFuel (que s i).bufs.length s i

/-- An RX descriptor has been read (R77). -/
def rxDescRead (s : State) (q idx : Nat) (d : Bytes) : State :=
  let i := 64 + q
  let s := modQue s i fun u => { u with reading := false }
  if !(que s i).enable then s else
  let size := le d 8 2
  let bad := size % 64 != 0 || size < 256 || size > 16384 || !allZero (d.drop 10)
  popBad (modQue s i fun u => { u with bufs := u.bufs ++ [{ idx := idx, addr := le d 0 8, size := size, bad := bad }] }) i

/-- A frame's data is complete: it is staged, or sent on to its member (R269, R427, R435). -/
def frameRead (s : State) (q idx : Nat) : State :=
  match recOf s q idx with
  | none => s
  | some r =>
    if r.fail ≠ 0 then (ones r.todo).foldl (fun s p => ripenRest s q p) (endRec s q idx r.fail)
    else match r.dest with
      | some m => sendDown (modRec s q idx fun r => { r with phase := .away }) q m r
      | none => talkerStaged (modRec s q idx fun r => { r with phase := .staged }) q idx

/-- Bytes of a frame in the data of one of its reads: what a read has before the piece or behind the frame
is not of the frame (see `readSpan`). -/
def frameBytes (desc : Bytes) (off addr : Nat) (got : Bytes) : Bytes :=
  (got.drop (le desc 0 8 + off - addr)).take (descLen desc - off)

/-- One read of a frame's data has ended, with a failing STATUS or 0. -/
def pieceEnd (s : State) (q idx off addr : Nat) (got : Bytes) (status : BitVec 8) : State :=
  match recOf s q idx with
  | none => s
  | some r =>
    match r.phase with
    | .fetching n =>
      let s := modRec s q idx fun r =>
        { r with phase := .fetching (n - 1), data := patch r.data off (frameBytes r.desc off addr got), fail := if r.fail = 0 then status else r.fail }
      if n ≤ 1 then frameRead s q idx else s
    | _ => s

/-- A descriptor fetch has failed: the queue stops, and the descriptor counts as not read (Table 2-7). A
queue that does not run is not touched. -/
def descFail (s : State) (i idx : Nat) (err : BitVec 4) : State :=
  if (que s i).enable then stopQueue (modQue s i fun u => { u with reading := false, head := BitVec.ofNat 12 idx }) i err
  else s

/-- A DMRD leaves the outstanding ones; one that was never sent is not sent any more. -/
def dropDmrd (s : State) (d : Dmrd) : State :=
  s.modHl fun l => { l with dmrds := l.dmrds.erase d,
                            waiting := l.waiting.filter fun x => !(by_ x.msg 0 == 0x12 && le x.msg 2 2 == d.tag) }

/-- A DMRD has all its data (R57, Table 2-7). -/
def dmrdDone (s : State) (d : Dmrd) : State :=
  let s := dropDmrd s d
  match d.use with
  | .txDesc q idx => if d.bad then descFail s q idx 2 else txDescRead s q idx d.got
  | .rxDesc q idx => if d.bad then descFail s (64 + q) idx 2 else rxDescRead s q idx d.got
  | .txFrame q idx off => pieceEnd s q idx off d.addr d.got (if d.bad then 3 else 0)

/-- A DMRD has failed: 2 poisoned or refused, 1 timed out (Table 2-7). -/
def dmrdFail (s : State) (d : Dmrd) (err : BitVec 4) : State :=
  let s := dropDmrd s d
  match d.use with
  | .txDesc q idx => descFail s q idx err
  | .rxDesc q idx => descFail s (64 + q) idx err
  | .txFrame q idx off => pieceEnd s q idx off d.addr d.got (if err = 1 then 4 else 3)

/-- The 16 header bytes of a completion from the host. -/
def cplHdr (ty : Nat) (c : CplMsg) : Bytes :=
  toLe 1 ty ++ toLe 1 c.attr.toNat ++ toLe 2 c.tag.toNat ++ toLe 2 c.length.toNat ++ toLe 2 c.status.toNat ++
    toLe 4 c.byteOffset.toNat ++ toLe 4 c.resv12.toNat

/-- A completion has a non-zero reserved field (R58). -/
def cplReserved (c : CplMsg) : Bool :=
  c.attr.toNat ≥ 4 || c.tag.toNat ≥ 1024 || c.status.toNat ≥ 8 || c.resv12 != 0

/-- A completion whose tag is not outstanding; HL_ERR does not take it (R60, Table 2-8). -/
def unexpected (s : State) : State := fault (setFlag s 9) 51

/-- A completion without data, or with a status that is not success (R66). The model's choice (log entry
137): a DCPLD with a non-zero CPL_STATUS, and a DCPL with status SC or a reserved one, are failed reads
like a DCPL with UR or CA. -/
def takeFailure (s : State) (c : CplMsg) (hdr : Bytes) : State :=
  match s.hl.dmrds.find? (·.tag == c.tag.toNat) with
  | none => unexpected s
  | some d => dmrdFail (if c.attr.getLsbD 0 then poisonSeen s hdr else readFailed s) d 2

/-- The piece continues its DMRD as R57 says. -/
def pieceOk (d : Dmrd) (c : CplMsg) : Bool :=
  let all := d.got.length + c.length.toNat
  c.byteOffset.toNat == d.got.length && decide (all ≤ d.len) && (all == d.len || c.length.toNat % 64 == 0)

/-- DCPLD taken (R57, R60, R66). The model's choice (log entry 138): one whose BYTE_OFFSET or length does
not continue its DMRD is malformed, and its tag stays outstanding; LENGTH 0 is malformed too. -/
def takeDcpld (s : State) (c : CplMsg) : State :=
  let hdr := cplHdr 0x13 c
  if cplReserved c || c.length == 0 || c.length.toNat > 256 then malformed s hdr
  else if c.status ≠ 0 then takeFailure s c hdr
  else match s.hl.dmrds.find? (·.tag == c.tag.toNat) with
    | none => unexpected s
    | some d =>
      if !pieceOk d c then malformed s hdr else
      let poison := c.attr.getLsbD 0
      let s := if poison then poisonSeen s hdr else s
      let d' : Dmrd := { d with got := d.got ++ c.data, bad := d.bad || poison }
      let s := s.modHl fun l => { l with dmrds := l.dmrds.map fun x => if x = d then d' else x }
      if d'.got.length = d.len then dmrdDone s d' else s

/-- DCPLD (R66). -/
def execDcpld (c : CplMsg) (s : State) : Host.Outcome State Fault Refusal :=
  run s fun s => if s.hl.trained then pump (takeDcpld s c) else s

/-- DCPL taken (R66). -/
def takeDcpl (s : State) (c : CplMsg) : State :=
  let hdr := cplHdr 0x14 c
  if cplReserved c || c.length != 0 then malformed s hdr else takeFailure s c hdr

/-- DCPL (R66). -/
def execDcpl (c : CplMsg) (s : State) : Host.Outcome State Fault Refusal :=
  run s fun s => if s.hl.trained then pump (takeDcpl s c) else s

/-- DMRD_TIMEOUT: its tag stays out of use for twice HL_CPL_TIMEOUT (R60, R66, R67). -/
def execDmrdTimeout (tag : BitVec 10) (s : State) : Host.Outcome State Fault Refusal :=
  run s fun s =>
    match s.hl.dmrds.find? (·.tag == tag.toNat) with
    | none => s
    | some d => pump (dmrdFail (timedOut s d) d 1)

/-- A completion message read from its bytes. -/
def cplOf (m : Bytes) : CplMsg :=
  { attr := BitVec.ofNat 8 (by_ m 1), tag := BitVec.ofNat 16 (le m 2 2), length := BitVec.ofNat 16 (le m 4 2),
    status := BitVec.ofNat 16 (le m 6 2), byteOffset := BitVec.ofNat 32 (le m 8 4), resv12 := BitVec.ofNat 32 (le m 12 4),
    data := sub m 16 (le m 4 2) }

/-- A window request read from its bytes. -/
def winOf (m : Bytes) : WinMsg :=
  { attr := BitVec.ofNat 8 (by_ m 1), tag := BitVec.ofNat 16 (le m 2 2), length := BitVec.ofNat 16 (le m 4 2),
    resv6 := BitVec.ofNat 16 (le m 6 2), offset := BitVec.ofNat 32 (le m 8 4), window := BitVec.ofNat 8 (by_ m 12),
    resv13 := BitVec.ofNat 24 (le m 13 3), data := if by_ m 0 = 1 then sub m 16 (le m 4 2) else [] }

/-- Link management from the host: HOST_QUIESCE, and nothing else (Table 2-4, R58). The model's choices
(log entry 139): a HOST_QUIESCE with a non-zero LM_ARG is taken as one with 0, and a poisoned one sets
POISON_SEEN and is discarded. -/
def takeLm (s : State) (m : Bytes) : State :=
  let s := lmCredit s
  if by_ m 1 ≥ 4 || le m 2 4 != 0 || le m 6 2 != 0x10 then malformed s (sub m 0 16)
  else if by_ m 1 % 2 = 1 then poisonSeen s (sub m 0 16)
  else takeQuiesce s

/-- One message from the host (Table 2-3). -/
def takeMsg (s : State) (m : Bytes) : State :=
  match by_ m 0 with
  | 0x01 => takeMwr s (winOf m)
  | 0x02 => takeMrd s (winOf m)
  | 0x13 => takeDcpld s (cplOf m)
  | 0x14 => takeDcpl s (cplOf m)
  | 0x30 => takeLm s m
  | _ => malformed s (sub m 0 16)

/-- Length of a message by its header, with its padding (R55). The model's choice (log entry 140): a
message of an unknown MSG_TYPE is taken to be its 16 header bytes. -/
def msgLen (m : Bytes) : Nat :=
  if [0x01, 0x13, 0x03, 0x11].contains (by_ m 0) then 16 + (le m 4 2 + 3) / 4 * 4 else 16

/-- The messages of a byte stream taken in order, fuel-bounded; what has not come whole is kept for
the next flit, and zeros pad a flit (Table 2-1). -/
def takeMsgsFuel : Nat → State → Bytes → State
  | 0, s, _ => s
  | k + 1, s, b =>
    if allZero b then s
    else if b.length < 16 ∨ b.length < msgLen b then s.modHl fun l => { l with rxPart := b }
    else takeMsgsFuel k (takeMsg s (b.take (msgLen b))) (b.drop (msgLen b))

/-- The message area of a flit (Table 2-1). -/
def takeArea (s : State) (first : Nat) (area : Bytes) : State :=
  let part := s.hl.rxPart
  let b := if part.isEmpty then (if first < 236 then area.drop first else []) else part ++ area
  takeMsgsFuel (b.length / 16 + 1) (s.modHl fun l => { l with rxPart := [] }) b

/-- A flit is discarded; one NAK names the expected sequence (R52). -/
def badFlit (s : State) : State :=
  if s.hl.rxBad then s else sendNak (s.modHl fun l => { l with rxBad := true })

/-- Credits of a flit taken (Table 2-1). -/
def takeCredits (s : State) (f : Bytes) : State :=
  s.modHl fun l => { l with crP := l.crP + by_ f 240, crPD := l.crPD + le f 241 2 % 4096,
                            crNP := l.crNP + by_ f 243, crLM := l.crLM + by_ f 244 }

/-- FLIT_RECEIVE (R50–R52). The model's choice (log entry 141): a flit of a reserved FLIT_TYPE counts as a
numbered flit, whose credits and ACK are taken and whose message area is ignored. -/
def execFlitReceive (f : Bytes) (s : State) : Host.Outcome State Fault Refusal :=
  run s fun s =>
    if !s.hl.trained then s
    else if le f 252 4 ≠ crc32c (f.take 252) then badFlit (count s cDev 4)
    else
      let ty := le f 0 2 / 4096
      let seq := BitVec.ofNat 12 (le f 0 2)
      let ack := BitVec.ofNat 12 (le f 248 2)
      let acked (s : State) : State := if bitN (le f 248 2) 15 then ackReplay s ack else s
      if ty = 0 then (if s.hl.rxBad then s else leave (pump (acked (takeCredits s f))))
      else if seq ≠ s.hl.rxSeq then badFlit s
      else
        let s := takeCredits (s.modHl fun l => { l with rxSeq := l.rxSeq + 1, rxAny := true, rxBad := false, nakDue := false }) f
        let s := if ty = 2 then takeNak s ack
          else if ty = 1 then takeArea (acked s) (le f 2 2) (sub f 4 236)
          else acked s
        leave (pump s)

/-- A 64-byte timestamp record (Table 2-18). -/
def stampRecord (idx : Nat) (stamps : List Stamp) (lost : Nat) : Bytes :=
  toLe 2 idx ++ toLe 1 (ofBits 6 (stamps.map (·.port))).toNat ++ toLe 1 lost ++ zz 4 ++
    ([0, 1, 2, 3, 4, 5].flatMap fun p => match stamps.find? (·.port == p) with
      | some x => toLe 6 x.at48.toNat ++ toLe 1 x.cls.toNat ++ zz 1
      | none => zz 8) ++ zz 8

/-- Stamps that find room in their port's timestamp FIFO, and the ports whose stamp is lost (R80). -/
def takeStamps (s : State) (l : List Stamp) : List Stamp × Nat × State :=
  l.foldl (fun (a : List Stamp × Nat × State) st =>
    if st.port ≥ 6 then a
    else if (prt a.2.2 st.port).fifo ≥ 64 then (a.1, a.2.1 + 2 ^ st.port, a.2.2)
    else (a.1 ++ [st], a.2.1, modPrt a.2.2 st.port fun p => { p with fifo := p.fifo + 1 })) ([], 0, s)

/-- A frame enters a receive queue's next buffer, or is dropped and counted (R78, R79, R88, R523). The
model's choice (log entry 142): one that is longer than its buffer and has an uncorrectable error is
written back BUFFER_ECC. A replica whose own stamp was lost is written back with the next replica's (log entry 198). -/
def intoQueue (s : State) (q : Nat) (m : RxMeta) (frame : Bytes) : State :=
  let i := 64 + q
  let u := que s i
  if s.hl.state = lsQuiescing ∨ s.hl.state = lsDetached then count s (cRxq q) 3
  else if !s.hl.ctrl.getLsbD 0 || !u.enable || u.closing then count s (cRxq q) 2
  else match u.bufs with
    | [] => count s (cRxq q) 2
    | b :: rest =>
      let (got, lost, s) := if u.stamped then takeStamps s m.stamps else ([], 0, s)
      let status := if m.ecc then 2 else if frame.length > b.size then 1 else 0
      let wb := rxWb m u.stamped got.head? lost status frame.length u.recIx
      let record := if u.stamped then stampRecord b.idx got lost else []
      let w : RxWb := { idx := b.idx, addr := b.addr, data := frame.take b.size, poison := m.ecc, wb := wb,
                        record := record, recIx := u.recIx }
      popBad (modQue s i fun u =>
        { u with bufs := rest, wbs := u.wbs ++ [w], recIx := if u.stamped then (u.recIx + 1) % 256 else u.recIx }) i

/-- RXQ of the master to which a member's local copies for RXQr go (R428). -/
def upTo (s : State) (r : Nat) : Option Nat :=
  let e := cfg s 0x08060000 (4 * r) 1
  if (s.sk.config = 1 ∨ s.sk.config = 2) ∧ !isMaster s ∧ s.sk.complete ∧ e < 64 then some e else none

/-- A local copy delivered to RXQr, or sent up to the stack master (R78, R428, R464). -/
def deliverRx (s : State) (r : Nat) (m : RxMeta) (frame : Bytes) : State :=
  if s.fs.f4 then s else
  match upTo s r with
  | some _ =>
    let k := linkTo s s.sk.master
    if !(klink s k).up || kShut s 0x30 s.sk.master then count s (cCasc k) 8
    else kSend s k 0x30 s.sk.master (rxWb m true m.stamps.head? 0 (if m.ecc then 2 else 0) frame.length 0 ++ frame)
  | none => intoQueue s r m frame

/-- The area of window 1 in which a queue's records lie (R82). -/
def recordAt (s : State) (i recIx : Nat) : Nat :=
  (if i < 64 then 0x40000 else 0x60000) + 0x4000 * ((que s i).slot.getD 0) + 64 * recIx

/-- The write-back of descriptor `idx` as one DMWR of its 32 bytes, and WB_INDEX advanced; the queue's event
comes with the sending (R65, R85). -/
def writeBack (s : State) (i idx : Nat) (wb : Bytes) : State :=
  let a := descAddr s i idx
  let s := modQue s i fun u => { u with wb := BitVec.ofNat 12 ((idx + 1) % u.size.toNat) }
  sendVec s (msgHeader 0x11 0 0 32 0 (a % 2 ^ 32) (a / 2 ^ 32 % 2 ^ 32) ++ wb) (some (queVec s i))

/-- TX write-back of a decided descriptor, with its record where the queue is stamped (Table 2-15). -/
def txWb (r : TxRec) (stamped : Bool) (status : BitVec 8) (recIx : Nat) : Bytes :=
  match r.member with
  | some w => w
  | none =>
    let st := if stamped then [0, 1, 2, 3, 4, 5].findSome? fun p => r.stamps.find? (·.port == p) else none
    sub r.desc 8 8 ++ toLe 6 (match st with
      | some x => x.at48.toNat
      | none => 0) ++
    toLe 1 (stampByte st (if stamped then r.lost.toNat else 0) (match st with
      | some x => x.port
      | none => 0)) ++ [status] ++ toLe 2 r.seq.toNat ++ toLe 1 r.sent.toNat ++
    toLe 1 (if stamped then recIx else 0) ++ zz 11 ++ [0x80]

/-- One decided TX descriptor written back (R76, R79, R83). -/
def txWriteRec (s : State) (q : Nat) (r : TxRec) (status : BitVec 8) : State :=
  let u := que s q
  let s := if !u.stamped then s
    else
      let s := s.setWin1 (mwrite win1Reset s.win1 (recordAt s q u.recIx) (stampRecord r.idx r.stamps r.lost.toNat))
      modQue s q fun u => { u with recIx := (u.recIx + 1) % 256 }
  let wb := patch (txWb r u.stamped status u.recIx) 19 [if u.stamped then BitVec.ofNat 8 u.recIx else 0]
  let s := freeStamps s (if u.stamped then (ofBits 6 (r.stamps.map (·.port))).toNat else 0)
  let s := modQue s q fun u => { u with recs := u.recs.erase r }
  let s := countN (count s (cTxq q) 0) (cTxq q) 1 (descLen r.desc)
  let s := if by_ wb 15 ≤ 8 then count s (cTxq q) (2 + by_ wb 15) else s
  let s := if bitN (by_ wb 14) 6 then count s (cTxq q) 11 else s
  writeBack s q r.idx wb

/-- TX_WRITE_BACK: the oldest descriptor, once it is decided and DMA and credits allow (R73, R76). -/
def execTxWriteBack (q : Fin 64) (s : State) : Host.Outcome State Fault Refusal :=
  run s fun s =>
    match (que s q.val).recs with
    | r :: _ => match r.phase with
      | .done v => if dmaOk s && postedOk s then txWriteRec s q.val r v else s
      | _ => s
    | [] => s

/-- One received frame written to host memory with its write-back (R64, R66, R78, R83). -/
def rxWriteRec (s : State) (i : Nat) (w : RxWb) : State :=
  let q := i - 64
  let attr := (if w.poison then 1 else 0) + (if s.hl.ctrl.getLsbD 2 then 2 else 0)
  let s := if w.record.isEmpty then s else s.setWin1 (mwrite win1Reset s.win1 (recordAt s i w.recIx) w.record)
  let s := writeMem s w.addr w.data attr
  let s := freeStamps s (by_ w.record 2)
  let s := modQue s i fun u => { u with wbs := u.wbs.erase w }
  let st := by_ w.wb 15
  let s := if st = 5 then count s (cRxq q) 6
    else
      let s := countN (count s (cRxq q) 0) (cRxq q) 1 (le w.wb 8 2)
      if st = 1 then count s (cRxq q) 4 else if st = 2 then count s (cRxq q) 5 else s
  let s := if bitN (by_ w.wb 6) 6 then count s (cRxq q) 7 else s
  writeBack s i w.idx w.wb

/-- RX_WRITE_BACK: the oldest delivery, once DMA and credits allow; none under an F4 (R73, R78, R464). -/
def execRxWriteBack (q : Fin 64) (s : State) : Host.Outcome State Fault Refusal :=
  run s fun s =>
    match (que s (64 + q.val)).wbs with
    | w :: _ => if dmaOk s && postedOk s && !s.fs.f4 then rxWriteRec s (64 + q.val) w else s
    | [] => s

/-- Every write-back of a queue that is decided is written, in ring order; no delivery under an F4 (R464). -/
def writeAll (s : State) (i : Nat) : State :=
  if i < 64 then (que s i).recs.foldl (fun s r => match r.phase with
    | .done v => txWriteRec s i r v
    | _ => s) s
  else if s.fs.f4 then s
  else (que s i).wbs.foldl (fun s w => rxWriteRec s i w) s

/-- Transmission of a descriptor's frame has started: a port sends it, holds it suspended or has sent it (R70). -/
def hasStarted (s : State) (q : Nat) (r : TxRec) : Bool :=
  (r.phase == .staged && r.sent != 0) || (List.range 6).any fun p => started s q r.idx p

/-- Frames and descriptors of a queue that is being disabled are FLUSHED (R70). The model's choice (log entry 197):
so is, at once, a frame that a stack member holds. -/
def flushQueue (s : State) (q : Nat) : State :=
  (que s q).recs.foldl (fun s r => match r.phase with
    | .done _ => s
    | _ =>
      let s := (ones r.todo).foldl (fun s p =>
        modPrt s p fun x => { x with eg := x.eg.filter fun f => !mine q r.idx f }) s
      endRec s q r.idx 6) s

/-- A read of the queue is outstanding. -/
def reads (s : State) (i : Nat) : Bool :=
  s.hl.dmrds.any fun d => match d.use with
    | .txDesc q _ => q == i
    | .rxDesc q _ => 64 + q == i
    | .txFrame q _ _ => q == i

/-- A frame of the queue has started and is not over: it completes (R70). -/
def anyStarted (s : State) (q : Nat) : Bool := (que s q).recs.any (hasStarted s q)

/-- QUEUE_DISABLE_COMPLETE: write-backs still to be written wait for DMA_ENABLE (R70, R523). -/
def execQueueDisableComplete (d : Dir) (q : Fin 64) (s : State) : Host.Outcome State Fault Refusal :=
  run s fun s =>
    let i := queIx d q.val
    let u := que s i
    if !u.closing || reads s i || anyStarted s i || (!dmaOk s && !(u.recs.isEmpty && u.wbs.isEmpty)) then s else
    let s := writeAll (flushQueue s i) i
    modQue s i fun u =>
      { u with enable := false, closing := false, stopped := false, err := 0, slot := none, head := 0, wb := 0, tail := 0,
               reading := false, recs := [], bufs := [], wbs := [] }

/-- Step 3 of Table 2-20: descriptors read and not fetched are FLUSHED and what is decided is written;
a quiesce of the host writes nothing (R522). The model's choice (log entry 199): while DMA_ENABLE is 0 nothing is
written, and the drain goes on. -/
def drainWrites (s : State) : State :=
  if s.hl.quiesce || !dmaOk s then s else
  (List.range 128).foldl (fun s i =>
    let s := if i < 64 then modQue s i fun u =>
        { u with recs := u.recs.map fun r => if r.phase = .read then { r with phase := .done 6, todo := 0 } else r } else s
    writeAll s i) s

/-- The EVT for vector 126 of step 3 of Table 2-20: sent also where its bit was set before or its holdoff
has not passed (log entry 143). -/
def drainEvt (s : State) : State :=
  if evtWaits s 126 || !evtDue s.hl 126 || !outboundOk s then s else evtNow s 126

/-- DETACH_DRAIN_COMPLETE: steps 3 to 5 of Table 2-20 (R88, R522). What waits for credits or for room is
still sent, and DETACHED follows the DETACH_NOTICE. -/
def execDetachDrainComplete (s : State) : Host.Outcome State Fault Refusal :=
  run s fun s =>
    if s.hl.state ≠ lsQuiescing ∨ !s.hl.dmrds.isEmpty ∨ s.hl.leaving then s else
    let was := s.hl.evPend.getLsbD 126
    let s := stopAll (drainWrites s)
    let s := if was || s.hl.evWait.getLsbD 126 then drainEvt s else s
    let s := match s.hl.detachVia with
      | some v =>
        let s := s.modHl fun l => { l with detachVia := none }
        match s.mb.taken.find? (fun r => r.via == v && r.opcode == 0x00C0) with
        | some r => respondWith s r stOk false []
        | none => s
      | none => s
    leave ((sendLm s 1 0).modHl fun l => { l with leaving := true })

end Sys2Proof.Machine
end

