-- ==== Sys2Proof/Machine/Parser.lean ====
section
/-! DEFINITION. The parser: the header walk and the parse vector of one pass, and the pattern matcher
(R300–R305, Tables 8-5 to 8-9). -/

namespace Sys2Proof.Machine

/-- Header that follows (Table 8-5): a header code, or a stop reason. -/
inductive Next where
  | hdr (code : Nat)
  | stop (reason : Nat)
  deriving DecidableEq, Repr

/-- The walk so far. -/
structure Walk where
  /-- the parse vector as filled so far -/
  pv : Bytes
  /-- first byte not parsed; headers and tags parsed -/
  off : Nat
  count : Nat
  tags : Nat
  /-- end of the IP payload by its length field; an IP fragment -/
  ipEnd : Nat
  frag : Bool
  conflict : Nat
  deriving DecidableEq, Repr

/-- Header by EtherType (Table 8-5). -/
def byType (t : Nat) : Next :=
  match t with
  | 0x8100 => .hdr 0x02
  | 0x88A8 => .hdr 0x03
  | 0x9100 => .hdr 0x04
  | 0xF1C1 => .hdr 0x05
  | 0x88E5 => .hdr 0x06
  | 0x0800 => .hdr 0x10
  | 0x86DD => .hdr 0x11
  | 0x88F7 => .hdr 0x30
  | 0x88CC => .hdr 0x31
  | 0x0806 => .hdr 0x32
  | 0x8808 => .hdr 0x33
  | 0x88B6 => .hdr 0x34
  | _ => .stop 1

/-- Header by IP protocol or next header; extension headers follow IPv6 only (Table 8-5). -/
def byProto (v6 : Bool) (n : Nat) : Next :=
  if n = 17 then .hdr 0x20 else if n = 6 then .hdr 0x21 else if n = 1 then .hdr 0x22 else if n = 58 then .hdr 0x23
  else if v6 ∧ n = 0 then .hdr 0x12 else if v6 ∧ n = 43 then .hdr 0x13 else if v6 ∧ n = 44 then .hdr 0x14
  else if v6 ∧ n = 60 then .hdr 0x15 else .stop 2

/-- Least length of a header, which holds its length and format fields (Table 8-5). -/
def hdrMin (code : Nat) : Nat :=
  if code = 0x01 then 14 else if code ≤ 0x04 then 4 else if code ≤ 0x06 then 6 else if code = 0x07 then 3
  else if code = 0x08 then 5 else if code = 0x10 then 20 else if code = 0x11 then 40 else if code ≤ 0x20 then 8
  else if code = 0x21 then 20 else if code ≤ 0x23 then 8 else if code = 0x30 then 34 else if code = 0x34 then 2 else 0

/-- Length of a header, none where it violates its own format (Table 8-5). -/
def hdrLen (code : Nat) (h : Bytes) : Option Nat :=
  if code = 0x06 then some (if bitN (by_ h 0) 5 then 14 else 6)
  else if code = 0x10 then (if by_ h 0 / 16 = 4 ∧ 5 ≤ by_ h 0 % 16 then some (by_ h 0 % 16 * 4) else none)
  else if code = 0x11 then (if by_ h 0 / 16 = 6 then some 40 else none)
  else if code = 0x12 ∨ code = 0x13 ∨ code = 0x15 then some ((by_ h 1 + 1) * 8)
  else if code = 0x21 then (if 5 ≤ by_ h 12 / 16 then some (by_ h 12 / 16 * 4) else none)
  else some (hdrMin code)

/-- A value put into the parse vector, in network order. -/
def Walk.put (w : Walk) (o n v : Nat) : Walk := { w with pv := patch w.pv o (toBe n v) }

/-- Flag bits set in a byte of the parse vector. -/
def Walk.flag (w : Walk) (o bits : Nat) : Walk := w.put o 1 (by_ w.pv o ||| bits)

/-- A length conflict: the first one is recorded (R301). -/
def Walk.clash (w : Walk) (c : Bool) (k : Nat) : Walk := if c && w.conflict == 0 then { w with conflict := k } else w

/-- The Ethernet header: the EtherType chain, LLC or an invalid type. `pad` says that trailing bytes are
padding, `whole` that the frame's end is known. -/
def walkEther (f : Bytes) (pad whole : Bool) (w : Walk) : Walk × Next :=
  let t := be f 12 2
  let w := { w with pv := patch w.pv 0 (f.take 12) }
  if t ≤ 0x05DC then
    let there := f.length - 14
    (w.clash ((whole && there < t) || (t < there && !pad)) 1, .hdr 0x07)
  else if t ≤ 0x05FF then (w, .stop 10)
  else (w.put 16 2 t, byType t)

/-- A VLAN tag. -/
def walkTag (h : Bytes) (w : Walk) : Walk × Next :=
  let w := if w.tags < 2 then w.put (12 + 2 * w.tags) 2 (be h 0 2) else w
  let w := w.flag 18 (if w.tags = 0 then 0x80 else if w.tags = 1 then 0x40 else 0x20)
  ({ w with tags := w.tags + 1 }.put 16 2 (be h 2 2), byType (be h 2 2))

/-- An R-TAG. -/
def walkRtag (h : Bytes) (w : Walk) : Walk × Next :=
  let w := if bitN (by_ w.pv 18) 4 then w else w.put 28 2 (be h 2 2)
  ((w.flag 18 0x10).put 16 2 (be h 4 2), byType (be h 4 2))

/-- The IPv4 header. -/
def walkIp4 (f h : Bytes) (o : Nat) (pad whole : Bool) (w : Walk) : Walk × Next :=
  let ihl := by_ h 0 % 16 * 4
  let total := be h 2 2
  let there := f.length - o
  let w := w.flag 19 (0x80 + (if ihl > 20 then 0x20 else 0))
  let w := ((w.put 34 2 o).put 30 1 (by_ h 1)).put 32 1 (by_ h 8)
  let w := { w with pv := patch (patch w.pv 52 (sub h 12 4)) 68 (sub h 16 4) }
  let w := w.clash (total < ihl) 4
  let w := w.clash (whole && there < total) 2
  let w := w.clash (total < there && !pad) 3
  let frag := be h 6 2 % 0x4000 ≠ 0
  let later := be h 6 2 % 0x2000 ≠ 0
  let w := { w with ipEnd := o + total, frag := frag }
  let w := w.flag 19 ((if frag then 0x08 else 0) + (if later then 0x04 else 0))
  (w.put 31 1 (by_ h 9), if later then .stop 7 else byProto false (by_ h 9))

/-- The IPv6 header. -/
def walkIp6 (f h : Bytes) (o : Nat) (pad whole : Bool) (w : Walk) : Walk × Next :=
  let len := be h 4 2
  let there := f.length - (o + 40)
  let w := ((w.flag 19 0x40).put 34 2 o).put 30 1 (be h 0 2 / 16 % 256)
  let w := { w.put 32 1 (by_ h 7) with pv := patch (patch (w.put 32 1 (by_ h 7)).pv 40 (sub h 8 16)) 56 (sub h 24 16) }
  let w := w.clash (len == 0 || (whole && there < len)) 5
  let w := w.clash (len < there && !pad) 6
  ({ w with ipEnd := o + 40 + len }.put 31 1 (by_ h 6), byProto true (by_ h 6))

/-- An IPv6 extension header that ends at `e`. -/
def walkExt (code e : Nat) (h : Bytes) (w : Walk) : Walk × Next :=
  let w := (w.flag 19 0x10).clash (w.ipEnd < e) 8
  let w := w.put 31 1 (by_ h 0)
  if code ≠ 0x14 then (w, byProto true (by_ h 0))
  else
    let later := be h 2 2 / 8 ≠ 0
    let w := { w.flag 19 (0x08 + (if later then 0x04 else 0)) with frag := true }
    (w, if later then .stop 7 else byProto true (by_ h 0))

/-- UDP. -/
def walkUdp (h : Bytes) (o : Nat) (w : Walk) : Walk × Next :=
  let len := be h 4 2
  let w := ((w.flag 20 0x80).put 36 2 o).put 72 4 (be h 0 4)
  let w := w.clash (!w.frag && (len < 8 || len != w.ipEnd - o)) 7
  (w, if be h 2 2 = 319 ∨ be h 2 2 = 320 then .hdr 0x30 else .stop 0)

/-- One header taken: what it puts into the parse vector, and what follows it (Table 8-5). -/
def walkHdr (f h : Bytes) (code o len : Nat) (second pad whole : Bool) (w : Walk) : Walk × Next :=
  if code = 0x01 then walkEther f pad whole w
  else if code ≤ 0x04 then walkTag h w
  else if code = 0x05 then walkRtag h w
  else if code = 0x06 then (w, .stop (if second then 9 else 8))
  else if code = 0x07 then (w.flag 18 0x08, if sub h 0 3 = [0xAA, 0xAA, 0x03] then .hdr 0x08 else .stop 0)
  else if code = 0x08 then
    if sub h 0 3 = [0, 0, 0] then ((w.flag 18 0x04).put 16 2 (be h 3 2), byType (be h 3 2))
    else ((w.flag 18 0x04).put 16 2 (be h 3 2), .stop 0)
  else if code = 0x10 then walkIp4 f h o pad whole w
  else if code = 0x11 then walkIp6 f h o pad whole w
  else if code ≤ 0x15 then walkExt code (o + len) h w
  else if code = 0x20 then walkUdp h o w
  else if code = 0x21 then (((w.flag 20 0x40).put 36 2 o).put 72 4 (be h 0 4) |>.put 33 1 (by_ h 13), .stop 0)
  else if code = 0x22 then ((w.flag 20 0x20).put 36 2 o, .stop 0)
  else if code = 0x23 then ((w.flag 20 0x10).put 36 2 o, .stop 0)
  else if code = 0x30 then
    (((w.flag 20 (if bitN (by_ w.pv 20) 7 then 0x04 else 0x08)).put 76 1 (by_ h 0)).put 77 1 (by_ h 4), .stop 0)
  else (w.put 21 1 code, .stop 0)

/-- The header walk, with the stop reason (R300). -/
def walk (f : Bytes) (second pad whole : Bool) : Nat → Nat → Walk → Walk × Nat
  | 0, _, w => (w, 3)
  | k + 1, code, w =>
    let o := w.off
    let h := f.drop o
    if o ≥ 256 ∨ o + hdrMin code > 256 then (w, 4)
    else if o + hdrMin code > f.length then (w, 5)
    else match hdrLen code h with
      | none => (w, 6)
      | some len =>
        if o + len > 256 then (w, 4)
        else if o + len > f.length then (w, 5)
        else
          let w := (w.put (96 + 2 * w.count) 1 code).put (97 + 2 * w.count) 1 o
          let (w, nx) := walkHdr f h code o len second pad whole w
          let w := { w with off := o + len, count := w.count + 1 }
          match nx with
          | .stop r => (w, r)
          | .hdr c => walk f second pad whole k c w

/-- What a second pass knows of the stripped SecTAG: TCI and AN, SCI (R303). -/
structure Inner where
  tci : BitVec 8
  sci : Bytes
  deriving DecidableEq, Repr

/-- The parse vector of a frame without its FCS (Table 8-8); on a second pass, of its plaintext. Where
the frame's end has not come, `early` holds FRAME_LEN, and a conflict with the bytes present is recorded where those
that have come prove it; up to 60 may be a padded frame's (R301, log entries 40 and 149). -/
def parseVec (f : Bytes) (port meta_ : Nat) (inner : Option Inner) (early : Option Nat) : Bytes :=
  let second := inner.isSome
  let whole := early.isNone
  let w0 : Walk := { pv := zz 128, off := 0, count := 0, tags := 0, ipEnd := 0, frag := false, conflict := 0 }
  let pad := !second && (f.length == 60 || (!whole && decide (f.length < 60)))
  let (w, stop) := walk f second pad whole 10 0x01 w0
  let w := ((w.put 22 1 stop).put 23 1 w.conflict).put 24 1 w.count
  let w := ((w.put 25 1 port).put 26 1 (if second then 2 else 1)).put 38 2 w.off
  let w := (w.put 78 2 (early.getD f.length)).put 92 4 meta_
  match inner with
  | some i => (w.flag 18 (if i.tci.getLsbD 3 then 0x02 else 0)).put 82 1 i.tci.toNat |>.put 84 8 (be i.sci 0 8) |>.pv
  | none => w.pv

/-- A pattern entry applies to a pass and matches (R305). -/
def patMatch (e f pv : Bytes) (port : Nat) (second : Bool) : Bool :=
  let anchor := by_ e 35
  let a := if anchor = 1 then be pv 34 2 else if anchor = 2 then be pv 36 2 else if anchor = 3 then be pv 38 2 else 0
  let o := a + le e 32 2
  let n := by_ e 34
  bitN (by_ e 39) 7 && bitN (by_ e 36) port && bitN (by_ e 37) (if second then 1 else 0) &&
    !((anchor == 1 || anchor == 2) && a == 0) && decide (o + n ≤ 512) && decide (o + n ≤ f.length) &&
    (List.range n).all fun i => by_ f (o + i) &&& by_ e (16 + i) == by_ e i &&& by_ e (16 + i)

/-- PAT filled from the patterns of a view (R305). -/
def withPat (s : State) (view : Nat) (f pv : Bytes) (port : Nat) (second : Bool) : Bytes :=
  let hit := (List.range 16).filter fun k => patMatch (objRead s (oidOf 0x0506 view 0) (40 * k) 40) f pv port second
  patch pv 80 (toBe 2 (ofBits 16 hit).toNat)

/-- Offset of a header in HDR_STACK. -/
def hdrOff (pv : Bytes) (code : Nat) : Option Nat :=
  ((List.range 10).find? fun i => by_ pv (96 + 2 * i) == code).map fun i => by_ pv (97 + 2 * i)

end Sys2Proof.Machine
end

