-- ==== Sys2Proof/Machine/Classify.lean ====
section
/-! DEFINITION. Acceptance and classification: address classes, removal, steering, hash, trees, actions,
stream identification and meters (R295–R314, R334, R337, R338). -/

namespace Sys2Proof.Machine

/-- Address classes of Table 8-2. -/
inductive AddrClass where
  | own
  | linkLocal
  | broadcast
  | group
  | other
  deriving DecidableEq, Repr

/-- ACC_PORT group 0 of a port. -/
def oAcc (p : Nat) : Nat := oidOf 0x0500 p 0

/-- Entries of a table whose VALID bit is set, lowest first; no table resets an entry to VALID. -/
def listed (s : State) (oid size off : Nat) : List Nat :=
  s.objs.filterMap fun c =>
    if c.1 / 0x100000 = oid ∧ c.1 % 0x100000 % size = off ∧ bitN c.2.toNat 7 then some (c.1 % 0x100000 / size) else none

/-- The frame's address class (Table 8-2); an OWN_ADDR of 00-00-00-00-00-00 matches no frame (R295). -/
def addrClass (s : State) (p : Nat) (da : Bytes) : AddrClass :=
  if !allZero da && objRead s (oAcc p) 0 6 == da then .own
  else if (listed s 0x05010000 8 7).any (fun e =>
      objRead s 0x05010000 (8 * e) 6 == da && cfgBit s 0x05010000 (8 * e + 6) p) then .own
  else if da.take 5 == [0x01, 0x80, 0xC2, 0x00, 0x00] && by_ da 5 ≤ 0x0F then .linkLocal
  else if da.all (· == 0xFF) then .broadcast
  else if by_ da 0 % 2 = 1 then .group
  else .other

/-- The frame came back round the ring (R334). -/
def ownFrame (s : State) (p : Nat) (sa : Bytes) : Bool :=
  !allZero sa &&
  ((List.range 6).any (fun n => objRead s (oAcc n) 0 6 == sa) ||
   (listed s 0x05010000 8 7).any (fun e => objRead s 0x05010000 (8 * e) 6 == sa) ||
   (listed s 0x06070000 8 7).any fun e =>
     objRead s 0x06070000 (8 * e) 6 == sa && cfgBit s 0x06070000 (8 * e + 6) (p / 2))

/-- A steering entry hits (R297). -/
def steerHits (e pv : Bytes) (p : Nat) : Bool :=
  let tagged := bitN (by_ pv 18) 7
  let mode := by_ e 4 % 4
  let w := le e 2 2
  bitN (by_ e 5) p && le e 0 2 == be pv 16 2 &&
    (mode == 0 || (mode == 1 && !tagged) || (mode ≥ 2 && tagged)) &&
    !(mode == 2 && be pv 12 2 % 4096 != w % 4096) &&
    (!bitN (by_ e 4) 2 || (tagged && be pv 12 2 / 8192 == w / 4096 % 8))

/-- The lowest-numbered steering entry that hits (R297). -/
def steer (s : State) (p : Nat) (pv : Bytes) : Option Bytes :=
  ((listed s 0x05020000 16 7).map fun e => objRead s 0x05020000 (16 * e) 16).find? fun e => steerHits e pv p

/-- The frame's hash bin is set (R299). -/
def hashOn (s : State) (p : Nat) (da : Bytes) : Bool :=
  cfgBit s (oidOf 0x0500 p 1) (hashBin da / 8) (hashBin da % 8)

/-- Default action of a port in a view (R311). -/
def dfltAction (s : State) (view p : Nat) : Bytes := objRead s (oidOf 0x0507 view 0) (16 * p) 16

/-- The comparison of a test node holds (R308). -/
def nodeHolds (n pv : Bytes) : Bool :=
  let w := 2 ^ (by_ n 13 % 4)
  let m := le n 4 4
  let k := be pv (by_ n 12 % 128) w &&& m
  let c := le n 0 4 &&& m
  match by_ n 13 / 4 % 8 with
  | 0 => k == c
  | 1 => k != c
  | 2 => decide (k < c)
  | 3 => decide (c ≤ k)
  | 4 => k != 0
  | _ => k == m

/-- The walk of a tree by node reads: an action, or a miss with its counter (R308). -/
def treeWalk (s : State) (lo n : Nat) (pv : Bytes) : Nat → Nat → Except Nat Bytes
  | 0, _ => .error 27
  | k + 1, node =>
    if node < lo ∨ lo + n ≤ node then .error 25
    else
      let x := objRead s 0x05080000 (16 * node) 16
      if !bitN (by_ x 15) 7 || !on s (58 + node % 4) then .error 26
      else if by_ x 15 / 32 % 4 = 1 then .ok x
      else treeWalk s lo n pv k (le x (if nodeHolds x pv then 8 else 10) 2)

/-- A lookup in a view (R308, R309). -/
def lookup (s : State) (view p : Nat) (second : Bool) (pv : Bytes) : Except Nat Bytes :=
  let set := oidOf 0x0504 view 0
  let t := cfg s set ((if second then 14 else 8) + p) 1
  let root := cfg s (oidOf 0x0505 view 0) (4 * t) 4
  if t ≥ 64 ∨ !bitN root 31 then .error 24
  else treeWalk s (cfg s set 0 4) (cfg s set 4 4) pv 25 (root % 65536)

/-- The VLAN condition of an identification entry (R338). -/
def vlanFits (w : Nat) (pv : Bytes) : Bool :=
  let tagged := bitN (by_ pv 18) 7
  match w / 16384 with
  | 0 => true
  | 1 => tagged && be pv 12 2 % 4096 == w % 4096
  | _ => !tagged

/-- A STREAM_ID_IP entry matches (R338, Table 9-3). -/
def ipIdFits (e pv : Bytes) (p : Nat) : Bool :=
  let m := by_ e 18
  let v4 := bitN (by_ pv 19) 7
  let v6 := bitN (by_ pv 19) 6
  bitN (by_ e 9) p && vlanFits (le e 6 2) pv && sub e 0 6 == sub pv 0 6 &&
    ((by_ e 8 == 4 && v4) || (by_ e 8 == 6 && v6)) &&
    (!bitN m 0 || sub e 20 16 == sub pv 40 16) && (!bitN m 1 || sub e 36 16 == sub pv 56 16) &&
    (!bitN m 2 || by_ e 12 % 64 == by_ pv 30 / 4) && (!bitN m 3 || by_ e 13 == by_ pv 31) &&
    (!bitN m 4 || (le e 14 2 == be pv 72 2 && le e 16 2 == be pv 74 2))

/-- A STREAM_ID_MAC entry matches (R338, Table 9-2). -/
def macIdFits (e pv : Bytes) (p : Nat) : Bool :=
  bitN (by_ e 9) p && vlanFits (le e 6 2) pv && sub e 0 6 == sub pv (if by_ e 8 % 2 = 1 then 6 else 0) 6

/-- The stream handle of a frame (R337). -/
def identify (s : State) (p : Nat) (pv : Bytes) : Option Nat :=
  let ip := (listed s 0x06000001 64 63).map fun e => objRead s 0x06000001 (64 * e) 64
  match ip.find? fun e => ipIdFits e pv p with
  | some e => some (le e 10 2 % 16384)
  | none =>
    let mac := (listed s 0x06000000 16 15).map fun e => objRead s 0x06000000 (16 * e) 16
    (mac.find? fun e => macIdFits e pv p).map fun e => le e 10 2 % 16384

/-- TC of an action (R310). -/
def actionTc (a pv : Bytes) : Nat :=
  if bitN (by_ a 8) 3 then by_ a 8 % 8 else if bitN (by_ pv 18) 7 then be pv 12 2 / 8192 else 0

/-- The SUBTYPE of a device frame, 0 where it is none (R296). -/
def deviceKind (f pv : Bytes) : Nat :=
  if be pv 16 2 ≠ 0x88B6 then 0
  else match hdrOff pv 0x34 with
    | some o => if [0x10, 0x11, 0x20, 0x21, 0x22, 0x23, 0x30, 0x31, 0x40].contains (by_ f o) then by_ f o else 0
    | none => 0

/-- The device frames that are consumed and never forwarded (R232, R283). -/
def consumed (k : Nat) : Bool := [0x10, 0x11, 0x30, 0x31].contains k

/-- The step 7 value that applies (R302). -/
def step7 (s : State) (p stop conflict : Nat) : Nat :=
  max (if [3, 4, 9].contains stop then cfg s (oAcc p) 10 1 else 0)
    (if [5, 6, 10].contains stop ∨ conflict ≠ 0 then cfg s (oAcc p) 11 1 else 0)

/-- Counts of a pass (Table 14-8). -/
def countStop (s : State) (p stop conflict : Nat) : State :=
  let s := if stop = 0 then s else count s (cPort p 2) (3 + stop)
  if conflict = 0 then s else count s (cPort p 2) (13 + conflict)

/-- Counts of the deciding pass (R302, Table 14-8). -/
def countParse (s : State) (p stop conflict : Nat) : State :=
  let s := countStop s p stop conflict
  let s := if [3, 4, 9].contains stop then count s (cPort p 2) 22 else s
  if [5, 6, 10].contains stop ∨ conflict ≠ 0 then count s (cPort p 2) 23 else s

/-- What the steps 9 to 11 find: the action or entry in the form of an action, the miss to count,
whether the frame is accepted, and whether by a steering entry or by its hash (R297–R311). -/
structure Found where
  tc : Nat
  tag : BitVec 32
  meter : Option Nat
  fwdDrop : Bool
  dest : Option (Option Nat)
  accepted : Bool
  steered : Bool
  hashed : Bool
  miss : Option Nat
  deriving DecidableEq, Repr

/-- Steps 9 to 11 of Table 8-1. -/
def find (s : State) (p view : Nat) (second skip : Bool) (cls : AddrClass) (f pv : Bytes) : Found :=
  match (if skip || cls == .other then none else steer s p pv) with
  | some e =>
    { tc := by_ e 7 % 8, tag := BitVec.ofNat 32 (le e 8 4), meter := none, fwdDrop := false,
      dest := some (if bitN (by_ e 6) 6 then none else some (by_ e 6 % 64)), accepted := true, steered := true,
      hashed := false, miss := none }
  | none =>
    let hashed := cls == .group && !skip && hashOn s p (f.take 6)
    let accepted := cls == .own || cls == .linkLocal || (cls == .broadcast && !skip && cfg s (oAcc p) 6 1 == 1) || hashed
    let r := if skip then .ok (dfltAction s view p) else lookup s view p second pv
    let (a, miss) := match r with
      | .ok a => (a, none)
      | .error m => (dfltAction s view p, some m)
    let rxq := some (some (by_ a 6 % 64))
    let dest := match by_ a 7 % 4 with
      | 0 => if accepted then rxq else none
      | 1 => none
      | 2 => rxq
      | _ => if accepted then some none else none
    { tc := actionTc a pv, tag := BitVec.ofNat 32 (le a 0 4),
      meter := if bitN (by_ a 5) 7 then some (le a 4 2 % 2048) else none, fwdDrop := bitN (by_ a 7) 2, dest := dest,
      accepted := accepted, steered := false, hashed := hashed, miss := miss }

/-- The class forwards its frames (Table 8-2). -/
def classForwards (c : AddrClass) : Bool := c == .broadcast || c == .group || c == .other

/-- Pdelay messages end at a port in TC_MODE 2 (R196). -/
def pdelay (s : State) (p : Nat) (pv : Bytes) : Bool :=
  bitN (by_ pv 20) 3 && cfg s (oidOf 0x0203 p 0) 0 1 == 2 && [2, 3, 10].contains (by_ pv 76 % 16)

/-- A PTP frame for this device (R296). -/
def ptpLocal (s : State) (p : Nat) (cls : AddrClass) (f pv : Bytes) : Bool :=
  be pv 16 2 == 0x88F7 && cfg s (oidOf 0x0203 p 0) 1 1 == 1 &&
    (cls == .own || cls == .linkLocal || f.take 6 == [0x01, 0x1B, 0x19, 0, 0, 0])

/-- A frame dropped whole. -/
def dropVerdict : Verdict :=
  { drop := true, fwd := false, tc := 0, tag := 0, meter := none, dei := false, dest := none, servo := false, device := 0,
    handle := none, rtag := none, rtags := [], payOff := 0, ptpUdp := false }

/-- The first pass of a frame on a port that takes protected frames only (Table 8-1 step 4). -/
def firstPass (s : State) (p : Nat) (f : Bytes) : State :=
  let pv := parseVec f p 0 none none
  countStop s p (by_ pv 22) (by_ pv 23)

/-- The frame is consumed by its function: by the Lehr whatever step 7 says, by stacked-preemption negotiation
at step 8, which value 1 skips and before which the others drop (R232, R283, R296, R302). -/
def taken (act kind : Nat) : Bool := kind == 0x10 || kind == 0x11 || (consumed kind && act == 0)

/-- The deciding pass of a frame: steps 4 to 11 of Table 8-1, and its stream handle. `early` is FRAME_LEN as
the pass of a frame whose end has not come reads it. -/
def classify (s : State) (p view : Nat) (f : Bytes) (inner : Option Inner) (early : Option Nat) : Verdict × State :=
  let second := inner.isSome
  let pv := withPat s view f (parseVec f p (cfg s (oAcc p) 12 4) inner early) p second
  let s := countParse s p (by_ pv 22) (by_ pv 23)
  let act := step7 s p (by_ pv 22) (by_ pv 23)
  if taken act (deviceKind f pv) then ({ dropVerdict with drop := false, device := deviceKind f pv }, s) else
  if act = 3 then (dropVerdict, count s (cPort p 2) 1) else
  let cls := addrClass s p (f.take 6)
  let kind := deviceKind f pv
  let x := find s p view second (act == 1) cls f pv
  let pd := pdelay s p pv
  let servo := (pd || (act != 1 && ptpLocal s p cls f pv)) && cfg s 0x02010000 0 1 == 0
  let dest := if act = 2 ∨ (kind ≠ 0 ∧ act ≠ 1) ∨ servo then none else x.dest
  let servo := servo && act != 2
  let fwd := classForwards cls && !x.fwdDrop && !pd && cfg s (oidOf 0x0606 (p / 2) 0) 0 1 == 1
  let s := count s (cPort p 2) (if x.accepted then 0 else 1)
  let s := if x.steered then count s (cPort p 2) 2 else s
  let s := if x.hashed then count s (cPort p 2) 3 else s
  let s := match x.miss with
    | some m => count s (cPort p 2) m
    | none => s
  let handle := if fwd || x.accepted || dest.isSome || servo then identify s p pv else none
  ({ drop := false, fwd := fwd, tc := x.tc, tag := x.tag, meter := x.meter,
     dei := bitN (by_ pv 18) 7 && bitN (be pv 12 2) 12, dest := dest, servo := servo,
     device := if act = 0 then kind else 0,
     handle := handle, pol := (handle.map fun h => objRead s (oStream h 2) 0 8).getD [],
     rtag := if bitN (by_ pv 18) 4 then some (BitVec.ofNat 16 (be pv 28 2)) else none,
     rtags := ((List.range 10).filter fun i => by_ pv (96 + 2 * i) == 5).map fun i => by_ pv (97 + 2 * i) - 2, payOff := be pv 38 2,
     ptpUdp := bitN (by_ pv 20) 2 }, s)

def meterReset (_ : Nat) : Meter := {}

/-- Units of a meter bucket in one byte. -/
def meterByte : Nat := 8000000

/-- Buckets of a meter filled up to now (R312). -/
def meterFilled (s : State) (m : Nat) : Meter :=
  let x := tget meterReset s.rx.meters m
  let o := 0x05090000
  let dt := s.clock - x.at_
  { c := min (cfg s o (24 * m + 8) 4 * meterByte) (x.c + cfg s o (24 * m) 4 * dt),
    p := min (cfg s o (24 * m + 12) 4 * meterByte) (x.p + cfg s o (24 * m + 4) 4 * dt), at_ := s.clock }

def setMeter (s : State) (m : Nat) (v : Meter) : State :=
  s.modRx fun x => { x with meters := tset meterReset x.meters m v }

/-- Writing a meter entry fills both buckets (R312). -/
def fillMeter (s : State) (m : Nat) : State :=
  setMeter s m { c := cfg s 0x05090000 (24 * m + 8) 4 * meterByte, p := cfg s 0x05090000 (24 * m + 12) 4 * meterByte,
                 at_ := s.clock }

/-- A frame of `b` bytes metered: colour 0 green, 1 yellow, 2 red, and whether red is dropped (R313);
an entry that is not VALID leaves it green. -/
def metered (s : State) (m b : Nat) (dei : Bool) : Nat × Bool × State :=
  let flags := cfg s 0x05090000 (24 * m + 16) 1
  if !bitN flags 0 then (0, false, s) else
  let x := meterFilled s m
  let n := b * meterByte
  let yellow := (bitN flags 1 && dei) || x.c < n
  if x.p < n then (2, bitN flags 2, setMeter s m x)
  else if yellow then (1, false, setMeter s m { x with p := x.p - n })
  else (0, false, setMeter s m { x with c := x.c - n, p := x.p - n })

end Sys2Proof.Machine
end

