-- ==== Sys2Proof/Machine/Elim.lean ====
section
/-! DEFINITION. Listener streams: policing, sequence recovery, vote slots, decisions and delivery
(R340–R361). -/

namespace Sys2Proof.Machine

/-- LISTEN and POLICE groups of a handle (Table 9-6). -/
def oListen (h : Nat) : Nat := oStream h 0
def oPolice (h : Nat) : Nat := oStream h 2

def recovReset (_ : Nat) : Recov := {}
def recovOf (s : State) (h : Nat) : Recov := tget recovReset s.str.recov h
def modRecov (s : State) (h : Nat) (f : Recov → Recov) : State :=
  s.modStr fun x => { x with recov := tmod recovReset x.recov h f }

/-- Result of sequence recovery (R346). -/
inductive Sorted where
  | new
  | seen
  | rogue
  deriving DecidableEq, Repr

/-- History bits of a handle's length. -/
def histKeep (len : Nat) : Nat := 2 ^ len - 1

/-- Numbers that leave the history without having been taken (R346). -/
def histLost (hist : BitVec 64) (len d : Nat) : Nat :=
  ((List.range d).filter fun k => !hist.getLsbD (len - d + k)).length

/-- Vector recovery (R346). -/
def recoverVector (x : Recov) (len : Nat) (seq : BitVec 16) : Sorted × Nat × Recov :=
  if x.takeAny then (.new, 0, { x with takeAny := false, seq := seq, hist := 1 })
  else
    let d := sgn 16 (seq - x.seq).toNat
    if (len : Int) ≤ d ∨ d ≤ -(len : Int) then (.rogue, 0, x)
    else if 0 < d then
      let n := d.toNat
      (.new, histLost x.hist len n,
       { x with seq := seq, hist := BitVec.ofNat 64 ((x.hist.toNat * 2 ^ n + 1) &&& histKeep len) })
    else
      let k := (-d).toNat
      if x.hist.getLsbD k then (.seen, 0, x) else (.new, 0, { x with hist := setBit x.hist k true })

/-- Match recovery (R346). -/
def recoverMatch (x : Recov) (seq : BitVec 16) : Sorted × Nat × Recov :=
  if x.takeAny ∨ seq ≠ x.seq then (.new, 0, { x with takeAny := false, seq := seq }) else (.seen, 0, x)

/-- Sequence recovery of one replica, with its counts (R346, R347). -/
def recoverSeq (s : State) (h : Nat) (seq : BitVec 16) : Sorted × State :=
  let x := recovOf s h
  let (k, lost, x) := if cfg s (oListen h) 2 1 = 1 then recoverMatch x seq
    else recoverVector x (cfg s (oListen h) 3 1) seq
  let now := s.clock
  let x := if k = .new then { x with newAt := now } else x
  let s := countN (modRecov s h fun _ => x) (cStream h) 12 lost
  (k, if k = .rogue then count s (cStream h) 11 else s)

/-- The digest of a replica (R349). -/
def digestOf (s : State) (h : Nat) (v : Verdict) (f : Bytes) : BitVec 64 :=
  let start := (if cfg s (oListen h) 18 1 = 3 then v.payOff else 0) + cfg s (oListen h) 16 2
  let kept := (idxd f).filter fun x => decide (start ≤ x.1) && !v.rtags.any fun r => decide (r ≤ x.1) && decide (x.1 < r + 6)
  BitVec.ofNat 64 (crc64 (kept.map (·.2)))

/-- A local copy handed over: into an RXQ, or to the Gaffer (Table 8-1 step 13). -/
def handOver (s : State) (dest : Option Nat) (m : RxMeta) (frame : Bytes) : State :=
  match dest with
  | some q => deliverRx s q m frame
  | none => if s.fs.f4 then s
    else (emit s (.gaffer m.inPort frame m.stamps)).modRx fun x => { x with gaffer := x.gaffer + 1 }

/-- Planes of a list of ports, as bits. -/
def planesOf (ps : List Nat) : Nat := (ofBits 3 (ps.map (· / 2))).toNat

/-- A replica delivered with an outcome (R353). -/
def deliverReplica (s : State) (h : Nat) (r : Replica) (planes outcome : Nat) (others : List Replica) : State :=
  handOver s r.dest
    { inPort := r.port, handle := some h, seq := r.seq.toNat, colour := r.colour, tc := r.tc, planes := planes,
      outcome := outcome, epoch := r.epoch.toNat, tag := r.tag.toNat, ecc := false,
      stamps := r.stamp :: (others.filter (·.port != r.port)).map (·.stamp) } r.frame

/-- A dissenting cullet counted, against its plane too (R354). -/
def countDissent (s : State) (h p : Nat) : State :=
  let up (n : Nat) : Nat := satAdd (2 ^ 32 - 1) n 1
  count (modRecov s h fun x =>
    if p / 2 = 0 then { x with dissA := up x.dissA } else if p / 2 = 1 then { x with dissB := up x.dissB }
    else { x with dissC := up x.dissC }) (cStream h) 9

/-- A cullet compared with the decided digest (R354). -/
def cullet (s : State) (h : Nat) (digest : Option (BitVec 64)) (r : Replica) : State :=
  if digest = some r.digest then count s (cStream h) 8 else countDissent s h r.port

/-- An unchecked cullet (R354). -/
def unchecked (s : State) (h : Nat) : State := count s (cStream h) 10

/-- Planes that support a digest (R351). -/
def support (votes : List Replica) (d : BitVec 64) : List Nat :=
  [0, 1, 2].filter fun p => votes.any fun r => r.port / 2 == p && r.digest == d

/-- How many voting replicas had come when a digest reached its second plane. -/
def secondPlane (d : BitVec 64) : Nat → List Replica → List Nat → Nat
  | n, [], _ => n
  | n, r :: rs, seen =>
    if r.digest ≠ d then secondPlane d (n + 1) rs seen
    else if seen.any (· != r.port / 2) then n else secondPlane d (n + 1) rs (r.port / 2 :: seen)

/-- Digests that two planes support. -/
def agreed (votes : List Replica) : List (BitVec 64) :=
  ((votes.map (·.digest)).eraseDups).filter fun d => decide (2 ≤ (support votes d).length)

/-- The winning digest (R352). -/
def winner (votes : List Replica) : Option (BitVec 64) :=
  (agreed votes).foldl (fun (b : Option (BitVec 64)) d => match b with
    | none => some d
    | some e =>
      let a := (support votes d).length; let c := (support votes e).length
      if c < a ∨ (a = c ∧ secondPlane d 0 votes [] < secondPlane e 0 votes []) then some d else some e) none

/-- Planes that support two agreed digests (R352). -/
def inconsistent (votes : List Replica) : Nat :=
  ([0, 1, 2].filter fun p => decide (2 ≤ ((agreed votes).filter fun d => (support votes d).contains p).length)).length

/-- Slots of a handle and number, oldest first: two at once only after a recovery reset (R347, R348). -/
def slotsOf (s : State) (h : Nat) (seq : BitVec 16) : List Slot :=
  s.str.slots.filter fun x => x.handle == h && x.seq == seq

/-- The slot that a replica joins: the newest of its number (log entry 150). -/
def slotOf (s : State) (h : Nat) (seq : BitVec 16) : Option Slot := (slotsOf s h seq).getLast?

def setSlot (s : State) (x : Slot) : State :=
  s.modStr fun t => { t with slots := t.slots.map fun y => if y.id = x.id then x else y }

def freeSlot (s : State) (x : Slot) : State :=
  s.modStr fun t => { t with slots := t.slots.filter fun y => y.id != x.id }

/-- Every port in EXPECT has a voting replica (R356). -/
def allVoted (s : State) (x : Slot) : Bool :=
  (List.range 6).all fun p => !cfgBit s (oListen x.handle) 10 p || x.votes.any (·.port == p)

/-- A slot decided once: counts, cullet, delivery, and what becomes of the slot (R352–R356). -/
def decideSlot (s : State) (x : Slot) (outcome : Nat) (win : Option (BitVec 64)) (give release : Bool) : State :=
  let h := x.handle
  let votes : List Replica := x.votes
  let best : Option Replica := match win with
    | some d => votes.find? fun r : Replica => r.digest == d
    | none => votes.head?
  let digest := if win.isSome then win else if give then best.map (·.digest) else none
  let s := count s (cStream h) (outcome + 2)
  let n := inconsistent votes
  let s := modRecov s h fun y => { y with outcome := outcome, inconsistent := satAdd (2 ^ 32 - 1) y.inconsistent n }
  let s := if outcome = 4 then fault s 137 else s
  let s := match best with
    | some b =>
      let s := if give then deliverReplica s h b (planesOf (votes.map (fun r : Replica => r.port))) outcome votes else s
      let rest := if give then votes.erase b else votes
      (rest ++ x.pend).foldl (fun s r => cullet s h digest r) s
    | none => s
  let k := s.str.decisions
  let s := s.modStr fun t => { t with decisions := k + 1 }
  if release || allVoted s x then freeSlot s x
  else setSlot s { x with phase := 2, outcome := outcome, digest := digest, decidedAt := k, pend := x.pend }

/-- UNVOTED_POLICY and SPLIT_POLICY of a handle. -/
def unvotedPolicy (s : State) (h : Nat) : Nat := cfg s (oListen h) 11 1 % 4
def splitPolicy (s : State) (h : Nat) : Bool := cfgBit s (oListen h) 11 2

/-- No digest is supported by two planes and the time is over: UNVOTED from one plane, SPLIT from more
(Table 9-4). -/
def decideShort (s : State) (x : Slot) (giveUnvoted : Bool) : State :=
  if ([0, 1, 2].filter fun p => x.votes.any (·.port / 2 == p)).length ≤ 1 then decideSlot s x 3 none giveUnvoted true
  else decideSlot s x 4 none (splitPolicy s x.handle) true

/-- The window ends: decided, or held under UNVOTED_POLICY 2 (Table 9-4). -/
def windowEnd (s : State) (x : Slot) (hold : Bool) : State :=
  match winner x.votes with
  | some d => decideSlot s x 2 (some d) true true
  | none =>
    if hold && unvotedPolicy s x.handle == 2 then setSlot s { x with phase := 1, inHold := true }
    else decideShort s x (unvotedPolicy s x.handle != 0)

/-- Every expected plane has a voting replica (R351). -/
def complete (s : State) (x : Slot) : Bool :=
  [0, 1, 2].all fun p =>
    !(cfgBit s (oListen x.handle) 10 (2 * p) || cfgBit s (oListen x.handle) 10 (2 * p + 1)) || x.votes.any (·.port / 2 == p)

/-- A voting replica has arrived in an undecided slot: agreement of two planes, LATE in the hold, in VOTE3
before it only in a complete slot; a complete slot of VOTE3 that has none is a SPLIT (Table 9-4). -/
def voteCast (s : State) (x : Slot) : State :=
  let vote3 := cfg s (oListen x.handle) 1 1 != 1
  match winner x.votes with
  | some d =>
    if x.phase = 1 then decideSlot s x 5 (some d) true false
    else if vote3 && !complete s x then s
    else decideSlot s x 2 (some d) true false
  | none => if vote3 && complete s x then decideSlot s x 4 none (splitPolicy s x.handle) false else s

/-- A replica joins the slot of its number (R348, R350). -/
def joinSlot (s : State) (x : Slot) (r : Replica) : State :=
  if !x.votes.any (·.port == r.port) then
    let x := { x with votes := x.votes ++ [r] }
    let s := setSlot s x
    if x.phase = 2 then
      let s := cullet s x.handle x.digest r
      if allVoted s x then freeSlot s x else s
    else voteCast s x
  else if !x.pend.any (·.port == r.port) then
    let s := setSlot s { x with pend := x.pend ++ [r] }
    if x.phase = 2 then cullet s x.handle x.digest r else s
  else unchecked s x.handle

/-- RESERVED_SLOTS in force. -/
def reservedSlots (s : State) : Nat := cfg s 0x06050000 0 2

/-- A free slot of the pools open to a class: reserved or shared (R358, R360). -/
def freePool (s : State) (cls1 : Bool) : Option Bool :=
  let res := (s.str.slots.filter (·.reserved)).length
  let shared := s.str.slots.length - res
  if cls1 && decide (res < reservedSlots s) && decide (s.str.slots.length < 2048) then some true
  else if shared + max res (reservedSlots s) < 2048 then some false
  else none

/-- The earliest decided slot of the pools open to a class (R359). -/
def reclaimable (s : State) (cls1 : Bool) : Option Slot :=
  (s.str.slots.filter fun x => x.phase == 2 && (cls1 || !x.reserved)).foldl (fun (b : Option Slot) x => match b with
    | none => some x
    | some y => if x.decidedAt < y.decidedAt then some x else some y) none

/-- A new slot with its first replica (R350). -/
def openSlot (s : State) (h : Nat) (r : Replica) (reserved : Bool) : State :=
  let x : Slot := { id := s.str.opened, handle := h, seq := r.seq, votes := [r], pend := [], reserved := reserved, phase := 0, outcome := 0,
                    digest := none, decidedAt := 0 }
  let s := s.modStr fun t =>
    { t with slots := t.slots ++ [x], opened := t.opened + 1, slotsMax := max t.slotsMax (t.slots.length + 1) }
  voteCast s x

/-- A sequence number for which no slot can be had (R359). -/
def exhausted (s : State) (h : Nat) (r : Replica) : State :=
  let s := count (count s (cStream h) 18) cDev 3
  let now := s.clock
  let first := s.str.lastExh = 0 ∨ s.str.lastExh - 1 + 1000000000 ≤ now
  let s := s.modStr fun t => { t with exhaustions := satAdd (2 ^ 32 - 1) t.exhaustions 1, lastExh := now + 1 }
  let s := if first then fault s 138 else s
  if cfg s 0x06050000 2 1 = 1 then s
  else
    let s := count (modRecov s h fun y => { y with outcome := 3 }) (cStream h) 5
    deliverReplica s h r (planesOf [r.port]) 3 []

/-- A slot for a NEW replica: a free one, or decided ones reclaimed until the pools as they are now have
one; fuel-bounded by the slots (R358–R360). -/
def newVoteFuel : Nat → State → Nat → Replica → State
  | 0, s, h, r => exhausted s h r
  | k + 1, s, h, r =>
    let cls1 := cfgBit s (oListen h) 11 4
    match freePool s cls1 with
    | some reserved => openSlot s h r reserved
    | none => match reclaimable s cls1 with
      | some x => newVoteFuel k (count ((freeSlot s x).modStr fun t => { t with reclaims := satAdd (2 ^ 32 - 1) t.reclaims 1 }) cDev 2) h r
      | none => exhausted s h r

/-- A NEW replica of a voting stream (R348, R358, R359). -/
def newVote (s : State) (h : Nat) (r : Replica) : State := newVoteFuel (s.str.slots.length + 1) s h r

/-- The local copy of a frame of a listener handle, through the elimination engine (R346–R348). -/
def eliminate (s : State) (h : Nat) (r : Replica) (tagged : Bool) (plain : State → State) : State :=
  let s := count s (cStream h) (r.port / 2)
  if !tagged then (if cfgBit s (oListen h) 11 3 then plain s else count s (cStream h) 14)
  else
    let (k, s) := recoverSeq s h r.seq
    let first := cfg s (oListen h) 1 1 == 0
    match k with
    | .rogue => s
    | .new =>
      if first then
        let s := count (modRecov s h fun y => { y with outcome := 1 }) (cStream h) 3
        deliverReplica s h r (planesOf [r.port]) 1 []
      else newVote s h r
    | .seen =>
      if first then unchecked s h
      else match slotOf s h r.seq with
        | some x => joinSlot s x r
        | none => unchecked s h

/-- The stream filter of a handle under the POLICE group of the deciding pass: dropped, the colour carried, and
whether a red frame drops (R340, R361). -/
def police (s : State) (h : Nat) (pol : Bytes) (len b : Nat) (dei : Bool) : Bool × Nat × Bool × State :=
  if by_ pol 0 = 0 then (false, 0, false, s)
  else if s.str.blocked.contains h then (true, 0, false, count s (cStream h) 15)
  else
    let sdu := le pol 2 2
    if sdu ≠ 0 ∧ sdu < len then
      let s := count s (cStream h) 16
      (true, 0, false, if bitN (by_ pol 1) 0 then s.modStr fun t => { t with blocked := t.blocked ++ [h] } else s)
    else
      let m := le pol 4 2
      if bitN m 15 then
        let (c, d, s) := metered s (m % 2048) b dei
        (false, c, d, s)
      else (false, 0, false, s)

/-- Every open slot of a handle decided as at window expiry without a hold, before its LISTEN group
changes (R361). -/
def closeSlots (s : State) (h : Nat) : State :=
  let s := (s.str.slots.filter fun x => x.handle == h).foldl (fun s x =>
    if x.phase = 2 then freeSlot s x else windowEnd s x false) s
  modRecov s h fun x => { x with takeAny := true }

/-- VOTE_WINDOW_EXPIRY, of the oldest slot of the number whose window runs (R352, R356). -/
def execVoteWindowExpiry (h : Fin 16384) (seq : BitVec 16) (s : State) : Host.Outcome State Fault Refusal :=
  run s fun s =>
    match (slotsOf s h.val seq).find? (!·.inHold) with
    | some x => if x.phase = 0 then windowEnd s x true else freeSlot s x
    | none => s

/-- LATE_HOLD_EXPIRY, of the oldest slot of the number whose hold runs (R352, R356). -/
def execLateHoldExpiry (h : Fin 16384) (seq : BitVec 16) (s : State) : Host.Outcome State Fault Refusal :=
  run s fun s =>
    match (slotsOf s h.val seq).find? (·.inHold) with
    | some x => if x.phase = 1 then decideShort s x true else freeSlot s x
    | none => s

/-- RECOVERY_RESET (R347). -/
def execRecoveryReset (h : Fin 16384) (s : State) : Host.Outcome State Fault Refusal :=
  run s fun s =>
    if on s 49 && on s 69 && cfg s (oListen h.val) 0 1 == 1 && !(recovOf s h.val).takeAny then
      count (modRecov s h.val fun x => { x with takeAny := true }) (cStream h.val) 13
    else s

end Sys2Proof.Machine
end

