-- ==== Sys2Proof/Machine/RxOps.lean ====
section
/-! DEFINITION. The receive path of P0–P5 shared by its commands: MAC checks, MACsec verification, the
glory loop, ring forwarding and the conclusion of a frame (Tables 8-1 and 8-12, R316–R334). -/

namespace Sys2Proof.Machine

/-- What takes a device frame that is handed to its function (R296): port, SUBTYPE, frame. -/
abbrev DevFn := Nat → Nat → Bytes → State → State

/-- The other port of a plane (R327). -/
def egressOf (p : Nat) : Nat := if p % 2 = 0 then p + 1 else p - 1

/-- The egress port is down, dozing or fenced (R333). -/
def fwdDown (s : State) (eg : Nat) : Bool :=
  !on s (6 + eg) || !(prt s eg).up || (doz s eg).status != 0 || fencedPort s eg

/-- RING_PLANE.FWD_CELL_LIMIT of a port's plane. -/
def fwdLimit (s : State) (eg : Nat) : Nat := cfg s (oidOf 0x0606 (eg / 2) 0) 2 2

/-- A forwarded copy becomes ready on the other port of the plane, or is dropped; one cut through that is not
admitted waits to be whole (R328, R329, R333, R456). The number of the queued copy. -/
def forwardCopy (s : State) (p : Nat) (v : Verdict) (data : Bytes) (whole : Bool) (st : Stamp) : Option Nat × State :=
  let eg := egressOf p
  let f : EgFrame := { id := 0, tc := v.tc, data := data, src := .fwd p, whole := whole, rx := some st }
  if f3Holds s (eg / 2) || s.fs.f4 then (none, s)
  else if fwdDown s eg then (none, count s (cPort eg 1) 6)
  else if fwdLimit s eg < (prt s eg).fwdCells + fwdCellsOf data.length || cellsFree s < fwdCellsOf data.length then (none, count s (cPort eg 1) 7)
  else
    let s := if v.ptpUdp then count s (cPort eg 4) 4 else s
    let s := modPrt s eg fun x => { x with fwdCells := x.fwdCells + fwdCellsOf data.length }
    let s := enqueue s eg { f with kept := turnedAway s eg f (nowPs s) }
    (some s.tx.nextId, s)

/-- A cut-through copy takes bytes that have come since, with the cells that they need: in the queue, which one that
was kept back enters when its frame has ended, on the line or suspended (R329, R330, R333). -/
def growCopy (s : State) (p id : Nat) (plain : Bytes) (whole : Bool) : State :=
  let eg := egressOf p
  let x := prt s eg
  let had := match x.eg.find? (·.id == id) with
    | some f => some f.data.length
    | none => match (x.line.toList ++ x.susp).find? fun l : OnLine => l.frame.id == id with
      | some l => some l.frame.data.length
      | none => none
  match had with
  | none => s
  | some n =>
    let rest := plain.drop n
    let grow (f : EgFrame) : EgFrame := if f.id = id then { f with data := f.data ++ rest, whole := f.whole || whole } else f
    let back (l : List EgFrame) : List EgFrame :=
      let mine (f : EgFrame) : Bool := whole && f.id == id && f.kept
      l.filter (fun f => !mine f) ++ (l.filter mine).map fun f : EgFrame => { f with kept := false }
    let growL (l : OnLine) : OnLine :=
      if l.frame.id = id then
        let d := l.frame.data ++ rest
        { l with frame := grow l.frame, wire := if whole then protect d l.sec else sealPart d l.sec }
      else l
    modPrt s eg fun x =>
      { x with eg := back (x.eg.map grow), line := x.line.map growL, susp := x.susp.map growL,
               fwdCells := x.fwdCells + (fwdCellsOf (n + rest.length) - fwdCellsOf n) }

/-- A cell limit that is met while a frame is being received stomps its copy (R333). -/
def copyLimit (s : State) (eg id : Nat) : State :=
  if fwdLimit s eg < (prt s eg).fwdCells || poolOver s then stompCopy s eg id else s

/-- A cut-through copy whose frame has ended takes the rest of it (R329, R330, R333). -/
def completeCopy (s : State) (p id : Nat) (plain : Bytes) : State :=
  copyLimit (growCopy s p id plain true) (egressOf p) id

/-- The forwarded copy of a frame that is dropped after all is stomped (R332). -/
def dropCopy (s : State) (p : Nat) (copy : Option Nat) : State :=
  match copy with
  | some id => stompCopy s (egressOf p) id
  | none => s

/-- A device frame given to its function (R232, R265, R283, R296); the four that are consumed are read
behind an untagged header of VERSION 1, and every Lehr frame is counted. -/
def deviceFrame (s : State) (dev : DevFn) (p kind : Nat) (plain : Bytes) (stamp : Stamp) : State :=
  let kin := be plain 12 2 == 0x88B6 && by_ plain 15 == 1
  if kind = 0x10 then (if kin then takeProbe s p plain stamp else count s (cPort p 4) 7)
  else if kind = 0x11 then (if kin then takeEcho s p plain stamp.at48 else count s (cPort p 4) 7)
  else if kind = 0x30 then (if kin then takeOffer s p plain else s)
  else if kind = 0x31 then (if kin then takeAnswer s p plain else s)
  else if kind = 0 then s
  else dev p kind plain s

/-- The Gaffer as servo owner ends a Pdelay exchange: it writes LINK_DELAY, whose value its filter gives (R202;
a free value, log entry 152). -/
def gafferDelay (s : State) (p : Nat) (plain : Bytes) : State :=
  match ptpOff plain with
  | none => s
  | some o =>
    if servoOwner s ≠ 0 ∨ by_ plain o % 16 ≠ 10 then s else
    let (v, s) := draw s
    objWrite s (oidOf 0x0203 p 0) 8 (toLe 8 v)

/-- A copy with its stamp for the Gaffer's servo (R194, R296). -/
def servoCopy (s : State) (p : Nat) (plain : Bytes) (stamp : Stamp) : State :=
  if s.fs.f4 then s
  else gafferDelay ((emit s (.gaffer p plain [stamp])).modRx fun x => { x with gaffer := x.gaffer + 1 }) p plain

/-- The local copy: through the elimination engine where its handle is a listener, else as it is
(R337, R346). -/
def localCopy (s : State) (p : Nat) (v : Verdict) (dest : Option Nat) (colour : Nat) (plain : Bytes) (stamp : Stamp)
    (epoch : BitVec 16) : State :=
  let m : RxMeta :=
    { inPort := p, handle := v.handle, seq := (v.rtag.getD 0).toNat, colour := colour, tc := v.tc, planes := 0, outcome := 0,
      epoch := epoch.toNat, tag := v.tag.toNat, ecc := false, stamps := [stamp] }
  match v.handle with
  | some h =>
    if cfg s (oListen h) 0 1 = 1 ∧ on s 69 then
      eliminate s h
        { port := p, digest := digestOf s h v plain, frame := plain, dest := dest, tc := v.tc, colour := colour, tag := v.tag,
          epoch := epoch, stamp := stamp, seq := v.rtag.getD 0, num := 0 }
        v.rtag.isSome (fun s => handOver s dest m plain)
    else handOver s dest m plain
  | none => handOver s dest m plain

/-- Step 12 of Table 8-1: the classifier's meter (R313). -/
def classMeter (s : State) (p : Nat) (v : Verdict) (b : Nat) : Nat × Bool × State :=
  let (c, red, s) := match v.meter with
    | some m => metered s m b v.dei
    | none => (0, false, s)
  let s := if consumed v.device then s else count s (cPort p 2) (28 + c)
  if red && c == 2 then (c, true, count s (cPort p 2) 31) else (c, false, s)

/-- Step 13 begins: the stream filter of the frame's handle; the worse colour, and whether the frame is
dropped (R340). -/
def streamFilter (s : State) (v : Verdict) (len b colour : Nat) : Nat × Bool × State :=
  match v.handle with
  | none => (colour, false, s)
  | some h =>
    let (dropped, c, red, s) := police s h v.pol len b v.dei
    if dropped then (colour, true, s)
    else if red && c == 2 then (c, true, count s (cStream h) 17)
    else (max c colour, false, s)

/-- Steps 12 and 13 of Table 8-1, once the frame has been received whole. -/
def conclude (s : State) (dev : DevFn) (p : Nat) (v : Verdict) (plain : Bytes) (b : Nat) (stamp : Stamp)
    (epoch : BitVec 16) (copy : Option Nat) : State :=
  if v.drop then dropCopy s p copy else
  let (c, red, s) := classMeter s p v b
  if red then dropCopy s p copy else
  let (c, gone, s) := streamFilter s v plain.length b c
  if gone then dropCopy s p copy else
  let s := if !v.fwd then s
    else match copy with
      | some id => completeCopy s p id plain
      | none => (forwardCopy s p v plain true stamp).2
  let s := if v.servo then servoCopy s p plain stamp else s
  let s := deviceFrame s dev p v.device plain stamp
  match v.dest with
  | some dest => localCopy s p v dest c plain stamp epoch
  | none => s

/-- A SecTAG as read from a frame (R316; layout of IEEE 802.1AE, PRESUMED). -/
structure SecTag where
  tci : BitVec 8
  an : Nat
  enc : Bool
  sl : Nat
  pn32 : Nat
  /-- SecTAG with its EtherType -/
  tag : Bytes
  sci : Bytes
  deriving DecidableEq, Repr

/-- The SecTAG of a protected frame. -/
def secTagOf (f : Bytes) : SecTag :=
  let t := by_ f 14
  let n := if bitN t 5 then 16 else 8
  { tci := BitVec.ofNat 8 t, an := t % 4, enc := bitN t 3, sl := by_ f 15, pn32 := be f 16 4, tag := sub f 12 n,
    sci := if bitN t 5 then sub f 20 8 else sub f 6 6 ++ [0, 1] }

/-- A SecTAG breaks its own format: version, ES or SCB beside SC, E without C, a short length of 48 or
more (PRESUMED, IEEE 802.1AE). -/
def tagBad (t : SecTag) : Bool :=
  let v := t.tci.toNat
  bitN v 7 || (bitN v 5 && (bitN v 6 || bitN v 4)) || (bitN v 3 && !bitN v 2) || decide (48 ≤ t.sl)

/-- The secure data of a protected frame, its short length checked and padding removed (R316). -/
def secData (f : Bytes) (t : SecTag) : Option Bytes :=
  let body := f.drop (12 + t.tag.length)
  let user := body.length - 16
  if body.length < 16 then none
  else if t.sl = 0 ∨ t.sl = user then some body
  else if f.length = 60 ∧ t.sl < user then some (body.take (t.sl + 16))
  else none

/-- VALID receive channel of a port by its SCI (R316). -/
def secChannel (s : State) (p : Nat) (sci : Bytes) : Option Nat :=
  [0, 1, 2, 3].find? fun c =>
    let e := objRead s (oidOf 0x050B p 0) (20 * c) 20
    bitN (by_ e 16) 0 && sub e 0 8 == sci

/-- Key slot that a receive channel names for an AN. -/
def secSlot (s : State) (p c an : Nat) : Nat := cfg s (oidOf 0x050B p 0) (20 * c + 8 + 2 * an) 2

/-- Next acceptable packet number of a channel's AN. -/
def pnIx (p c an : Nat) : Nat := 16 * (4 * p + c) + an
def nextPn (s : State) (p c an : Nat) : Nat := tget (fun _ => 1) s.rx.pns (pnIx p c an)

/-- Least packet number not refused under REPLAY_PROTECT (R316). -/
def lowestPn (s : State) (p c an window : Nat) : Nat := nextPn s p c an - window

/-- Settings that hold for the passes that start now (R315). -/
def passSet (s : State) (p : Nat) : PassSet :=
  { maxFrame := cfg s (oAcc p) 8 2, replay := cfgBit s (oidOf 0x050A p 0) 2 0, window := cfg s (oidOf 0x050A p 0) 4 4 }

/-- The 64-bit packet number of a received one, recovered from its lower half (PRESUMED, IEEE 802.1AEbw). -/
def fullPn (low pn32 : Nat) : Nat :=
  let hi := low / 2 ^ 32
  if bitN low 31 && !bitN pn32 31 then (hi + 1) * 2 ^ 32 + pn32 else hi * 2 ^ 32 + pn32

/-- Channel, key and packet number of a protected frame, or the counter of its refusal (R316, R317). -/
def secLookup (s : State) (p : Nat) (t : SecTag) (set : PassSet) : Except Nat (Nat × Key × Nat) :=
  if tagBad t then .error 5
  else match secChannel s p t.sci with
    | none => .error 1
    | some c => match keyAt s (secSlot s p c t.an) with
      | none => .error 2
      | some k =>
        let least := lowestPn s p c t.an set.window
        let pn := fullPn least t.pn32
        if set.replay && decide (pn < least) then .error 4 else .ok (c, k, pn)

/-- A protected frame verified and decrypted: its plaintext, or the frame is dropped and counted
(R316, R317). -/
def secVerify (s : State) (p : Nat) (f : Bytes) (set : PassSet) : Option Bytes × State :=
  let t := secTagOf f
  match secLookup s p t set, secData f t with
  | .error e, _ => (none, count s (cPort p 3) e)
  | .ok _, none => (none, count s (cPort p 3) 5)
  | .ok (c, k, pn), some data =>
    match gcmVerify k.key (k.ssci ++ k.salt) pn (f.take 12 ++ t.tag) data t.enc with
    | none => (none, count s (cPort p 3) 3)
    | some user =>
      let s := s.modRx fun r => { r with pns := tset (fun _ => 1) r.pns (pnIx p c t.an) (max (nextPn s p c t.an) (pn + 1)) }
      (some (f.take 12 ++ user), count s (cPort p 3) 0)

/-- What is known of a plaintext before its frame ends: the last 16 bytes that have come may be its ICV (R318). -/
def secPeek (s : State) (p : Nat) (f : Bytes) (set : PassSet) : Option Bytes :=
  let t := secTagOf f
  match secLookup s p t set with
  | .error _ => none
  | .ok (_, k, pn) =>
    let user := (f.drop (12 + t.tag.length)).take (f.length - (28 + t.tag.length))
    some (f.take 12 ++ if t.enc then gcmDecrypt k.key (k.ssci ++ k.salt) pn (f.take 12 ++ t.tag) user else user)

/-- What the second pass of a protected frame knows of its SecTAG. -/
def innerOf (f : Bytes) : Inner := ⟨(secTagOf f).tci, (secTagOf f).sci⟩

/-- The loop takes one more head (R318). -/
def loopOpen (s : State) : Bool := on s 64 && decide (s.rx.loop.length < 64)

/-- A head enters the loop, or its frame is dropped because the loop is full (R318). -/
def loopEnter (s : State) (h : LoopHead) : State :=
  if loopOpen s then
    s.modRx fun r => { r with loop := r.loop ++ [h], loopMax := max r.loopMax (r.loop.length + 1) }
  else count s cDev 0

/-- Step 1 of Table 8-1: the counter of a frame that fails the MAC checks, under a MAX_FRAME. -/
def macFailAt (maxFrame : Nat) (f : Bytes) (codeError : Bool) : Option Nat :=
  if codeError then some 3
  else if f.length < 64 then some 4
  else if maxFrame < f.length then some 5
  else if !fcsOk f then some 2 else none

/-- The MAC checks of a frame no pass of which has begun. -/
def macFail (s : State) (p : Nat) (f : Bytes) (codeError : Bool) : Option Nat := macFailAt (cfg s (oAcc p) 8 2) f codeError

/-- The reception in progress that a frame ends: with its verdict, or with its head in the loop. -/
def earlyOf (s : State) (p : Nat) (body : Bytes) : Option Early := (prt s p).early.find? fun e => e.pfx.isPrefixOf body
def headFor (s : State) (p : Nat) (body : Bytes) : Option LoopHead :=
  (openHeads s p).find? fun h => h.pfx.isPrefixOf body

/-- The settings that hold for a frame: those of the pass that has begun, else those in force (R315). -/
def setOf (s : State) (p : Nat) (e : Option Early) (h : Option LoopHead) : PassSet :=
  match e, h with
  | some e, _ => e.set
  | none, some h => h.set
  | none, none => passSet s p

/-- The cut-through copy of a frame takes what has come of it (R330, R332). -/
def feedCopy (s : State) (p : Nat) (e : Early) (bytes : Bytes) : State :=
  match e.copy with
  | some id => growCopy s p id (if e.sec && be bytes 12 2 == 0x88E5 then (secPeek s p bytes e.set).getD [] else bytes) false
  | none => s

/-- A frame of which some bytes have come is dropped after all: its head leaves the loop, and its copy is stomped
(R318, R332). -/
def dropFrame (s : State) (p : Nat) (body : Bytes) (e : Option Early) (h : Option LoopHead) : State :=
  let s := if h.isSome then dropHeads s h.toList else s
  match e with
  | some e => dropCopy (feedCopy s p e body) p e.copy
  | none => s

/-- A frame whose MACsec step is over: concluded on its deciding pass, made here or before its end, or
sent round the loop, where its head may already be (R294, R318). -/
def afterSec (s : State) (dev : DevFn) (p b : Nat) (plain : Bytes) (inner : Option Inner) (e : Option Early)
    (h : Option LoopHead) (stamp : Stamp) : State :=
  match e.filter fun e => !e.late, h, inner with
  | some e, _, _ => conclude s dev p e.verdict plain b e.stamp e.epoch e.copy
  | none, some h, _ => s.modRx fun r =>
      { r with loop := r.loop.map fun x => if x = h then { h with whole := true, len := b, plain := plain } else x }
  | none, none, none =>
    let epoch := s.rx.epoch
    let (v, s) := classify s p s.rx.active plain none none
    conclude s dev p v plain b stamp epoch none
  | none, none, some i =>
    loopEnter s { port := p, len := b, plain := plain, tci := i.tci, sci := i.sci, epoch := s.rx.epoch, view := s.rx.active,
                  stamp := (e.map (·.stamp)).getD stamp, at_ := s.clock }

/-- The frame is taken as a protected one: as the pass took it that began before its end, else by MSEC_RX
(R315, R316). -/
def takenSec (s : State) (p : Nat) (e : Option Early) (h : Option LoopHead) : Bool :=
  match e, h with
  | some e, _ => e.sec
  | none, some _ => true
  | none, none => secRx s p

/-- Steps 4 to 13 for a frame that the MAC has accepted. -/
def acceptFrame (s : State) (dev : DevFn) (p b : Nat) (body : Bytes) (e : Option Early) (h : Option LoopHead)
    (stamp : Stamp) : State :=
  if !on s 62 then dropFrame s p body e h
  else if !takenSec s p e h then afterSec s dev p b body none e h stamp
  else if be body 12 2 = 0x88E5 then
    let s := if e.any (fun e => !e.late) || h.isSome then s else firstPass s p body
    match secVerify s p body (setOf s p e h) with
    | (none, s) => dropFrame s p body e h
    | (some plain, s) => afterSec s dev p b plain (some (innerOf body)) e h stamp
  else if be body 12 2 = 0x888E then afterSec (count s (cPort p 3) 7) dev p b body none e h stamp
  else dropFrame (count (firstPass s p body) (cPort p 3) 6) p body e h

/-- A frame received whole on Pn, with its FCS and its ingress stamp (Table 8-1). -/
def receive (s : State) (dev : DevFn) (p : Nat) (f : Bytes) (codeError : Bool) (stamp : Stamp) : State :=
  let body := f.take (f.length - 4)
  let e := earlyOf s p body
  let h := headFor s p body
  let s := match e with
    | some x => modPrt s p fun y => { y with early := y.early.erase x }
    | none => s
  let s := countN (count s (cPort p 0) 0) (cPort p 0) 1 f.length
  match macFailAt (setOf s p e h).maxFrame f codeError with
  | some k => dropFrame (count s (cPort p 0) k) p body e h
  | none =>
    if s.fs.f4 then dropFrame s p body e h
    else if be body 12 2 = 0x8808 then takePause s p body
    else if e.isNone && h.isNone && ownFrame s p (sub body 6 6) then count s (cPort p 0) 9
    else acceptFrame s dev p f.length body e h stamp

/-- A reception that ends without a frame: its head leaves the loop, its copy is stomped (R318, R332). -/
def discard (s : State) (p : Nat) (bytes : Bytes) : State :=
  let l := (prt s p).early.filter fun e => e.pfx.isPrefixOf bytes
  dropHeads (dropEarly (l.foldl (fun s e => feedCopy s p e bytes) s) p l)
    ((openHeads s p).filter fun h => h.pfx.isPrefixOf bytes)

/-- Reception on Pn runs. -/
def receives (s : State) (p : Nat) : Bool := on s (6 + p) && (prt s p).up && !s.pw.testMode

/-- Reassembly contexts a port keeps (R282). -/
def ctxRoom (s : State) (p : Nat) : Nat := if (prt s p).spRx then 3 else 1

/-- A reassembly error counted by its row of Table 7-9. -/
def reasm (s : State) (p row : Nat) : State := count s (cPort p 0) (16 + row)

/-- A context closed and its frame discarded. -/
def ctxDrop (s : State) (p count_ : Nat) : State :=
  match (prt s p).ctxs.find? (·.count == count_) with
  | some c => discard (modPrt s p fun x => { x with ctxs := x.ctxs.erase c }) p c.data
  | none => s

/-- The copy of a frame that comes in fragments takes the new one's bytes, and is charged for them (R330, R333). -/
def fragCopy (s : State) (p : Nat) (data : Bytes) : State :=
  match earlyOf s p data with
  | some e => match e.copy with
    | some id => copyLimit (feedCopy s p e data) (egressOf p) id
    | none => s
  | none => s

/-- A context whose next fragment has come, or its frame where that was the last one. -/
def ctxTake (s : State) (dev : DevFn) (p : Nat) (c : RxCtx) (more good : Bool) (new : Nat) : State :=
  if !good then discard (reasm s p 4) p c.data
  else if more && decide (new + 4 < 64 * (1 + cfg s (oMerge p) 3 1)) then discard (reasm s p 5) p c.data
  else if more then fragCopy (modPrt s p fun x => { x with ctxs := x.ctxs ++ [c] }) p c.data
  else receive s dev p (withFcs c.data) false c.stamp

/-- An SMD-S fragment, which bears the frame's mark; without stacked reception a new frame takes the one
context (R216, Table 7-9). -/
def smdStart (s : State) (dev : DevFn) (p c : Nat) (data : Bytes) (more good : Bool) : State :=
  let open_ := (prt s p).ctxs
  let take (s : State) : State :=
    let (st, s) := rxStamp s p (data.length + 4)
    ctxTake s dev p ⟨c, 0, data, st⟩ more good data.length
  match open_.find? fun x => x.count == c || ctxRoom s p == 1 with
  | some x => take (ctxDrop (reasm s p 2) p x.count)
  | none => if open_.length < ctxRoom s p then take s else discard (reasm s p 3) p data

/-- An SMD-C fragment (Table 7-9). -/
def smdContinue (s : State) (dev : DevFn) (p c frag : Nat) (data : Bytes) (more good : Bool) : State :=
  match (prt s p).ctxs.find? (·.count == c) with
  | none => reasm s p 0
  | some x =>
    if frag ≠ x.next then ctxDrop (reasm s p 1) p c
    else
      let s := modPrt s p fun y => { y with ctxs := y.ctxs.erase x }
      ctxTake s dev p { x with next := (x.next + 1) % 4, data := x.data ++ data } more good data.length

/-- Position of a code in a table of four. -/
def codeOf (f : Nat → Nat) (v : Nat) : Option Nat := [0, 1, 2, 3].find? fun c => f c == v

/-- A fragment received on Pn (R279–R282): SMD-S starts a frame, SMD-C continues one. -/
def takeFragment (s : State) (dev : DevFn) (p smd frag : Nat) (data : Bytes) (more good : Bool) : State :=
  match codeOf smdS smd, codeOf smdC smd with
  | some c, _ => smdStart s dev p c data more good
  | none, some c => smdContinue s dev p c ((codeOf fragCode frag).getD 4) data more good
  | none, none => s

/-- The frame may be cut through to its egress port, where it is admitted (R329). -/
def cutThrough (s : State) (p : Nat) (v : Verdict) (smdE : Bool) : Bool :=
  let eg := egressOf p
  let f : EgFrame := { id := 0, tc := v.tc, data := [], src := .fwd p }
  decide ((prt s eg).gbps ≤ (prt s p).gbps) && (smdE || levelOf s eg f != 0) &&
    !(match v.handle with
      | some h => cfg s (oPolice h) 0 1 == 1 && s.str.blocked.contains h
      | none => false)

/-- A verdict kept for the frame's end. -/
def keepEarly (s : State) (p : Nat) (e : Early) : State := modPrt s p fun x => { x with early := x.early ++ [e] }

/-- FRAME_LEN as a pass reads it that runs before the frame's end: at least the bytes received, else a free
value (Table 8-8, log entry 149). -/
def lenEarly (s : State) (n : Nat) : Nat × State :=
  let (x, s) := draw s
  (max n (x % 65536), s)

/-- The deciding pass of a frame whose end has not come: the verdict is kept for it, and its copy becomes ready
where it is cut through (R325, R329). -/
def passEarly (s : State) (p view : Nat) (pfx plain : Bytes) (inner : Option Inner) (smdE : Bool) (set : PassSet)
    (stamp : Stamp) (epoch : BitVec 16) : State :=
  let (n, s) := lenEarly s plain.length
  let (v, s) := classify s p view plain inner (some n)
  let keep (s : State) (v : Verdict) (copy : Option Nat) : State :=
    keepEarly s p { pfx := pfx, sec := inner.isSome || (secRx s p && be pfx 12 2 == 0x888E), verdict := v, copy := copy,
                     set := set, stamp := stamp, epoch := epoch }
  if v.fwd && cutThrough s p v smdE then
    let (copy, s) := forwardCopy s p v plain false stamp
    keep s (if copy.isSome then v else { v with fwd := false }) copy
  else keep s v none

/-- A pass of a frame completes before its end: the deciding one, or the first one of a protected frame, whose
head enters the loop (R294, R318, R325, R329). What cannot be decided on the bytes that have come is decided at the
frame's end, under the settings of this pass (R315). -/
def decideEarly (s : State) (p : Nat) (pfx : Bytes) (smdE : Bool) : State :=
  let (stamp, s) := rxStamp s p pfx.length
  let epoch := s.rx.epoch
  let set := passSet s p
  let later (s : State) (late : Bool) : State := keepEarly s p
    { pfx := pfx, sec := true, verdict := dropVerdict, copy := none, set := set, late := late, stamp := stamp, epoch := epoch }
  if be pfx 12 2 = 0x8808 ∨ ownFrame s p (sub pfx 6 6) then s
  else if !secRx s p then passEarly s p s.rx.active pfx pfx none smdE set stamp epoch
  else if be pfx 12 2 = 0x88E5 then
    match secPeek s p pfx set with
    | none => later s true
    | some plain =>
      let s := firstPass s p pfx
      let i := innerOf pfx
      if loopOpen s then
        loopEnter s { port := p, len := 0, plain := plain, whole := false, pfx := pfx, smdE := smdE, set := set, tci := i.tci,
                      sci := i.sci, epoch := epoch, view := s.rx.active, stamp := stamp, at_ := s.clock }
      else later (count s cDev 0) false
  else if be pfx 12 2 = 0x888E then
    passEarly s p s.rx.active pfx pfx none smdE set stamp epoch
  else later s true

end Sys2Proof.Machine
end

