-- ==== Sys2Proof/Machine/Checks.lean ====
section
/-! DEFINITION. Schedule checks: slot tables (R376), modes (R255, R262, R263) and what SCHED_MODE
group 1 reports of them. -/

namespace Sys2Proof.Machine

/-- SLOT_COUNT, CYCLE_US and BRIM_NS of a segment's table in a mode under a list of orders (Table 10-17). -/
def slotCount (s : State) (os : List Order) (m i : Nat) : Nat := vcfg s os (oSegMode m i) 4 1
def segCycleUs (s : State) (os : List Order) (m i : Nat) : Nat := vcfg s os (oSegMode m i) 0 4
def brimNs (s : State) (os : List Order) (m i : Nat) : Nat := vcfg s os (oSegMode m i) 8 4

/-- A slot entry (Table 10-7), lengths in ns. -/
structure SlotEntry where
  start : Nat
  len : Nat
  kind : Nat
  owner : Nat
  deriving DecidableEq, Repr

/-- A segment's slot table in a mode, empty where the mode holds none. -/
def slotTable (s : State) (os : List Order) (m i : Nat) : List SlotEntry :=
  (List.range (slotCount s os m i)).map fun e =>
    let b := viewRead s os (oSegSlot m i) (8 * e) 8
    { start := le b 0 4, len := le b 4 2 * 100, kind := by_ b 6 % 8, owner := by_ b 7 % 32 }

/-- Lower and higher head ID, the higher none where the segment has one head. -/
def headIds (own other : Nat) : Nat × Option Nat :=
  if other = 0xFF then (own, none) else (min own other, some (max own other))

/-- One slot entry's own conditions, and its place before the next (R376). -/
def slotEntryBad (own other brim cycle : Nat) (prev next : Option SlotEntry) (ix : Nat) (e : SlotEntry) : Bool :=
  let (lo, hi) := headIds own other
  let head := e.owner == own || e.owner == other
  let ends := match next with
    | some n => decide (e.start + e.len ≤ n.start)
    | none => decide (e.start + e.len ≤ cycle)
  let rises := match prev with
    | some p => decide (p.start < e.start)
    | none => true
  let fits := if e.kind = 4 then decide (2 * brim + 123800 ≤ e.len) else decide (2 * brim + 58800 ≤ e.len)
  let kind := 1 ≤ e.kind && e.kind ≤ 4
  let owner := if e.kind = 3 then !head else head
  let sync := if ix = 0 then e.kind == 1 && e.start == 0 && e.owner == lo
    else e.kind != 1 || hi == some e.owner
  !(ends && rises && fits && kind && owner && sync)

/-- First slot entry that fails, scanning with its neighbours. -/
def slotScan (own other brim cycle : Nat) : Option SlotEntry → Nat → List SlotEntry → Option Nat
  | _, _, [] => none
  | prev, ix, e :: es =>
    if slotEntryBad own other brim cycle prev es.head? ix e then some ix
    else slotScan own other brim cycle (some e) (ix + 1) es

/-- The first failure of a segment's slot table: its entry, 0xFFFF for one of no single entry; none
where it passes or the mode holds no table (R376, Table 7-12). -/
def slotFail (s : State) (os : List Order) (m i : Nat) : Option Nat :=
  let l := slotTable s os m i
  if l.isEmpty then none else
  let brim := brimNs s os m i
  let us := segCycleUs s os m i
  let own := vcfg s os (oSeg i) 0 1
  let other := vcfg s os (oSeg i) 1 1
  if us < 250 ∨ 1000000 < us ∨ 64 < l.length ∨ brim < vcfg s os (oSeg i) 4 4 + 500 then some 0xFFFF
  else match slotScan own other brim (us * 1000) none 0 l with
    | some e => some e
    | none =>
      let syncs := (l.filter (·.kind == 1)).length
      if syncs = (if other = 0xFF then 1 else 2) then none else some 0xFFFF

/-- The mode holds a gate list or slot table (R255). -/
def holdsAny (s : State) (os : List Order) (m : Nat) : Bool :=
  ports6.any (fun p => entryCount s os m p != 0) || (List.range 16).any fun i => slotCount s os m i != 0

/-- First failure of a mode: code, port or 16 + segment, entry (R255, Table 7-12). A mode that is not
to run may hold nothing. -/
def modeFail (s : State) (os : List Order) (m : Nat) (toRun : Bool) : Option (Nat × Nat × Nat) :=
  let lists := ports6.findSome? fun p => (gclFail (cycleNs s os m) (gateList s os m p)).map fun x => (x.1, p, x.2)
  match lists with
  | some x => some x
  | none =>
    match (List.range 16).findSome? fun i => (slotFail s os m i).map fun e => (5, 16 + i, e) with
    | some x => some x
    | none => if toRun && !holdsAny s os m then some (4, 0, 0xFFFF) else none

/-- Modes that a list of orders alters (R263, R409): their lists, groups and tables, and those whose
table of a segment a new SEG group is checked with. -/
def altersMode (s : State) (os : List Order) (m : Nat) : Bool :=
  os.any fun o =>
    let oid := o.oid.toNat
    let cls := oid / 0x10000; let inst := oid / 16 % 4096
    (o.opcode == 0x11 || o.opcode == 0x20 || o.opcode == 0x22) &&
      ((cls == 0x0401 && inst / 8 == m) || (cls == 0x0402 && inst == m) || ((cls == 0x0701 || cls == 0x0702) && inst / 16 == m) ||
       (cls == 0x0700 && slotCount s os m inst != 0))

/-- The mode that runs from the boundary of a stage. -/
def modeAfter (s : State) (os : List Order) : Nat := (modeOf os).getD s.tx.mode

/-- Every mode that a stage activates or alters passes its checks in the stage's view (R263). -/
def modesPass (s : State) (os : List Order) : Bool :=
  (List.range 8).all fun m =>
    let activates := modeOf os == some m
    if activates || altersMode s os m then (modeFail s os m (m == modeAfter s os)).isNone else true

/-- Bits of the lists of a mode that pass R255 (Table 7-12). -/
def listsPass (s : State) (os : List Order) (m : Nat) : Nat :=
  ports6.foldl (fun a p =>
    if entryCount s os m p != 0 && (gclFail (cycleNs s os m) (gateList s os m p)).isNone then a + 2 ^ p else a) 0

/-- SCHED_MODE group 1 (Table 7-12). -/
def schedImage (s : State) (m : Nat) : Bytes :=
  let os := allOrders s
  let (c, w, e) := (modeFail s os m true).getD (0, 0, 0)
  toLe 1 (listsPass s [] m) ++ toLe 1 (listsPass s os m) ++ toLe 1 c ++ toLe 1 w ++ toLe 2 e ++ zz 2

/-- Every cycle that runs at or after the boundary of a stage divides COMMIT_PERIOD_NS (R113). -/
def periodFits (s : State) (os : List Order) (period : Nat) : Bool :=
  [s.tx.mode, modeAfter s os].all fun m =>
    (ports6.all (fun p => entryCount s os m p == 0) || period % (cycleNs s os m) == 0) &&
    (List.range 16).all fun i => slotCount s os m i == 0 || period % (segCycleUs s os m i * 1000) == 0

/-- COMMIT_PERIOD_NS and COMMIT_LEAD_NS (Table 3-12). -/
def commitPeriod (s : State) : Nat := cfg s 0x0B010000 0 4
def commitLead (s : State) : Nat := cfg s 0x0B010000 4 4

end Sys2Proof.Machine
end

