-- ==== Sys2Proof/Machine/FlashOps.lean ====
section
/-! DEFINITION. SPI flash, its slot and wear records (R510, R511), and the checks of an image and of
its protection block (R477–R482). -/

namespace Sys2Proof.Machine

/-- Erased flash. -/
def flashReset (_ : Nat) : Byte := 0xFF
def flashRead (s : State) (a n : Nat) : Bytes := mread flashReset s.flash a n
def flashWrite (s : State) (a : Nat) (b : Bytes) : State := s.setFlash (mwrite flashReset s.flash a b)

/-- Every byte of a range of flash is erased. -/
def flashErase (s : State) (a n : Nat) : State := s.setFlash (s.flash.filter fun c => !(a ≤ c.1 && c.1 < a + n))

/-- A range of flash after an operation that failed on it: the rules do not say what it holds, so every
byte of it is free (R510, log entry 114). -/
def flashSpoil (s : State) (a n : Nat) : State := flashWrite (draw s).2 a (toLe n (draw s).1)

/-- Address of a slot and its size (Table 14-7). -/
def slotAddr (k : Nat) : Nat := 0x10000 + 0x80000 * k
def slotSize : Nat := 0x80000

/-- A record of 48 bytes is valid: its MAGIC and CRC (R511). -/
def recordOk (magic : Nat) (b : Bytes) : Bool := le b 0 4 == magic && le b 44 4 == crc32c (b.take 44)

/-- The valid copy of a record in two sectors: its sector number and bytes (R511). -/
def validCopy (s : State) (base magic : Nat) : Option (Nat × Bytes) :=
  let a := flashRead s base 48
  let b := flashRead s (base + 0x1000) 48
  if recordOk magic a then
    if recordOk magic b && decide (le a 4 4 < le b 4 4) then some (1, b) else some (0, a)
  else if recordOk magic b then some (1, b) else none

/-- The sector that the next record goes to: the other one than the valid copy's (R511). -/
def otherSector (s : State) (base magic : Nat) : Nat :=
  match validCopy s base magic with
  | some (k, _) => base + 0x1000 * (1 - k)
  | none => base

/-- A record written to the other sector than the valid copy, with the next SEQ (R511). -/
def writeRecord (s : State) (base magic : Nat) (body : Bytes) : State :=
  let (k, seq) := match validCopy s base magic with
    | some (k, b) => (1 - k, le b 4 4 + 1)
    | none => (0, 1)
  let b := toLe 4 magic ++ toLe 4 seq ++ sub body 0 36
  flashWrite (flashErase s (base + 0x1000 * k) 0x1000) (base + 0x1000 * k) (b ++ toLe 4 (crc32c b))

def slotMagic : Nat := 0x0860534C
def wearMagic : Nat := 0x08605752

/-- What the slot record says (R511). -/
structure SlotRec where
  active : Nat
  verified : Nat
  ver0 : Nat
  ver1 : Nat
  deriving DecidableEq, Repr

def slotRec (s : State) : Option SlotRec :=
  (validCopy s 0 slotMagic).map fun x => ⟨by_ x.2 8, by_ x.2 9 % 4, le x.2 12 4, le x.2 16 4⟩

def slotRecWrite (s : State) (r : SlotRec) : State :=
  writeRecord s 0 slotMagic (toLe 1 r.active ++ toLe 1 r.verified ++ zz 2 ++ toLe 4 r.ver0 ++ toLe 4 r.ver1)

/-- The active slot: slot 0 while no record is valid (log entry 61). -/
def activeSlot (s : State) : Nat := ((slotRec s).map (·.active)).getD 0

def slotVerified (s : State) (k : Nat) : Bool := ((slotRec s).map fun r => bitN r.verified k).getD false

/-- The record with one slot's verified bit and version changed. -/
def setVerified (s : State) (k : Nat) (ok : Bool) (ver : Option Nat) : State :=
  let r := (slotRec s).getD ⟨0, 0, 0, 0⟩
  let v := (if bitN r.verified k then r.verified - 2 ^ k else r.verified) + (if ok then 2 ^ k else 0)
  slotRecWrite s { r with verified := v, ver0 := if k = 0 then ver.getD r.ver0 else r.ver0,
                          ver1 := if k = 1 then ver.getD r.ver1 else r.ver1 }

/-- Alarm policies of a protection block: 2 bits for each alarm 0–7 (Table 13-5). -/
def policyOf (prot : Bytes) (a : Nat) : Nat := le prot 4 2 / 4 ^ a % 4

/-- A PROT block is legal: reserved fields 0, every policy field defined (R482). -/
def protLegal (prot : Bytes) : Bool :=
  by_ prot 0 < 128 && by_ prot 1 < 2 && by_ prot 2 < 8 && by_ prot 6 < 16 && allZero (sub prot 7 57) &&
    (List.range 8).all fun a => policyOf prot a != 3

/-- The PROT block of a header, and what else the boot takes from it (Table 13-2). -/
def hdrProt (h : Bytes) : Bytes := sub h 256 64
def hdrVersion (h : Bytes) : Nat := le h 8 4
def hdrIndex (h : Bytes) : Nat := le h 12 4
def hdrPayload (h : Bytes) : Nat := le h 16 4

/-- The first check of Table 13-3 that an image fails, 0 where it passes. `payload` reads the
payload, `size` is what the source delivered; after a restart the PROT block must equal SEC_PROT in
place of check 8 (R478, R520). -/
def imageReject (s : State) (h : Bytes) (payload : Nat → Bytes) (size : Nat) (locked : Option Bytes) : Nat :=
  let n := hdrPayload h
  let prot := hdrProt h
  let vk := sub h 32 96
  let ix := by_ h 24
  if le h 0 4 ≠ 0x08604B49 ∨ le h 4 2 ≠ 1 ∨ le h 6 2 ≠ 512 ∨ !allZero (sub h 25 7) ∨ !allZero (sub h 224 32) ∨ n ≤ le h 20 4 then 1
  else if n < 4096 ∨ 491520 < n ∨ n % 16 ≠ 0 ∨ size < 512 + n then 2
  else if hdrIndex h < s.fuses.rollback then 3
  else if 3 < ix ∨ s.fuses.revoked.getLsbD ix ∨ sha384 vk ≠ Config.vendorKeyHash ix then 4
  else if !ecdsaVerify vk (sha384 (h.take 128 ++ payload n)) (sub h 128 96) then 5
  else if s.fuses.owner ≠ [] ∧ s.fuses.owner ≠ sha384 (sub h 320 96) then 6
  else if !ecdsaVerify (sub h 320 96) (sha384 (h.take 416 ++ payload n)) (sub h 416 96) then 7
  else match locked with
    | some p => if prot = p then 0 else 8
    | none => if protLegal prot then 0 else 8

/-- An image held as bytes. -/
def rejectBytes (s : State) (b : Bytes) (locked : Option Bytes) : Nat :=
  imageReject s (sub b 0 512) (fun n => sub b 512 n) b.length locked

/-- The image in a flash slot. -/
def slotHeader (s : State) (k : Nat) : Bytes := flashRead s (slotAddr k) 512
def rejectSlot (s : State) (k : Nat) (locked : Option Bytes) : Nat :=
  imageReject s (slotHeader s k) (fun n => flashRead s (slotAddr k + 512) n) slotSize locked

/-- SEC_PROT as it stands. -/
def secProt (s : State) : Bytes := objRead s 0x0A000001 0 64

/-- Key check value of a key in a slot (R488). -/
def keyCheck (slot : Nat) (key : Bytes) : Bytes :=
  if 0x200 ≤ slot then sub (hmacSha256 key []) 0 4 else sub (aesBlock key (zz 16)) 0 4

end Sys2Proof.Machine
end

