-- ==== Sys2Proof/Machine/Images.lean ====
section
/-! DEFINITION. The images of the read-only groups and tables, and the read-only bytes inside
writable images, as the state gives them (Tables 3-14, 4-9, 5-5, 6-8, 7-12, 8-13, 9-6, 10-17, 11-13,
12-6, 13-11 and 14-9). -/

namespace Sys2Proof.Machine

def maxAge : Nat := 0xFFFFFFFF

/-- Milliseconds since a clock kept plus one; saturated where there was none. -/
def ageOf (s : State) (plus1 : Nat) : Nat := if plus1 = 0 then maxAge else min maxAge (msSince s (plus1 - 1))

/-- A Bool mask of positions as a number. -/
def maskOf (n : Nat) (f : Nat → Bool) : Nat := (List.range n).foldl (fun a i => if f i then a + 2 ^ i else a) 0

/-- LEDGER_STATE (Table 4-9). -/
def ledgerImage (s : State) : Bytes :=
  toLe 4 s.ld.bootCeil ++ toLe 4 s.ld.thermal ++ toLe 4 (ceiling s) ++ toLe 4 (charged s) ++
    toLe 4 (reservedOf s (allOrders s)) ++ toLe 2 (uns 16 s.ld.tj) ++ toLe 1 (b1 s.ld.exceeds + 2 * b1 s.ld.exhausted) ++ zz 1

/-- DOMAIN (Table 4-9). -/
def domainImage (s : State) (d : Nat) : Bytes :=
  toLe 1 (dom s d).state ++ [(dom s d).agent] ++ zz 2 ++ toLe 4 (cost d)

/-- RESOURCE with kind × 256 + index (Table 4-9). -/
def resourceImage (s : State) (inst : Nat) : Bytes :=
  let k := inst / 256; let i := inst % 256
  let owned (o : Option (Nat × Nat)) : Bytes := match o with
    | some (oid, a) => [2] ++ toLe 1 a ++ zz 2 ++ toLe 4 oid ++ zz 4
    | none => zz 12
  if k = 1 ∧ i < 12 then owned (pinOwner s i)
  else if k = 1 then
    match rxPinOwner s (i - 16) with
    | some d => owned (some (oidOf 0x0101 d 0, (dom s d).agent.toNat))
    | none => zz 12
  else if k = 2 then owned (compOwner s i)
  else if cellCount s i = 0 then zz 12
  else toLe 1 (if stagingCells s i = 0 then 1 else 2) ++ toLe 1 (cellHolder s i) ++ zz 2 ++ toLe 4 (oTxs i) ++ toLe 4 (cellCount s i)

/-- TIME_STATUS (Table 5-5). -/
def timeStatusImage (s : State) : Bytes :=
  toLe 1 s.tm.state ++ toLe 1 (b1 s.tm.slewing + 2 * b1 s.pw.refLost) ++
    toLe 1 (maskOf 3 (planeValid s)) ++ toLe 1 (maskOf 3 fun p => (plane s p).state == 3) ++
    toLe 10 (uns 80 s.tm.voted) ++ zz 2 ++ toLe 4 (uns 32 (rateNow s)) ++
    toLe 4 (min maxAge ((s.clock - s.tm.since) / 1000000000)) ++ toLe 4 s.tm.updates ++ zz 4

/-- PTP_PLANE group 1 (Table 5-5). -/
def planeImage (s : State) (p : Nat) : Bytes :=
  let x := plane s p
  toBe 8 x.gm.toNat ++ toLe 1 x.state ++ zz 3 ++ toLe 10 (uns 80 x.off) ++ zz 2 ++
    toLe 4 (if x.seen then min maxAge (msSince s x.at_) else maxAge) ++ toLe 4 x.changes

/-- TIME_CORE (Table 5-5). -/
def coreImage (s : State) : Bytes :=
  toLe 1 (maskOf 3 fun i => (chan s i).inVote) ++ toLe 1 (maskOf 3 fun i => (chan s i).retired) ++
    toLe 1 (maskOf 3 fun i => (chan s i).resync) ++ zz 1 ++
    toLe 4 (chan s 0).outvotes ++ toLe 4 (chan s 1).outvotes ++ toLe 4 (chan s 2).outvotes ++
    toLe 10 s.tm.outvoteRaw.toNat ++ toLe 1 s.tm.outvoteVals.toNat ++ zz 5

/-- CAL_PORT group 1 (Table 6-8, R246). -/
def calPortImage (s : State) (i : Nat) : Bytes :=
  let x := calPort s i
  let t := (ptsOf i).headD 0
  let r := t + 1
  toLe 1 (ptClass s t) ++ toLe 1 (ptClass s r) ++ toLe 1 x.reason ++ toLe 1 x.partner ++
    toLe 4 (ptAge s t) ++ toLe 4 (ptAge s r) ++
    (if i ≥ 16 then zz 12 else toLe 4 (ageOf s x.asymAt) ++ toLe 4 (uns 32 x.mean) ++ toLe 4 (uns 32 x.asym)) ++
    toLe 4 x.accepted ++ toLe 4 x.rejected ++ toLe 4 x.deferrals ++ toLe 4 x.relocks

/-- Entry of CAL_SEG_NODE (Table 6-8). -/
def calNodeEntry (s : State) (i e : Nat) : Bytes :=
  match tget (fun _ => none) s.cal.nodes (32 * i + e) with
  | some (ps, at_) => toLe 4 ps ++ toLe 4 (min maxAge (msSince s at_))
  | none => toLe 4 maxAge ++ toLe 4 maxAge

/-- TXS_PORT group 1 (Table 7-12). -/
def txsImage (s : State) (p : Nat) : Bytes :=
  let x := prt s p
  toLe 1 x.merge ++ toLe 1 x.sp ++ toLe 1 (maskOf 8 fun q => paused s p q) ++ toLe 1 (b1 x.hold) ++
    toLe 2 x.cells ++ toLe 2 x.cellsMax ++ toLe 4 x.lates ++ toLe 4 x.overruns

/-- SCHED_STATE (Table 7-12). -/
def schedStateImage (s : State) : Bytes :=
  toLe 1 s.tx.mode ++ toLe 1 ((modeOf s.mb.frozen).getD 0xFF) ++ toLe 1 s.tx.phase ++ zz 1 ++
    toLe 8 s.tx.switched ++ toLe 4 s.tx.mismatches

/-- REQUIRED participants of a plane, bit = SCHED_PART entry (Table 7-12). -/
def required (s : State) (pl : Nat) : BitVec 32 :=
  BitVec.ofNat 32 (maskOf 32 fun e => cfg s (oidOf 0x0405 pl 0) (8 * e + 6) 1 % 4 == 3)

def acceptedOn (s : State) (pl : Nat) : BitVec 32 := tget (fun _ => 0) s.tx.agree.acc pl
def refusedOn (s : State) (pl : Nat) : BitVec 32 := tget (fun _ => 0) s.tx.agree.ref pl

/-- A REQUIRED participant of the plane has refused (Table 7-5). -/
def planeRefused (s : State) (pl : Nat) : Bool := (required s pl &&& refusedOn s pl) != 0

/-- Every REQUIRED participant of the plane has accepted and none has refused (R266, R267). -/
def planeAgreed (s : State) (pl : Nat) : Bool :=
  (required s pl &&& ~~~ (acceptedOn s pl)) == 0 && !planeRefused s pl

/-- SCHED_AGREE group 1 (Table 7-12). -/
def agreeImage (s : State) : Bytes :=
  let a := s.tx.agree
  let asked (pl : Nat) : Bool := a.planes.getLsbD pl
  toLe 2 a.id.toNat ++ toLe 1 a.mode ++ toLe 1 a.result ++ toLe 8 a.boundary ++
    toLe 1 (maskOf 3 fun pl => asked pl && planeAgreed s pl) ++ toLe 1 (maskOf 3 fun pl => asked pl && planeRefused s pl) ++ zz 2 ++
    ([0, 1, 2].flatMap fun pl => toLe 4 (if asked pl then (required s pl &&& ~~~ (acceptedOn s pl)).toNat else 0)) ++
    ([0, 1, 2].flatMap fun pl => toLe 4 (refusedOn s pl).toNat) ++ toLe 4 a.lates ++ toLe 4 a.unknown

/-- Heads in the loop that carry the draining epoch (R323). -/
def drainCount (s : State) : Nat :=
  match s.rx.draining with
  | some e => (s.rx.loop.filter fun h => h.epoch == e).length
  | none => 0

/-- Shadow and draining epoch as reported: 0xFFFF for none (Table 8-13). -/
def shadowField (s : State) : Nat := if s.rx.draining.isSome then 0xFFFF else s.rx.shadow.toNat
def drainField (s : State) : Nat := match s.rx.draining with
  | some e => e.toNat
  | none => 0xFFFF

/-- CLS_RULESET (Table 8-13). -/
def rulesetImage (s : State) : Bytes :=
  toLe 2 s.rx.epoch.toNat ++ toLe 2 (shadowField s) ++ toLe 2 (drainField s) ++ zz 2 ++ toLe 4 (drainCount s) ++
    toLe 2 s.rx.loop.length ++ toLe 2 s.rx.loopMax

/-- STREAM STATUS of a handle (Table 9-6). -/
def streamImage (s : State) (h : Nat) : Bytes :=
  let x := recovOf s h
  toLe 1 (b1 x.takeAny + 2 * b1 (s.str.blocked.contains h)) ++ toLe 1 (s.str.slots.filter (·.handle == h)).length ++
    toLe 2 x.seq.toNat ++ toLe 2 (talkSeq s h).toNat ++ zz 2 ++ toLe 4 x.dissA ++ toLe 4 x.dissB ++ toLe 4 x.dissC ++
    toLe 4 x.inconsistent ++ toLe 1 x.outcome ++ zz 3

/-- ELIM_DEV group 1 (Table 9-6). -/
def elimImage (s : State) : Bytes :=
  toLe 2 s.str.slots.length ++ toLe 2 (s.str.slots.filter (·.reserved)).length ++ toLe 2 s.str.slotsMax ++ zz 2 ++
    toLe 4 s.str.exhaustions ++ toLe 4 s.str.reclaims

def nodeReset (_ : Nat) : Node := {}
def node (g : Seg) (n : Nat) : Node := tget nodeReset g.nodes n

/-- SEG group 1 (Table 10-17). -/
def segImage (s : State) (i : Nat) : Bytes :=
  let g := sgm s i
  toLe 1 g.head ++ toLe 1 g.mode ++ toLe 2 g.cycle.toNat ++ toLe 4 (maskOf 32 fun n => (node g n).integrated) ++
    toLe 4 (maskOf 32 fun n => (node g n).lost) ++ toLe 1 g.other ++ toLe 1 (b1 g.held + 2 * b1 g.safe) ++ zz 2 ++
    toLe 4 (uns 32 g.otherErr) ++ toLe 4 g.collisions

/-- GAUNTLET (Table 10-17). -/
def gauntletImage (s : State) : Bytes :=
  toLe 4 (uns 32 s.sg.delta) ++ toLe 4 (min maxAge s.sg.deltaMax) ++ toLe 4 s.sg.saturated ++ toLe 4 s.sg.blocks ++
    toLe 1 (b1 s.sg.diverged + 2 * b1 s.sg.markerLost) ++ zz 3

/-- The stack is a ring: every other present position is reached over both links (R416). -/
def isRing (s : State) : Bool :=
  (positions s).length > 1 && (positions s).all fun p => p == pos s || (hopsVia s 0 p != 0xFF && hopsVia s 1 p != 0xFF)

def presentMask (s : State) : Nat := maskOf 8 fun p => present s p

/-- Positions seen twice: marked here or reported by a neighbour (R417). -/
def dupMask (s : State) : BitVec 8 := s.sk.dup

/-- STACK (Table 11-13). -/
def stackImage (s : State) : Bytes :=
  toLe 1 (b1 s.sk.complete) ++ toLe 1 (if (positions s).length ≤ 1 then 0 else if isRing s then 2 else 1) ++
    toLe 1 (presentMask s) ++ toLe 1 (dupMask s).toNat ++ toLe 1 s.sk.master ++ toLe 1 s.sk.config ++ zz 2 ++
    ((List.range 8).flatMap fun p => toLe 1 (hopsVia s 0 p)) ++ ((List.range 8).flatMap fun p => toLe 1 (hopsVia s 1 p)) ++
    toLe 2 s.sk.first ++ toLe 2 s.sk.count ++ toLe 4 (uns 32 s.sk.err)

/-- STACK_LINK (Table 11-13). -/
def linkImage (s : State) (k : Nat) : Bytes :=
  let l := klink s k
  let n := match l.nbr with
    | some d => if l.up then by_ d 8 else 0xFF
    | none => 0xFF
  toLe 1 (b1 l.up) ++ toLe 1 n ++ zz 2 ++ toLe 4 (uns 32 l.mean) ++ toLe 4 l.rounds

def regionReset (_ : Nat) : Region := {}
def region (s : State) (n : Nat) : Region := tget regionReset s.tw.regions n

/-- Every declared region has been copied within its last two periods (R439). -/
def regionsFresh (s : State) : Bool :=
  (List.range 8).all fun n =>
    !(region s n).on ||
      ((region s n).copied != 0 && decide (s.clock ≤ (region s n).copied - 1 + 2000 * cfg s 0x08020000 4 2))

/-- Item 2 of the mirror set: active mode, frozen mode and boundary, operational MODE_TAGs (Table 11-8). -/
def schedItem (s : State) : Bytes :=
  toLe 1 s.tx.mode ++ toLe 1 ((modeOf s.mb.frozen).getD 0xFF) ++ toBe 8 (s.mb.boundary.getD 0) ++
    (List.range 8).flatMap fun m => toBe 4 (vcfg s [] (oMode m) 4 4)

/-- What item 2 must agree in: active mode, frozen boundary and MODE_TAGs, and so without its byte 1 (R439). -/
def sameSched (a b : Bytes) : Bool := a.length == b.length && sub a 0 1 == sub b 0 1 && a.drop 2 == b.drop 2

/-- The unit's own mirror set is complete (R439). -/
def mirrorComplete (s : State) : Bool :=
  standsBy s && (klink s s.tw.link).up && s.tw.snap && sameSched s.tw.sched (schedItem s) && regionsFresh s && !s.sk.disagree &&
    s.tw.item2 != 0 && s.tw.item3 != 0 && decide (s.clock ≤ s.tw.item2 - 1 + 20000000) &&
    decide (s.clock ≤ s.tw.item3 - 1 + 20000000)

/-- TWIN_STATE (Table 11-13). -/
def twinImage (s : State) : Bytes :=
  let t := s.tw
  let pend := (t.takeT.getD (t.yieldT.getD 0))
  toLe 1 t.role ++ toLe 1 t.pRole ++ toLe 1 t.paths.toNat ++
    toLe 1 (b1 (mirrorComplete s) + 2 * b1 (t.takeT.isSome || t.yieldT.isSome) + 4 * b1 t.hbLost) ++
    toLe 2 t.seq.toNat ++ toLe 2 t.pSeq.toNat ++ toLe 8 pend ++ toLe 4 t.corr ++ toLe 4 t.missLocal ++
    toLe 4 t.missActive ++ toLe 4 t.cancelled ++ toLe 4 t.copies

def relayReset (_ : Nat) : Relay := {}
def relay (s : State) (p : Nat) : Relay := tget relayReset s.sk.relays p
def modRelay (s : State) (p : Nat) (f : Relay → Relay) : State :=
  s.modSk fun x => { x with relays := tmod relayReset x.relays p f }

/-- STACK_RELAY_STATE (Table 11-13). -/
def relayImage (s : State) (p : Nat) : Bytes :=
  let r := relay s p
  toLe 1 r.state ++ zz 1 ++ toLe 2 r.tag.toNat ++ toLe 2 r.resp.length ++ zz 2

/-- FAULT_STATE (Table 12-6). -/
def faultStateImage (s : State) : Bytes :=
  toLe 1 (b1 s.fs.f4) ++ toLe 1 (maskOf 3 fun p => f3Holds s p) ++ toLe 2 (maskOf 16 fun i => f3Holds s (16 + i)) ++
    toLe 4 s.fs.ringAt ++ toLe 4 s.fs.ringLost ++ zz 4

/-- Entry of FAULT_SRC (Table 12-6). -/
def faultSrcEntry (s : State) (n : Nat) : Bytes :=
  let x := srcOf s n
  toLe 1 (clsOf s n) ++ toLe 1 (b1 x.present + 2 * b1 x.sticky + 4 * b1 x.hold + 8 * b1 (x.sticky && x.onlyInj)) ++ zz 2 ++
    toLe 2 x.real ++ toLe 2 x.inj

/-- Entry of FAULT_EVENT, by its place in the ring (Table 12-6). -/
def faultEventEntry (s : State) (e : Nat) : Bytes :=
  let back := (s.fs.ringAt + 63 - e) % 64
  match s.fs.ring.reverse[back]? with
  | some x => toLe 2 x.src ++ toLe 1 x.cls ++ toLe 1 (b1 x.injected) ++ toLe 10 x.raw.toNat ++ zz 2
  | none => zz 16

/-- Where the running image came from: 0 flash, 1 host, 2 service (Table 13-11). -/
def bootedFrom (s : State) : Nat :=
  if s.se.slot ≠ 0xFF then 0
  else if s.pw.bootSrc = 0 ∧ 2 ≤ s.se.phase then 1
  else s.pw.bootSrc.toNat

/-- SEC_STATE (Table 13-11). -/
def secStateImage (s : State) : Bytes :=
  toLe 1 (bootedFrom s) ++ [s.se.slot] ++ toLe 1 (b1 s.se.locked + 2 * b1 (s.fuses.owner != []) + 4 * b1 s.pw.testMode) ++
    [s.se.reject] ++ toLe 4 s.se.version.toNat ++ toLe 4 s.se.rollIndex.toNat ++ toLe 1 s.fuses.rollback ++
    toLe 1 s.fuses.revoked.toNat ++ zz 2

/-- Slot of a SEC_KEYS entry (Table 13-11). -/
def keysSlot (e : Nat) : Option Nat :=
  if e < 128 then some e
  else if 128 ≤ e ∧ e ≤ 128 + 0x85 then some (0x100 + (e - 128))
  else if 520 ≤ e ∧ e < 528 then some (0x200 + (e - 520)) else none

/-- Entry of SEC_KEYS (Table 13-11). -/
def keysEntry (s : State) (e : Nat) : Bytes :=
  match keysSlot e with
  | none => zz 8
  | some k => match keyAt s k with
    | none => zz 8
    | some x => toLe 1 (1 + 2 * b1 (x.key.length == 32) + 4 * b1 x.wrapped) ++ [x.agent] ++ zz 2 ++ keyCheck k x.key

/-- MGMT_LOG (Table 14-9). -/
def logImage (s : State) : Bytes :=
  toLe 4 s.mg.oldest ++ toLe 4 (s.mg.nextRec - 1) ++ toLe 4 s.mg.logLost ++ toLe 4 s.mg.unflushed ++
    toLe 1 (b1 s.mg.flash + 2 * b1 s.mg.flashErr) ++ zz 3

/-- How far the received ranges cover an image from its start: each round takes the ranges that reach
further. -/
def coverFuel : Nat → Nat → List (Nat × Nat) → Nat
  | 0, at_, _ => at_
  | k + 1, at_, l => coverFuel k (l.foldl (fun a x => if x.1 ≤ a then max a (x.1 + x.2) else a) at_) l

/-- The bytes received cover the image. -/
def covered (u : Update) : Bool := decide (u.size ≤ coverFuel u.got.length 0 u.got)

/-- The state of an update (Table 14-9): verifying from the taking of a FW_FINISH that may run (log entry 220). -/
def updateState (s : State) (u : Update) : Nat :=
  if !u.erased then 1
  else if covered u && s.mb.taken.any (fun r => r.opcode == 0xA2 && agentOf r.via == u.agent.toNat) then 3 else 2

/-- MGMT_FLASH (Table 14-9). -/
def flashImage (s : State) : Bytes :=
  let r := slotRec s
  let x := r.getD ⟨0, 0, 0, 0⟩
  let (st, ag) := match s.mg.update with
    | some u => (updateState s u, u.agent)
    | none => (0, 0)
  toLe 1 (if r.isSome then x.active else 0xFF) ++ toLe 1 x.verified ++ toLe 1 st ++ [ag] ++ toLe 4 x.ver0 ++ toLe 4 x.ver1 ++
    [s.mg.finishErr] ++ zz 3 ++ toLe 3 (if s.mg.flash then Config.flashId.toNat else 0) ++ zz 1

/-- Image of a read-only group. -/
def roImage (s : State) (oid : Nat) : Bytes :=
  let cls := oid / 0x10000; let i := oid / 16 % 4096; let g := oid % 16
  if cls = 0x0100 then ledgerImage s
  else if cls = 0x0101 then domainImage s i
  else if cls = 0x0102 then resourceImage s i
  else if cls = 0x0201 then timeStatusImage s
  else if cls = 0x0202 then planeImage s i
  else if cls = 0x0204 then coreImage s
  else if cls = 0x0300 then calPortImage s i
  else if cls = 0x0302 then toLe 1 (ptClass s 48) ++ zz 3 ++ toLe 4 (ptAge s 48) ++ toLe 2 (uns 16 (calPt s 48).tj) ++ zz 2
  else if cls = 0x0400 then txsImage s i
  else if cls = 0x0402 then schedImage s i
  else if cls = 0x0403 then schedStateImage s
  else if cls = 0x0404 then agreeImage s
  else if cls = 0x0503 then rulesetImage s
  else if 0x0601 ≤ cls ∧ cls ≤ 0x0604 then streamImage s ((cls - 0x0601) * 4096 + i)
  else if cls = 0x0605 then elimImage s
  else if cls = 0x0700 then segImage s i
  else if cls = 0x0705 then gauntletImage s
  else if cls = 0x0800 then stackImage s
  else if cls = 0x0801 then linkImage s i
  else if cls = 0x0802 then twinImage s
  else if cls = 0x0804 then relayImage s i
  else if cls = 0x0900 then faultStateImage s
  else if cls = 0x0A00 then secStateImage s
  else if cls = 0x0A02 ∧ g = 1 then toLe 8 (prt s i).prot ++ toLe 8 (prt s i).noKey
  else if cls = 0x0B02 then s.mb.report
  else if cls = 0x0B11 then logImage s
  else if cls = 0x0B12 then flashImage s
  else []

/-- Read-only bytes put into a stored image. -/
def withRo (s : State) (oid : Nat) (b : Bytes) : Bytes :=
  let cls := oid / 0x10000; let i := oid / 16 % 4096; let g := oid % 16
  if cls = 0x0103 then patch (patch b 1 (toLe 1 (doz s i).status)) 12 (toLe 4 (doz s i).wakes)
  else if cls = 0x0200 ∧ g = 2 then
    patch b 0 (toLe 1 (b1 (s.tm.permit != 0)) ++ toLe 1 s.tm.permit ++ [if s.tm.permit = 1 then s.tm.permitAgent else 0] ++ zz 1 ++
      toLe 4 (if s.tm.permit = 1 then (s.tm.permitEnd - s.clock) / 1000000 else 0))
  else if cls = 0x0205 then
    let held := ((List.range 16).filter fun k => (compOwner s k).any fun x => x.1 == oTout i).length
    patch b 4 (toLe 1 (tout s i).state ++ toLe 1 held ++ zz 2 ++ toLe 4 (tout s i).missed)
  else if cls = 0x0900 ∧ g = 1 then
    let st := if s.pw.testMode then 3 else if s.fs.f4 then 2 else b1 s.fs.released
    patch b 0 (toLe 1 (b1 s.fs.released) ++ toLe 1 st ++ toLe 1 s.pads.safePad.toNat)
  else if oid = 0x0A000002 then toLe 1 (b1 s.se.locked) ++ zz 3
  else b

/-- Image of a group as it operates, or under a list of staged orders (R126 ATTR_GET). -/
def groupImage (s : State) (os : List Order) (oid : Nat) (d : Desc) : Bytes :=
  if d.kind = .readOnly then roImage s oid
  else
    let o := physOid s oid
    withRo s oid (if d.kind = .staged then viewRead s os oid 0 d.size else objRead s o 0 d.size)

/-- One entry of a table, likewise. -/
def entryImage (s : State) (os : List Order) (oid : Nat) (d : Desc) (e : Nat) : Bytes :=
  let cls := oid / 0x10000; let i := oid / 16 % 4096
  if cls = 0x0301 then calNodeEntry s i e
  else if cls = 0x0803 then [(relay s i).resp.getD e 0]
  else if cls = 0x0901 then faultSrcEntry s e
  else if cls = 0x0902 then faultEventEntry s e
  else if cls = 0x0A01 then keysEntry s e
  else if cls = 0x0A03 then objRead s oid (4 * e) 1 ++ toLe 1 (sess s e).state ++ toLe 2 (sess s e).id.toNat
  else if d.kind = .staged then viewRead s os oid (e * d.size) d.size
  else objRead s (physOid s oid) (e * d.size) d.size

end Sys2Proof.Machine
end

