-- ==== Sys2Proof/Machine/StackOps.lean ====
section
/-! DEFINITION. What staging and the commit need of the stack and the twin: who the members are,
relays to them (R423, R424) and a change of twin role (R434). -/

namespace Sys2Proof.Machine

/-- The other present positions that are not duplicated; none for a device that is duplicated itself (R417). -/
def members (s : State) : List Nat :=
  if dupAt s (pos s) then [] else (List.range 8).filter fun p => p != pos s && present s p && !dupAt s p

/-- Twin configuration, with another device as the recognised master (R423). -/
def twinNonMaster (s : State) : Bool :=
  s.sk.config == 3 && s.sk.complete && s.sk.master < 8 && s.sk.master != pos s

/-- A relay leaves as one COMMAND and is outstanding (R423). -/
def relaySend (s : State) (p : Nat) (auto : Bool) (msg : Bytes) : State :=
  let s := modRelay s p fun r =>
    { r with msg := [], state := 1, tag := BitVec.ofNat 16 (le msg 2 2), resp := [], auto := auto }
  kSend s (linkTo s p) 0x10 p msg

/-- STACK_RELAY instance p written from byte FIRST (R423). -/
def relayWrite (s : State) (via : Via) (p first : Nat) (data : Bytes) : Answer :=
  let r := relay s p
  if rankOf via > 3 then .no stAuth []
  else if !(isMaster s || twinNonMaster s) || !(members s).contains p then .no stState []
  else if r.state = 1 then .no stBusy []
  else if first ≠ 0 ∧ first ≠ r.msg.length then badRange 16
  else
    let msg := (if first = 0 then [] else r.msg) ++ data
    let n := 16 + le msg 4 2
    if 16 ≤ msg.length ∧ n ≤ msg.length then .ok (relaySend s p false (sub msg 0 n)) (toLe 4 data.length)
    else .ok (modRelay s p fun r => { r with msg := msg }) (toLe 4 data.length)

/-- A request of this device's own, as bytes (Table 3-9). -/
def requestMsg (r : Request) (payload : Bytes) : Bytes :=
  let h := toLe 2 r.opcode.toNat ++ toLe 2 r.tag.toNat ++ toLe 2 payload.length ++ toLe 2 r.word6.toNat ++ toLe 4 r.oid.toNat
  h ++ toLe 4 (crc32c (h ++ payload)) ++ payload

/-- A local agent: a host channel (R424, log entry 70). -/
def localVia : Via → Bool
  | .mb _ => true
  | _ => false

/-- A STAGE_MODE or COMMIT accepted from a local agent goes to every member, or from a twin
non-master to the master (R424). A relay already outstanding keeps its account. -/
def autoRelay (s : State) (r : Request) (payload : Bytes) : State :=
  if !localVia r.via || s.sk.config == 0 then s else
  let targets := if isMaster s then members s
    else if twinNonMaster s ∧ (members s).contains s.sk.master then [s.sk.master] else []
  let msg := requestMsg r payload
  targets.foldl (fun s p =>
    if (relay s p).state = 1 then kSend s (linkTo s p) 0x10 p msg else relaySend s p true msg) s

/-- A change of twin role: logged, interrupted (R434, Table 14-6 type 5). -/
def setRole (s : State) (role : Nat) (seq : BitVec 16) : State :=
  let old := s.tw.role
  let s := s.modTw fun t => { t with role := role, seq := seq }
  if old = role then s
  else raiseEvent (logAdd s 5 0 (toLe 1 old ++ toLe 1 role ++ toLe 2 seq.toNat)) 127

/-- A resynchronising unit whose partner is heard ACTIVE or alone becomes STANDBY once its mirror set is complete
(Table 11-9). -/
def syncDone (s : State) : State :=
  if s.tw.on && s.tw.role == 3 && !s.tw.lost && (s.tw.pRole == 1 || s.tw.pRole == 4) && !s.fs.f4 && mirrorComplete s then
    setRole (s.modTw fun t => { t with takeT := none }) 2 s.tw.seq
  else s

/-- A queued frame of a descriptor leaves a port's queue. -/
def unqueueAll (s : State) (q idx p : Nat) : State :=
  if (prt s p).eg.any (mine q idx) then modPrt s p fun x => { x with eg := x.eg.filter fun f => !mine q idx f } else s

/-- A talker frame is given up by a unit that loses its role: FLUSHED, but for one that has started
or gone on some port, which starts on no further one (R442). -/
def flushTalker (s : State) (q : Nat) (r : TxRec) : State :=
  if r.sent ≠ 0 ∨ [0, 1, 2, 3, 4, 5].any (started s q r.idx) then
    [0, 1, 2, 3, 4, 5].foldl (fun s p =>
      if started s q r.idx p then s else settle (unqueueAll s q r.idx p) q r.idx p .dropped) s
  else [0, 1, 2, 3, 4, 5].foldl (fun s p => unqueueAll s q r.idx p) (endRec s q r.idx 6)

/-- The unit loses its role: every staged talker frame is given up (R442). -/
def flushTalkers (s : State) : State :=
  talkerQueues.foldl (fun s q =>
    ((que s q).recs.filter fun r => (descHandle r.desc).isSome && r.phase == .staged).foldl (fun s r => flushTalker s q r) s) s

end Sys2Proof.Machine
end

