-- ==== Sys2Proof/Machine/Stage.lean ====
section
/-! DEFINITION. Objects through the mailbox: ATTR_GET, ATTR_SET and the table opcodes, immediate and
staged, and the open stage with its conflicts and reservations (R109–R122, R148, R154, R521). -/

namespace Sys2Proof.Machine

/-- Entries that a table order names: first and the one past the last (R119, R521). -/
def orderRange (o : Order) : Nat × Nat :=
  let first := le o.payload 0 4
  let e := match descOf o.oid.toNat with
    | some d => d.entries
    | none => 0
  if o.opcode = 0x20 then (first, first + le o.payload 4 2)
  else
    let n := le o.payload 4 4
    (first, if n = 0 then e else min e (first + n))

def tableOrder (o : Order) : Bool := o.opcode == 0x20 || o.opcode == 0x22

/-- Two staged orders address the same object (R119). -/
def sameObject (a b : Order) : Bool :=
  if tableOrder a && tableOrder b then
    let (f, t) := orderRange a; let (g, u) := orderRange b
    a.oid == b.oid && decide (f < u) && decide (g < t)
  else a.opcode == b.opcode && (a.opcode != 0x11 || a.oid == b.oid)

/-- Received order: received time, then rank, then AGENT (R117). -/
def orderKey (o : Order) : Nat := o.at_ * 65536 + o.rank * 256 + o.agent.toNat

/-- Insert into a list in received order, behind its equals. -/
def insOrder (o : Order) : List Order → List Order
  | [] => [o]
  | x :: xs => if orderKey o < orderKey x then o :: x :: xs else x :: insOrder o xs

/-- Bytes of table data that an order brings (R118). -/
def orderData (o : Order) : Nat := if o.opcode = 0x20 then o.payload.length - 8 else 0

/-- The staged order of highest authority, the earliest received among equals (R120). -/
def strongest (l : List Order) : Option Order :=
  l.foldl (fun b o => match b with
    | none => some o
    | some w => if o.rank < w.rank ∨ (o.rank = w.rank ∧ orderKey o < orderKey w) then some o else some w) none

/-- ST_CONFLICT payload (Table 3-16). -/
def conflictPayload (o : Order) : Bytes := [o.agent] ++ toLe 1 o.rank ++ toLe 2 o.tag.toNat ++ toLe 4 o.oid.toNat

/-- Orders displaced: they leave the stage, their reservations end, and they are listed by received time (R120,
R121, R148). -/
def displace (s : State) (l : List Order) : State :=
  underCeil (s.modMb fun m =>
    { m with stage := m.stage.filter (fun o => !l.contains o),
             displaced := (l.foldl (fun a o => insOrder o a) m.displaced).take 64,
             displacedCount := m.displacedCount + l.length })

/-- Every domain that the listed ones depend on is ENABLED or implied (R148, R149). -/
def depsImplied (s : State) (os : List Order) (ds : List Nat) : Bool :=
  ds.all (depsMet fun e => enabled s e || impliedBy os e)

/-- ST_RESOURCE that a staging reservation meets: the port's holder, or the pool's (R154). -/
def cellRefusal (s : State) (kept : List Order) (o : Order) : Option Bytes :=
  match o.cells with
  | none => none
  | some (p, n) =>
    let cnt (q : Nat) : Nat := max (stagingCells s q) (max (cellsStaged kept q) (if q = p then n else 0))
    let total := ports6.foldl (fun a q => a + cnt q) 0
    if n > 2048 ∨ total > 1024 * banks s then
      let held := cellCount s p
      some (resourcePayload (resId 3 p) (oTxs p) (if held = 0 then o.agent.toNat else cellHolder s p))
    else none

/-- An order enters the stage, or the first of conflict, room, dependency, budget and resource refuses
it (R118–R120, R148, R154). Frozen orders count with the open ones (log entry 202). -/
def stageOrder (s : State) (r : Request) (domains : List Nat) (cells : Option (Nat × Nat)) (payload : Bytes) : Answer :=
  let o : Order :=
    { agent := BitVec.ofNat 8 (agentOf r.via), rank := rankOf r.via, tag := r.tag, at_ := r.at_, opcode := r.opcode,
      oid := r.oid, payload := r.payload, domains := domains, cells := cells }
  let clash := s.mb.stage.filter (sameObject o)
  match strongest (clash.filter fun x => x.rank ≤ o.rank) with
  | some w => .no stConflict (conflictPayload w)
  | none =>
    let kept := s.mb.frozen ++ s.mb.stage.filter fun x => !clash.contains x
    let data := kept.foldl (fun a x => a + orderData x) 0
    if kept.length ≥ 512 ∨ data + orderData o > 0x100000 then .no stBusy []
    else if !depsImplied s (kept ++ [o]) domains then .no stState []
    else
      let need := reservedOf s (kept ++ [o]) - reservedOf s kept
      let room := ceiling s - (charged s + reservedOf s kept)
      if need > room then .no stBudget (budgetPayload s need room)
      else match cellRefusal s kept o with
        | some p => .no stResource p
        | none => .staged ((displace s clash).modMb fun m => { m with stage := insOrder o m.stage }) payload

/-- The bytes of an image that an ATTR_SET leaves: taken words over what stands (Table 3-17). -/
def mergeImage (d : Desc) (p old : Bytes) : Bytes :=
  (idxd old).map fun x => if bitN (le p 0 4) (x.1 / 4) && !d.ro.contains x.1 then p.getD (4 + x.1) 0 else x.2

/-- WORD_MASK takes a word outside the image sent or outside the group. -/
def wordsOutside (d : Desc) (p : Bytes) : Bool :=
  (List.range 32).any fun w => bitN (le p 0 4) w && (decide (4 + 4 * w + 4 > p.length) || decide (4 * w ≥ d.size))

/-- First illegal byte of a merged image; fields in words not taken are not judged. -/
def imageIllegal (oid : Nat) (d : Desc) (p img : Bytes) : Option Nat :=
  illegalAt oid { d with fields := d.fields.filter fun f => bitN (le p 0 4) (f.off / 4) } img

/-- The conditions for releasing SAFE_N0 and SAFE_N1 (R465); the ROM holds an accepted image (R474). -/
def safeMay (s : State) : Bool :=
  s.se.locked && (s.se.phase == 2 || s.se.phase == 3) && !s.pw.testMode && on s 68 && decide (2 ≤ (voters s).length) && !s.fs.f4

/-- What an owning chapter has against an immediate ATTR_SET in the present state or from this agent
(R178, R181, R204, R209, R218, R290, R320, R324, R465, R467, R518). -/
def attrRefusal (s : State) (r : Request) (oid : Nat) (img : Bytes) : Option Answer :=
  let cls := oid / 0x10000; let i := oid / 16 % 4096; let g := oid % 16
  let rank := rankOf r.via
  if oid = 0x02000000 then (if !on s 70 || [65, 66, 67].any (drawn s) then some (.no stState []) else none)
  else if oid = 0x02000001 then
    (if rank > 2 ∧ (jumpLimit s < le img 0 4 ∨ rateStepLimit s < le img 4 4) then some (.no stAuth []) else none)
  else if oid = 0x02000002 then (if rank > 3 ∧ by_ img 0 = 1 then some (.no stAuth []) else none)
  else if cls = 0x0205 then (if (tout s i).state ≠ 0 then some (.no stState []) else none)
  else if cls = 0x0206 then (capRefusal s i img).map fun p => .no stResource p
  else if cls = 0x0404 then (if s.tx.phase = 1 ∨ s.tx.phase = 2 then some (.no stState []) else none)
  else if cls = 0x0504 then (if i = 1 ∨ s.rx.draining.isSome then some (.no stState []) else none)
  else if cls = 0x0900 then
    (if rank > 3 then some (.no stAuth [])
     else if g = 1 ∧ by_ img 0 = 1 ∧ !safeMay s then some (.no stState []) else none)
  else if cls = 0x0B10 then (if rank > 3 then some (.no stAuth []) else none)
  else none

/-- An immediate ATTR_SET takes effect (R110). -/
def attrApply (s : State) (r : Request) (oid : Nat) (img : Bytes) : Answer :=
  let cls := oid / 0x10000; let i := oid / 16 % 4096; let g := oid % 16
  let first := bitN (le r.payload 0 4) 0
  if oid = 0x02000002 then
    .ok (if !first then s else if by_ img 0 = 1 then armPermit s (agentOf r.via) else disarm s) []
  else if cls = 0x0206 then .ok (capApply s (agentOf r.via) i img) []
  else if cls = 0x0103 then
    let was := doz s i
    let dozes := was.status == 1 || was.status == 2
    let want := by_ img 0 == 1
    if first ∧ (was.status = 1 ∨ was.status = 3) then .no stBusy []
    else if first ∧ (want ∨ dozes) then
      match (if want then dozeEnter s i else dozeLeave s i) with
      | .error st => .no st []
      | .ok t => .ok (objWrite t oid 4 (img.drop 4)) []
    else .ok (objWrite s oid 4 (img.drop 4)) []
  else if cls = 0x0900 ∧ g = 1 then .ok (if first then setSafeN s (by_ img 0 == 1) else s) []
  else if cls = 0x0300 ∧ g = 0 then
    let probing := by_ img 0 == 1 && (calPort s i).deferred && (calPort s i).reason == 2
    .ok (objWrite (if probing then retryNow s i else s) oid 0 img) []
  else .ok (objWrite s (physOid s oid) 0 img) []

/-- Domains that a staged image implies (R148, R363). -/
def impliedDomains (oid : Nat) (img : Bytes) : List Nat :=
  if 0x0601 ≤ oid / 0x10000 ∧ oid / 0x10000 ≤ 0x0604 ∧ oid % 16 = 0 ∧ by_ img 0 = 1 then [69] else []

/-- A stream handle outside this device's deepen range (R429). -/
def outsideRange (s : State) (h : Nat) : Bool :=
  s.sk.config == 2 && !(decide (s.sk.first ≤ h) && decide (h < s.sk.first + s.sk.count))

/-- What stands against the content of a staged image beyond its fields (R252, R429). -/
def stagedRefusal (s : State) (oid : Nat) (img : Bytes) : Option Answer :=
  let cls := oid / 0x10000; let i := oid / 16 % 4096; let g := oid % 16
  if 0x0601 ≤ cls ∧ cls ≤ 0x0604 then (if outsideRange s ((cls - 0x0601) * 4096 + i) then some (badRange 8) else none)
  else if cls = 0x0400 ∧ g = 3 then
    let lim := (prt s i).gbps * 1000000
    if le img 4 4 > lim then some (badRange 24) else if le img 8 4 > lim then some (badRange 28) else none
  else none

/-- The checks and effect of ATTR_SET (Table 3-17). -/
def attrSet (s : State) (r : Request) : Answer :=
  let oid := r.oid.toNat
  let p := r.payload
  match descOf oid with
  | none => .no stUnknown []
  | some d =>
    if d.kind = .rwl then .no stLocked []
    else if d.kind = .readOnly then badRange 8
    else if r.length < 8 ∨ 132 < r.length then badRange 4
    else if wordsOutside d p then badRange 16
    else if d.kind = .staged then
      let img := mergeImage d p (viewRead s s.mb.frozen oid 0 d.size)
      match imageIllegal oid d p img, stagedRefusal s oid img with
      | some o, _ => badRange (20 + o)
      | none, some a => a
      | none, none =>
        let cells := if oid / 0x10000 = 0x0400 ∧ oid % 16 = 0 ∧ bitN (le p 0 4) 3
          then some (oid / 16 % 4096, le img 12 2) else none
        stageOrder s r (impliedDomains oid img) cells []
    else if !needsMet s oid d 0 1 then .no stState []
    else
      let img := mergeImage d p (objRead s (physOid s oid) 0 d.size)
      match imageIllegal oid d p img with
      | some o => badRange (20 + o)
      | none => match attrRefusal s r oid img with
        | some a => a
        | none => attrApply s r oid img

/-- ATTR_SET (R110). -/
def execAttrSet (via : Via) (s : State) : Host.Outcome State Fault Refusal := runCmd via 0x11 attrSet s

/-- Orders that a VIEW shows: 0 operational, 1 staged (Table 3-17). -/
def viewOrders (s : State) (v : Nat) : List Order := if v = 1 then allOrders s else []

/-- Attribute groups of an instance, in group order (R126). -/
def groupsOf (oid : Nat) : List (Nat × Desc) :=
  (List.range 15).filterMap fun g =>
    match descOf (oid / 16 * 16 + g) with
    | some d => if d.table then none else some (oid / 16 * 16 + g, d)
    | none => none

/-- The checks and answer of ATTR_GET (Table 3-17). -/
def attrGet (s : State) (r : Request) : Answer :=
  sized r 4 (
    if by_ r.payload 0 > 1 then badRange 16 else reserved r [1, 2, 3] (
      let oid := r.oid.toNat
      let os := viewOrders s (by_ r.payload 0)
      let l := if oid % 16 = 15 then groupsOf oid else
        match descOf oid with
        | some d => [(oid, d)]
        | none => []
      if l.any fun x => !needsMet s x.1 x.2 0 1 then .no stState []
      else .ok s (l.flatMap fun x => groupImage s os x.1 x.2)))

/-- ATTR_GET (R126). -/
def execAttrGet (via : Via) (s : State) : Host.Outcome State Fault Refusal := runCmd via 0x10 attrGet s

/-- The checks and answer of TABLE_READ (R521). -/
def tableRead (s : State) (r : Request) : Answer :=
  let oid := r.oid.toNat
  match descOf oid with
  | none => .no stUnknown []
  | some d =>
    sized r 8 (
      let first := le r.payload 0 4
      if first ≥ d.entries then badRange 16
      else if by_ r.payload 6 > 1 then badRange 22
      else reserved r [7] (
        let n := min (le r.payload 4 2) (min (d.entries - first) (4076 / d.size))
        if !needsMet s oid d first n then .no stState []
        else
          let os := viewOrders s (by_ r.payload 6)
          .ok s (toLe 2 n ++ toLe 2 d.size ++
            (List.range n).flatMap fun k => entryImage s os oid d (first + k))))

/-- TABLE_READ (R521). -/
def execTableRead (via : Via) (s : State) : Host.Outcome State Fault Refusal := runCmd via 0x21 tableRead s

/-- An entry of a stream identification table is VALID and names a handle outside the deepen range:
the offset of its HANDLE (R429). -/
def idEntryRefused (s : State) (oid : Nat) (b : Bytes) : Option Nat :=
  if (oid = 0x06000000 ∧ by_ b 15 ≥ 128) ∨ (oid = 0x06000001 ∧ by_ b 63 ≥ 128) then
    (if outsideRange s (le b 10 2 % 16384) then some 10 else none)
  else none

/-- First entry of a list that is illegal, as the offset of its bad byte in the list. -/
def entriesIllegal (s : State) (oid : Nat) (d : Desc) (l : List Bytes) : Option Nat :=
  ((idxd l).findSome? fun x =>
    match illegalAt oid d x.2, idEntryRefused s oid x.2 with
    | some o, _ => some (x.1 * d.size + o)
    | none, some o => some (x.1 * d.size + o)
    | none, none => none)

/-- The draining view stands against a change of these entries (R324). -/
def drainRefuses (s : State) (oid first n : Nat) : Bool :=
  let cls := oid / 0x10000
  s.rx.draining.isSome &&
    ((0x0505 ≤ cls && cls ≤ 0x0507 && oid / 16 % 4096 == 0) ||
     (cls == 0x0508 &&
        let set := oidOf 0x0504 (1 - s.rx.active) 0
        let base := cfg s set 0 4; let cnt := cfg s set 4 4
        decide (max first base < min (base + cnt) (first + n))))

/-- ST_EPOCH payload (Table 3-16). -/
def epochPayload (s : State) : Bytes := toLe 2 s.rx.epoch.toNat ++ toLe 2 (drainField s) ++ toLe 4 (drainCount s)

/-- What an owning chapter has against a write or clear of table entries, given as they will stand. -/
def tableRefusal (s : State) (r : Request) (oid first : Nat) (l : List Bytes) (clear : Bool) : Option Answer :=
  let cls := oid / 0x10000
  if drainRefuses s oid first l.length then some (.no stEpoch (epochPayload s))
  else if cls = 0x0405 ∧ !clear ∧ (s.tx.phase = 1 ∨ s.tx.phase = 2) then some (.no stState [])
  else if cls = 0x0A03 then
    if r.via ≠ .mb 1 then some (.no stAuth [])
    else if l.any fun b => by_ b 0 &&& (255 - cfg s 0x0A000001 3 1) ≠ 0 then some (.no stLocked []) else none
  else none

/-- The next acceptable packet numbers of a receive channel whose SCI or key slots change (R316, log
entry 71). -/
def resetPns (s : State) (p c : Nat) (old new : Bytes) : State :=
  if sub old 0 8 != sub new 0 8 then s.modRx fun x => { x with pns := x.pns.filter fun y => y.1 / 16 != 4 * p + c }
  else [0, 1, 2, 3].foldl (fun s an =>
    if sub old (8 + 2 * an) 2 == sub new (8 + 2 * an) 2 then s
    else s.modRx fun x => { x with pns := tdel (pnIx p c an) x.pns }) s

/-- What follows a written entry (R312, R316, R409, R498). -/
def entryHook (s : State) (oid e : Nat) (old new : Bytes) : State :=
  let cls := oid / 0x10000; let i := oid / 16 % 4096
  if cls = 0x0509 then fillMeter s e
  else if cls = 0x050B then resetPns s i e old new
  else if cls = 0x0703 then
    if by_ new 0 % 2 = 1 then s
    else modSgm s i fun g => { g with nodes := tmod nodeReset g.nodes e fun n => { n with integrated := false, lost := false } }
  else if cls = 0x0A03 then (if by_ new 0 = 0 ∧ by_ old 0 ≠ 0 then sessClose s e (some 4) else s)
  else s

/-- Entries of an immediate table written in ascending order (R314). -/
def writeEntries (s : State) (oid : Nat) (d : Desc) : Nat → List Bytes → State
  | _, [] => s
  | e, b :: bs =>
    let at_ := physOid s oid
    let old := objRead s at_ (e * d.size) d.size
    let b := (idxd b).map fun x => if d.ro.contains x.1 then old.getD x.1 0 else x.2
    writeEntries (entryHook (objWrite s at_ (e * d.size) b) oid e old b) oid d (e + 1) bs

/-- What TABLE_WRITE and TABLE_CLEAR share once their fields are legal (R110, R521). -/
def tableCommon (s : State) (r : Request) (oid : Nat) (d : Desc) (first : Nat) (l : List Bytes) (clear : Bool) : Answer :=
  if d.kind = .staged then stageOrder s r [] none (toLe 4 l.length)
  else if !needsMet s oid d first l.length then .no stState []
  else match tableRefusal s r oid first l clear with
    | some a => a
    | none => .ok (writeEntries s oid d first l) (toLe 4 l.length)

/-- The checks and effect of TABLE_WRITE (R521). A read-only table names byte 8, in TABLE_CLEAR too (log entry 203). -/
def tableWrite (s : State) (r : Request) : Answer :=
  let oid := r.oid.toNat
  let p := r.payload
  match descOf oid with
  | none => .no stUnknown []
  | some d =>
    if d.kind = .readOnly ∨ d.kind = .rwl then badRange 8
    else if r.length < 8 then badRange 4
    else
      let first := le p 0 4; let n := le p 4 2
      if n ≠ 0 ∧ first ≥ d.entries then badRange 16
      else if n = 0 ∨ first + n > d.entries then badRange 20
      else if le p 6 2 ≠ d.size then badRange 22
      else if r.length ≠ 8 + n * d.size then badRange 4
      else if oid / 0x10000 = 0x0803 then
        (if !needsMet s oid d first n then .no stState [] else relayWrite s r.via (oid / 16 % 4096) first (p.drop 8))
      else
        let l := (List.range n).map fun k => sub p (8 + k * d.size) d.size
        match entriesIllegal s oid d l with
        | some o => badRange (24 + o)
        | none => tableCommon s r oid d first l false

/-- TABLE_WRITE (R110, R521). -/
def execTableWrite (via : Via) (s : State) : Host.Outcome State Fault Refusal := runCmd via 0x20 tableWrite s

/-- The checks and effect of TABLE_CLEAR (R521). A clear of STACK_RELAY discards the part written. -/
def tableClear (s : State) (r : Request) : Answer :=
  let oid := r.oid.toNat
  match descOf oid with
  | none => .no stUnknown []
  | some d =>
    if d.kind = .readOnly ∨ d.kind = .rwl then badRange 8
    else sized r 8 (
      let first := le r.payload 0 4; let n := le r.payload 4 4
      if first ≥ d.entries then badRange 16
      else
        let n := if n = 0 then d.entries - first else min n (d.entries - first)
        if oid / 0x10000 = 0x0803 then
          (if !needsMet s oid d first n then .no stState []
           else .ok (modRelay s (oid / 16 % 4096) fun x => { x with msg := [] }) (toLe 4 n))
        else tableCommon s r oid d first (List.replicate n d.reset) true)

/-- TABLE_CLEAR (R110, R521). -/
def execTableClear (via : Via) (s : State) : Host.Outcome State Fault Refusal := runCmd via 0x22 tableClear s

/-- The checks and effect of STAGE_MODE: the mode passes R255 as the stage stands (R262). -/
def stageMode (s : State) (r : Request) : Answer :=
  sized r 4 (
    if by_ r.payload 0 > 7 then badRange 16 else reserved r [1, 2, 3] (
      if (modeFail s (allOrders s) (by_ r.payload 0) true).isSome then .no stState []
      else match stageOrder s r [] none [] with
        | .staged t p => .staged (autoRelay t r r.payload) p
        | a => a))

/-- STAGE_MODE (R262, R424). -/
def execStageMode (via : Via) (s : State) : Host.Outcome State Fault Refusal := runCmd via 0x30 stageMode s

/-- Orders that ABORT_STAGE selects by SCOPE (R122). -/
def abortSel (r : Request) (o : Order) : Bool :=
  let auth (a : Nat) : Nat := if a = 0x12 then 0x11 else a
  let own := auth o.agent.toNat == authAgent r.via
  match by_ r.payload 0 with
  | 0 => own
  | 1 => own && o.oid.toNat == le r.payload 4 4
  | _ => decide (rankOf r.via ≤ o.rank)

/-- The checks and effect of ABORT_STAGE (R122). -/
def abortStage (s : State) (r : Request) : Answer :=
  sized r 8 (
    if by_ r.payload 0 > 2 then badRange 16 else reserved r [1, 2, 3] (
      let n := (s.mb.stage.filter (abortSel r)).length
      if n = 0 then .no stState []
      else .ok (underCeil (s.modMb fun m => { m with stage := m.stage.filter fun o => !abortSel r o })) (toLe 2 n)))

/-- ABORT_STAGE (R122). -/
def execAbortStage (via : Via) (s : State) : Host.Outcome State Fault Refusal := runCmd via 0x32 abortStage s

/-- STACK_RELAY_WRITE: the write of R423 on its own. -/
def execStackRelayWrite (via : Via) (p : Fin 8) (first : Nat) (data : Bytes) (s : State) : Host.Outcome State Fault Refusal :=
  run s fun s =>
    let oid := oidOf 0x0803 p.val 0
    let legal := match descOf oid with
      | some d => needsMet s oid d 0 1
      | none => false
    if !legal || !opAllowed s via 0x20 || data.isEmpty || decide (4096 < first + data.length) then s else
    match relayWrite s via p.val first data with
    | .ok t _ => t
    | _ => s

/-- SAFE_N_RELEASE; a transfer to the collector that fails its parity check is FS024 (R460, R465). -/
def execSafeNRelease (o : PortOrder) (s : State) : Host.Outcome State Fault Refusal :=
  run s fun s =>
    if !(rankOf o.via ≤ 3 && opAllowed s o.via 0x11 && safeMay s) then s
    else if o.parity then setSafeN s true else fault s 24

/-- SAFE_N_WITHDRAW: accepted in every state; a transfer as for SAFE_N_RELEASE (R460, R465). -/
def execSafeNWithdraw (o : PortOrder) (s : State) : Host.Outcome State Fault Refusal :=
  run s fun s =>
    if !(rankOf o.via ≤ 3 && opAllowed s o.via 0x11) then s
    else if o.parity then setSafeN s false else fault s 24

end Sys2Proof.Machine
end

