-- ==== Sys2Proof/Machine/Agree.lean ====
section
/-! DEFINITION. The commit: the freeze, plane, stack and segment agreement, the hold, the boundary and
a failed commit (R110–R116, R149, R185, R262–R268, R389, R424–R426). -/

namespace Sys2Proof.Machine

/-- SCHED_AGREE group 0 (Table 7-12). -/
def oAgree : Nat := 0x04040000
def agreeProposes (s : State) : Bool := cfg s oAgree 0 1 == 1
def agreeFollows (s : State) : Bool := cfg s oAgree 1 1 == 1
def agreePlanes (s : State) : BitVec 3 := BitVec.ofNat 3 (cfg s oAgree 2 1)
def repeatNs (s : State) : Nat := cfg s oAgree 12 4 * 1000

/-- MODE_TAG of a mode under a list of orders (Table 7-12). -/
def modeTag (s : State) (os : List Order) (m : Nat) : Nat := vcfg s os (oMode m) 4 4

/-- An agreement frame as sent on Pn (Table 7-4). -/
def agreeFrame (s : State) (kind p id mode boundary tag : Nat) (proposer : Bytes) (result : Nat) : Bytes :=
  padTo 60 (objRead s oAgree 4 6 ++ portAddr s p ++ [0x88, 0xB6] ++ toLe 1 kind ++ [1] ++ toBe 2 id ++ proposer ++
    toLe 1 (p / 2) ++ toLe 1 mode ++ toBe 8 boundary ++ toBe 4 tag ++ toLe 1 result)

/-- The proposer's frame of one kind on both ports of each of some planes (R265, R266). -/
def sendPlanes (s : State) (kind : Nat) (planes : List Nat) : State :=
  let a := s.tx.agree
  planes.foldl (fun s pl =>
    [2 * pl, 2 * pl + 1].foldl (fun s p =>
      sendOwn s p (agreeTc s) false (agreeFrame s kind p a.id.toNat a.mode a.boundary a.tag.toNat (portAddr s (2 * pl)) 0)) s) s

/-- DECIDE of the running agreement (R266, R425). -/
def decideNs (s : State) : Nat := s.tx.agree.boundary - 1000000 - cfg s oAgree 16 4 * 1000

/-- A STACK_AGREE body (Table 11-5). -/
def stackBody (op mode id boundary tag decide result segs planes stack : Nat) : Bytes :=
  toLe 1 op ++ toLe 1 mode ++ toBe 2 id ++ toBe 8 boundary ++ toBe 4 tag ++ toBe 8 decide ++ toLe 1 result ++ zz 1 ++
    toBe 2 segs ++ toLe 1 planes ++ toLe 1 stack ++ zz 2

/-- The master's STACK_AGREE of one OP to every member asked (R425). -/
def sendStack (s : State) (op : Nat) : State :=
  let a := s.tx.agree
  let (pm, sm) := if op = 3 then (a.planesMiss.toNat, a.stackMiss.toNat) else (0, 0)
  let dec := if op = 0 then decideNs s else 0
  (ones a.members).foldl (fun s p =>
    kSend s (linkTo s p) 0x12 p (stackBody op a.mode a.id.toNat a.boundary a.tag.toNat dec 0 0 pm sm)) s

/-- This device runs the agreement of a mode change: it is single, or the master of its stack (R266, R425). -/
def runsAgreement (s : State) : Bool :=
  if s.sk.config = 0 then agreeProposes s else isMaster s && (agreeProposes s || !(members s).isEmpty)

/-- The device is a member of a configured stack (R426). -/
def isMember (s : State) : Bool := s.sk.config != 0 && !isMaster s

/-- An agreement starts at the freeze: PROPOSE on the planes and to the members (R266, R425). The
first PROPOSAL_ID is the proposer's choice, a free value (log entry 72). -/
def startAgree (s : State) (b m : Nat) : State :=
  let a := s.tx.agree
  let (id, s) := if a.result = 0 then
      let (v, s) := draw s
      (BitVec.ofNat 16 v, s)
    else (a.id + 1, s)
  let tag := BitVec.ofNat 32 (modeTag s s.mb.frozen m)
  let planes := if agreeProposes s then agreePlanes s else 0
  let ms := if s.sk.config = 0 then 0 else ofBits 8 (members s)
  let s := s.modTx fun t =>
    { t with phase := 1, agree := { id := id, mode := m, result := 1, boundary := b, tag := tag, lates := a.lates,
                                    unknown := a.unknown, planes := planes, members := ms } }
  sendStack (sendPlanes s 0x20 (ones planes)) 0

/-- Domains that a frozen stage enables, among them those still on the move (R149). -/
def freezeDomains (s : State) (os : List Order) : List Nat :=
  (List.range 78).filterMap fun d =>
    if (dom s d).state = 2 then none else if impliedBy os d then some d else none

/-- A frozen stage cannot be agreed here: a mode or a dependency fails (R149, R263). -/
def freezeBad (s : State) (os : List Order) : Bool :=
  !modesPass s os || !depsImplied s os (os.flatMap (·.domains))

/-- The agreement of a frozen stage starts: at the freeze, or once its last domain is ENABLED; none starts where
an enable has failed (R149, R266). -/
def lateAgree (s : State) : State :=
  match s.mb.boundary, modeOf s.mb.frozen with
  | some b, some m =>
    if !s.tx.agree.waits || s.tx.agree.decided || s.mb.selfBad || planned s .commit then s
    else startAgree (s.modTx fun t => { t with agree := { t.agree with waits := false } }) b m
  | _, _ => s

/-- DOMAIN_ENABLE_COMPLETE (R140, R149). -/
def execDomainEnableComplete (d : Fin 78) (s : State) : Host.Outcome State Fault Refusal :=
  run s fun s =>
    match s.ld.moving with
    | some (e, m) => if e = d.val ∧ (dom s e).state = 1 then lateAgree (enableDone s e m) else s
    | none => s

/-- DOMAIN_ENABLE_FAILED (R140). -/
def execDomainEnableFailed (d : Fin 78) (s : State) : Host.Outcome State Fault Refusal :=
  run s fun s =>
    match s.ld.moving with
    | some (e, m) => if e = d.val ∧ (dom s e).state = 1 then lateAgree (enableFailed s e m) else s
    | none => s

/-- DOMAIN_DISABLE_COMPLETE (R141). -/
def execDomainDisableComplete (d : Fin 78) (s : State) : Host.Outcome State Fault Refusal :=
  run s fun s =>
    match s.ld.moving with
    | some (e, m) => if e = d.val ∧ (dom s e).state = 3 then lateAgree (disableDone s e m) else s
    | none => s

/-- The stage freezes under a COMMIT (R112, R149, R266). -/
def freeze (s : State) (r : Request) (b : Nat) : State :=
  let os := s.mb.stage
  let bad := freezeBad s os
  let s := s.modMb fun m =>
    { m with stage := [], frozen := os, frozenDisp := m.displaced, frozenDispCount := m.displacedCount,
             displaced := [], displacedCount := 0, boundary := some b, commit := some r, held := false, selfBad := bad }
  let s := s.modTx fun t => 
    { t with member := if t.member.boundary = b then t.member else {}, agree := { t.agree with decided := false, segs := 0, waits := false } }
  if bad then s else
  let s := plan s ((freezeDomains s os).map fun d => (true, d, Move.commit))
  match modeOf os with
  | none => s
  | some _ =>
    if runsAgreement s then lateAgree (s.modTx fun t => { t with agree := { t.agree with waits := true } })
    else if s.sk.config = 0 ∧ agreeFollows s then s.modTx fun t => { t with phase := 4 }
    else s

/-- The first boundary that a COMMIT may name, ns (R113, R424). -/
def earliest (s : State) (v : Via) : Nat :=
  let lead := commitLead s - (match v with
    | .master _ => 1000000
    | .partner _ => 1000000
    | _ => 0)
  (now80 s + lead * 65536 + 65535) / 65536

/-- The boundary that a COMMIT chooses or names, none where R113 refuses it. -/
def chooseBoundary (s : State) (v : Via) (want : Nat) : Option Nat :=
  let per := commitPeriod s
  let least := earliest s v
  if want = 0 then some ((least + per - 1) / per * per)
  else if want % per = 0 ∧ least ≤ want ∧ want * 65536 ≤ now80 s + 10000000000 * 65536 then some want else none

/-- The checks and effect of COMMIT (R112, R113, R106). -/
def commit (s : State) (r : Request) : Answer :=
  sized r 8 (
    if s.mb.boundary.isSome || !timeOk s then .no stState []
    else match chooseBoundary s r.via (le r.payload 0 8) with
      | none => badRange 16
      | some b =>
        if !periodFits s s.mb.stage (commitPeriod s) then badRange 16
        else if checkOnly r then
          if freezeBad s s.mb.stage then
            .no stTimeout (reportOf b stTimeout 0 (2 ^ pos s) 0 0 s.mb.displaced s.mb.displacedCount)
          else .ok s (toLe 8 b)
        else .later (freeze (autoRelay s r (toLe 8 b)) r b))

/-- COMMIT (R113). -/
def execCommit (via : Via) (s : State) : Host.Outcome State Fault Refusal := runCmd via 0x31 commit s

/-- Orders merged again in received order under the conflict rules: those that stay, those displaced
(R115, R120). -/
def mergeOrders (l : List Order) : List Order × List Order :=
  l.foldl (fun (x : List Order × List Order) o =>
    let clash := x.1.filter (sameObject o)
    if clash.any fun c => c.rank ≤ o.rank then (x.1, x.2 ++ [o])
    else (x.1.filter (fun c => !clash.contains c) ++ [o], x.2 ++ clash)) ([], [])

/-- The commit fails: nothing applies, and the frozen orders return to the open stage (R115). -/
def failCommit (s : State) (planes stack segs : Nat) : State :=
  let s := undoMoves s
  let s := endCommit s stTimeout planes stack segs 0
  let all := s.mb.frozen.foldl (fun a o => insOrder o a) s.mb.stage
  let (stay, gone) := mergeOrders all
  let s := s.modMb fun m => { m with stage := stay, frozen := [] }
  let s := s.modTx fun t => { t with phase := if t.phase = 4 then 0 else t.phase, member := {}, follow := if t.follow.state = 2 then {} else t.follow }
  displace s gone

/-- A byte of a node's SEG_NODE entry as in force (R409). -/
def nodeByte (g : Seg) (n off : Nat) : Nat := (tget (fun _ => (0 : Byte)) g.nodeCfg (8 * n + off)).toNat
def nodeFlag (g : Seg) (n i : Nat) : Bool := bitN (nodeByte g n 0) i

/-- A REQUIRED node of a segment holds a mode, by its last accepted frame (R389). -/
def nodeReady (g : Seg) (n m : Nat) : Bool :=
  let x := node g n
  x.integrated && match x.modes with
    | some (held, c) => held.getLsbD m && (c == g.cycle || c + 1 == g.cycle)
    | none => false

/-- A segment is agreed for a mode that the frozen stage activates (R389). -/
def segAgreed (s : State) (m i : Nat) : Bool :=
  let os := s.mb.frozen
  let g := sgm s i
  (if slotCount s os m i = 0 then slotCount s [] s.tx.mode i == 0 else (slotFail s os m i).isNone) &&
    modeTag s os m == modeTag s [] m &&
    (List.range 32).all fun n => !(nodeFlag g n 0 && nodeFlag g n 1) || nodeReady g n m

/-- Segments judged and not agreed (R389): those in COLDSTART or RUN. -/
def segsMissing (s : State) (m : Nat) : Nat :=
  maskOf 16 fun i =>
    let h := (sgm s i).head
    on s (30 + i) && (h == 1 || h == 2) && !segAgreed s m i

/-- Planes asked that are not agreed; a plane held fail-silent cannot agree (R266, R456). -/
def planesMissing (s : State) : Nat :=
  maskOf 3 fun pl => s.tx.agree.planes.getLsbD pl && (!planeAgreed s pl || f3Holds s pl)

/-- Members asked whose last REPLY was not a matching ACCEPT (R425). -/
def stackMissing (s : State) : Nat :=
  maskOf 8 fun p => s.tx.agree.members.getLsbD p && tget (fun _ => 1) s.tx.agree.replies p != 0

/-- DECIDE: the segments are judged, and the device that runs the agreement confirms or cancels (R266,
R389, R425). -/
def decideNow (s : State) (m : Nat) : State :=
  let segs := segsMissing s m
  let s := s.modTx fun t => { t with agree := { t.agree with decided := true, segs := BitVec.ofNat 16 segs } }
  if s.tx.phase = 1 then
    let pm := planesMissing s
    let sm := stackMissing s ||| (if s.mb.selfBad then 2 ^ pos s else 0)
    if pm = 0 ∧ sm = 0 ∧ segs = 0 then
      let s := s.modTx fun t => { t with phase := 2, agree := { t.agree with result := 2 } }
      sendStack (sendPlanes s 0x22 (ones s.tx.agree.planes)) 2
    else
      let s := s.modTx fun t =>
        { t with phase := 3, agree := { t.agree with result := 3, planesMiss := BitVec.ofNat 3 pm, stackMiss := BitVec.ofNat 8 sm } }
      failCommit (sendStack (sendPlanes s 0x23 (ones s.tx.agree.planes)) 3) pm sm segs
  else if isMember s || s.mb.selfBad || segs = 0 then s
  else failCommit s 0 0 segs

/-- The mode that the pending COMMIT activates, while it is still to be decided. -/
def undecided (s : State) : Option Nat :=
  if s.mb.boundary.isNone || s.tx.agree.decided then none else modeOf s.mb.frozen

/-- COMMIT_DECIDE (R266). -/
def execCommitDecide (s : State) : Host.Outcome State Fault Refusal :=
  run s fun s => match undecided s with
    | some m => decideNow s m
    | none => s

/-- REQUIRED participants of a plane have all replied (R266 step 2). -/
def planeReplied (s : State) (pl : Nat) : Bool := (required s pl &&& ~~~ (acceptedOn s pl ||| refusedOn s pl)) == 0

/-- AGREE_REPEAT (R266, R425). -/
def execAgreeRepeat (s : State) : Host.Outcome State Fault Refusal :=
  run s fun s =>
    let a := s.tx.agree
    if s.tx.phase = 1 then sendPlanes s 0x20 ((ones a.planes).filter fun pl => !planeReplied s pl)
    else if s.tx.phase = 2 ∨ s.tx.phase = 3 then
      if nowNs s + repeatNs s ≤ a.boundary then
        sendStack (sendPlanes s (if s.tx.phase = 2 then 0x22 else 0x23) (ones a.planes)) s.tx.phase
      else if s.tx.phase = 3 then s.modTx fun t => { t with phase := 0 } else s
    else s

/-- What a participant's own state has for the pending COMMIT: confirmed for it. -/
def followsOn (f : Follow) (b m : Nat) : Bool := f.state == 2 && f.boundary == b && f.mode == m

/-- The agreement of the pending COMMIT is complete, or which planes and positions are missing (R115,
R268, R426; log entry 73). -/
def agreementGap (s : State) (b : Nat) : Option (Nat × Nat) :=
  match modeOf s.mb.frozen with
  | none => none
  | some m =>
    if isMember s then
      if followsOn s.tx.member b m then none
      else if s.tx.member.state = 3 then some (s.tx.agree.planesMiss.toNat, s.tx.agree.stackMiss.toNat)
      else some (0, 2 ^ pos s)
    else if runsAgreement s then
      (if s.tx.phase = 2 then none
       else if s.tx.agree.waits then some ((if agreeProposes s then agreePlanes s else 0).toNat, 2 ^ pos s)
       else some (planesMissing s, stackMissing s))
    else if agreeFollows s ∧ s.sk.config = 0 then
      (if followsOn s.tx.follow b m then none else some ((agreePlanes s).toNat, 0))
    else none

/-- The Gauntlet loads the windows of the mode held for a boundary, as the frozen orders leave it (R400, R401). -/
def gauntletHold (s : State) (b : Nat) : State :=
  if s.pw.guardRuns && on s 71 then
    let s := (List.range 16).foldl (fun s i => if on s (30 + i) then gauntletLoad s i else s) s
    let m := (modeOf s.mb.frozen).getD s.tx.mode
    let w := (List.range 16).foldl (fun ws i => tset noWindows ws i (some (segWindows (vcfg s s.mb.frozen) m i))) []
    s.modSg fun x => { x with next := some (b, w) }
  else s

/-- PREPARED_SET_HOLD: 1 ms before the boundary; a member that fails copies what CANCEL reported (R115, R116, R401,
R426). -/
def holdSet (s : State) : State :=
  let s := match undecided s with
    | some m => decideNow s m
    | none => s
  match s.mb.boundary with
  | none => s
  | some b =>
    if s.mb.held then s
    else if s.mb.selfBad || planned s .commit then
      let (pm, sm) := if isMember s then (agreementGap s b).getD (0, 2 ^ pos s) else (0, 2 ^ pos s)
      failCommit s pm sm s.tx.agree.segs.toNat
    else match agreementGap s b with
      | some (pm, sm) => failCommit s pm sm s.tx.agree.segs.toNat
      | none => gauntletHold (s.modMb fun m => { m with held := true }) b

/-- PREPARED_SET_HOLD (R116). -/
def execPreparedSetHold (s : State) : Host.Outcome State Fault Refusal := run s holdSet

/-- A domain that a commit enabled takes up its function (R149). -/
def joinDomains (s : State) : State :=
  let ds := s.ld.isolated
  ds.foldl gain (s.modLd fun l => { l with isolated := [] })

/-- An object written whole at the boundary, and what follows from it (R292, R361, R343, R340, R409). -/
def writeGroup (s : State) (o : Order) (oid : Nat) (d : Desc) : State :=
  let cls := oid / 0x10000; let i := oid / 16 % 4096; let g := oid % 16
  let old := objRead s oid 0 d.size
  let img := mergeImage d o.payload old
  if cls = 0x0400 then
    let s := objWrite (cbsUpdate s i) oid 0 img
    if g = 0 then
      let s := if o.cells.isSome then s.modLd fun l => { l with cellAgent := tset (fun _ => 0) l.cellAgent i o.agent.toNat } else s
      settleLevels s i
    else if g = 2 then mergeStart s i else s
  else if 0x0601 ≤ cls ∧ cls ≤ 0x0604 then
    let h := (cls - 0x0601) * 4096 + i
    if g = 0 then objWrite (closeSlots s h) oid 0 img
    else if g = 1 then
      let s := objWrite s oid 0 img
      if by_ old 0 = 0 ∧ by_ img 0 = 1 then setTalk s h (BitVec.ofNat 16 (le img 4 2)) else s
    else (objWrite s oid 0 img).modStr fun x => { x with blocked := x.blocked.filter (· != h) }
  else if cls = 0x0700 then
    let s := objWrite s oid 0 img
    if sub old 0 2 == sub img 0 2 then s
    else
      let h := (sgm s i).head
      if h = 4 then s
      else if h = 5 then modSgm s i fun x =>
        { x with before := 0, listen := 2 + by_ img 0, listened := 0, sends := false, sendsNext := false, noAgree := 0, noSync := 0 }
      else segListen s i (2 + by_ img 0)
  else objWrite s oid 0 img


/-- The twin function ends: no role, nothing pending. -/
def twinOff (s : State) : State :=
  let s := condOff (s.modSk fun x => { x with disagree := false, overRun := 0, inRun := 0 }) 135
  (setRole s 0 s.tw.seq).modTw fun t =>
    { t with on := false, pRole := 0, takeT := none, yieldT := none, paths := 0, lost := false, hbLost := false, snap := false,
             sched := [], item2 := 0, segs := [], item3 := 0, gaps := [], assigns := [] }

/-- TWIN_CONFIG applies: an enabled twin that had no role starts as resynchronising (R430, R434). -/
def applyTwinConfig (s : State) (p : Bytes) : State :=
  let s := s.modTw fun t =>
    { t with on := by_ p 0 == 1, partner := by_ p 1, link := by_ p 2, period := le p 4 2, missed := by_ p 6, overlap := le p 8 4 }
  if by_ p 0 = 1 then (if s.tw.role = 0 then setRole s 3 s.tw.seq else s) else twinOff s

/-- STACK_CONFIG applies; a configuration other than twin ends the twin function (R427, R429, R430). -/
def applyStackConfig (s : State) (p : Bytes) : State :=
  let was := s
  let c := by_ p 0
  let s := s.modSk fun x => { x with config := c, first := if c = 2 then le p 4 2 else 0, count := if c = 2 then le p 6 2 else 0 }
  stackEvent was (checkRanges (if c = 3 then s else twinOff s))

/-- MIRROR_DECLARE applies (R438). -/
def applyMirror (s : State) (p : Bytes) : State :=
  let r : Region := if by_ p 1 = 1 then { on := true, addr := le p 4 8, size := le p 12 4 } else {}
  s.modTw fun t => { t with regions := tset regionReset t.regions (by_ p 0) r }

/-- One frozen order takes effect at the boundary (R114). An order on an object whose domain is
DISABLED is discarded (R133). -/
def applyOrder (s : State) (b : Nat) (o : Order) : State :=
  let op := o.opcode.toNat
  let oid := o.oid.toNat
  if op = 0x30 then s.modTx fun t =>
    let m := by_ o.payload 0
    { t with mode := m, switched := b, changed := if m = t.mode then t.changed else b }
  else if op = 0x63 then modSrc s (le o.payload 0 2) fun x => { x with cls := some (by_ o.payload 2) }
  else if op = 0x80 then applyTwinConfig s o.payload
  else if op = 0x83 then applyMirror s o.payload
  else if op = 0x89 then applyStackConfig s o.payload
  else match descOf oid with
    | none => s
    | some d =>
      if !needsMet s oid d 0 1 then s
      else if op = 0x11 then writeGroup s o oid d
      else
        let (f, t) := orderRange o
        let data := if op = 0x20 then o.payload.drop 8 else (List.replicate (t - f) d.reset).flatten
        objWrite s oid (f * d.size) data

/-- Outvoted channels rejoin the vote with the voted values that apply from the boundary (R185). -/
def rejoin (s : State) : State :=
  if !timeOk s then s else
  let v := vch s
  let now := s.clock
  [0, 1, 2].foldl (fun s i =>
    let c := chan s i
    if on s (65 + i) && !c.inVote && !c.retired && c.resync && decide (c.since + 1000000 ≤ now) then
      condOff (modChan s i fun c =>
        { c with raw := v.raw, off := v.off, rate := v.rate, anchor := v.anchor, inVote := true, resync := false }) (32 + i)
    else s) s

/-- The frozen stage applies at its boundary (R114, R121). -/
def applyStage (s : State) (b : Nat) : State :=
  let os := s.mb.frozen
  let s := joinDomains s
  let s := os.foldl (fun s o => applyOrder s b o) s
  let s := s.modMb fun m => { m with frozen := [] }
  let s := s.modTx fun t =>
    { t with phase := 0, member := {}, follow := if t.follow.boundary = b then {} else t.follow }
  endCommit s stOk 0 0 0 os.length

/-- A commit boundary without a set passes; one already taken is not taken again (R111, R180, R185). -/
def passBoundary (s : State) : State :=
  let b := nowNs s / commitPeriod s * commitPeriod s
  if b ≤ s.mb.lastBoundary then s else rejoin (s.modMb fun m => { m with lastBoundary := b })

/-- The held set of a boundary that the time has reached applies (R114). -/
def takeSet (s : State) (b : Nat) : State :=
  rejoin (brimRetry (applyStage ((cbsAll s).modMb fun m => { m with lastBoundary := b }) b))

/-- A commit boundary is taken, with the held set where it is the set's (R111, R114, R180, R185). -/
def takeBoundary (s : State) : State :=
  if !timeOk s then s else
  match s.mb.boundary, s.mb.held with
  | some b, true => if b * 65536 ≤ now80 s then takeSet s b else passBoundary s
  | _, _ => passBoundary s

/-- COMMIT_BOUNDARY (R114). -/
def execCommitBoundary (s : State) : Host.Outcome State Fault Refusal := run s takeBoundary

/-- The boundary of a proposal is a cycle start of every list it would run in the mode and of the
present lists (R268). -/
def cycleStarts (s : State) (m b : Nat) : Bool :=
  [m, s.tx.mode].all fun k =>
    ports6.all (fun p => entryCount s s.mb.frozen k p == 0) || b % cycleNs s s.mb.frozen k == 0

/-- A proposal taken and neither confirmed, cancelled nor passed (R268). -/
def followBusy (s : State) : Bool := s.tx.follow.state == 1 && decide (nowNs s < s.tx.follow.boundary)

/-- A frame of the proposal that was accepted: its PROPOSER is the proposer's first port on the frame's own plane,
so that across planes ID, MODE, BOUNDARY and MODE_TAG tell it (Table 7-4, R268; log entry 151). -/
def sameProposal (s : State) (p : Nat) (f : Bytes) : Bool :=
  let x := s.tx.follow
  be f 16 2 == x.id.toNat && by_ f 25 == x.mode && be f 26 8 == x.boundary && be f 34 4 == x.tag.toNat &&
    (match x.proposers.find? (·.1 == p / 2) with
     | some a => be f 18 6 == a.2.toNat
     | none => true)

/-- RESULT of a REPLY to a PROPOSE received on Pn: a second proposal is refused as BUSY whatever it says, the
other refusals in the table's order (R268, Table 7-4; log entry 74). -/
def proposeResult (s : State) (p : Nat) (f : Bytes) : Nat :=
  let m := by_ f 25; let b := be f 26 8
  if !agreeFollows s then 5
  else if followBusy s && !sameProposal s p f then 4
  else if m > 7 ∨ (modeFail s s.mb.frozen m true).isSome then 1
  else if modeTag s s.mb.frozen m ≠ be f 34 4 then 2
  else if s.mb.boundary ≠ some b ∨ modeOf s.mb.frozen ≠ some m ∨ s.mb.selfBad ∨ !cycleStarts s m b then 3
  else 0

/-- A PROPOSE judged and answered on its plane and port (R268). -/
def takePropose (s : State) (p : Nat) (f : Bytes) : State :=
  if !on s 49 then s else
  let res := proposeResult s p f
  let from_ (l : Sparse (BitVec 48)) : Sparse (BitVec 48) := tset (fun _ => 0) l (p / 2) (BitVec.ofNat 48 (be f 18 6))
  let new : Follow :=
    { state := 1, id := BitVec.ofNat 16 (be f 16 2), proposers := from_ [], mode := by_ f 25,
      boundary := be f 26 8, tag := BitVec.ofNat 32 (be f 34 4), cancelled := false }
  let s := if res ≠ 0 then s
    else if s.tx.follow.state ≠ 0 ∧ sameProposal s p f then
      s.modTx fun t => { t with follow := { t.follow with proposers := from_ t.follow.proposers } }
    else s.modTx fun t => { t with follow := new }
  sendOwn s p (agreeTc s) false
    (agreeFrame s 0x21 p (be f 16 2) (by_ f 25) (be f 26 8) (be f 34 4) (sub f 18 6) res)

/-- PROPOSE_RECEIVE (R268). -/
def execProposeReceive (p : Fin 6) (frame : Bytes) (s : State) : Host.Outcome State Fault Refusal :=
  run s fun s => if on s (6 + p.val) && (prt s p.val).up && isKin frame 0x20 then takePropose s p.val frame else s

/-- Participant of a plane by its source address: entry and REQUIRED (R267). -/
def participant (s : State) (pl : Nat) (sa : Bytes) : Option (Nat × Bool) :=
  ((List.range 32).find? fun e =>
    let b := objRead s (oidOf 0x0405 pl 0) (8 * e) 8
    bitN (by_ b 6) 0 && sub b 0 6 == sub sa 0 6).map fun e => (e, cfgBit s (oidOf 0x0405 pl 0) (8 * e + 6) 1)

/-- A REPLY judged by Table 7-5: its PROPOSER is this device's first port on the plane of its arrival, or on the
plane that it wrongly names. -/
def takeReply (s : State) (p : Nat) (f : Bytes) : State :=
  if !on s 49 then s else
  let a := s.tx.agree
  let pl := p / 2
  let of (q : Nat) : Bool := sub f 18 6 == portAddr s (2 * q)
  let ours := a.result != 0 && a.planes.getLsbD pl && be f 16 2 == a.id.toNat &&
    (of pl || (by_ f 24 != pl && decide (by_ f 24 < 3) && of (by_ f 24)))
  match participant s pl (sub f 6 6) with
  | none => s.modTx fun t => { t with agree := { t.agree with unknown := satAdd (2 ^ 32 - 1) t.agree.unknown 1 } }
  | some (e, _) =>
    if !ours then s.modTx fun t => { t with agree := { t.agree with unknown := satAdd (2 ^ 32 - 1) t.agree.unknown 1 } }
    else if s.tx.phase ≠ 1 then
      s.modTx fun t => { t with agree := { t.agree with lates := satAdd (2 ^ 32 - 1) t.agree.lates 1 } }
    else
      let good := by_ f 38 == 0 && by_ f 24 == pl && by_ f 25 == a.mode && be f 26 8 == a.boundary && be f 34 4 == a.tag.toNat
      let bit := BitVec.ofNat 32 (2 ^ e)
      s.modTx fun t =>
        { t with agree :=
            if good then { t.agree with acc := tset (fun _ => 0) t.agree.acc pl (tget (fun _ => 0) t.agree.acc pl ||| bit) }
            else { t.agree with ref := tset (fun _ => 0) t.agree.ref pl (tget (fun _ => 0) t.agree.ref pl ||| bit) } }

/-- REPLY_RECEIVE (R267). -/
def execReplyReceive (p : Fin 6) (frame : Bytes) (s : State) : Host.Outcome State Fault Refusal :=
  run s fun s => if on s (6 + p.val) && (prt s p.val).up && isKin frame 0x21 then takeReply s p.val frame else s

/-- A frame of the proposal this device has accepted. -/
def ourProposal (s : State) (p : Nat) (f : Bytes) : Bool := s.tx.follow.state != 0 && sameProposal s p f

/-- CONFIRM of the accepted proposal, in time and without a CANCEL (R268). -/
def takeConfirm (s : State) (p : Nat) (f : Bytes) : State :=
  if on s 49 && ourProposal s p f && !s.tx.follow.cancelled && decide (nowNs s + 1000000 < s.tx.follow.boundary) then
    s.modTx fun t => { t with follow := { t.follow with state := 2 } }
  else s

/-- CONFIRM_RECEIVE (R268). -/
def execConfirmReceive (p : Fin 6) (frame : Bytes) (s : State) : Host.Outcome State Fault Refusal :=
  run s fun s => if on s (6 + p.val) && (prt s p.val).up && isKin frame 0x22 then takeConfirm s p.val frame else s

/-- A set that is held is given up before its boundary: its commit fails as one that a CANCEL met before the hold
(R115, R268). -/
def dropHeld (s : State) : State :=
  match s.mb.boundary with
  | none => s
  | some b =>
    if s.mb.held && decide (nowNs s < b) then
      match agreementGap s b with
      | some (pm, sm) => failCommit (s.modSg fun x => { x with next := none }) pm sm s.tx.agree.segs.toNat
      | none => s
    else s

/-- CANCEL of the accepted proposal: the device stays, also where it was confirmed and holds its set (R268). -/
def takeCancel (s : State) (p : Nat) (f : Bytes) : State :=
  if on s 49 && ourProposal s p f then
    dropHeld (s.modTx fun t => { t with follow := { t.follow with state := 3, cancelled := true } })
  else s

/-- CANCEL_RECEIVE (R268). -/
def execCancelReceive (p : Fin 6) (frame : Bytes) (s : State) : Host.Outcome State Fault Refusal :=
  run s fun s => if on s (6 + p.val) && (prt s p.val).up && isKin frame 0x23 then takeCancel s p.val frame else s

/-- An agreement frame that reception hands over, by its SUBTYPE. -/
def takeAgree (p kind : Nat) (f : Bytes) (s : State) : State :=
  if be f 12 2 ≠ 0x88B6 ∨ by_ f 15 ≠ 1 then s
  else if kind = 0x20 then takePropose s p f
  else if kind = 0x21 then takeReply s p f
  else if kind = 0x22 then takeConfirm s p f
  else if kind = 0x23 then takeCancel s p f
  else s

end Sys2Proof.Machine
end

