-- ==== Sys2Proof/Machine/LineCode.lean ====
section
/-! DEFINITION. Line coding of the segments: 4B/5B code groups, the opening and closing groups of a transmission, and
DME on Ts_TXD and Ts_RXD (R366, R368, Table 10-3). The code of each group, the order of nibbles and bits and the sense
of DME are those of IEEE 802.3 Clause 147, which R368 names and does not print: PRESUMED (log entry 213). -/

namespace Sys2Proof.Machine

/-- Five-bit code group of a data nibble. -/
def fiveOf (n : Nat) : Nat :=
  [0b11110, 0b01001, 0b10100, 0b10101, 0b01010, 0b01011, 0b01110, 0b01111,
   0b10010, 0b10011, 0b10110, 0b10111, 0b11010, 0b11011, 0b11100, 0b11101].getD (n % 16) 0

/-- Nibble of a data code group; none for any other group, BEACON and COMMIT among them, which are code errors. -/
def fourOf (g : Nat) : Option Nat := (List.range 16).find? fun n => fiveOf n == g

/-- SYNC, SSD, ESD, ESDOK and ESDERR. -/
def cgSync : Nat := 0b11000
def cgSsd : Nat := 0b00100
def cgEsd : Nat := 0b01101
def cgEsdOk : Nat := 0b00111
def cgEsdErr : Nat := 0b10001

/-- What opens a transmission, 16 code groups up to the mark: SYNC and SSD twice each in place of the first two bytes
of the preamble, then the rest of it with the start-of-frame delimiter (R368, Table 10-3). -/
def opening : List Nat := [cgSync, cgSync, cgSsd, cgSsd] ++ (List.replicate 11 5 ++ [13]).map fiveOf

/-- Nibbles of a frame, the low one of each byte first. -/
def nibbles (f : Bytes) : List Nat := f.flatMap fun b => [b.toNat % 16, b.toNat / 16]

/-- Code groups of a frame with its FCS, to the end of ESDOK (R368, R369). -/
def codeGroups (f : Bytes) : List Nat := opening ++ (nibbles f).map fiveOf ++ [cgEsd, cgEsdOk]

/-- The bits of a code group, first on the line first. -/
def groupBits (g : Nat) : List Bool := [g.testBit 4, g.testBit 3, g.testBit 2, g.testBit 1, g.testBit 0]

/-- DME: the line changes at the start of every bit, and in the middle of a 1; two half bits of 40 ns for each bit,
after a line level. -/
def dme : Bool → List Bool → List Bool
  | _, [] => []
  | l, b :: bs => (!l) :: (if b then l else !l) :: dme (if b then l else !l) bs

/-- Levels of Ts_TXD for a frame, one for each 40 ns from its first line bit on; the line was low before (R366). -/
def ktbLine (f : Bytes) : List Bool := dme false ((codeGroups f).flatMap groupBits)

/-- Bits of a line by its levels, none where a bit lacks its opening change. -/
def undme : Bool → List Bool → Option (List Bool)
  | _, [] => some []
  | _, [_] => none
  | l, a :: b :: r => if a = l then none else (undme b r).map fun bs => (a != b) :: bs

/-- Code groups of a bit string, none where it does not end with a group. -/
def groupsIn : List Bool → Option (List Nat)
  | [] => some []
  | a :: b :: c :: d :: e :: r =>
    (groupsIn r).map fun gs => (16 * a.toNat + 8 * b.toNat + 4 * c.toNat + 2 * d.toNat + e.toNat) :: gs
  | _ => none

/-- The bytes up to ESD and ESDOK; none for a code error, or where ESDERR ends the transmission (R370). -/
def groupBytes : List Nat → Option Bytes
  | a :: b :: r =>
    if a = cgEsd then (if b = cgEsdOk ∧ r = [] then some [] else none)
    else match fourOf a, fourOf b with
      | some x, some y => (groupBytes r).map fun f => BitVec.ofNat 8 (x + 16 * y) :: f
      | _, _ => none
  | _ => none

/-- The frame of a received transmission by the levels of Ts_RXD; none for a code error or ESDERR (R368, R370). -/
def ktbRead (line : List Bool) : Option Bytes :=
  match (undme false line).bind groupsIn with
  | some gs => if gs.take 16 = opening then groupBytes (gs.drop 16) else none
  | none => none

/-- The frame of a received transmission; an edge of Ts_RXD off the grid of its bit clock by more than Table 10-2
tolerates is a code error. -/
def ktbHeard (skewed : Bool) (line : List Bool) : Option Bytes := if skewed then none else ktbRead line

end Sys2Proof.Machine
end

