-- ==== Sys2Proof/Machine/Segments.lean ====
section
/-! DEFINITION. Time-triggered field segments: cycles and head states, own entries, received KTB
frames, judgement, state buffers, calibration entries and the Gauntlet (chapter 10), and FENCE (R127). -/

namespace Sys2Proof.Machine

/-- Fault sources of a segment (Table 12-1): 0 notice, 1 fault, 2 blocks. -/
def fsSeg (i k : Nat) : Nat := 144 + 3 * i + k

/-- The segment's table of the mode in force for the cycle. -/
def segTable (s : State) (i : Nat) : List SlotEntry := slotTable s [] (sgm s i).mode i

/-- BRIM_NS of the mode in force, ETYPE and ACCEPT_NS (Table 10-17). -/
def segBrim (s : State) (i : Nat) : Nat := brimNs s [] (sgm s i).mode i
def segEtype (s : State) (i : Nat) : Nat := cfg s (oSeg i) 2 2
def segAccept (s : State) (i : Nat) : Nat := cfg s (oSeg i) 4 4

/-- Mark of an entry from the cycle start, ns (R377). -/
def markNs (brim : Nat) (e : SlotEntry) : Nat := e.start + brim + 6400

/-- An F1 fault of the segment, once per cycle for each ground (R380, R384, R402). -/
def segTell (s : State) (i ground : Nat) : State :=
  if (sgm s i).told.getLsbD ground then s
  else fault (modSgm s i fun g => { g with told := setBit g.told ground true }) (fsSeg i 1)

/-- The other head is better (R379, R382); one never heard is not (log entry 80). -/
def otherBetter (s : State) (i : Nat) : Bool :=
  let g := sgm s i
  if g.otherTs = 5 then false
  else if g.otherTs = 4 then true
  else decide (g.otherTs < s.tm.state) || (g.otherTs == s.tm.state && decide (segOther s i < segOwn s i))

/-- Listen length after a collision in COLDSTART or a fall from YIELD (R381). -/
def relisten (s : State) (i : Nat) : Nat := 1 + segOwn s i + Config.dieSerial.toNat % 4

/-- An outstanding CAL_REQ that was not answered (R242). -/
def calUnanswered (s : State) (i : Nat) : State :=
  match (sgm s i).calReq with
  | none => s
  | some (n, _) =>
    let s := modSgm s i fun g => { g with calReq := none }
    let k := (node (sgm s i) n).calMiss + 1
    let s := if k ≥ 3 then count s (cSeg i) 14 else s
    modSgm s i fun g => { g with nodes := tmod nodeReset g.nodes n fun x => { x with calMiss := if k ≥ 3 then 0 else k } }

/-- The head machine at the end of a cycle (Table 10-10, R381). A cycle without a sync of the other head is one in which
it has not agreed (log entry 241). -/
def headCycleEnd (s : State) (i : Nat) : State :=
  let g := sgm s i
  if g.head = 1 ∨ g.head = 2 then
    let n := if g.agreed then 0 else g.noAgree + 1
    let s := modSgm s i fun g =>
      { g with noAgree := n, other := if g.heard then g.other else 0, coldCol := if g.head = 1 ∧ g.sends then 0 else g.coldCol }
    if n ≥ 3 ∧ otherBetter s i then
      fault (modSgm s i fun g => { g with head := 3, other := 3, sends := false, sendsNext := false, noSync := 0 }) (fsSeg i 1)
    else s
  else if g.head = 3 then
    let n := if g.heard then 0 else g.noSync + 1
    if n ≥ 2 then modSgm (segListen s i (relisten s i)) i fun g => { g with other := 0, otherTs := 5 } else modSgm s i fun g => { g with noSync := n }
  else if g.heard then s
  else modSgm s i fun g => { g with other := 0 }

/-- LISTEN at a cycle start: after L cycles COLDSTART, with own entries from this cycle on (R381). -/
def listenStart (s : State) (i : Nat) : State :=
  let g := sgm s i
  if g.head ≠ 0 then s
  else if g.listen ≤ g.listened then
    count (modSgm s i fun g => { g with head := 1, sends := true, noAgree := 0 }) (cSeg i) 17
  else modSgm s i fun g => { g with listened := g.listened + 1 }

/-- HELD and SAFE for the cycle that starts (R399). -/
def segFlags (s : State) : Bool × Bool :=
  if s.hl.state ≠ lsDetached then (false, false)
  else if s.hl.detach.getLsbD 1 || s.hl.holdOver then (!s.hl.detach.getLsbD 1, true)
  else (true, false)

/-- One-way delays of a segment's nodes, ps (R387). -/
def segDelays (s : State) (i : Nat) : Sparse Nat :=
  (List.range 32).foldl (fun t n => match tget (fun _ => none) s.cal.nodes (32 * i + n) with
    | some (ps, _) => tset (fun _ => 0) t n (ps / 2)
    | none => t) []

/-- A table's bytes as they stand, as a memory of their own. -/
def copyTable (s : State) (oid n : Nat) : List Host.Cell := mwrite (fun _ => 0) [] 0 (objRead s oid 0 n)

/-- Everything a cycle start renews (R374, R391, R393, R399, R409). -/
def cycleBegin (s : State) (i start : Nat) : State :=
  let (held, safe) := segFlags s
  let ds := segDelays s i
  let nc := copyTable s (oSegNode i) 256
  let sc := copyTable s (oSegSafe i) 3712
  let m := s.tx.mode
  modSgm s i fun g =>
    { g with cycle := if g.runs then g.cycle + 1 else 0, runs := true, start := start, mode := m, nodeCfg := nc, safeCfg := sc,
             delays := ds, held := held, safe := safe, heard := false, agreed := false, ran := [], told := 0,
             restart := g.stopped, stopped := false, sends := g.sends || (g.sendsNext && g.head != 5),
             sendsNext := g.sendsNext && g.head == 5,
             blockRun := if g.blocked then g.blockRun else 0, blocked := false, got := none,
             nodes := g.nodes.filterMap fun x =>
               let valid := (tget (fun _ => (0 : Byte)) nc (8 * x.1)).getLsbD 0
               let y := if x.2.integrated && valid then x.2 else { x.2 with modes := none, integrated := false, lost := x.2.lost && valid }
               if y = nodeReset x.1 then none else some (x.1, y) }

/-- The segment logic runs. -/
def segOn (s : State) (i : Nat) : Bool := on s (30 + i) && timeOk s && !s.fs.f4 && !s.pw.testMode

/-- A request that finds the Gauntlet's window closed (R402). -/
def gauntBlock (s : State) (i : Nat) : State :=
  let s := count s (cSeg i) 11
  let s := s.modSg fun x => { x with blocks := satAdd (2 ^ 32 - 1) x.blocks 1 }
  if (sgm s i).blocked then s
  else
    let n := (sgm s i).blockRun + 1
    let s := segTell (modSgm s i fun g => { g with blocked := true, blockRun := n }) i 3
    if n ≥ 3 then fault s (fsSeg i 2) else s

/-- The windows of a segment at a time of the Gauntlet's own, in ns: of the held mode from its boundary on (R401). -/
def windowsAt (s : State) (i : Nat) (t : Int) : Option Windows :=
  match tget noWindows s.sg.wins i, s.sg.next with
  | some w, some (b, n) => if (b : Int) ≤ t then tget noWindows n i else some w
  | w, _ => w

/-- The Gauntlet's window of the segment is open at a voted time in ns, as its own time places it (R400, R403,
R405, R406). -/
def gauntOpen (s : State) (i t : Nat) : Bool :=
  on s 71 && s.pw.guardRuns && !s.sg.diverged && !s.sg.markerLost && !f3Holds s (16 + i) &&
    match gauntTime s with
    | none => false
    | some own =>
      let x := (own + ((t * 65536 : Nat) : Int) - ((now80 s : Nat) : Int)) / 65536
      match windowsAt s i x with
      | none => false
      | some w =>
        let off := (x % w.cycle).toNat
        w.cycle != 0 && w.wins.any fun v => decide (v.1 ≤ off) && decide (off < v.2)

/-- The segment logic sends out what is in progress: it runs, or its domain finishes it on the way off (R141). -/
def segSends (s : State) (i : Nat) : Bool :=
  (on s (30 + i) || (dom s (30 + i)).state == 3) && timeOk s && !s.fs.f4 && !s.pw.testMode

/-- Ts_TXEN at the pad: the segment logic's request AND the Gauntlet's window (R16, R402). -/
def segDrive (s : State) (i : Nat) : State :=
  let g := sgm s i
  let up := g.sending.isSome && segSends s i && decide (g.rise ≤ nowNs s) && decide (nowNs s < g.fall) && gauntOpen s i (nowNs s)
  s.modPads fun p => { p with txen := setBit p.txen i up }

/-- Every Ts_TXEN follows its request and its window; a request is over at its fall (Tables 10-2 and 10-3). -/
def driveSegs (s : State) : State :=
  s.sg.segs.foldl (fun s x =>
    if x.2.sending.isNone then s else
    let s := segDrive s x.1
    if timeOk s && decide (x.2.fall ≤ nowNs s) then modSgm s x.1 fun g => { g with sending := none } else s) s

/-- Cycle of a segment in the active mode, ns (R374). -/
def segCycleNs (s : State) (i : Nat) : Nat := cfg s (oSegMode s.tx.mode i) 0 4 * 1000

/-- The latest instant at which a cycle of the segment starts (R374). -/
def segCycleAt (s : State) (i : Nat) : Nat := nowNs s / segCycleNs s i * segCycleNs s i

/-- A cycle of the segment starts at an instant (R374, R381, Table 10-10). -/
def segCycle (s : State) (i start : Nat) : State :=
  let s := calUnanswered s i
  let s := if (sgm s i).runs then headCycleEnd s i else s
  listenStart (cycleBegin s i start) i

/-- SEGMENT_CYCLE_START, at a whole multiple of the cycle, within a 2 ns tick, and once for each (R374). -/
def execSegmentCycleStart (i : Fin 16) (s : State) : Host.Outcome State Fault Refusal :=
  run s fun s =>
    let i := i.val
    let g := sgm s i
    let t := segCycleAt s i
    if !segOn s i || segCycleNs s i == 0 || decide (t + 2 < nowNs s) || (g.runs && g.start == t && !g.stopped) then s
    else segDrive (segCycle s i t) i

/-- A KTB frame of the XD860 with its FCS (Table 10-4). -/
def ktbFrame (s : State) (i kind dst slot flags : Nat) (body : Bytes) : Bytes :=
  let g := sgm s i
  let own := segOwn s i
  withFcs (padTo 60 ([0x03, 0x4B, 0x59, 0x4D, 0x10, 0x00, 0x02, 0x4B, 0x59, 0x4D, 0x10] ++ toLe 1 own ++ toBe 2 (segEtype s i) ++
    [1] ++ toLe 1 kind ++ toLe 1 own ++ toLe 1 dst ++ toLe 1 slot ++ toLe 1 g.mode ++ toBe 2 g.cycle.toNat ++ toLe 1 flags ++
    toLe 1 body.length ++ zz 2 ++ body))

/-- SYNC body (Table 10-6, R391). -/
def syncBody (s : State) (i : Nat) (e : SlotEntry) : Bytes :=
  let g := sgm s i
  let t := g.cycle.toNat % 8
  toBe 8 g.start ++ toLe 1 (s.tm.state + 4 * ptClass s (16 + 2 * i)) ++ toLe 1 t ++ toBe 4 (modeTag s [] g.mode) ++
    toBe 4 (modeTag s [] t) ++ toBe 4 (markNs (segBrim s i) e)

/-- Address of a node's OUT and IN buffers in window 1 (Table 10-13). -/
def outBuf (i n : Nat) : Nat := 0x4000 * i + 0x80 * n
def inBuf (i n : Nat) : Nat := 0x4000 * i + 0x1000 + 0x80 * n

/-- OUT buffers snapshot at the start of a HEAD entry (R395). -/
def snapshot (s : State) (i : Nat) : State :=
  (List.range 32).foldl (fun s n =>
    let g := sgm s i
    if !(nodeFlag g n 0 && nodeFlag g n 2) then s
    else
      let b := mread win1Reset s.win1 (outBuf i n) 128
      if by_ b 0 % 2 = 0 ∧ by_ b 4 ≤ 112 then
        modSgm s i fun g => { g with nodes := tmod nodeReset g.nodes n fun x => { x with snap := some (sub b 16 (by_ b 4)) } }
      else count s (cSeg i) 15) s

/-- A byte of a node's SEG_SAFE entry as in force (R409). -/
def safeByte (g : Seg) (n off : Nat) : Byte := tget (fun _ => (0 : Byte)) g.safeCfg (116 * n + off)

/-- The record data of a node in this cycle, if it gets one (R395, R399). -/
def recordOf (g : Seg) (n : Nat) : Option Bytes :=
  if !(nodeFlag g n 0 && nodeFlag g n 2) then none
  else if g.safe then
    let len := (safeByte g n 0).toNat
    if len = 0 then none else some ((List.range len).map fun k => safeByte g n (4 + k))
  else (node g n).snap

/-- Records in ascending node ID, until one does not fit: the bytes, how many, how many omitted (R396). -/
def packRecords (room : Nat) : Nat → List (Nat × Bytes) → Bytes × Nat × Nat
  | _, [] => ([], 0, 0)
  | used, (n, d) :: rest =>
    let used' := used + 2 + d.length
    if used' > 255 ∨ used' > room then ([], 0, rest.length + 1)
    else
      let (b, k, o) := packRecords room used' rest
      (toLe 1 n ++ toLe 1 d.length ++ d ++ b, k + 1, o)

/-- The HEAD_DATA body, and how many records were omitted (R396, R398). -/
def headBody (s : State) (i : Nat) (e : SlotEntry) : Bytes × Nat :=
  let g := sgm s i
  let recs := (List.range 32).filterMap fun n => (recordOf g n).map fun d => (n, d)
  let bytes := min 300 ((e.len - 2 * segBrim s i - 400) / 800 - 9)
  let (b, k, o) := packRecords (bytes - 30) 4 recs
  (toBe 2 (if s.tw.on then s.tw.seq.toNat else 0) ++ toLe 1 k ++ zz 1 ++ b, o)

/-- ACTIVE, HELD and SAFE flags (Table 10-4, R398). -/
def headFlags (s : State) (i : Nat) : Nat :=
  let g := sgm s i
  32 * b1 (!s.tw.on || leads s) + 16 * b1 g.held + 8 * b1 g.safe

/-- The node that a CAL entry addresses: the next integrated one, in a circle (R241, R388). -/
def calNext (g : Seg) : Option Nat :=
  let l := (List.range 32).filter fun n => (node g n).integrated
  match g.calLast with
  | none => l.head?
  | some k => match l.find? (k < ·) with
    | some n => some n
    | none => l.head?

/-- Corrected ns at which Ts_TXEN rises for an own entry: 1,000 ns ahead of the first line bit (Tables 10-2 and
10-3). -/
def riseOf (s : State) (i : Nat) (x : SlotEntry) : Nat := (sgm s i).start + x.start + segBrim s i - 1000

/-- A frame leaves in an own entry, or its request is a block (R377, R402): preamble and delimiter, its bytes and
ESD on the line, and Ts_TXEN for 400 ns after them (Tables 10-2 and 10-3). -/
def ktbSend (s : State) (i e idx : Nat) (x : SlotEntry) (f : Bytes) : State :=
  let up := riseOf s i x
  if !gauntOpen s i up then gauntBlock s i
  else segDrive (modSgm (count (emit s (.ktb i (ktbLine f))) (cSeg i) idx) i fun g =>
    { g with sending := some e, rise := up, fall := up + 1000 + 6400 + 800 * f.length + 800 + 400 }) i

/-- An own entry starts (R377, R386, R395–R398). -/
def ownEntry (s : State) (i e : Nat) (x : SlotEntry) : State :=
  let g := sgm s i
  let s := if x.kind = 2 ∧ !g.held ∧ !g.safe ∧ !g.ran.contains e then snapshot s i else s
  if !(g.sends && (g.head == 1 || g.head == 2)) || fencedSeg s i || f3Holds s (16 + i) || g.ran.contains e then s
  else
    let s := modSgm (calUnanswered s i) i fun g => { g with ran := e :: g.ran, sending := none }
    if x.kind = 1 then ktbSend s i e 0 x (ktbFrame s i 1 0xFF e (4 * b1 g.restart) (syncBody s i x))
    else if x.kind = 2 then
      let (b, o) := headBody s i x
      ktbSend (countN s (cSeg i) 16 o) i e 1 x (ktbFrame s i 2 0xFF e (headFlags s i) b)
    else if x.kind = 4 then
      match calNext (sgm s i) with
      | none => s
      | some n =>
        let ps := match tget (fun _ => none) s.cal.nodes (32 * i + n) with
          | some (rt, _) => rt / 2
          | none => maxAge
        let mark : Int := ((markNs (segBrim s i) x * 1000 : Nat) : Int)
        let s := modSgm s i fun g => { g with calLast := some n }
        let s := if gauntOpen s i (riseOf s i x) then modSgm s i fun g => { g with calReq := some (n, mark) } else s
        ktbSend s i e 2 x (ktbFrame s i 4 n e 0 (toBe 4 ps))
    else s

/-- OWN_SLOT_START (R377). -/
def execOwnSlotStart (i : Fin 16) (entry : Fin 64) (s : State) : Host.Outcome State Fault Refusal :=
  run s fun s =>
    let i := i.val
    let g := sgm s i
    if !segOn s i || !g.runs || g.stopped then s else
    match (segTable s i)[entry.val]? with
    | some x => if x.owner = segOwn s i ∧ x.kind ≠ 3 then ownEntry s i entry.val x else s
    | none => s

/-- COLLISION during an own transmission (R367, Table 10-10). -/
def execCollision (i : Fin 16) (s : State) : Host.Outcome State Fault Refusal :=
  run s fun s =>
    let i := i.val
    let g := sgm s i
    match g.sending with
    | none => s
    | some e =>
      let s := count (emit s (.ktbAbort i)) (cSeg i) 10
      let s := modSgm s i fun g => { g with sending := none, collisions := satAdd (2 ^ 32 - 1) g.collisions 1, calReq := none }
      let s := segDrive s i
      let sync : Bool := match (segTable s i)[e]? with
        | some x => x.kind == 1
        | none => false
      if g.head = 1 ∧ sync = true then
        let n := g.coldCol + 1
        let s := segListen s i (relisten s i)
        let s := modSgm s i fun g => { g with coldCol := if n ≥ 3 then 0 else n }
        if n ≥ 3 then fault s (fsSeg i 1) else s
      else if g.head = 2 then segTell s i 1
      else s

/-- Flags that each KIND may carry (Table 10-5). -/
def ktbFlags (kind : Nat) : Nat := if kind = 1 then 0x04 else if kind = 2 then 0x38 else 0

/-- A received frame is to be ignored (R372, Tables 10-4 to 10-6). -/
def ktbIgnored (s : State) (i : Nat) (f : Bytes) : Bool :=
  let k := by_ f 15; let n := by_ f 23; let fl := by_ f 22
  be f 12 2 != segEtype s i || by_ f 14 != 1 || decide (k < 1) || decide (5 < k) ||
    (fl ||| ktbFlags k) != ktbFlags k || by_ f 24 != 0 || by_ f 25 != 0 || decide (f.length < 30 + n) ||
    (if k = 1 then n != 22 || decide (16 ≤ by_ f 34)
     else if k = 2 then decide (n < 4) || by_ f 29 != 0
     else if k = 3 then decide (n < 4) || decide (116 < n) || decide (4 ≤ by_ f 27) || by_ f 28 != 0 || by_ f 29 != 0
     else n != 4)

/-- The head machine meets the other head's sync (Table 10-10, R382). -/
def headSync (s : State) (i : Nat) (agrees : Bool) : State :=
  let g := sgm s i
  if g.head = 4 ∨ g.head = 5 then modSgm s i fun g => { g with other := if agrees then 1 else 2 }
  else if agrees then
    modSgm s i fun g =>
      { g with agreed := true, other := 1, head := 2, sendsNext := g.sendsNext || g.head == 0 || g.head == 3,
               noAgree := 0, coldCol := 0 }
  else if g.head = 0 ∧ otherBetter s i then
    fault (modSgm s i fun g => { g with head := 3, other := 3, noSync := 0 }) (fsSeg i 1)
  else if g.head = 3 then s
  else modSgm s i fun g => { g with other := 2 }

/-- A sync received (R379–R382). -/
def takeSync (s : State) (i : Nat) (f : Bytes) (markPs : Int) : State :=
  let src := by_ f 16
  let mine := src == segOwn s i
  if !mine && (src != segOther s i || segOther s i == 0xFF) then count s (cSeg i) 9
  else
    let s := if mine then fault s (fsSeg i 1) else s
    let s := if by_ f 19 = (sgm s i).mode then s else segTell (count s (cSeg i) 12) i 0
    let s := modSgm s i fun g => { g with otherTs := if mine then 4 else by_ f 34 % 4, heard := true }
    match (segTable s i).find? fun x => x.kind == 1 && x.owner == segOther s i with
    | some x =>
      let err := markPs - ((markNs (segBrim s i) x * 1000 : Nat) : Int)
      headSync (modSgm s i fun g => { g with otherErr := err / 1000 }) i (decide (err.natAbs ≤ segAccept s i * 1000))
    | none => headSync s i false

/-- CAL_RESP (R386, R387). -/
def takeCalResp (s : State) (i : Nat) (f : Bytes) (markPs : Int) (overran : Bool) : State :=
  match (sgm s i).calReq with
  | none => s
  | some (n, req) =>
    let d := markPs - req
    if by_ f 16 = n ∧ by_ f 17 = segOwn s i ∧ 60000000 ≤ d ∧ d ≤ 65000000 ∧ !overran then
      let rt := (d - (be f 26 4 : Nat)).toNat
      let now := s.clock
      let s := s.modCal fun c => { c with nodes := tset (fun _ => none) c.nodes (32 * i + n) (some (rt, now)) }
      modSgm (count s (cSeg i) 13) i fun g =>
        { g with calReq := none, nodes := tmod nodeReset g.nodes n fun x => { x with calMiss := 0 } }
    else s

/-- The entry in which a mark falls. -/
def entryOf (s : State) (i : Nat) (markPs : Int) : Option (Nat × SlotEntry) :=
  findIx (fun x : SlotEntry => decide (((x.start * 1000 : Nat) : Int) ≤ markPs) && decide (markPs < (((x.start + x.len) * 1000 : Nat) : Int)))
    (segTable s i)

/-- A frame in a NODE entry waits for the slot's end; each further one is a wrong sender (R384). -/
def nodeFrame (s : State) (i : Nat) (f : Bytes) (markPs : Int) (overran : Bool) : State :=
  match entryOf s i markPs with
  | some (_, x) =>
    if x.kind ≠ 3 then s
    else if (sgm s i).got.isSome then count s (cSeg i) 7
    else modSgm s i fun g => { g with got := some (markPs, overran, f) }
  | none => s

/-- A received frame is neither discarded nor ignored (R370, R372). -/
def ktbGood (s : State) (i : Nat) (f : Bytes) : Bool :=
  fcsOk f && decide (64 ≤ f.length) && decide (f.length ≤ 300) && !ktbIgnored s i f

/-- A received frame but for what the twin takes from it (R370, R372, R380, R384, R386). -/
def ktbReceive (s : State) (i : Nat) (f : Bytes) (markPs : Int) (overran : Bool) : State :=
  if !fcsOk f || decide (f.length < 64) || decide (300 < f.length) then count s (cSeg i) 8
  else if ktbIgnored s i f then count s (cSeg i) 9
  else if !(sgm s i).runs then s
  else
    let s := if by_ f 15 = 1 then takeSync s i f markPs else if by_ f 15 = 5 then takeCalResp s i f markPs overran else s
    nodeFrame s i f markPs overran

/-- Judgement of a NODE entry: 0 accepted, 4 missed, 5 out of window, 6 overrun, 7 wrong sender, as its
counter (Table 10-12). -/
def judgeEntry (s : State) (i e : Nat) (x : SlotEntry) : Nat :=
  match (sgm s i).got with
  | none => 4
  | some (mark, overran, f) =>
    let want : Int := ((markNs (segBrim s i) x * 1000 + tget (fun _ => 0) (sgm s i).delays x.owner : Nat) : Int)
    if by_ f 15 ≠ 3 ∨ by_ f 16 ≠ x.owner ∨ by_ f 18 ≠ e then 7
    else if overran then 6
    else if (mark - want).natAbs > segAccept s i * 1000 then 5 else 3

/-- INTEGRATED and LOST follow a judgement (R385). -/
def nodeJudged (s : State) (i n : Nat) (ok : Bool) (held : BitVec 8) : State :=
  let g := sgm s i
  if !nodeFlag g n 0 then s
  else if ok then
    let c := g.cycle
    modSgm s i fun g => { g with nodes := tmod nodeReset g.nodes n fun x =>
      { x with integrated := true, lost := false, misses := 0, modes := some (held, c) } }
  else
    let x := node g n
    let lim := if nodeByte g n 1 = 0 then 3 else nodeByte g n 1
    let lose := x.integrated && decide (lim ≤ x.misses + 1)
    let s := modSgm s i fun g => { g with nodes := tmod nodeReset g.nodes n fun x =>
      { x with misses := x.misses + 1, integrated := x.integrated && !lose, lost := x.lost || lose } }
    if lose then fault s (fsSeg i (if nodeFlag g n 1 then 1 else 0)) else s

/-- A buffer written behind its sequence word: odd, the fields, even (R397). -/
def seqWrite (s : State) (base : Nat) (parts : List (Nat × Bytes)) : State :=
  let seq := leNat (mread win1Reset s.win1 base 4)
  let w := parts.foldl (fun w p => mwrite win1Reset w (base + p.1) p.2) s.win1
  s.setWin1 (mwrite win1Reset w base (toLe 4 ((seq ||| 1) + 1)))

/-- The judgement in the owner's IN buffer (R397, Table 10-15). -/
def writeIn (s : State) (i n judged : Nat) : State :=
  let g := sgm s i
  if !nodeFlag g n 3 then s
  else
    let status := if judged = 3 then 0 else if judged = 4 then 1 else 3
    let base : List (Nat × Bytes) := [(5, toLe 1 status), (6, toLe 2 g.cycle.toNat)]
    let data : List (Nat × Bytes) := match judged, g.got with
      | 3, some (mark, _, f) =>
        let d := sub f 30 (by_ f 23 - 4)
        let ps := ((g.start * 1000 : Nat) : Int) + mark
        let at_ := (ps / 2500 * 2500) * 65536 / 1000
        let cls := ptClass (atMark s (s.clock - (nowNs s - (ps / 1000).toNat))) (17 + 2 * i)
        [(4, toLe 1 d.length), (8, toLe 6 (uns 48 at_)), (14, toLe 1 cls), (16, padTo 112 d)]
      | _, _ => []
    seqWrite s (inBuf i n) (base ++ data)

/-- NODE_SLOT_END (R384, R385, R397). -/
def execNodeSlotEnd (i : Fin 16) (entry : Fin 64) (s : State) : Host.Outcome State Fault Refusal :=
  run s fun s =>
    let i := i.val
    if !segOn s i || !(sgm s i).runs || (sgm s i).stopped then s else
    match (segTable s i)[entry.val]? with
    | none => s
    | some x =>
      if x.kind ≠ 3 ∨ (sgm s i).ran.contains entry.val = true then s else
      let s := modSgm s i fun g =>
        { g with ran := entry.val :: g.ran, got := g.got.filter fun y => (entryOf s i y.1).map (·.1) == some entry.val }
      let j := judgeEntry s i entry.val x
      let s := count s (cSeg i) j
      let s := if j = 7 then segTell s i 2 else s
      let held := match (sgm s i).got with
        | some (_, _, f) => BitVec.ofNat 8 (by_ f 26)
        | none => 0
      let s := nodeJudged s i x.owner (j == 3) held
      modSgm (writeIn s i x.owner j) i fun g => { g with got := none }

/-- STATUS_BLOCK_WRITE (R397, Table 10-15). -/
def execStatusBlockWrite (i : Fin 16) (s : State) : Host.Outcome State Fault Refusal :=
  run s fun s =>
    let i := i.val
    let g := sgm s i
    if !segOn s i || !g.runs || (segTable s i).isEmpty then s else
    let s := seqWrite s (0x4000 * i + 0x2000)
      [(4, toLe 2 g.cycle.toNat ++ toLe 1 g.mode ++ toLe 1 g.head ++ toLe 4 (maskOf 32 fun n => (node g n).integrated) ++
           toLe 6 (g.start * 65536) ++ toLe 1 (b1 g.held + 2 * b1 g.safe))]
    if cfg s (oSeg i) 9 1 = 1 then raiseEvent s (cfg s (oSeg i) 8 1) else s

/-- Divergence of the Gauntlet at a marker, 2^-16 ns: its own time, which its crystal has moved by some ns off the
nominal rate since the last marker, less the voted time (R403, log entry 154). -/
def gauntDelta (s : State) (drift : Int) : Int :=
  (gauntTime s).getD ((now80 s : Nat) : Int) + drift * 65536 - ((now80 s : Nat) : Int)

/-- The Gauntlet's own time after a marker: corrected by the divergence, limited to 1,000 ns (R403). -/
def gauntCorrect (s : State) (drift : Int) : State :=
  let d := gauntDelta s drift
  let t := ((now80 s : Nat) : Int) + d - max (-1000 * 65536) (min (1000 * 65536) d)
  let c := s.clock
  s.modSg fun x => { x with own := some (t, c) }

/-- GAUNTLET_MARKER: the divergence at the marker is measured and corrected; of the faults of one instant the
higher class is latched first (R403, R405, R406, R452). -/
def execGauntletMarker (drift : Int) (s : State) : Host.Outcome State Fault Refusal :=
  run s fun s =>
    if !on s 71 || !s.pw.guardRuns || !timeOk s then s else
    let d := gauntDelta s drift
    let delta := d.tdiv 65536
    let n := delta.natAbs
    let big (ns : Nat) : Bool := decide (ns * 65536 < d.natAbs)
    let now := s.clock
    let s := gauntTurn (gauntCorrect s drift)
    let s := condOff (s.modSg fun x =>
      { x with delta := delta, deltaMax := max x.deltaMax n, markerLost := false,
               saturated := if big 1000 then satAdd (2 ^ 32 - 1) x.saturated 1 else x.saturated,
               diverged := x.diverged || big 5000,
               goodSince := if big 1000 then none else if x.goodSince.isSome then x.goodSince else some now }) 141
    let s := if big 5000 then fault s 140 else s
    driveSegs (if big 1000 then fault s 139 else s)

/-- MARKER_LOST (R405). -/
def execMarkerLost (s : State) : Host.Outcome State Fault Refusal :=
  run s fun s =>
    if !on s 71 || !s.pw.guardRuns then s
    else driveSegs (condOn (s.modSg fun x => { x with markerLost := true, goodSince := none }) 141)

/-- GAUNTLET_BLOCK: a request finds the window closed, and Ts_TXEN is low (R16, R402). -/
def execGauntletBlock (i : Fin 16) (s : State) : Host.Outcome State Fault Refusal :=
  run s fun s =>
    if segOn s i.val && (sgm s i.val).runs then
      segDrive (modSgm (gauntBlock s i.val) i.val fun g => { g with sending := none }) i.val
    else s

/-- A segment meets its fence: Ts_TXEN is held low (R127, Table 10-10). -/
def segFence (s : State) (i : Nat) : State :=
  let g := sgm s i
  if !on s (30 + i) || g.head = 5 then s
  else modSgm (segQuiet s i) i fun g => { g with head := 5, before := g.head, sendsNext := g.sends || g.sendsNext, sends := false }

/-- A segment held by no fence any more takes up again (R127). -/
def segUnfence (s : State) (i : Nat) : State :=
  if fencedSeg s i || (sgm s i).head ≠ 5 then s else modSgm s i fun g => { g with head := g.before, before := 0 }

/-- A port meets its fence: nothing on it is sent (R127, R273). -/
def portFence (s : State) (p : Nat) : State := linkFault (silencePort s p .down) p

/-- A port held by no fence and no F3 resumes at the next start of its cycle (R127). -/
def portUnfence (s : State) (p : Nat) : State :=
  if fencedPort s p then s
  else
    let waits := timeOk s && !(gates s p).isEmpty
    linkFault (modPrt s p fun x => { x with resume := waits }) p

/-- The ports and segments that a fence target contains (R127). -/
def fencePorts (target ix : Nat) : List Nat :=
  if target = 0 then ports6 else if target = 1 then [ix] else if target = 2 then [2 * ix, 2 * ix + 1] else []
def fenceSegs (target ix : Nat) : List Nat := if target = 0 then List.range 16 else if target = 3 then [ix] else []

/-- The fence of a target set or lifted. -/
def setFence (f : Fences) (target ix : Nat) (v : Bool) : Fences :=
  if target = 0 then { f with device := v }
  else if target = 1 then { f with ports := setBit f.ports ix v }
  else if target = 2 then { f with planes := setBit f.planes ix v }
  else { f with segs := setBit f.segs ix v }

/-- An F3 holds what a release names (R127). -/
def fenceHeld (s : State) (target ix : Nat) : Bool :=
  (target == 1 && f3Holds s (ix / 2)) || (target == 2 && f3Holds s ix) || (target == 3 && f3Holds s (16 + ix))

/-- The checks and effect of FENCE (R127). -/
def fenceCmd (s : State) (r : Request) : Answer :=
  sized r 4 (
    let p := r.payload
    let act := by_ p 0; let t := by_ p 1; let ix := by_ p 2
    let lim := if t = 1 then 5 else if t = 2 then 2 else if t = 3 then 15 else 255
    if act > 1 then badRange 16 else if t > 3 then badRange 17 else if ix > lim then badRange 18
    else reserved r [3] (
      if act = 1 then
        let s := s.modFences fun f => setFence f t ix true
        let s := (fencePorts t ix).foldl portFence s
        .ok ((fenceSegs t ix).foldl segFence s) []
      else if fenceHeld s t ix then .no stState []
      else
        let was := (fencePorts t ix).filter (fencedPort s)
        let s := s.modFences fun f => setFence f t ix false
        let s := was.foldl portUnfence s
        .ok ((fenceSegs t ix).foldl segUnfence s) []))

/-- FENCE (R127). -/
def execFence (via : Via) (s : State) : Host.Outcome State Fault Refusal := runCmd via 0xC2 fenceCmd s

end Sys2Proof.Machine
end

