-- ==== Sys2Proof/Machine/Cascade.lean ====
section
/-! DEFINITION. Cascade links: their frames, discovery and the master, time transfer, orders and
agreement across the stack, and the traffic of widen and deepen (R410–R429). -/

namespace Sys2Proof.Machine

/-- Kinds of cascade frame in the order of Table 11-2. -/
def kKinds : List Nat := [0x01, 0x02, 0x03, 0x04, 0x05, 0x10, 0x11, 0x12, 0x20, 0x21, 0x22, 0x30, 0x31, 0x32]

/-- Kinds of one-hop scope (Table 11-2). -/
def kOneHop (kind : Nat) : Bool := [0x01, 0x02, 0x03, 0x05].contains kind

/-- The body of a cascade frame (Table 11-1). -/
def kBody (f : Bytes) : Bytes := sub f 16 (be f 10 2)

/-- The link's lane and logic run (R414). -/
def kRuns (s : State) (k : Nat) : Bool := on s (24 + k) && on s (26 + k) && !s.pw.testMode

/-- Frames up to a LINK_SEQ are acknowledged (R413). -/
def kAck (s : State) (k : Nat) (seq : BitVec 16) : State :=
  match findIx (fun x : KFrame => x.seq == seq) (klink s k).held with
  | some (i, _) => kPump (modKlink s k fun l => { l with held := l.held.drop (i + 1), resends := 0 }) k
  | none => s

/-- A reliable frame is taken only in sequence (R413). -/
def kInOrder (s : State) (k : Nat) (f : Bytes) : Bool × State :=
  if !kReliable (by_ f 1) then (true, s)
  else if be f 6 2 = (klink s k).rxSeq.toNat then (true, modKlink s k fun l => { l with rxSeq := l.rxSeq + 1, rxAny := true })
  else (false, count s (cCasc k) 4)

/-- A frame for another position leaves on the other link (R415). -/
def kForward (s : State) (k : Nat) (f : Bytes) : State :=
  let h := by_ f 4
  if h = 0 ∨ !(klink s (1 - k)).up then s
  else kOut (count s (cCasc k) 6) (1 - k) (patch (f.take (f.length - 4)) 4 (toLe 1 (h - 1)))

/-- A received frame of one kind on Kk (R411–R415, R417): whether this device takes it up, and the
state once it is acknowledged, ordered and forwarded. -/
def kTake (s : State) (k kind : Nat) (f : Bytes) : Bool × State :=
  if !kRuns s k || s.fs.f4 then (false, s)
  else if f.length < 64 ∨ 9728 < f.length ∨ !fcsOk f then (false, count s (cCasc k) 2)
  else
    match findIx (· == by_ f 1) kKinds with
    | none => (false, count (count s (cCasc k) 1) (cCasc k) 3)
    | some (ix, _) =>
      if by_ f 1 ≠ kind ∨ by_ f 0 ≠ 1 then (false, s) else
      let s := count (count s (cCasc k) 1) (cCasc k) (11 + ix)
      let s := if bitN (by_ f 5) 1 then kAck s k (BitVec.ofNat 16 (be f 8 2)) else s
      let (ok, s) := kInOrder s k f
      let src := by_ f 2 % 8; let dst := by_ f 3
      if !ok then (false, s)
      else if kOneHop kind then (true, s)
      else if src = pos s then (false, count s (cCasc k) 7)
      else
        let s := if dst = pos s then s else kForward s k f
        if dst ≠ pos s ∧ dst ≠ 0xFF then (false, s) else (!dupAt s src && !dupAt s (pos s), s)

/-- What discovery watches: presence, duplicates and hop counts (R416). -/
def discView (s : State) : Nat × BitVec 8 × List Nat :=
  (presentMask s, s.sk.dup, (List.range 8).flatMap fun p => [hopsVia s 0 p, hopsVia s 1 p])

/-- Discovery is incomplete again after a change (R416, R418). -/
def discChanged (s : State) (was : Nat × BitVec 8 × List Nat) : State :=
  if discView s = was then s else s.modSk fun x => { x with complete := false, master := 0xFF }

/-- SERIAL_TAG of a position as learnt; 0 if unknown (Table 11-3). -/
def serialTag (s : State) (p : Nat) : Nat :=
  (if p = pos s then Config.dieSerial.toNat else tget (fun _ => 0) s.sk.serials p) % 2 ^ 32

/-- A position is newly duplicated: an F1 fault of the stack (R417). -/
def markDup (s : State) (p : Nat) : State :=
  if dupAt s p then s
  else fault (modSrc (s.modSk fun x => { x with dup := setBit x.dup p true }) 131 fun x => { x with cond := true }) 131

/-- DISCOVER body sent on Kk (Table 11-3, R416). -/
def discoverBody (s : State) (k : Nat) : Bytes :=
  toBe 8 Config.dieSerial.toNat ++ toLe 1 (pos s) ++ toLe 1 (if s.sk.complete then s.sk.master else 0xFF) ++
    toLe 1 s.sk.config ++ toLe 1 s.sk.dup.toNat ++ ((List.range 8).flatMap fun p => toLe 1 (hopsVia s (1 - k) p)) ++
    toBe 2 s.sk.first ++ toBe 2 s.sk.count ++ (List.range 8).flatMap fun p => toBe 4 (serialTag s p)

/-- DISCOVER_SEND: on every link whose PCS runs, for a link comes up by it (R414, R416). -/
def execDiscoverSend (s : State) : Host.Outcome State Fault Refusal :=
  run s fun s => [0, 1].foldl (fun s k => if kRuns s k then kSend s k 0x01 0xFF (discoverBody s k) else s) s

/-- What a DISCOVER teaches: serials and duplicates (R416, R417). -/
def learn (s : State) (d : Bytes) : State :=
  let p := by_ d 8
  let s := if p = pos s ∧ be d 0 8 ≠ Config.dieSerial.toNat then markDup s p else s
  let s := (List.range 8).foldl (fun s q =>
    let t := if q = p then be d 4 4 else be d (24 + 4 * q) 4
    let known := serialTag s q
    let s := if t ≠ 0 ∧ known ≠ 0 ∧ t ≠ known then markDup s q else s
    let old := tget (fun _ => 0) s.sk.serials q
    let new := if q = p then be d 0 8 else if old % 2 ^ 32 = t then old else t
    if t ≠ 0 ∧ q ≠ pos s then s.modSk fun x => { x with serials := tset (fun _ => 0) x.serials q new } else s) s
  (ones (BitVec.ofNat 8 (by_ d 11))).foldl markDup s

/-- DISCOVER (R414, R416, R417, R429). -/
def execDiscover (k : Fin 2) (x : Discovery) (s : State) : Host.Outcome State Fault Refusal :=
  run s fun s => stackEvent s <|
    let k := k.val
    let was := discView s
    let (ok, s) := kTake s k 0x01 x.frame
    if !ok then s else
    let d := sub x.frame 16 56
    let s := modKlink s k fun l => { l with discovers := l.discovers + 1, up := l.up || decide (1 ≤ l.discovers), nbr := some d, far := x.far }
    let s := if s.tw.on ∧ s.tw.link = k ∧ (klink s k).up = true then s.modTw fun t => { t with hbLost := false } else s
    discChanged (checkRanges (learn s d)) was

/-- DISCOVERY_COMPLETE: nothing has changed for 10 ms. A chain that reaches a position over both links
has it twice, which starts the wait again; else the master is recognised (R416–R418). -/
def execDiscoveryComplete (s : State) : Host.Outcome State Fault Refusal :=
  run s fun s => stackEvent s <|
    if !(on s 26 || on s 27) then s else
    let was := discView s
    let twice := if isRing s then [] else
      (List.range 8).filter fun p => p != pos s && hopsVia s 0 p != 0xFF && hopsVia s 1 p != 0xFF
    let s := twice.foldl markDup s
    if discView s ≠ was then discChanged s was
    else
      let m := ((positions s).find? fun p => !dupAt s p).getD 0xFF
      s.modSk fun x => { x with complete := true, master := m }

/-- CASCADE_ACK_DUE (R413, R414). -/
def execCascadeAckDue (k : Fin 2) (s : State) : Host.Outcome State Fault Refusal :=
  run s fun s => if kRuns s k.val then kSend s k.val 0x05 0xFF [] else s

/-- ACK_RECEIVE (R413). -/
def execAckReceive (k : Fin 2) (frame : Bytes) (s : State) : Host.Outcome State Fault Refusal :=
  run s fun s => (kTake s k.val 0x05 frame).2

/-- A cascade link is lost (R414, R444). -/
def kLost (s : State) (k : Nat) : State :=
  stackEvent s <|
  let was := discView s
  let hb := s.tw.on && s.tw.link == k
  let s := modKlink s k fun l => { rounds := l.rounds, mean := l.mean }
  let s := s.modSk fun x => { x with timeReq := x.timeReq.filter fun r => r.1 != k }
  let s := s.modTw fun t => { t with hbLost := t.hbLost || hb }
  discChanged (checkRanges (fault s (128 + k))) was

/-- CASCADE_RESEND: nothing has been acknowledged for 20 µs; a frame resent 16 times without progress
loses the link (R413). -/
def execCascadeResend (k : Fin 2) (s : State) : Host.Outcome State Fault Refusal :=
  run s fun s =>
    let k := k.val
    let l := klink s k
    if !l.up || l.held.isEmpty then s
    else if 16 ≤ l.resends then kLost s k
    else
      let s := modKlink (count s (cCasc k) 5) k fun l => { l with resends := l.resends + 1, rounds := satAdd (2 ^ 32 - 1) l.rounds 1 }
      l.held.foldl (fun s x => kEmit s k x.frame) s

/-- CASCADE_LINK_LOST (R414). -/
def execCascadeLinkLost (k : Fin 2) (s : State) : Host.Outcome State Fault Refusal :=
  run s fun s => if (klink s k.val).up then kLost s k.val else s

/-- FLAGS of a time frame (Table 11-4). -/
def kTimeFlags (s : State) (k : Nat) : Nat := (if s.tm.state = 0 then 128 else 0) + ptClass s (12 + 2 * k) * 32

/-- A TIME_REQ or TIME_RESP body (Table 11-4). -/
def timeBody (seq : Nat) (t1 t2 t3 : BitVec 48) (flags : Nat) : Bytes :=
  toBe 2 seq ++ toBe 6 t1.toNat ++ toBe 6 t2.toNat ++ toBe 6 t3.toNat ++ toLe 1 flags ++ zz 3

/-- TIME_REQ_SEND: upstream, from every device but the master (R419); each is a probe of the pass that R246 has
evaluated. -/
def execTimeReqSend (s : State) : Host.Outcome State Fault Refusal :=
  run s fun s =>
    if !s.sk.complete || s.sk.master == pos s || !decide (s.sk.master < 8) || s.fs.f4 then s else
    let k := linkTo s s.sk.master
    if !kRuns s k || !(klink s k).up then s else
    let (t1, s) := txStamp s (6 + k)
    let lk := s.tm.state == 0
    let now := s.clock
    let n := s.sk.timeSeq
    let s := s.modSk fun x => { x with timeSeq := n + 1, timeReq := some (k, { seq := n, t1 := t1.at48, locked := lk, at_ := now }) }
    let s := modCalPort s (6 + k) fun c => if c.probes ≥ 64 then { c with pairs := [], probes := 1 } else { c with probes := c.probes + 1 }
    kSend s k 0x02 0xFF (timeBody n.toNat t1.at48 0 0 (kTimeFlags s k))

/-- TIME_REQ: answered with the stamps of its receipt and of the answer (R419). -/
def execTimeReq (k : Fin 2) (frame : Bytes) (s : State) : Host.Outcome State Fault Refusal :=
  run s fun s =>
    let k := k.val
    let (ok, s) := kTake s k 0x02 frame
    if !ok then s else
    let b := kBody frame
    let (t2, s) := rxStampAt s (6 + k) frame.length fun _ => 0
    let (t3, s) := txStamp s (6 + k)
    kSend s k 0x03 (by_ frame 2 % 8)
      (timeBody (be b 0 2) (BitVec.ofNat 48 (be b 2 6)) t2.at48 t3.at48 (kTimeFlags s k))

/-- One accepted pair, its error in 2^-16 ns, against TIME_AGREE_NS in twin configuration (R421). -/
def timeAgree (s : State) (err : Int) : State :=
  if s.sk.config ≠ 3 then s else
  let outlier := decide (cfg s 0x08020000 8 4 * 65536 < err.natAbs)
  let s := s.modSk fun x =>
    { x with overRun := if outlier then min 8 (x.overRun + 1) else 0, inRun := if outlier then 0 else min 8 (x.inRun + 1) }
  if s.sk.overRun = 8 then condOn (s.modSk fun x => { x with disagree := true }) 135
  else if s.sk.inRun = 8 then condOff (s.modSk fun x => { x with disagree := false }) 135
  else s

/-- A TIME_RESP that answers the outstanding request: the servo's error, and a pair of the pass that measures
the link (R420, R237, R246). -/
def takePair (s : State) (k : Nat) (q : Probe) (b : Bytes) (t4 : BitVec 48) : State :=
  let t (o : Nat) : BitVec 48 := BitVec.ofNat 48 (be b o 6)
  let locked := q.locked && bitN (by_ b 20) 7
  if !locked || bitN (by_ b 20) 4 || steppedSince s q.at_ || decide (65536 * 1000000 < (t 14 - t 8).toNat) then
    count (if locked || (calPort s (6 + k)).suspended then s else
      modCalPort s (6 + k) fun c => { c with deferred := true, reason := 6, deferrals := satAdd (2 ^ 32 - 1) c.deferrals 1 }) (cCasc k) 10
  else
    let rtt := diff48 t4 q.t1 - diff48 (t 14) (t 8)
    let asym := (diff48 t4 (t 14) - diff48 (t 8) q.t1).tdiv 2
    let err := asym - psUnits (asymOf s (6 + k))
    let s := usePair s (6 + k) rtt asym
    let s := modKlink (count s (cCasc k) 9) k fun l => { l with mean := rtt.tdiv 2 * 1000 / 65536 }
    let s := s.modSk fun x => { x with err := err.tdiv 65536 }
    let s := timeAgree s err
    if cfg s 0x02010000 1 1 = 1 ∧ servoRuns s = true then servoAct (s.modTm fun t => { t with voted := err }) err else s

/-- TIME_RESP (R420). -/
def execTimeResp (k : Fin 2) (frame : Bytes) (s : State) : Host.Outcome State Fault Refusal :=
  run s fun s =>
    let k := k.val
    let (ok, s) := kTake s k 0x03 frame
    if !ok then s else
    let (t4, s) := rxStampAt s (6 + k) frame.length fun _ => 0
    let b := kBody frame
    match s.sk.timeReq with
    | some (j, q) =>
      if j = k ∧ be b 0 2 = q.seq.toNat ∧ be b 2 6 = q.t1.toNat then
        syncDone (takePair (s.modSk fun x => { x with timeReq := none }) k q b t4.at48)
      else s
    | none => s

/-- The sender of a COMMAND as an agent: the recognised master, or the twin partner (R95, R422). -/
def kAgent (s : State) (src : Fin 8) : Option Via :=
  if s.sk.complete ∧ s.sk.master = src.val then some (.master src)
  else if s.sk.config = 3 ∧ s.tw.on = true ∧ s.tw.partner = src.val then some (.partner src) else none

/-- COMMAND (R422). -/
def execCommand (k : Fin 2) (frame : Bytes) (s : State) : Host.Outcome State Fault Refusal :=
  run s fun s =>
    let (ok, s) := kTake s k.val 0x10 frame
    if !ok then s else
    let src : Fin 8 := ⟨by_ frame 2 % 8, Nat.mod_lt _ (by decide)⟩
    match kAgent s src with
    | some v => arrive s v (kBody frame)
    | none =>
      if !s.hl.fwReady then s
      else kSend s (linkTo s src.val) 0x11 src.val (respMsg (parseReq (.master src) (kBody frame) 0 false) stAuth false [])

/-- RESPONSE: kept for the relay that it answers (R423). -/
def execResponse (k : Fin 2) (frame : Bytes) (s : State) : Host.Outcome State Fault Refusal :=
  run s fun s =>
    let (ok, s) := kTake s k.val 0x11 frame
    let p := by_ frame 2 % 8
    let b := kBody frame
    if ok && (relay s p).state == 1 && le b 2 2 == (relay s p).tag.toNat then
      modRelay s p fun r => { r with state := 2, resp := b }
    else s

/-- RELAY_UNREACHABLE (R423). -/
def execRelayUnreachable (p : Fin 8) (s : State) : Host.Outcome State Fault Refusal :=
  run s fun s =>
    if (relay s p.val).state ≠ 1 then s
    else raiseEvent (count (modRelay s p.val fun r => { r with state := 3 }) cTwin 13) 127

/-- A member's RESULT for the master's proposal: the refusals of Table 7-4 in its order (R426). -/
def memberResult (s : State) : Nat :=
  let x := s.tx.member
  if x.mode > 7 ∨ s.mb.selfBad ∨ (modeFail s s.mb.frozen x.mode true).isSome then 1
  else if modeTag s s.mb.frozen x.mode ≠ x.tag.toNat then 2
  else if s.mb.boundary ≠ some x.boundary ∨ modeOf s.mb.frozen ≠ some x.mode ∨ segsMissing s x.mode ≠ 0 then 3
  else 0

/-- A member's REPLY (R425, Table 11-5). -/
def memberReply (s : State) : State :=
  let x := s.tx.member
  let m := x.proposer.toNat
  kSend s (linkTo s m) 0x12 m
    (stackBody 1 x.mode x.id.toNat x.boundary x.tag.toNat 0 (memberResult s) (segsMissing s x.mode) 0 0)

/-- What a STACK_AGREE body proposes or decides. -/
def followOf (b : Bytes) (src state : Nat) : Follow :=
  { state := state, id := BitVec.ofNat 16 (be b 2 2), proposer := BitVec.ofNat 48 src, mode := by_ b 1,
    boundary := be b 4 8, tag := BitVec.ofNat 32 (be b 12 4), cancelled := false, decide := be b 16 8 }

/-- The master takes a member's REPLY before DECIDE: its last one counts (R425). -/
def stackReply (s : State) (src : Nat) (b : Bytes) : State :=
  let a := s.tx.agree
  if s.tx.phase ≠ 1 ∨ !a.members.getLsbD src then s else
  let good := be b 2 2 == a.id.toNat && by_ b 1 == a.mode && be b 4 8 == a.boundary && be b 12 4 == a.tag.toNat
  let v := if good then by_ b 24 else 1
  s.modTx fun t => { t with agree := { t.agree with replies := tset (fun _ => 1) t.agree.replies src v } }

/-- The member takes the master's decision: a CONFIRM in time, or a CANCEL with its reasons (R426). -/
def stackDecision (s : State) (src : Nat) (b : Bytes) : State :=
  if by_ b 0 = 2 then
    if nowNs s + 1000000 < be b 4 8 then s.modTx fun t => { t with member := followOf b src 2 } else s
  else if s.tx.member.state = 2 then s
  else s.modTx fun t =>
    { t with member := followOf b src 3,
             agree := { t.agree with planesMiss := BitVec.ofNat 3 (by_ b 28), stackMiss := BitVec.ofNat 8 (by_ b 29) } }

/-- STACK_AGREE (R425, R426). -/
def execStackAgree (k : Fin 2) (frame : Bytes) (s : State) : Host.Outcome State Fault Refusal :=
  run s fun s =>
    let (ok, s) := kTake s k.val 0x12 frame
    let src := by_ frame 2 % 8
    let b := kBody frame
    if !ok || !on s 49 then s
    else if by_ b 0 = 1 then (if isMaster s then stackReply s src b else s)
    else if !isMember s || s.sk.master != src then s
    else if by_ b 0 = 0 then memberReply (s.modTx fun t => { t with member := followOf b src 1 })
    else if by_ b 0 ≤ 3 then stackDecision s src b
    else s

/-- STACK_AGREE_REPLY_REPEAT, until DECIDE (R425). -/
def execStackAgreeReplyRepeat (s : State) : Host.Outcome State Fault Refusal :=
  run s fun s =>
    if isMember s && s.tx.member.state == 1 && decide (nowNs s < s.tx.member.decide) then memberReply s else s

/-- A member's copy enters a receive queue of the master with the member's write-back (R428). -/
def upInto (s : State) (q k : Nat) (wb frame : Bytes) : State :=
  let i := 64 + q
  let u := que s i
  if s.hl.state = lsQuiescing ∨ s.hl.state = lsDetached then count s (cRxq q) 3
  else if !s.hl.ctrl.getLsbD 0 || !u.enable || u.closing then count s (cRxq q) 2
  else match u.bufs with
    | [] => count s (cRxq q) 2
    | b :: rest =>
      let st := if by_ wb 15 = 0 ∧ b.size < frame.length then 1 else by_ wb 15
      let wb := patch (patch (patch wb 7 (toLe 1 (6 + k))) 15 (toLe 1 st)) 17 (toLe 1 (if u.stamped then u.recIx else 0))
      let w : RxWb := { idx := b.idx, addr := b.addr, data := frame.take b.size, poison := st == 2, wb := wb,
                        record := if u.stamped then stampRecord b.idx [] 0 else [], recIx := u.recIx }
      popBad (modQue s i fun u =>
        { u with bufs := rest, wbs := u.wbs ++ [w], recIx := if u.stamped then (u.recIx + 1) % 256 else u.recIx }) i

/-- TRAFFIC_UP: the master delivers a member's local copy into the RXQ that the member's WIDEN_RX entry names (R428,
log entry 90). -/
def execTrafficUp (k : Fin 2) (u : UpTraffic) (s : State) : Host.Outcome State Fault Refusal :=
  run s fun s =>
    let (ok, s) := kTake s k.val 0x30 u.frame
    if !ok then s else
    let b := kBody u.frame
    let n := le b 8 2
    if !isMaster s || (s.sk.config != 1 && s.sk.config != 2) || decide (b.length < 32 + n) then count s (cCasc k.val) 8
    else upInto s u.rxq.val k.val (sub b 0 32) (sub b 32 n)

/-- The handle of a master's frame lies where this device's deepen range overlaps one of a lower position (R429). -/
def overlapHandle (s : State) (d : Bytes) : Bool :=
  match descHandle d with
  | some h => s.sk.overlap && inRange h ⟨pos s, s.sk.first, s.sk.count⟩ &&
      (deepRanges s).any fun r => decide (r.pos < pos s) && inRange h r
  | none => false

/-- A frame of the stack master becomes a parison of this device, at once or once its ports hold the cells
(R270, R292, R427). -/
def downInto (s : State) (k idx : Nat) (d data : Bytes) : State :=
  let (r, s) := takeDesc s idx d false
  let r := if overlapHandle s d then { r with phase := .done 5, todo := 0 } else r
  let r := { noPorts r with data := data }
  let q := 128 + k
  let s := modQue s q fun u => { u with recs := u.recs ++ [r] }
  if r.phase ≠ .read then flushDown s else stageDown s q idx

/-- TRAFFIC_DOWN (R427, R429). -/
def execTrafficDown (k : Fin 2) (frame : Bytes) (s : State) : Host.Outcome State Fault Refusal :=
  run s fun s =>
    let (ok, s) := kTake s k.val 0x31 frame
    if !ok || !s.sk.complete || s.sk.master != by_ frame 2 % 8 || (s.sk.config != 1 && s.sk.config != 2) then s else
    let b := kBody frame
    let d := sub b 4 32
    downInto s k.val (by_ b 0 % 64 * 4096 + be b 2 2 % 4096) d (sub b 36 (descLen d))

/-- TX_DONE: a member's write-back becomes that of the queue's descriptor (R427). -/
def execTxDone (k : Fin 2) (frame : Bytes) (s : State) : Host.Outcome State Fault Refusal :=
  run s fun s =>
    let (ok, s) := kTake s k.val 0x32 frame
    if !ok then s else
    let b := kBody frame
    let q := by_ b 0; let idx := be b 2 2
    match recOf s q idx with
    | some r =>
      if q < 64 ∧ r.phase = .away then
        let wb := sub b 4 32
        modRec s q idx fun r => { r with phase := .done (BitVec.ofNat 8 (by_ wb 15)), todo := 0, member := some wb }
      else s
    | none => s

end Sys2Proof.Machine
end

