-- ==== Sys2Proof/Machine/Twin.lean ====
section
/-! DEFINITION. The twin function: heartbeats and roles, takeover and yield, the mirror set, and the
opcodes of the twin and the stack (R430–R445). -/

namespace Sys2Proof.Machine

/-- OID of TWIN_POLICY (Table 11-13). -/
def oTwinPol : Nat := 0x08020000

/-- A ROLE_SEQ is greater than another, over half the range (R433). -/
def seqAfter (a b : BitVec 16) : Bool := a != b && decide ((a - b).toNat < 32768)

/-- The partner's role claim is newer than this unit's (R433). -/
def claimNewer (s : State) (seq : BitVec 16) : Bool :=
  seqAfter seq s.tw.seq || (seq == s.tw.seq && decide (s.tw.partner < pos s))

/-- First cycle start of the active mode at or after a corrected time in 2^-16 ns, in ns (R441). -/
def cycleStartAfter (s : State) (t : Nat) : Nat :=
  let c := cycleNs s [] s.tx.mode
  let ns := (t + 65535) / 65536
  if c = 0 then ns else (ns + c - 1) / c * c

/-- Boundary T of a takeover or yield decided now (R441, R442). -/
def twinBoundary (s : State) : Nat := cycleStartAfter s (now80 s + cfg s oTwinPol 0 4 * 65536)

/-- A takeover is decided, but by a unit under an F4 (R440, R441). -/
def decideTakeover (s : State) (t : Nat) : State :=
  if s.fs.f4 || s.tw.takeT.isSome then s else s.modTw fun x => { x with takeT := some t }

/-- The unit loses its role on evidence of a newer claim (R434, R442). -/
def loseRole (s : State) : State :=
  let s := fault (setRole s 3 s.tw.seq) 136
  flushTalkers (s.modTw fun t =>
    { t with takeT := none, yieldT := none, snap := false, sched := [], item2 := 0, segs := [], item3 := 0 })

/-- Evidence of an ACTIVE or alone claim of the partner (R434). -/
def roleEvidence (s : State) (seq : BitVec 16) : State :=
  if leads s && claimNewer s seq then loseRole s else s

/-- HEAD_DATA of the other head is the twin partner's claim: its ROLE_SEQ is the last one known, and with ACTIVE 1 it is
evidence of the partner's role (R433, R434, Table 10-8). -/
def headClaim (s : State) (i : Nat) (f : Bytes) : State :=
  if !s.tw.on || by_ f 15 != 2 || by_ f 16 != segOther s i then s else
  let seq := BitVec.ofNat 16 (be f 26 2)
  let s := s.modTw fun t => { t with pSeq := seq }
  if bitN (by_ f 22) 5 then roleEvidence s seq else s

/-- FLAGS of a heartbeat (Table 11-7). -/
def hbFlags (s : State) : Nat :=
  b1 (s.hl.state == lsActive) + 2 * b1 (mirrorComplete s) + 4 * b1 s.tw.yieldT.isSome + 8 * b1 s.tw.takeT.isSome

/-- Bytes 14–59 of a heartbeat (Table 11-7). -/
def hbBody (s : State) : Bytes :=
  let t := s.tw
  toLe 1 0x40 ++ [1] ++ toLe 1 (pos s) ++ toLe 1 t.partner ++ toLe 1 t.role ++ toLe 1 (hbFlags s) ++ toBe 2 t.seq.toNat ++
    toBe 2 t.hbSeq.toNat ++ toBe 8 Config.dieSerial.toNat ++ toBe 8 (t.takeT.getD (t.yieldT.getD 0)) ++
    toLe 1 t.paths.toNat ++ zz 19

/-- The twin function runs: enabled, in the link logic of its heartbeat link (R430). -/
def twinRuns (s : State) : Bool := s.tw.on && on s (26 + s.tw.link) && !s.pw.testMode && !s.fs.f4

/-- A path on which heartbeats are expected: 0 cascade, 1–3 planes of HB_PLANES (R431). -/
def hbPath (s : State) (i : Nat) : Bool := i == 0 || cfgBit s oTwinPol 12 (i - 1)

/-- One own heartbeat period has passed on a path: a heartbeat not heard in it is missed, and MISSED in
succession end the path (R431, R432). -/
def hbGap (s : State) (i : Nat) : State :=
  if !hbPath s i then s else
  let n := tget (fun _ => 0) s.tw.gaps i
  let s := if n = 0 then s
    else count (s.modTw fun t => { t with missedAll := satAdd (2 ^ 32 - 1) t.missedAll 1 }) cTwin i
  s.modTw fun t =>
    { t with gaps := tset (fun _ => 0) t.gaps i (min 255 (n + 1)), paths := if t.missed ≤ n then setBit t.paths i false else t.paths }

/-- HEARTBEAT_SEND, from a unit that is not duplicated (R417, R431). -/
def execHeartbeatSend (s : State) : Host.Outcome State Fault Refusal :=
  run s fun s =>
    if !twinRuns s || s.tw.role == 0 then s else
    let s := [0, 1, 2, 3].foldl hbGap s
    let b := hbBody s
    let s := s.modTw fun t => { t with hbSeq := t.hbSeq + 1 }
    let s := kSend s s.tw.link 0x04 s.tw.partner b
    if kShut s 0x04 s.tw.partner then s else
    ([0, 1, 2].filter fun pl => cfgBit s oTwinPol 12 pl).foldl (fun s pl =>
      [2 * pl, 2 * pl + 1].foldl (fun s p =>
        sendOwn s p (cfg s oTwinPol 13 1) false (objRead s oTwinPol 14 6 ++ portAddr s p ++ [0x88, 0xB6] ++ b)) s) s

/-- A heartbeat is the partner's own, meant for this unit; a duplicated device takes part in none (R417, R432). -/
def hbHeard (s : State) (b : Bytes) : Bool :=
  by_ b 0 == 0x40 && by_ b 1 == 1 && by_ b 2 == s.tw.partner && by_ b 3 == pos s &&
    tget (fun _ => 0) s.sk.serials s.tw.partner == be b 10 8 && be b 10 8 != 0 && !kShut s 0x04 s.tw.partner

/-- What a heartbeat says is noted; heartbeats with HOST_UP 0 are counted once for each HB_SEQ (R440). -/
def hbNote (s : State) (i : Nat) (b : Bytes) : State :=
  let up := bitN (by_ b 5) 0
  let seq := BitVec.ofNat 16 (be b 8 2)
  s.modTw fun t =>
    { t with gaps := tset (fun _ => 0) t.gaps i 0, paths := setBit t.paths i true, lost := false, pRole := by_ b 4,
             pSeq := BitVec.ofNat 16 (be b 6 2), pFlags := BitVec.ofNat 8 (by_ b 5), pBoundary := be b 18 8, hostSeq := seq,
             hostDown := if up then 0 else if t.hostDown = 0 ∨ t.hostSeq ≠ seq then min 255 (t.hostDown + 1) else t.hostDown }

/-- A pending takeover is cancelled where the partner is heard leading with its host up, unless it
announces its yield for the same boundary (R441). -/
def cancelTakeover (s : State) : State :=
  let t := s.tw
  let yields := t.pFlags.getLsbD 2 && t.takeT == some t.pBoundary
  if t.takeT.isSome && (t.pRole == 1 || t.pRole == 4) && t.pFlags.getLsbD 0 && !yields then
    count (s.modTw fun t => { t with takeT := none, cancelled := satAdd (2 ^ 32 - 1) t.cancelled 1 }) cTwin 9
  else s

/-- A heartbeat carries the partner's TAKEOVER for the boundary of this unit's yield (R442). -/
def yieldAck (s : State) : State :=
  let t := s.tw
  if t.role == 1 && t.yieldT.isSome && t.pFlags.getLsbD 3 && t.yieldT == some t.pBoundary && !t.yieldAcked then
    let s := s.modTw fun t => { t with yieldAcked := true, yieldReq := none }
    match t.yieldReq with
    | some r => respondWith s r stOk false []
    | none => s
  else s

/-- The role machine on a heartbeat heard (Table 11-9, R440). -/
def roleHeard (s : State) : State :=
  let t := s.tw
  let leading := t.pRole == 1 || t.pRole == 4
  if t.role = 3 then
    if leading then syncDone s
    else if t.pRole = 3 ∧ pos s < t.partner then decideTakeover s (cycleStartAfter s (now80 s)) else s
  else if t.role = 2 then
    if s.hl.state ≠ lsActive then s
    else if t.pFlags.getLsbD 2 && leading then decideTakeover s t.pBoundary
    else if t.missed ≤ t.hostDown ∧ leading then decideTakeover s (twinBoundary s)
    else s
  else if leading then roleEvidence s t.pSeq
  else if t.role = 4 ∧ (t.pRole = 2 ∨ t.pRole = 3) then setRole s 1 t.seq
  else s

/-- A heartbeat on a path: 0 cascade, 1–3 planes A to C (R432). -/
def takeHeartbeat (s : State) (i : Nat) (b : Bytes) : State :=
  if !twinRuns s || !hbHeard s b then s else yieldAck (roleHeard (cancelTakeover (hbNote s i b)))

/-- HEARTBEAT: on a cascade link a cascade frame like any other (R413, R415, R432). -/
def execHeartbeat (path : HbPath) (bytes : Bytes) (s : State) : Host.Outcome State Fault Refusal :=
  run s fun s => match path with
    | .cascade k =>
      let (ok, s) := kTake s k.val 0x04 bytes
      if ok then takeHeartbeat s 0 (sub bytes 16 46) else s
    | .plane p => takeHeartbeat s (1 + p.val) bytes

/-- PARTNER_LOST (R432, R434, R440). -/
def execPartnerLost (s : State) : Host.Outcome State Fault Refusal :=
  run s fun s =>
    let t := s.tw
    if !twinRuns s || t.lost || t.role == 0 then s else
    let s := s.modTw fun t => { t with lost := true, pRole := 0, paths := 0 }
    if t.role = 4 then s else
    let s := fault s 133
    if t.role = 1 then setRole s 4 t.seq
    else if t.role = 3 ∨ s.hl.state = lsActive then decideTakeover s (twinBoundary s) else s

/-- Staged talker frames at the boundary of a takeover: those launched at or after T are sent, the
others stay withheld (R441). -/
def releaseTalkers (s : State) (t : Nat) : State :=
  talkerQueues.foldl (fun s q =>
    ((que s q).recs.filter fun r => (descHandle r.desc).isSome && r.phase == .staged).foldl (fun s r =>
      if t * 65536 ≤ r.launch then
        let s := modRec s q r.idx fun r => { r with withheld := false }
        if r.withheld then (ones r.todo).foldl (fun s p => match recOf s q r.idx with
          | some r => readyOn s q r.idx p r
          | none => s) s
        else s
      else modRec s q r.idx fun r => { r with withheld := true }) s) s

/-- TAKEOVER: the boundary T of a takeover, or of a yield on the unit that yields (R441, R442). A unit that leads
and has heard the partner's TAKEOVER for T stops there (Table 11-10). -/
def execTakeover (s : State) : Host.Outcome State Fault Refusal :=
  run s fun s =>
    let t := s.tw
    if !twinRuns s then s
    else match t.takeT, t.yieldT with
      | some b, _ =>
        if t.role ≠ 2 ∧ t.role ≠ 3 then s else
        let raw := rawNow s / 65536
        let s := count (s.modTw fun x => { x with takeT := none, takeRaw := raw, hostDown := 0 }) cTwin 8
        releaseTalkers (setRole s (if t.lost then 4 else 1) (t.pSeq + 1)) b
      | none, some _ =>
        if t.role = 1 ∧ t.yieldAcked = true then
          flushTalkers (setRole (s.modTw fun x => { x with yieldT := none, yieldAcked := false }) 2 t.seq)
        else s
      | none, none => if leads s && t.pFlags.getLsbD 3 && !t.lost then loseRole s else s

/-- YIELD_TIMEOUT: nothing changes (R442). -/
def execYieldTimeout (s : State) : Host.Outcome State Fault Refusal :=
  run s fun s => match s.tw.yieldReq with
    | some r => respondWith (s.modTw fun t => { t with yieldT := none, yieldReq := none }) r stState false []
    | none => s

/-- A record from the twin partner on Kk (Table 11-2). -/
def fromPartner (s : State) (k kind : Nat) (f : Bytes) : Bool × State :=
  let (ok, s) := kTake s k kind f
  (ok && s.tw.on && by_ f 2 % 8 == s.tw.partner, s)

/-- The queue and index of the own frame with a handle and launch time that is not yet decided (R437). -/
def ownTalker (s : State) (h : Nat) (launch : Nat) : Option (Nat × Nat) :=
  talkerQueues.findSome? fun q =>
    ((que s q).recs.find? fun r => descHandle r.desc == some h && launchField r.desc == launch && r.phase == .staged).map
      fun r => (q, r.idx)

/-- ASSIGN (R436, R437). -/
def execAssign (k : Fin 2) (frame : Bytes) (s : State) : Host.Outcome State Fault Refusal :=
  run s fun s =>
    let (ok, s) := fromPartner s k.val 0x20 frame
    if !ok || !standsBy s then s else
    let b := kBody frame
    let h := be b 0 2; let launch := be b 4 6
    let seq := BitVec.ofNat 16 (be b 2 2); let digest := BitVec.ofNat 64 (be b 12 8)
    match ownTalker s h launch with
    | some (q, idx) => meetAssign s q idx h seq digest
    | none => s.modTw fun t => { t with assigns := t.assigns ++ [(h, BitVec.ofNat 48 launch, seq, digest)] }

/-- MISSING_LOCAL (R437). -/
def execMissingLocal (h : Fin 4096) (launch : BitVec 48) (s : State) : Host.Outcome State Fault Refusal :=
  run s fun s =>
    match s.tw.assigns.find? fun a => a.1 == h.val && a.2.1 == launch with
    | some a =>
      count (s.modTw fun t => { t with assigns := t.assigns.erase a, missLocal := satAdd (2 ^ 32 - 1) t.missLocal 1 }) cTwin 6
    | none => s

/-- Item 3 of the mirror set (Table 11-8). -/
def segItem (s : State) : Bytes :=
  toBe 2 s.tw.seq.toNat ++ (List.range 16).flatMap fun i =>
    let g := sgm s i
    toBe 2 g.cycle.toNat ++ toLe 1 g.head ++ toLe 1 g.mode

/-- One MIRROR record (Table 11-8). -/
def sendMirror (s : State) (item : Nat) (last : Bool) (n : Nat) (entries : Bytes) : State :=
  kSend s s.tw.link 0x21 s.tw.partner (toLe 1 item ++ toLe 1 (b1 last) ++ toBe 2 n ++ entries)

/-- Items 2 and 3 (R435). -/
def sendItems (s : State) : State := sendMirror (sendMirror s 2 false 1 (schedItem s)) 3 false 1 (segItem s)

/-- A snapshot entry of a listener handle (Table 11-8). -/
def histEntry (s : State) (h : Nat) : Bytes :=
  let x := recovOf s h
  toBe 2 (h + if x.takeAny then 32768 else 0) ++ toBe 2 x.seq.toNat ++ toBe 8 x.hist.toNat ++ zz 4

/-- Records of a snapshot, each of at most 512 entries, the last one marked (R435, log entry 91). -/
def sendHist (s : State) : List Bytes → State
  | [] => sendMirror s 1 true 0 []
  | [b] => sendMirror s 1 true (b.length / 16) b
  | b :: bs => sendHist (sendMirror s 1 false (b.length / 16) b) bs

/-- The snapshot of every listener handle, and items 2 and 3 after it (R435). -/
def sendSnapshot (s : State) : State :=
  let l := (List.range 16384).filter fun h => cfg s (oListen h) 0 1 == 1
  sendItems (sendHist s (chunks 8192 (l.flatMap (histEntry s))))

/-- A snapshot entry loaded into the unit's own recovery state (R439). -/
def loadHist (s : State) (e : Bytes) : State :=
  let h := be e 0 2 % 16384
  let now := s.clock
  s.modStr fun x => { x with recov := tmod recovReset x.recov h fun r =>
    { r with takeAny := decide (32768 ≤ be e 0 2), seq := BitVec.ofNat 16 (be e 2 2), hist := BitVec.ofNat 64 (be e 4 8), newAt := now } }

/-- MIRROR (R435, R439). -/
def execMirror (k : Fin 2) (frame : Bytes) (s : State) : Host.Outcome State Fault Refusal :=
  run s fun s =>
    let (ok, s) := fromPartner s k.val 0x21 frame
    if !ok then s else
    let b := kBody frame
    let item := by_ b 0; let n := be b 2 2
    let now := s.clock
    if item = 1 ∧ n = 0 ∧ leads s = true then sendSnapshot s
    else if !standsBy s then s
    else if item = 1 then
      let s := (chunks 16 (sub b 4 (16 * n))).foldl loadHist s
      if by_ b 1 % 2 = 1 then syncDone (s.modTw fun t => { t with snap := true }) else s
    else if item = 2 then syncDone <| s.modTw fun t => { t with sched := sub b 4 42, item2 := now + 1 }
    else if item = 3 then
      syncDone <| s.modTw fun t => { t with segs := sub b 4 66, item3 := now + 1, seq := BitVec.ofNat 16 (be b 4 2), pSeq := BitVec.ofNat 16 (be b 4 2) }
    else s

/-- MIRROR_SEND: items 2 and 3 from a unit that leads; the request for a snapshot from one that
resynchronises without it (R435, log entry 91). -/
def execMirrorSend (s : State) : Host.Outcome State Fault Refusal :=
  run s fun s =>
    if leads s then sendItems s
    else if s.tw.on && s.tw.role == 3 && !s.tw.snap then sendMirror s 1 false 0 []
    else s

/-- Chunks of a region (Table 11-8). -/
def sendRegion (s : State) (n seq off : Nat) : List Bytes → State
  | [] => s
  | c :: cs =>
    let b := toLe 1 n ++ toLe 1 (b1 cs.isEmpty) ++ zz 2 ++ toBe 4 off ++ toBe 4 seq ++ c
    sendRegion (kSend s s.tw.link 0x22 s.tw.partner b) n seq (off + c.length) cs

/-- REGION_READ: a copy whose sequence word was even and stayed is sent (R438). -/
def execRegionRead (n : Fin 8) (data : Bytes) (after : BitVec 32) (s : State) : Host.Outcome State Fault Refusal :=
  run s fun s =>
    let r := region s n.val
    if !leads s || !r.on || !dmaOk s then s else
    let d := sub data 0 r.size
    let seq := le d 0 4
    if seq % 2 = 0 ∧ seq = after.toNat then sendRegion s n.val seq 0 (chunks 8192 d) else s

def modRegion (s : State) (n : Nat) (f : Region → Region) : State :=
  s.modTw fun t => { t with regions := tmod regionReset t.regions n f }

/-- A complete copy written behind its sequence word: odd, the body, even (R438; the odd value is the
copy's SEQ less 1, log entry 92). -/
def writeRegion (s : State) (n : Nat) (r : Region) : State :=
  let s := writeMem s r.addr (toLe 4 (r.partSeq - 1).toNat) 0
  let s := writeMem s (r.addr + 4) (r.part.drop 4) 0
  let s := writeMem s r.addr (toLe 4 r.partSeq.toNat) 0
  let now := s.clock
  syncDone <| count (modRegion (s.modTw fun t => { t with copies := satAdd (2 ^ 32 - 1) t.copies 1 }) n fun r =>
    { r with part := [], copied := now + 1, mismatch := false }) cTwin 11

/-- REGION (R438). -/
def execRegion (k : Fin 2) (frame : Bytes) (s : State) : Host.Outcome State Fault Refusal :=
  run s fun s =>
    let (ok, s) := fromPartner s k.val 0x22 frame
    let b := kBody frame
    let n := by_ b 0
    if !ok || !standsBy s || !(region s n).on || !decide (n < 8) then s else
    let off := be b 4 4; let seq := BitVec.ofNat 32 (be b 8 4)
    let r := region s n
    let r := if off = 0 then { r with part := b.drop 12, partSeq := seq }
      else if seq = r.partSeq ∧ off = r.part.length then { r with part := r.part ++ b.drop 12 }
      else { r with part := [] }
    let s := modRegion s n fun _ => r
    if by_ b 1 % 2 = 0 ∨ r.part = [] then s
    else if r.part.length ≠ r.size then count (modRegion s n fun r => { r with part := [], mismatch := true }) cTwin 12
    else if dmaOk s then writeRegion s n r
    else s

/-- The operational configuration is twin, or a staged or frozen order makes it so (Table 3-20, log
entry 208). -/
def twinConfigured (s : State) : Bool :=
  s.sk.config == 3 || (allOrders s).any fun o => o.opcode == 0x89 && by_ o.payload 0 == 3

/-- The checks and effect of TWIN_CONFIG (R430, Table 3-19). -/
def twinConfigCmd (s : State) (r : Request) : Answer :=
  let p := r.payload
  sized r 12 (
    if by_ p 0 > 1 then badRange 16 else if by_ p 1 > 7 then badRange 17 else if by_ p 2 > 1 then badRange 18
    else if by_ p 3 ≠ 0 then badRange 19
    else if le p 4 2 < 10 ∨ 1000 < le p 4 2 then badRange 20
    else if by_ p 6 < 2 ∨ 16 < by_ p 6 then badRange 22
    else reserved r [7] (
      if !twinConfigured s then .no stState []
      else stageOrder s r [24 + by_ p 2, 26 + by_ p 2] none []))

/-- TWIN_CONFIG (R430). -/
def execTwinConfig (via : Via) (s : State) : Host.Outcome State Fault Refusal := runCmd via 0x80 twinConfigCmd s

/-- TWIN_STATUS payload (Table 3-19). -/
def twinPayload (s : State) : Bytes :=
  let t := s.tw
  toLe 1 t.role ++ toLe 1 t.pRole ++ toLe 1 (b1 (if leads s then t.pFlags.getLsbD 1 && !t.lost else mirrorComplete s)) ++
    toLe 1 (b1 (t.pFlags.getLsbD 0 && !t.lost)) ++ toLe 4 t.missedAll ++ toLe 8 t.takeRaw ++ toLe 4 t.mism

/-- TWIN_STATUS (R126). -/
def execTwinStatus (via : Via) (s : State) : Host.Outcome State Fault Refusal :=
  runCmd via 0x81 (fun s r => sized r 0 (.ok s (twinPayload s))) s

/-- The checks and effect of TWIN_YIELD (R442, R445). -/
def twinYieldCmd (s : State) (r : Request) : Answer :=
  sized r 0 (
    let t := s.tw
    if !t.on || t.role != 1 || t.lost || t.pRole != 2 || !t.pFlags.getLsbD 1 || t.yieldT.isSome then .no stState []
    else
      let b := twinBoundary s
      .later (s.modTw fun t => { t with yieldT := some b, yieldReq := some r, yieldAcked := false }))

/-- TWIN_YIELD (R442). -/
def execTwinYield (via : Via) (s : State) : Host.Outcome State Fault Refusal := runCmd via 0x82 twinYieldCmd s

/-- Size of a region as the frozen and staged declarations leave it (R438). -/
def regionSize (s : State) (n : Nat) : Nat :=
  match (allOrders s).reverse.find? fun o => o.opcode == 0x83 && by_ o.payload 0 == n with
  | some o => if by_ o.payload 1 = 1 then le o.payload 12 4 else 0
  | none => if (region s n).on then (region s n).size else 0

/-- The checks and effect of MIRROR_DECLARE (R438). -/
def mirrorDeclareCmd (s : State) (r : Request) : Answer :=
  let p := r.payload
  sized r 16 (
    let n := by_ p 0
    if n > 7 then badRange 16 else if by_ p 1 > 1 then badRange 17
    else reserved r [2, 3] (
      let others := ((List.range 8).filter (· != n)).foldl (fun a k => a + regionSize s k) 0
      if le p 12 4 % 64 ≠ 0 ∨ (by_ p 1 = 1 ∧ 65536 < others + le p 12 4) then badRange 28
      else if !twinConfigured s then .no stState []
      else stageOrder s r [] none []))

/-- MIRROR_DECLARE (R438). -/
def execMirrorDeclare (via : Via) (s : State) : Host.Outcome State Fault Refusal := runCmd via 0x83 mirrorDeclareCmd s

/-- STACK_STATUS (R126, Table 3-19). -/
def execStackStatus (via : Via) (s : State) : Host.Outcome State Fault Refusal :=
  runCmd via 0x88 (fun s r => sized r 0 (.ok s
    (toLe 1 (pos s) ++ toLe 1 s.sk.master ++ toLe 1 (presentMask s) ++ toLe 1 s.sk.config ++ toLe 1 s.sk.dup.toNat ++ zz 3))) s

/-- The checks and effect of STACK_CONFIG (R429, R430, Table 3-20). A range past handle 16,383 names byte 20, its
COUNT (log entry 206). -/
def stackConfigCmd (s : State) (r : Request) : Answer :=
  let p := r.payload
  sized r 8 (
    let c := by_ p 0
    if c > 3 ∨ (c = 3 ∧ (positions s).length ≠ 2) then badRange 16
    else reserved r [1, 2, 3] (
      if c = 2 ∧ 16384 < le p 4 2 + le p 6 2 then badRange 20
      else if !s.sk.complete then .no stState []
      else stageOrder s r [] none []))

/-- STACK_CONFIG (R429, R430). -/
def execStackConfig (via : Via) (s : State) : Host.Outcome State Fault Refusal := runCmd via 0x89 stackConfigCmd s

/-- KTB_FRAME_RECEIVE: what is discarded or ignored is counted; a frame takes part in the cycle that runs; HEAD_DATA of
the other head is the partner's claim, and with ACTIVE 1 evidence of its role (R368, R370, R372, R380, R384, R434). -/
def execKtbFrameReceive (i : Fin 16) (line : List Bool) (markPs : Int) (skewed overran : Bool) (s : State) :
    Host.Outcome State Fault Refusal :=
  run s fun s =>
    if !segOn s i.val then s else
    match ktbHeard skewed line with
    | none => count s (cSeg i.val) 8
    | some f =>
      let s' := ktbReceive s i.val f markPs overran
      if ktbGood s i.val f && (sgm s i.val).runs then headClaim s' i.val f else s'

end Sys2Proof.Machine
end

