-- ==== Sys2Proof/Machine/Rx.lean ====
section
/-! DEFINITION. Reception: frames and fragments, the deciding pass before a frame's end, the glory
loop's second pass, links that go down, and rule-set epochs (chapter 8, R279–R282, R329). -/

namespace Sys2Proof.Machine

/-- The function that a device frame is handed to (R296): plane agreement, or the twin heartbeat. -/
def devTake (p kind : Nat) (f : Bytes) (s : State) : State :=
  if kind = 0x40 then takeHeartbeat s (1 + p / 2) (sub f 14 46) else takeAgree p kind f s

/-- FRAME_RECEIVE (Table 8-1). -/
def execFrameReceive (p : Fin 6) (frame : Bytes) (codeError : Bool) (s : State) : Host.Outcome State Fault Refusal :=
  run s fun s => if receives s p.val then
    let (st, s) := rxStamp s p.val frame.length
    receive s devTake p.val frame codeError st
  else s

/-- FRAGMENT_RECEIVE, on a port whose MAC merge is set up (R279–R282). -/
def execFragmentReceive (p : Fin 6) (smd count : BitVec 8) (data : Bytes) (mcrc good : Bool) (s : State) :
    Host.Outcome State Fault Refusal :=
  run s fun s =>
    if receives s p.val && cfg s (oMerge p.val) 0 1 == 1 then takeFragment s devTake p.val smd.toNat count.toNat data mcrc good
    else s

/-- DECIDING_PASS_COMPLETE: the pass of a frame completes before its end (R325, R329). -/
def execDecidingPassComplete (p : Fin 6) (pfx : Bytes) (smdE : Bool) (s : State) : Host.Outcome State Fault Refusal :=
  run s fun s => if receives s p.val && on s 62 && !s.fs.f4 then decideEarly s p.val pfx smdE else s

/-- SECOND_PASS: the oldest head in the loop is classified again in its own view and concluded
(R318, R319, R323, R324). -/
def execSecondPass (s : State) : Host.Outcome State Fault Refusal :=
  run s fun s =>
    match s.rx.loop with
    | [] => s
    | h :: rest =>
      let s := s.modRx fun r => { r with loop := rest }
      if s.fs.f4 then drainCheck s
      else if !h.whole then
        drainCheck (passEarly s h.port h.view h.pfx h.plain (some ⟨h.tci, h.sci⟩) h.smdE h.set h.stamp h.epoch) else
      let (v, s) := classify s h.port h.view h.plain (some ⟨h.tci, h.sci⟩) none
      drainCheck (conclude s devTake h.port v h.plain h.len h.stamp h.epoch none)

/-- LOOP_WAIT_EXPIRY: the oldest head is dropped (R318). -/
def execLoopWaitExpiry (s : State) : Host.Outcome State Fault Refusal :=
  run s fun s =>
    match s.rx.loop with
    | [] => s
    | h :: rest =>
      let s := drainCheck (count (s.modRx fun r => { r with loop := rest }) cDev 1)
      if h.whole then s
      else keepEarly s h.port
        { pfx := h.pfx, sec := true, verdict := dropVerdict, copy := none, set := h.set, stamp := h.stamp, epoch := h.epoch }

/-- A backbone lane loses its link (R273, R282, R332). -/
def portDown (s : State) (p : Nat) : State :=
  if !(prt s p).up then s else
  let n := (prt s p).ctxs.length
  let s := countN (count s (cPort p 0) 10) (cPort p 0) 22 n
  linkFault (portGone s p) p

/-- LINK_DOWN: of Pn, or of the service lane, whose sessions close (R282, R498). -/
def execLinkDown (p : Fin 7) (s : State) : Host.Outcome State Fault Refusal :=
  run s fun s =>
    if p.val < 6 then portDown s p.val else (List.range 8).foldl (fun s k => sessClose s k none) s

/-- Node ranges of the two physical views (Table 8-13). -/
def viewRange (s : State) (v : Nat) : Nat × Nat :=
  let o := oidOf 0x0504 v 0
  (cfg s o 0 4, cfg s o 0 4 + cfg s o 4 4)

/-- A root named by the shadow view is VALID and lies in its range. -/
def rootOk (s : State) (v k : Nat) : Bool :=
  let o := oidOf 0x0505 v 0
  let n := cfg s o (4 * k) 2
  cfgBit s o (4 * k + 3) 7 && decide ((viewRange s v).1 ≤ n) && decide (n < (viewRange s v).2)

/-- The shadow view is complete (R321). -/
def shadowComplete (s : State) : Bool :=
  let v := 1 - s.rx.active
  let (a, b) := viewRange s v
  let (c, d) := viewRange s s.rx.active
  let apart := decide (b ≤ c) || decide (d ≤ a) || a == b || c == d
  apart && (List.range 12).all fun i =>
    let k := cfg s (oidOf 0x0504 v 0) (8 + i) 1
    k == 0xFF || rootOk s v k

/-- The shadow view becomes active (R322). -/
def swapEpoch (s : State) : State :=
  count (s.modRx fun r => { r with active := 1 - r.active, epoch := r.shadow, draining := some r.epoch }) cDev 15

/-- The checks and effect of EPOCH_SWAP (R321–R323). A rule engine that is off holds no complete shadow set (log
entry 201). -/
def epochSwapCmd (s : State) (r : Request) : Answer :=
  sized r 0 (
    if s.rx.draining.isSome then .no stEpoch (epochPayload s)
    else if !on s 62 || !shadowComplete s then .no stState []
    else
      let old := s.rx.epoch
      let t := swapEpoch s
      .ok (drainCheck t) (toLe 2 t.rx.epoch.toNat ++ toLe 2 old.toNat))

/-- EPOCH_SWAP (R321, R322). -/
def execEpochSwap (via : Via) (s : State) : Host.Outcome State Fault Refusal := runCmd via 0x38 epochSwapCmd s

/-- EPOCH_STATUS (Table 3-17). -/
def execEpochStatus (via : Via) (s : State) : Host.Outcome State Fault Refusal :=
  runCmd via 0x39 (fun s r => sized r 0 (
    .ok s (toLe 2 s.rx.epoch.toNat ++ toLe 2 (shadowField s) ++ toLe 2 (drainField s) ++ zz 2 ++ toLe 4 (drainCount s)))) s

end Sys2Proof.Machine
end

