-- ==== Sys2Proof/Machine/Adjust.lean ====
section
/-! DEFINITION. The adjustment point: rate and step put in force together, and what a step means for
boundaries, gates, segments and timed outputs (R168, R174, R179, R180, R207, R261, R392, R393, R404). -/

namespace Sys2Proof.Machine

/-- The voted raw count is an adjustment point for an adjustment accepted at `at_` ns (R168). -/
def atPoint (s : State) (a : Adjust) : Bool :=
  rawNow s / 65536 % 1024 == 0 && decide (a.at_ + 2000 ≤ rawNow s / 65536)

/-- An adjustment that uses a permit waits out the last millisecond before a held boundary (R179). -/
def adjustWaits (s : State) (a : Adjust) : Bool :=
  a.permit && s.mb.held && match s.mb.boundary with
    | some b => decide (now80 s < b * 65536) && decide (b * 65536 ≤ now80 s + 1000000 * 65536)
    | none => false

/-- One channel at the adjustment point p (R168). -/
def adjustChan (a : Adjust) (p : Nat) (c : Chan) : Chan :=
  let r := c.rate.toInt * ((p : Int) - (c.anchor.toNat : Int)) / 2 ^ 40
  { c with off := BitVec.ofInt 80 (c.off.toInt + r + a.step.getD 0), anchor := BitVec.ofNat 80 p, rate := a.rate.getD c.rate }

/-- Rates kept for the mean of the last 16 s: every one of that time, and the one in force at its start. -/
def pruneRates (lo : Nat) : List (Nat × Int) → List (Nat × Int)
  | [] => []
  | x :: xs => if x.1 ≤ lo then [x] else x :: pruneRates lo xs

/-- Boundaries that a forward step from `was` passes over are taken now (R180). -/
def stepBoundary (s : State) (was : Nat) : State :=
  if (s.mb.boundary.map fun b => decide (was < b * 65536) && decide (b * 65536 ≤ now80 s)).getD false then takeBoundary (holdSet s)
  else if was / (commitPeriod s * 65536) < now80 s / (commitPeriod s * 65536) then passBoundary s
  else s

/-- Hold state that a gate list gives at a position of the cycle, going round: what the last HOLD, which
acts HOLD_ADVANCE_NS ahead of its entry, or RELEASE before it has left (R259, R261). -/
def holdOf (l : List GateEntry) (off adv cyc : Nat) : Bool :=
  ((entryStarts l 0).foldl (fun (best : Nat × Bool) x =>
    if x.2.op ≠ 1 ∧ x.2.op ≠ 2 then best else
    let at_ := if x.2.op = 1 then x.1 + cyc - adv % cyc else x.1
    let age := (off + 2 * cyc - at_) % cyc
    if age < best.1 then (age, x.2.op == 1) else best) (cyc, false)).2

/-- A port meets a step from a corrected time in ps (R261). -/
def stepPort (was : Nat) (s : State) (p : Nat) : State :=
  if !on s (6 + p) || (gates s p).isEmpty then s else
  let h := holdOf (gates s p) (cyclePos s (nowPs s)) (holdAdvance s p) (cyclePs s)
  let s := if mergeOn s p || !h then modPrt s p fun x => { x with hold := h } else s
  match (prt s p).line with
  | some f => if gateOpen s p f.frame.tc was && !gateOpen s p f.frame.tc (nowPs s) then countOverrun s p else s
  | none => s

/-- Entries of a segment's cycle whose start a forward step passes over, in corrected time (R392). -/
def skippedEntries (s : State) (i was now : Nat) : List Nat :=
  ((idxd (segTable s i)).filter fun x =>
    let t := ((sgm s i).start + x.2.start) * 65536
    decide (was < t) && decide (t < now)).map (·.1)

/-- A transmission in progress on a segment completes: what is placed in corrected time moves with it (R392, R393). -/
def shiftSeg (s : State) (step : Int) (i : Nat) : State :=
  let by_ (n : Nat) : Nat := ((n : Int) + step / 65536).toNat
  modSgm s i fun g => if g.sending.isSome then { g with rise := by_ g.rise, fall := by_ g.fall } else g

/-- A segment meets a step. A small one: the segment goes on in the new corrected time, a cycle start that is passed over
taken at once, and the entries that are passed over not run. A larger one: no further entry in this cycle (R392,
R393). -/
def stepSeg (s : State) (step : Int) (was i : Nat) : State :=
  if !on s (30 + i) || !(sgm s i).runs then s else
  let s := shiftSeg s step i
  if 2 * step.natAbs ≤ segAccept s i * 65536 then
    let t := segCycleAt s i
    let s := if segOn s i && segCycleNs s i != 0 && decide (was < t * 65536) && decide (0 < step) then segCycle s i t else s
    let l := skippedEntries s i was (now80 s)
    if l.isEmpty then s else modSgm s i fun g => { g with ran := l ++ g.ran }
  else if (sgm s i).head = 1 ∨ (sgm s i).head = 2 then modSgm s i fun g => { g with stopped := true }
  else s

/-- The voter sends a step to the Gauntlet, whose own time makes it too, so that Δ is unchanged (R404). -/
def gauntStep (s : State) (step : Int) : State :=
  (gauntTurn s).modSg fun x => { x with own := x.own.map fun o => (o.1 + step, o.2) }

/-- What an offset step means beyond the time itself (R180, R207, R261, R393, R404). -/
def stepEffects (s : State) (step : Int) (was : Nat) : State :=
  let now := s.clock
  let s := gauntStep (s.modTm fun t => { t with stepAt := now + 1 }) step
  let s := if 0 < step then stepBoundary s was else s
  let s := ports6.foldl (stepPort (psOf was)) s
  let s := (List.range 16).foldl (fun s i => stepSeg s step was i) s
  if 0 < step then (List.range 8).foldl outStep s else s

/-- The request of an adjustment is answered (R174). -/
def answerAdjust (s : State) (via : Option Via) : State :=
  match via with
  | none => s
  | some v => match s.mb.taken.find? (fun r => r.via == v && r.opcode == 0x0051) with
    | some r => respondWith s r stOk false []
    | none => s

/-- The accepted adjustment takes effect in every channel in the vote (R168, R192). -/
def adjustNow (s : State) (a : Adjust) : State :=
  let was := now80 s
  let p := rawNow s
  let vs := voters s
  let s := cbsAll s
  let s := vs.foldl (fun s i => modChan s i (adjustChan a p)) s
  let now := s.clock
  let s := s.modTm fun t =>
    { t with pending := none,
             rates := match a.rate with
               | some r => pruneRates (now - 16000000000) ((now, r.toInt) :: t.rates)
               | none => t.rates }
  let s := match a.step with
    | some d => if d = 0 then s else stepEffects s d was
    | none => s
  answerAdjust (if a.servo then servoTook s else s) a.via

/-- ADJUSTMENT_POINT (R168). -/
def execAdjustmentPoint (s : State) : Host.Outcome State Fault Refusal :=
  run s fun s =>
    match s.tm.pending with
    | none => s
    | some a => if !timeOk s || !atPoint s a || adjustWaits s a then s else adjustNow s a

end Sys2Proof.Machine
end

