-- ==== Sys2Proof/Machine/FaultOps.lean ====
section
/-! DEFINITION. The fault collector's commands: assertions and their ends, the F3 exit, FAULT_READ,
FAULT_CLEAR, FAULT_INJECT and FAULT_CONFIG, SAFE_N readback, the Gaffer's watchdog and the CI09 check
(R447–R469). -/

namespace Sys2Proof.Machine

/-- A level source (Table 12-1). -/
def isLevel (n : Nat) : Bool := match srcInfo n with
  | some (l, _, _) => l
  | none => false

/-- Fewer than two channels are left in the vote (R184). -/
def voteCheck (s : State) : State := if on s 68 && decide ((voters s).length < 2) then voteFail s else s

/-- The `entry`th frame that waits for host memory holds an uncorrectable packet-buffer error: queue
`entry % 64`, place `entry / 64` in it. It goes with POISON and STATUS BUFFER_ECC (R66, Table 2-7). -/
def frameError (s : State) (entry : Nat) : State :=
  modQue s (64 + entry % 64) fun u =>
    { u with wbs := u.wbs.modify (entry / 64) fun w =>
        if by_ w.wb 15 ≤ 1 then { w with poison := true, wb := patch w.wb 15 [2] } else w }

/-- A flash operation failed: the error is counted and kept, and the open update cannot finish well (R510, R513). -/
def flashError (s : State) : State :=
  count (s.modMg fun m => { m with flashErr := true, update := m.update.map fun u => { u with failed := true } }) cDev 21

/-- One real assertion as its detector reports it; with FS035 no voted time exists any more (R464). -/
def sourceAssert (s : State) (n : Nat) (ipTable : Bool) (entry : Nat) : State :=
  match srcInfo n with
  | none => s
  | some (level, _, _) =>
    if level && (srcOf s n).cond then s else
    let s := if n = 35 then s.modTm fun t => { t with lostVote := true } else s
    let s := if level then modSrc s n fun x => { x with cond := true } else s
    let s := assertWith s n false ipTable entry
    if n = 75 then frameError s entry
    else if n = 59 then flashError s
    else if 32 ≤ n ∧ n ≤ 34 then voteCheck s else s

/-- Sources whose detectors run while the core is held: overvoltage, and what AO-safety and AO-security detect
(Table 12-1, R30, R459, R466). An undervoltage then is a rail that is not yet good (R24). -/
def aoDetects (n : Nat) : Bool := (6 ≤ n && n < 12) || n == 24 || n == 25 || n == 26

/-- FAULT_SOURCE_ASSERT (R448). -/
def execFaultSourceAssert (src : Fin 192) (ipTable : Bool) (entry : Nat) (s : State) : Host.Outcome State Fault Refusal :=
  aoRun s fun s =>
    if !held s then sourceAssert s src.val ipTable entry
    else if aoDetects src.val then (if isLevel src.val then aoOn s src.val else aoFault s src.val)
    else s

/-- FAULT_SOURCE_DEASSERT: the condition of a level source ends (R451). -/
def execFaultSourceDeassert (src : Fin 192) (s : State) : Host.Outcome State Fault Refusal :=
  aoRun s fun s =>
    if isLevel src.val && (srcOf s src.val).cond && (!held s || aoDetects src.val) then condOff s src.val else s

/-- A target held by no F3 any more takes up again (R457, R406). -/
def f3Resume (s : State) (t : Nat) : State :=
  if t < 3 then portUnfence (portUnfence s (2 * t)) (2 * t + 1)
  else
    let i := t - 16
    if !on s (30 + i) then s
    else
      let s := gauntletLoad (segListen s i (2 + segOwn s i)) i
      if fencedSeg s i then modSgm s i fun g => { g with head := 5, before := 0 } else s

/-- Sources neither present nor sticky hold their targets no longer; the targets left without one
resume. With FS140 the windows that divergence closed are free (R457, R406). -/
def f3Exit (s : State) : State :=
  let was := s.fs.f3
  let stay := was.filter fun x => (srcOf s x.2).present || (srcOf s x.2).sticky
  let gone := (List.range 32).filter fun t => was.any (·.1 == t) && !stay.any (·.1 == t)
  let s := s.modFs fun f => { f with f3 := stay }
  let s := if was.any (·.2 == 140) && !stay.any (·.2 == 140) then s.modSg fun x => { x with diverged := false } else s
  if held s then s else gone.foldl f3Resume s

/-- The F3 of a source closes windows of the Gauntlet: of every segment, or of one (R403, R405, R450). -/
def closesWindows (s : State) (n : Nat) : Bool := clsOf s n == 3 && (f3Targets n).any (16 ≤ ·)

/-- The condition of a source has been absent for 1 s: where its F3 closes windows, Δ has been small at every marker
of that second (R406, R451). -/
def absentLong (s : State) (n : Nat) : Bool :=
  let x := srcOf s n
  x.present && !x.cond && !x.hold && (!closesWindows s n || s.sg.goodSince.any fun t => decide (t + 1000000000 ≤ s.clock))

/-- PRESENT_BIT_EXPIRY (R451). -/
def execPresentBitExpiry (src : Fin 192) (s : State) : Host.Outcome State Fault Refusal :=
  aoRun s fun s =>
    if absentLong s src.val then f3Exit (modSrc s src.val fun x => { x with present := false }) else s

/-- 24 bytes with one bit for each source. -/
def srcBits (f : Nat → Bool) : Bytes := toLe 24 (maskOf 192 f)

/-- FAULT_READ payload (Table 3-18). -/
def faultPayload (s : State) : Bytes :=
  let f := s.fs
  toLe 2 f.recSrc ++ toLe 1 f.recCls ++ toLe 1 (b1 f.recValid + 2 * b1 f.recOver + 4 * b1 f.recInj) ++
    toLe 10 f.recRaw.toNat ++ zz 2 ++ srcBits (fun n => (srcOf s n).sticky) ++ srcBits fun n => (srcOf s n).present

/-- FAULT_READ (R126). -/
def execFaultRead (via : Via) (s : State) : Host.Outcome State Fault Refusal :=
  runCmd via 0x60 (fun s r => sized r 0 (.ok s (faultPayload s))) s

/-- The source that a fault order names, or its refusal (R447). -/
def namesSource (r : Request) (f : Nat → Answer) : Answer :=
  let n := le r.payload 0 2
  sized r 4 (if (srcInfo n).isNone then badRange 16 else f n)

/-- An order that is accepted passes over the collector port: a transfer that fails its parity check is discarded and
asserts FS024, whose F4 the answer reports (R460, log entry 215). -/
def transferred (parity : Bool) (f : State → Request → Answer) (s : State) (r : Request) : Answer :=
  match f s r with
  | .no st p => .no st p
  | a => if parity then a else .done (fault s 24) stGrave []

/-- The checks and effect of FAULT_CLEAR (R454). -/
def faultClear (s : State) (r : Request) : Answer :=
  namesSource r fun n =>
    let b := by_ r.payload 2
    if 4 ≤ b then badRange 18
    else reserved r [3] (
      if bitN b 0 && (srcOf s n).present then .no stState []
      else if bitN b 1 && s.fs.recValid && ((srcOf s s.fs.recSrc).present || s.fs.recCls == 4) then .no stState []
      else
        let s := if bitN b 0 then modSrc s n fun x => { x with sticky := false, onlyInj := false } else s
        let s := if bitN b 1 then s.modFs fun f => { f with recValid := false, recOver := false, recInj := false } else s
        .ok (f3Exit s) [])

/-- FAULT_CLEAR (R454). -/
def execFaultClear (o : PortOrder) (s : State) : Host.Outcome State Fault Refusal :=
  runCmd o.via 0x61 (transferred o.parity faultClear) s

/-- One injected assertion (R467). -/
def injectOnce (s : State) (n : Nat) : State :=
  let s := assertWith s n true false 65536
  if 32 ≤ n ∧ n ≤ 34 then voteCheck s else s

/-- The present bit of a source whose injection has ended (R451, R468). -/
def injectEnd (s : State) (n : Nat) : State :=
  let c := clsOf s n
  modSrc s n fun x =>
    { x with present := (isLevel n && (x.cond || x.hold)) || (c == 3 && x.present) }

/-- The checks and effect of FAULT_INJECT (R467, R468). -/
def faultInject (s : State) (r : Request) : Answer :=
  namesSource r fun n =>
    let m := by_ r.payload 2
    if 2 < m then badRange 18
    else reserved r [3] (
      let x := srcOf s n
      if (m = 1 ∧ x.hold = true) ∨ (m = 2 ∧ x.hold = false) then .no stState []
      else if m = 0 then .ok (injectEnd (injectOnce s n) n) []
      else if m = 1 then
        let s := modSrc s n fun x => { x with hold := true }
        .ok (if x.cond then s else injectOnce s n) []
      else .ok (injectEnd (modSrc s n fun x => { x with hold := false }) n) [])

/-- FAULT_INJECT (R467). -/
def execFaultInject (o : PortOrder) (s : State) : Host.Outcome State Fault Refusal :=
  runCmd o.via 0x62 (transferred o.parity faultInject) s

/-- The checks and effect of FAULT_CONFIG (R449). -/
def faultConfig (s : State) (r : Request) : Answer :=
  namesSource r fun n =>
    let c := by_ r.payload 2
    let may : Bool := match srcInfo n with
      | some (_, _, l) => l.contains c
      | none => false
    if !may then badRange 18 else reserved r [3] (stageOrder s r [] none [])

/-- FAULT_CONFIG (R449). -/
def execFaultConfig (o : PortOrder) (s : State) : Host.Outcome State Fault Refusal :=
  runCmd o.via 0x63 (transferred o.parity faultConfig) s

/-- SAFE_N_READBACK: the pad levels of the last microsecond (R466). -/
def execSafeNReadback (pads : BitVec 2) (s : State) : Host.Outcome State Fault Refusal :=
  aoRun s fun s =>
    let s := s.modPads fun p => { p with safePad := pads }
    if pads = s.pads.safeN then condOff s 25 else aoOn s 25

/-- GAFFER_WATCHDOG, while firmware runs (R458). -/
def execGafferWatchdog (s : State) : Host.Outcome State Fault Refusal :=
  run s fun s => if s.se.phase = 2 ∨ s.se.phase = 3 then fault s 56 else s

/-- CI09_CHECK: 32 MHz ± 5 % (R469). -/
def execCi09Check (hz : Nat) (s : State) : Host.Outcome State Fault Refusal :=
  run s fun s =>
    if !s.pw.sysPll then s
    else if hz < 30400000 ∨ 33600000 < hz then condOn s 14 else condOff s 14

end Sys2Proof.Machine
end

