-- ==== Sys2Proof/Machine/Life.lean ====
section
/-! DEFINITION. Wear and remaining life (R504–R506), and what the event log and the accumulators take
from flash at power-up (R505, R507). -/

namespace Sys2Proof.Machine

/-- One unit of the fixed-point arithmetic of AF: 2^48. -/
def fpOne : Int := 2 ^ 48

/-- Product of two fixed-point numbers. -/
def fpMul (a b : Int) : Int := a * b / fpOne

/-- exp of a small fixed-point number, by its series, innermost term first. -/
def expSmall (y : Int) : Int :=
  [8, 7, 6, 5, 4, 3, 2, 1].foldl (fun a (k : Int) => fpOne + fpMul y a / k) fpOne

/-- AF(T) of R504 for T in 0.1 °C, in 2^-48: the exponent is divided by 256 and the result squared
eight times (log entry 110). -/
def accel (t : Int) : Int :=
  let x := 812300 * (10 * t - 8500) * fpOne / (35815 * (10 * t + 27315))
  [0, 0, 0, 0, 0, 0, 0, 0].foldl (fun a (_ : Nat) => fpMul a a) (expSmall (x / 256))

/-- Seconds at a temperature added to the life accumulators (R504). -/
def lifeAdd (s : State) (sec : Nat) (t : Int) : State :=
  let now := s.clock
  s.modMg fun m =>
    { m with powered := m.powered + sec, hot := m.hot + (if 1050 ≤ t then sec else 0),
             equiv := m.equiv + sec * (accel t / 65536).toNat, topTj := max m.topTj t, lifeAt := now }

/-- Measured fraction of life of a wear monitor, 0.01 % (Table 14-2). -/
def wearFraction (s : State) (k : Nat) : Nat :=
  let x := sensor s (16 + k)
  if x.seen then (x.reading.toNat * 10000) / (Config.endShift k).toNat else 0

/-- The largest measured fraction (R506). -/
def wearTop (s : State) : Nat := [0, 1, 2, 3].foldl (fun a k => max a (wearFraction s k)) 0

/-- Accumulator and budget of the factors 1 equivalent, 2 hot, 3 cycles, 4 wear (Table 14-3). -/
def lifeFactors (s : State) : List (Nat × Nat × Nat) :=
  [(1, s.mg.equiv, 402400 * 3600 * 2 ^ 32), (2, s.mg.hot, 17532 * 3600), (3, s.mg.cycles, 1000), (4, wearTop s, 10000)]

/-- Remaining seconds and the factor that gives the minimum (R506). -/
def lifeLeft (s : State) : Nat × Nat :=
  let p := s.mg.powered
  (lifeFactors s).foldl (fun (x : Nat × Nat) (f : Nat × Nat × Nat) =>
    let (n, a, b) := f
    if b ≤ a then (if x.1 = 0 then x else (0, n))
    else if a = 0 then x
    else if p * (b - a) / a < x.1 then (p * (b - a) / a, n) else x) (350640 * 3600 - p, 0)

/-- The remaining-life estimate in hours (R506). -/
def lifeHours (s : State) : Nat := if s.mg.powered < 720 * 3600 then 0xFFFFFFFF else (lifeLeft s).1 / 3600

/-- The limiting factor (R506). -/
def lifeLimit (s : State) : Nat := (lifeLeft s).2

/-- Life record, sensor 32 (Table 14-4). -/
def lifeRecord (s : State) : Bytes :=
  let m := s.mg
  toLe 4 (m.powered / 3600) ++ toLe 4 (m.hot / 3600) ++ toLe 4 (m.equiv / 2 ^ 32 / 3600) ++ toLe 2 m.cycles ++
    toLe 2 (wearTop s) ++ toLe 4 (lifeHours s) ++ toLe 1 (lifeLimit s) ++ toLe 1 (b1 (!m.flash)) ++ zz 10

/-- Addresses of the wear record and of the log ring, and what a log sector holds (Table 14-7). -/
def wearBase : Nat := 0x2000
def logBase : Nat := 0x110000
def logMagic : Nat := 0x08604C47

/-- Sector of the log ring that holds a record number, and its address: 127 records in each of the 752
sectors in turn (log entry 111). -/
def logSector (n : Nat) : Nat := logBase + (n / 127) % 752 * 0x1000
def logAddr (n : Nat) : Nat := logSector n + 32 + n % 127 * 32

/-- Body of a wear record (R511). -/
def wearBody (s : State) : Bytes :=
  toLe 8 s.mg.powered ++ toLe 8 s.mg.hot ++ toLe 8 (s.mg.equiv / 2 ^ 32) ++ toLe 2 s.mg.cycles ++ toLe 2 (uns 16 s.mg.topTj)

/-- At power-up the newer valid wear record is loaded, and ten minutes at its highest Tj are added (R505). -/
def lifeLoad (s : State) : State :=
  match validCopy s wearBase wearMagic with
  | none => s
  | some (_, b) =>
    let s := s.modMg fun m =>
      { m with powered := m.powered + le b 8 8, hot := m.hot + le b 16 8, equiv := m.equiv + le b 24 8 * 2 ^ 32,
               cycles := m.cycles + le b 32 2, flash := true }
    let top := s.mg.topTj
    (lifeAdd s 600 (sgn 16 (le b 34 2))).modMg fun m => { m with topTj := top }

/-- A log record is whole: its CRC is good (Table 14-5). -/
def logOk (b : Bytes) : Bool := le b 28 4 == crc32c (b.take 28)

/-- Record numbers of the sectors whose header is good, and that hold a good record. -/
def sectorRecords (s : State) (k : Nat) : List Nat :=
  let a := logBase + 0x1000 * k
  let h := flashRead s a 32
  if le h 0 4 ≠ logMagic ∨ le h 28 4 ≠ crc32c (h.take 28) then []
  else
    let first := le h 4 4
    ((List.range 127).map (first + ·)).filter fun n =>
      let b := flashRead s (a + 32 + (n - first) * 32) 32
      le b 0 4 == n && logOk b

/-- Record numbers found in flash. -/
def flashRecords (s : State) : List Nat :=
  if s.flash.any fun c => logBase ≤ c.1 then (List.range 752).flatMap (sectorRecords s) else []

/-- A record with another number (Table 14-5). -/
def renumber (n : Nat) (r : Bytes) : Nat × Bytes :=
  let b := toLe 4 n ++ sub r 4 24
  (n, b ++ toLe 4 (crc32c b))

/-- Numbering goes on from the highest record found in flash; records of this power-up follow it (R507). -/
def logLoad (s : State) : State :=
  match flashRecords s with
  | [] => s
  | n :: l =>
    let hi := l.foldl max n
    let lo := l.foldl min n
    s.modMg fun m =>
      { m with log := (idxd m.log).map fun x => renumber (hi + 1 + x.1) x.2.2, nextRec := hi + 1 + m.log.length,
               oldest := lo, flash := true }

end Sys2Proof.Machine
end

