-- ==== Sys2Proof/Machine/Security.lean ====
section
/-! DEFINITION. Boot, the protection set-up and its lock, the key store, alarms and service sessions
(R473–R500, R520). -/

namespace Sys2Proof.Machine

/-- Key slots of Table 13-4. -/
def isSak (k : Nat) : Bool := k < 0x80
def isCak (k : Nat) : Bool := 0x180 ≤ k && k ≤ 0x185
def isSvcKey (k : Nat) : Bool := 0x200 ≤ k && k ≤ 0x207
def keySlotOk (k : Nat) : Bool := isSak k || k == 0x100 || isCak k || isSvcKey k

/-- Slots that hold a key and satisfy a test are zeroised; the sessions of service keys among them end
(R489, R498). -/
def eraseKeys (s : State) (f : Nat → Bool) : State :=
  let gone := (s.se.keys.filter fun x => x.2.isSome && f x.1).map (·.1)
  let s := s.modSe fun x => { x with keys := x.keys.filter fun y => !f y.1 }
  let s := countN s cDev 18 gone.length
  (gone.filter isSvcKey).foldl (fun s k => sessClose s (k - 0x200) (some 3)) s

/-- Policy of an alarm: fixed, or ALARM_POLICY, which is 0 before the lock (R492, Table 13-8). -/
def alarmPolicy (s : State) (a : Nat) : Nat :=
  if 6 ≤ a then 2 else if s.se.locked then policyOf (secProt s) a else 0

/-- An alarm: its bits, FS026, its erase policy and its log record (R492). While the core is held in
reset, AO-safety latches the fault and nothing of the core takes part. -/
def raiseAlarm (s : State) (a : Nat) : State :=
  let p := alarmPolicy s a
  let quiet := held s
  let s := s.modSe fun x =>
    { x with present := setBit x.present a true, sticky := setBit x.sticky a true, zeroised := x.zeroised || p != 0 }
  let s := if quiet then latchHeld s 26 else logAdd (count (fault s 26) cDev 17) 2 0 (toLe 1 a ++ toLe 1 p)
  if p = 1 then eraseKeys s fun k => isSak k || isCak k
  else if p = 2 then eraseKeys s fun _ => true
  else s

/-- The condition of an alarm as far as the state decides it: a debug instruction counts only while JTAG_LOCK applies,
that is after the lock; failed proofs lock a key out; an image was rejected for a signature; TEST_N was sampled low
(R484, Table 13-8). -/
def alarmMay (s : State) (a : Nat) : Bool :=
  if a = 3 then s.se.locked && protFlag s 2
  else if a = 4 then (List.range 8).any fun k => (sess s k).state == 3
  else if a = 5 then s.se.reject == 5 || s.se.reject == 7
  else if a = 8 then s.pw.testMode
  else true

/-- ALARM: AO-security watches while VDD_AO is good (R492). -/
def execAlarm (a : Fin 9) (s : State) : Host.Outcome State Fault Refusal :=
  aoRun s fun s => if alarmMay s a.val then raiseAlarm s a.val else s

/-- ALARM_CONDITION_END; TEST stays present until the next power-up (R493, R494). -/
def execAlarmConditionEnd (a : Fin 9) (s : State) : Host.Outcome State Fault Refusal :=
  always s fun s => (if a.val = 8 ∧ s.pw.testMode = true then s
    else s.modSe fun x => { x with present := setBit x.present a.val false })

/-- ALARM_STATUS (Table 3-19). -/
def execAlarmStatus (via : Via) (s : State) : Host.Outcome State Fault Refusal :=
  runCmd via 0x92 (fun s r => sized r 0
    (.ok s (toLe 4 s.se.present.toNat ++ toLe 4 s.se.sticky.toNat ++ toLe 1 (b1 s.se.zeroised) ++ zz 7))) s

/-- The PROT block that a restarted core must find (R520). -/
def lockedProt (s : State) : Option Bytes := if s.se.locked then some (secProt s) else none

/-- A rejected image (R474, R478). -/
def rejectImage (s : State) (reason : Nat) : State :=
  let s := s.modSe fun x => { x with reject := BitVec.ofNat 8 reason }
  let s := count (fault s 27) cDev 16
  if reason = 5 ∨ reason = 7 then raiseAlarm s 5 else s

/-- An accepted image: SEC_PROT is written, which the lock forbids, and the boot stage starts (R481, R520). -/
def acceptImage (s : State) (h : Bytes) (slot : Nat) : State :=
  let s := setFwReady s false
  let s := if s.se.locked then s else objWrite s 0x0A000001 0 (hdrProt h)
  s.modSe fun x =>
    { x with phase := 2, hostLoad := false, svcLoad := false, slot := BitVec.ofNat 8 slot,
             version := BitVec.ofNat 32 (hdrVersion h), rollIndex := BitVec.ofNat 32 (hdrIndex h),
             ownerKey := sub h 320 96, vendorIx := by_ h 24, tries := [], image := if slot = 0xFF then x.image else [] }

/-- Host loading is served (R475). -/
def startHostLoad (s : State) : State :=
  setFwReady (s.modSe fun x => { x with phase := 1, hostLoad := true, image := [] }) true

/-- Service loading is served: PD28 and PD29 are enabled through the ledger (R476). -/
def startSvcLoad (s : State) : State :=
  plan (s.modSe fun x => { x with phase := 1, svcLoad := true, image := [], bootSeen := false })
    [(true, 28, .boot), (true, 29, .boot)]

/-- The ROM starts from reset (R473, Table 13-1). The model's choice (log entry 135): with the reserved
BOOT_SRC 0b11 the ROM halts; no image was rejected, so neither FS027 nor SEC_STATE.REJECT is touched. -/
def bootStart (s : State) : State :=
  let src := s.pw.bootSrc.toNat
  if src = 0 then
    let a := activeSlot s
    let t := if a = 0 then [0, 1] else [1, 0]
    s.modSe fun x => { x with phase := 1, tries := t }
  else if src = 1 then startHostLoad s
  else if src = 2 then startSvcLoad s
  else s.modSe fun x => { x with phase := 4 }

/-- What follows when no image is left to try: host loading at reset; after a restart, loading from
the boot source for an image that came over a port, else nothing (Table 13-1, R520). -/
def bootFallback (s : State) : State :=
  if !s.se.restart then startHostLoad s
  else if s.se.slot ≠ 0xFF then s.modSe fun x => { x with phase := 4 }
  else if s.pw.bootSrc = 2 then startSvcLoad s
  else startHostLoad s

/-- A flash slot has been read, or could not be (R473, R478, R520). -/
def bootSlot (s : State) (k : Nat) (rest : List Nat) (readOk : Bool) : State :=
  let s := if readOk then s.modMg fun m => { m with flash := true } else s
  let reason := if readOk then rejectSlot s k (lockedProt s) else 9
  if reason = 0 then acceptImage s (slotHeader s k) k
  else
    let s := rejectImage (s.modSe fun x => { x with tries := rest }) reason
    if rest.isEmpty then bootFallback s else s

/-- IMAGE_LOADED from flash, or, after a restart, the image that SRAM 0 holds (R478, R520). -/
def execImageLoaded (readOk : Bool) (s : State) : Host.Outcome State Fault Refusal :=
  run s fun s =>
    if s.se.phase ≠ 1 ∨ s.se.hostLoad = true ∨ s.se.svcLoad = true then s else
    match s.se.tries with
    | k :: rest => bootSlot s k rest readOk
    | [] =>
      if !s.se.restart then s else
      let reason := rejectBytes s s.se.image (lockedProt s)
      if reason = 0 then acceptImage s (sub s.se.image 0 512) 0xFF else bootFallback (rejectImage s reason)

/-- BOOT_SOURCE_TIMEOUT: an image under way on the host or service port is rejected (Table 13-3). -/
def execBootSourceTimeout (s : State) : Host.Outcome State Fault Refusal :=
  run s fun s =>
    if (s.se.hostLoad && s.mg.update.isSome) || (s.se.svcLoad && !s.se.image.isEmpty) then
      rejectImage ((s.modSe fun x => { x with image := [] }).modMg fun m => { m with update := none }) 9
    else s

/-- BOOT_REQ. The tool's address is not stated: a free value (R476, log entry 100). -/
def execBootReq (s : State) : Host.Outcome State Fault Refusal :=
  run s fun s =>
    if !s.se.svcLoad || s.se.bootSeen then s else
    let (v, s) := draw s
    svcSend s (toBe 6 v) 0x58 (toBe 8 Config.dieSerial.toNat)

/-- Write-back of a frame received on S, which carries no stamp: TS_VALID 0, CAL_CLASS 3 (R218, Table 2-16). -/
def svcWb (f : Bytes) : Bytes :=
  rxWb { inPort := 8, handle := none, seq := 0, colour := 0, tc := 0, planes := 0, outcome := 0, epoch := 0, tag := 0,
         ecc := false, stamps := [] } false none 0 0 f.length 0

/-- A frame on S is taken: addressed to the XD860, at most 4,200 bytes, whole and of its row's SUBTYPE; else it is
dropped and counted (R495). Under an F4 it is counted and not delivered (R464). It is handed over with its write-back
(R218). -/
def svcTake (s : State) (f : Bytes) (subtype least : Nat) : Bool × State :=
  if !on s 29 then (false, s) else
  let s := count s cSvc 0
  let n := be f 16 2
  if f.length ≤ 4200 && fcsOk f && sub f 0 6 == svcAddr s && be f 12 2 == 0x88B6 && by_ f 14 == subtype &&
      by_ f 15 == 1 && decide (least ≤ n) && decide (18 + n + 4 ≤ f.length) then
    if s.fs.f4 then (false, s) else (true, emit s (.svcRx f (svcWb f)))
  else (false, count s cSvc 1)

/-- BOOT_ACK (Table 13-9). -/
def bootAck (s : State) (f : Bytes) (next status reject : Nat) : State :=
  svcSend s (sub f 6 6) 0x5A (toBe 4 next ++ toLe 1 status ++ toLe 1 reject)

/-- The bytes received cover the header and the payload it announces, or all that an image can have. -/
def imageCovered (b : Bytes) : Bool :=
  512 ≤ b.length && (decide (le b 6 2 + hdrPayload b ≤ b.length) || decide (492032 ≤ b.length))

/-- BOOT_DATA (R476). -/
def bootDataTake (s : State) (f : Bytes) : State :=
  let s := count s cSvc 7
  if !s.se.svcLoad then s else
  let s := s.modSe fun x => { x with bootSeen := true, svcPeer := sub f 6 6 }
  let n := be f 16 2 - 4
  if be f 18 4 ≠ s.se.image.length ∨ 1024 < n then bootAck s f s.se.image.length 0 0
  else
    let img := s.se.image ++ sub f 22 n
    let s := s.modSe fun x => { x with image := img }
    if !imageCovered img then bootAck s f img.length 0 0
    else
      let reason := rejectBytes s img (lockedProt s)
      if reason = 0 then acceptImage (bootAck s f img.length 0 0) (sub img 0 512) 0xFF
      else bootAck (rejectImage (s.modSe fun x => { x with image := [] }) reason) f 0 1 reason

/-- BOOT_DATA (R476). -/
def execBootData (frame : Bytes) (s : State) : Host.Outcome State Fault Refusal :=
  run s fun s =>
    let (ok, s) := svcTake s frame 0x59 4
    if ok then bootDataTake s frame else s

/-- A change of SEC_PROT only toward more restriction (R482). -/
def protTighter (old new : Bytes) : Bool :=
  let o := by_ old 0; let n := by_ new 0
  [2, 3, 4, 6].all (fun i => !(bitN o i && !bitN n i)) && !(bitN n 5 && !bitN o 5) &&
    by_ new 1 == by_ old 1 && by_ new 2 &&& (255 - by_ old 2) == 0 && by_ new 3 &&& (255 - by_ old 3) == 0 &&
    (List.range 8).all (fun a => policyOf old a ≤ policyOf new a) && by_ new 6 == by_ old 6

/-- SEC_PROT_WRITE by boot code; any other write is refused and changes nothing (R482, R483). -/
def execSecProtWrite (image : Bytes) (s : State) : Host.Outcome State Fault Refusal :=
  run s fun s =>
    let b := sub image 0 64
    if s.se.phase = 2 ∧ s.se.locked = false ∧ protLegal b = true ∧ protTighter (secProt s) b = true then
      objWrite s 0x0A000001 0 b
    else s

/-- Fuses to burn at the lock: 1 owner hash, 2 revocations, 3 rollback (R479, R480, R483). -/
def lockBurns (s : State) : List Nat :=
  let p := secProt s
  (if bitN (by_ p 0) 0 && s.fuses.owner == [] then [1] else []) ++
    (if revokeAtLock s ≠ 0 then [2] else []) ++
    (if bitN (by_ p 0) 1 && decide (s.fuses.rollback < s.se.rollIndex.toNat) then [3] else [])
where
  /-- Vendor keys still to revoke, without the one that signed this image (Table 13-5). -/
  revokeAtLock (s : State) : BitVec 4 :=
    setBit (BitVec.ofNat 4 (by_ (secProt s) 6)) s.se.vendorIx false &&& ~~~ s.fuses.revoked

/-- One fuse burnt whole. -/
def burnFuse (s : State) (k : Nat) : State :=
  let f := s.fuses
  if k = 1 then s.setFuses { f with owner := sha384 s.se.ownerKey }
  else if k = 2 then s.setFuses { f with revoked := f.revoked ||| lockBurns.revokeAtLock s }
  else s.setFuses { f with rollback := max f.rollback (min 64 s.se.rollIndex.toNat) }

/-- One fuse's burn cut off: the counter lies between its old and its new value (R480); of the owner hash and the
revocations the rule says nothing, so what they hold is free (log entry 101). -/
def cutBurn (s : State) (k : Nat) : State :=
  let (v, s) := draw s
  let f := s.fuses
  if k = 1 then s.setFuses { f with owner := if v % 2 = 0 then f.owner else toLe 48 (v / 2) }
  else if k = 2 then s.setFuses { f with revoked := f.revoked ||| (lockBurns.revokeAtLock s &&& BitVec.ofNat 4 v) }
  else
    let new := max f.rollback (min 64 s.se.rollIndex.toNat)
    s.setFuses { f with rollback := f.rollback + v % (new - f.rollback + 1) }

/-- The burns of the lock cut off by the loss of power or by reset, in their order: those before the one it falls in,
which is free, are burnt, and those after it are not (R483). -/
def cutBurns (s : State) : State :=
  if s.se.burns.isEmpty then s else
  let (v, s) := draw s
  let i := v % s.se.burns.length
  match s.se.burns[i]? with
  | some k => cutBurn ((s.se.burns.take i).foldl burnFuse s) k
  | none => s

/-- What the log and the life accumulators do at the first run stage after a reset (R505, R507, Table 14-6). -/
def powerUpRecords (s : State) : State :=
  if s.mg.loaded then s else
  let fresh := s.mg.fresh
  let s := logLoad (lifeLoad s)
  let s := logAdd s 10 0 (toLe 2 s.mg.cycles ++ toLe 1 (b1 fresh))
  s.modMg fun m => { m with fresh := false, loaded := true, limiting := lifeLimit s }

/-- The run stage starts (R483, R520). -/
def startRun (s : State) : State :=
  let s := powerUpRecords s
  let s := logAdd s 3 0 (toLe 4 s.se.version.toNat ++ [s.se.slot] ++ toLe 1 (bootedFrom s) ++ [s.se.reject])
  setFwReady (s.modSe fun x => { x with phase := 3, restart := false }) true

/-- SEC_LOCK is written, or the ROM sets it after 1 s (R483, R520). -/
def setLock (s : State) : State :=
  if s.se.phase ≠ 2 then s
  else if s.se.locked then (if s.se.burns.isEmpty then startRun s else s)
  else
    let b := lockBurns s
    let s := s.modSe fun x => { x with locked := true, burns := b }
    if b.isEmpty then startRun s else s

/-- SEC_LOCK (R483). -/
def execSecLock (s : State) : Host.Outcome State Fault Refusal := run s setLock

/-- LOCK_TIMEOUT (R483). -/
def execLockTimeout (s : State) : Host.Outcome State Fault Refusal := run s setLock

/-- FUSE_BURN_COMPLETE (R480, R483). -/
def execFuseBurnComplete (s : State) : Host.Outcome State Fault Refusal :=
  run s fun s =>
    if s.se.burns.isEmpty then s else
    let s := (s.se.burns.foldl burnFuse s).modSe fun x => { x with burns := [] }
    if s.se.phase = 2 then startRun s else s

/-- A receive association that names the slot starts at packet number 1 again (R316). -/
def freshPns (s : State) (slot : Nat) : State :=
  [0, 1, 2, 3, 4, 5].foldl (fun s p => [0, 1, 2, 3].foldl (fun s c => [0, 1, 2, 3].foldl (fun s an =>
    if cfg s (oidOf 0x050B p 0) (20 * c + 8 + 2 * an) 2 = slot then s.modRx fun x => { x with pns := tdel (pnIx p c an) x.pns }
    else s) s) s) s

/-- First illegal field of a KEY_LOAD, as a payload offset, reserved bytes 20–23 among them (R11, R486
step 1). -/
def keyLoadRange (p : Bytes) : Option Nat :=
  let k := le p 0 2
  if !keySlotOk k then some 0
  else if 1 < by_ p 2 ∨ (isSvcKey k ∧ by_ p 2 = 0) then some 2
  else if 1 < by_ p 3 ∨ (k = 0x100 ∧ by_ p 3 = 1) then some 3
  else if !isSak k && le p 4 4 != 0 then some 4
  else if !isSak k && !allZero (sub p 8 12) then some 8
  else [20, 21, 22, 23].find? fun o => by_ p o != 0

/-- ST_AUTH or ST_LOCKED of a KEY_LOAD (R486 step 2, R494); KEY_AGENTS has been judged in step 6 of R105, and
does not govern the run stage. -/
def keyLoadRefused (s : State) (via : Via) (k : Nat) (wrapped : Bool) : Option Nat :=
  let mka := cfg s 0x0A000001 1 1 == 1
  if s.pw.testMode then some stLocked
  else
    let own := via != .run || (mka && (isSak k || isCak k))
    let host := match via with
      | .mb _ => true
      | _ => false
    if !own then some stAuth
    else if protFlag s 4 && (isSak k || isSvcKey k) && !wrapped then some stLocked
    else if host && isSak k && mka then some stLocked
    else none

/-- The checks and effect of KEY_LOAD (R486–R488). -/
def keyLoad (s : State) (r : Request) : Answer :=
  sized r 64 (
    let p := r.payload
    let k := le p 0 2
    let n := if by_ p 2 = 1 then 32 else 16
    let wrapped := by_ p 3 == 1
    match keyLoadRange p with
    | some o => badRange (16 + o)
    | none => match keyLoadRefused s r.via k wrapped with
      | some st => .no st []
      | none =>
        if (keyAt s k).isSome then .no stState []
        else
          let key := if !wrapped then some (sub p 24 n)
            else match keyAt s 0x100 with
              | some kek => keyUnwrap kek.key (sub p 24 (n + 8))
              | none => none
          match key with
          | none => .no stIntegrity []
          | some key =>
            let key := sub key 0 n
            let x : Key := { key := key, wrapped := wrapped, agent := BitVec.ofNat 8 (agentOf r.via), ssci := sub p 4 4, salt := sub p 8 12 }
            let s := s.modSe fun y => { y with keys := tset (fun _ => none) y.keys k (some x) }
            .ok (if isSak k then freshPns s k else s) (keyCheck k key))

/-- The run stage's own KEY_LOAD under MKA_OWNER 1 (R486): what it loads comes of its key agreement with
the link partner, so the payload is free. -/
def ownKeyLoad (s : State) : State :=
  let (x, s) := draw s
  match keyLoad s { via := .run, opcode := 0x90, tag := 0, word6 := 0, oid := 0, length := 64, payload := toLe 64 x, crcOk := true,
                    busy := false, at_ := s.clock } with
  | .ok t _ => t
  | _ => s

/-- KEY_LOAD (R486). The run stage orders on its own account and posts no request (Table 3-2). -/
def execKeyLoad (via : Via) (s : State) : Host.Outcome State Fault Refusal :=
  if via == .run && s.se.phase == 3 && !s.fs.f4 && !(s.mb.taken.any (·.via == .run)) then run s ownKeyLoad
  else runCmd via 0x90 keyLoad s

/-- The checks and effect of KEY_ERASE (R489). -/
def keyErase (s : State) (r : Request) : Answer :=
  sized r 4 (
    let k := le r.payload 0 2
    if k ≠ 0xFFFF ∧ !keySlotOk k then badRange 16
    else reserved r [2, 3] (.ok (eraseKeys s fun j => k == 0xFFFF || j == k) []))

/-- KEY_ERASE (R489). -/
def execKeyErase (via : Via) (s : State) : Host.Outcome State Fault Refusal := runCmd via 0x91 keyErase s

/-- Session key (R496 step 3). -/
def sessKey (k nc nd : Bytes) (id : BitVec 16) : Bytes :=
  hmacSha256 k ([0x4B, 0x59, 0x2D, 0x53, 0x45, 0x53, 0x53, 0x49, 0x4F, 0x4E] ++ nc ++ nd ++ toLe 2 id.toNat)

/-- Tag of S_PROOF and S_ACCEPT (R496). -/
def proofTag (sk : Bytes) (subtype : Nat) (id : BitVec 16) : Bytes :=
  sub (hmacSha256 sk (toLe 1 subtype ++ toLe 2 id.toNat)) 0 32

/-- A new SESSION_ID: the first from a drawn value on that no attempt and no open session has (R496). -/
def newId (s : State) (v : Nat) : BitVec 16 :=
  let used := ((List.range 8).filter fun k => (sess s k).state == 1 || (sess s k).state == 2).map fun k => (sess s k).id
  (((List.range 9).map fun i => BitVec.ofNat 16 (v + i)).find? fun x => !used.contains x).getD 0

/-- S_HELLO taken: S_CHALLENGE, or no answer (R496 steps 1 and 2). -/
def helloTake (s : State) (f : Bytes) : State :=
  let k := by_ f 18
  match keyAt s (0x200 + k) with
  | some key =>
    if k < 8 && protFlag s 5 && (sess s k).state < 2 then
      let (a, s) := draw s
      let (b, s) := draw s
      let id := newId s a; let nd := toBe 16 b; let nc := sub f 19 16; let back := sub f 6 6
      let s := modSess s k fun z =>
        { state := 1, id := id, nc := nc, nd := nd, sk := sessKey key.key nc nd id, peer := back, fails := z.fails }
      svcSend s back 0x51 (toBe 2 id.toNat ++ nd)
    else count s cSvc 2
  | none => count s cSvc 2

/-- S_HELLO (R496). -/
def execSHello (frame : Bytes) (s : State) : Host.Outcome State Fault Refusal :=
  run s fun s =>
    let (ok, s) := svcTake s frame 0x50 17
    if ok then helloTake s frame else s

/-- The session in a state that carries an ID. -/
def sessById (s : State) (st id : Nat) : Option Nat :=
  (List.range 8).find? fun k => (sess s k).state == st && (sess s k).id.toNat == id

/-- A failed proof ends the attempt; the third within 60 s locks the key out (R496). -/
def proofFailed (s : State) (k : Nat) : State :=
  let now := s.clock
  let l := ((sess s k).fails.filter fun t => now < t + 60000000000) ++ [now]
  let s := count s cSvc 4
  if 3 ≤ l.length then raiseAlarm (modSess s k fun _ => { state := 3 }) 4
  else modSess s k fun _ => { fails := l }

/-- S_PROOF taken (R496 steps 4 and 5). -/
def proofTake (s : State) (f : Bytes) : State :=
  match sessById s 1 (be f 18 2) with
  | none => s
  | some k =>
    let z := sess s k
    if sub f 20 32 = proofTag z.sk 0x52 z.id then
      let s := count (modSess s k fun z => { z with state := 2, rxSeq := 1, txSeq := 1, bad := 0, peer := sub f 6 6 }) cSvc 3
      svcSend s (sub f 6 6) 0x53 (toBe 2 z.id.toNat ++ proofTag z.sk 0x53 z.id)
    else proofFailed s k

/-- S_PROOF (R496). -/
def execSProof (frame : Bytes) (s : State) : Host.Outcome State Fault Refusal :=
  run s fun s =>
    let (ok, s) := svcTake s frame 0x52 34
    if ok then proofTake s frame else s

/-- PROOF_TIMEOUT: the attempt ends (R496). -/
def execProofTimeout (k : Fin 8) (s : State) : Host.Outcome State Fault Refusal :=
  run s fun s => if (sess s k.val).state = 1 then sessClose s k.val none else s

/-- S_MSG taken: a request of the session, or discarded (R497). -/
def msgTake (s : State) (f : Bytes) : State :=
  let n := be f 16 2
  match sessById s 2 (be f 18 2) with
  | none => s
  | some k =>
    let z := sess s k
    let tag := sub (hmacSha256 z.sk (sub f 14 (4 + n - 32))) 0 32
    let msg := sub f 24 (n - 38)
    if sub f (18 + n - 32) 32 = tag ∧ be f 20 4 = z.rxSeq ∧ 16 ≤ msg.length ∧ msg.length ≤ 4096 then
      let s := modSess s k fun z => { z with rxSeq := z.rxSeq + 1 }
      arrive s (.session (Fin.ofNat 8 k)) msg
    else
      let s := count (modSess s k fun z => { z with bad := z.bad + 1 }) cSvc 5
      if 3 ≤ z.bad + 1 then sessClose (count s cSvc 6) k (some 2) else s

/-- S_MSG (R497). -/
def execSMsg (frame : Bytes) (s : State) : Host.Outcome State Fault Refusal :=
  run s fun s =>
    let (ok, s) := svcTake s frame 0x54 38
    if ok then msgTake s frame else s

/-- S_CLOSE taken (R497, R498). -/
def closeTake (s : State) (f : Bytes) : State :=
  match sessById s 2 (be f 18 2) with
  | none => s
  | some k =>
    if sub f 21 32 = sub (hmacSha256 (sess s k).sk (sub f 14 7)) 0 32 then sessClose s k none else s

/-- S_CLOSE (R498). -/
def execSClose (frame : Bytes) (s : State) : Host.Outcome State Fault Refusal :=
  run s fun s =>
    let (ok, s) := svcTake s frame 0x55 35
    if ok then closeTake s frame else s

/-- SESSION_IDLE: 300 s without a valid S_MSG (R498). -/
def execSessionIdle (k : Fin 8) (s : State) : Host.Outcome State Fault Refusal :=
  run s fun s => if (sess s k.val).state = 2 then sessClose s k.val (some 1) else s

/-- SERVICE_KEY_LOCKOUT_END (R496). -/
def execServiceKeyLockoutEnd (k : Fin 8) (s : State) : Host.Outcome State Fault Refusal :=
  run s fun s => if (sess s k.val).state = 3 then modSess s k.val fun _ => {} else s

end Sys2Proof.Machine
end

