-- ==== Sys2Proof/Machine/Power.lean ====
section
/-! DEFINITION. Rails, resets, straps, PLLs and reference clocks (R20–R41, R193, R471). -/

namespace Sys2Proof.Machine

/-- What outlives even the loss of VDD_AO: flash and fuses (R27); with the model's own queue, record
of outputs, clock and draws. -/
def bareDie (s : State) : State :=
  { flash := s.flash, fuses := s.fuses, clock := s.clock, freeIx := s.freeIx, outs := s.outs, pending := s.pending,
    mg := { lifeAt := s.clock } }

/-- POWER_ON_RESET: AO-safety and AO-security start from cleared state, the core is held (R24, R25, R471, Table 1-8). -/
def execPowerOnReset (s : State) : Host.Outcome State Fault Refusal :=
  always s fun s => (((bareDie (cutBurns s)).modPw fun p => { p with rails := 1, resetLow := true }).modPads fun p => { p with ioDriven := false })

/-- VDD_AO_LOSS: nothing but flash and fuses keeps its contents (R27, R471). The model's choice (log
entry 130): the other rails count as lost with VDD_AO, and POWER_ON_RESET finds VDD_AO good alone, with
RESET_N low. -/
def execVddAoLoss (s : State) : Host.Outcome State Fault Refusal :=
  always s fun s => (((bareDie (cutBurns s)).modPw fun p => { p with rails := 0, aoRuns := false, resetLow := true }).modPads
    fun p => { p with ioDriven := false })

/-- RAILS_GOOD: no rail is under its trip any more (R24, R447); powered time counts from VDD_CORE good (R504). -/
def execRailsGood (s : State) : Host.Outcome State Fault Refusal :=
  always s fun s => (if s.pw.aoRuns then
    let now := s.clock
    let s := if s.pw.rails.getLsbD 1 then s else s.modMg fun m => { m with lifeAt := now }
    [0, 1, 2, 3, 4, 5].foldl condOff (s.modPw fun p => { p with rails := 0x7F })
  else s)

/-- VDD_IO_GOOD: the always-on domains drive the VDD_IO outputs to their reset states (R25). -/
def execVddIoGood (s : State) : Host.Outcome State Fault Refusal :=
  always s fun s => (if s.pw.aoRuns && !s.pads.ioDriven then
    let s := condOff (s.modPw fun p => { p with rails := setBit p.rails 6 true }) 5
    s.modPads fun p => { p with ioDriven := true, txen := 0, txd := 0, evt := 0, safeN := 0, safePad := 0, modTxdis := 0x3F,
                                modRs := 0, modI2cEn := 0, spiSck := false, spiCsN := true, spiIo := 0, i2cLow := 0, tdo := false }
  else s)

/-- VDD_IO is lost: its outputs are Hi-Z, and SAFE_N reads low by its pull-down until it is released
again (R20, R25, R465). -/
def ioLost (s : State) : State := (setSafeN s false).modPads fun p => { p with ioDriven := false }

/-- RAIL_UNDERVOLTAGE: with RESET_N high an F4, whose condition stays until the rail is good again; with
RESET_N low the rail is one that is not yet good (R24, R28). -/
def execRailUndervoltage (rail : Fin 6) (s : State) : Host.Outcome State Fault Refusal :=
  always s fun s => (
    if !s.pw.aoRuns then s else
    let t := if s.pw.resetLow then s.modPw fun p => { p with rails := setBit p.rails (rail.val + 1) false } else condOn s rail.val
    if rail.val = 5 then ioLost t else t)

/-- RAIL_OVERVOLTAGE: the source asserts; while the core is held, AO-safety alone acts on it (R28). -/
def execRailOvervoltage (rail : Fin 6) (s : State) : Host.Outcome State Fault Refusal :=
  aoRun s fun s => aoOn s (6 + rail.val)

/-- Sources whose condition lies outside the core, or in the always-on domains (Table 12-1). -/
def aoSource (n : Nat) : Bool := n < 12 || n == 15 || n == 16 || n == 25

/-- A source after a reset of the core: its class is the default again, its hold is over, and a
condition of the core is gone (R449, R468). -/
def sourceReset (n : Nat) (x : Source) : Source :=
  let cond := x.cond && aoSource n
  let f3 := match srcInfo n with
    | some (_, 3, _) => true
    | _ => false
  { x with cls := none, hold := false, cond := cond, present := if f3 then x.present else x.present && cond }

/-- The collector after a reset of the core: the F4 latch, the record, the sticky bits, the ring and
the F3 targets stay (R30); the release of SAFE_N does not (R465). -/
def faultsReset (f : Faults) : Faults :=
  { f with srcs := f.srcs.filterMap (fun x =>
             let y := sourceReset x.1 x.2
             if y = srcReset x.1 then none else some (x.1, y)),
           released := false }

/-- AO-security after a reset of the core: keys and alarms stay (R30, R493). -/
def secReset (x : Sec) : Sec :=
  { present := x.present, sticky := x.sticky, zeroised := x.zeroised, keys := x.keys }

/-- The rails that are good at a reset of the core: one whose undervoltage condition holds is not (R24, R28). -/
def railsAt (s : State) : BitVec 7 :=
  [0, 1, 2, 3, 4, 5].foldl (fun r n => if (srcOf s n).cond then setBit r (n + 1) false else r) s.pw.rails

/-- The core reset: everything but the always-on domains, flash, fuses and rails (R29, R30). -/
def coreReset (s : State) : State :=
  { bareDie s with
    pads := { ioDriven := s.pads.ioDriven }
    pw := { rails := railsAt s, aoRuns := s.pw.aoRuns, resetLow := true, testMode := s.pw.testMode }
    fs := (faultsReset s.fs).paired
    se := secReset s.se
    mg := { fresh := false, cycles := 0, lifeAt := s.clock } }

/-- AO-safety ends what is in progress on every transmitter and closes the Gauntlet (R31, R463). -/
def abortAll (s : State) : State :=
  let s := [0, 1, 2, 3, 4, 5].foldl (fun s p => abortLine s p .safe) s
  let s := [6, 7, 8].foldl (fun s p => if s.pads.laneIdle.getLsbD p then s else emit s (.abort p false)) s
  (List.range 16).foldl segQuiet s

/-- RESET_N_RECOGNISED: first the abort, then the core reset (R29, R31). -/
def execResetNRecognised (s : State) : Host.Outcome State Fault Refusal :=
  always s fun s => (
    if !s.pw.aoRuns then s
    else if s.pw.resetLow then s
    else coreReset (cutBurns (if held s then s else abortAll s)))

/-- RESET_N_RISE (R35). -/
def execResetNRise (s : State) : Host.Outcome State Fault Refusal :=
  always s fun s => (if s.pw.aoRuns then s.modPw fun p => { p with resetLow := false } else s)

/-- STRAP_SAMPLE: latched once after each rise of RESET_N, and the GUARD_XTAL oscillator starts (R32, R33,
Table 1-10 steps 3 to 5). TEST_N low enters test mode (R34, R494); the model's choice (log entry 131):
all of test mode, not SAFE_N alone, lasts until the next power-up, also where a later reset samples
TEST_N high. -/
def execStrapSample (stackId : BitVec 3) (bootSrc : BitVec 2) (testN : Bool) (s : State) : Host.Outcome State Fault Refusal :=
  atExit s fun s =>
    if s.pw.strapped then s else
    let s := (s.modPw fun p =>
      { p with strapped := true, stackPos := stackId, bootSrc := bootSrc, testMode := p.testMode || !testN }).modPads
        fun p => { p with xtalOut := true }
    if testN then s else raiseAlarm s 8

/-- The frequency among 10, 20 and 25 MHz within ±500 ppm of which a measurement lies (R37). -/
def refSelect (hz : Nat) : Option Nat :=
  [10, 20, 25].find? fun m => ((hz : Int) - m * 1000000).natAbs ≤ m * 500

/-- A measurement of REFCLK_TIME: selected, or an F1 (R37). -/
def measureRef (s : State) (hz : Nat) : State :=
  match refSelect hz with
  | some m => condOff (s.modPw fun p => { p with refMHz := m, refLost := false }) 13
  | none => condOn s 13

/-- REFCLK_TIME_MEASUREMENT, from the reset exit on until a valid frequency is found (R37); none follows it. -/
def execRefclkTimeMeasurement (hz : Nat) (s : State) : Host.Outcome State Fault Refusal :=
  atExit s fun s => if s.pw.strapped && s.pw.refMHz == 0 then measureRef s hz else s

/-- PLLS_LOCKED: the islands are clocked, and at the reset exit the boot ROM starts (R35, R473). -/
def execPllsLocked (s : State) : Host.Outcome State Fault Refusal :=
  atExit s fun s =>
    if !s.pw.strapped || s.pw.refMHz == 0 then s else
    let s := condOff (s.modPw fun p => { p with sysPll := true, timePll := true, clocked := true }) 12
    if s.se.phase = 0 then bootStart s else s

/-- GUARD_XTAL_STABLE: the oscillator that started at the reset exit is stable and CI07 runs; every window
waits for its first load (R35, R401). Steps 7 and 9 of Table 1-10 may come in either order (log entry 132). -/
def execGuardXtalStable (s : State) : Host.Outcome State Fault Refusal :=
  atExit s fun s => if s.pads.xtalOut then s.modPw fun p => { p with guardRuns := true } else s

/-- SYSTEM_PLL_LOSS_OF_LOCK (R38). -/
def execSystemPllLossOfLock (s : State) : Host.Outcome State Fault Refusal :=
  run s fun s => if s.pw.sysPll then condOn (s.modPw fun p => { p with sysPll := false }) 12 else s

/-- REFCLK_TIME_LOST: an F1, and holdover where the time was LOCKED (R193, Table 5-3). -/
def execRefclkTimeLost (s : State) : Host.Outcome State Fault Refusal :=
  atExit s fun s =>
    if s.pw.refMHz = 0 then s else
    let s := condOn (s.modPw fun p => { p with refLost := true }) 13
    let s := if s.tm.state = 2 then s.modTm fun t => { t with succ := 0 } else s
    if timeOk s && s.tm.state == 0 then setTimeState s 1 else s

/-- REFCLK_TIME_RETURN: measured again; the raw count takes no step (R193). -/
def execRefclkTimeReturn (hz : Nat) (s : State) : Host.Outcome State Fault Refusal :=
  atExit s fun s => if s.pw.refLost then measureRef s hz else s

end Sys2Proof.Machine
end

