-- ==== Sys2Proof/Machine/Mgmt.lean ====
section
/-! DEFINITION. Gaffer management: sensors, wear, the event log, firmware update and the counters
(R501–R518). -/

namespace Sys2Proof.Machine

def modSensor (s : State) (i : Nat) (f : Sensor → Sensor) : State :=
  s.modMg fun m => { m with sensors := tmod sensorReset m.sensors i f }

/-- A reading enters a sensor's account (Table 14-2). -/
def sensorTake (s : State) (i : Nat) (v : Int) : State :=
  let now := s.clock
  modSensor s i fun x =>
    { x with reading := v, low := if x.seen then min x.low v else v, high := if x.seen then max x.high v else v,
             valid := true, seen := true, at_ := now }

/-- Twice the median: exact where the number of readings is even (R503). -/
def median2 (l : List Int) : Int :=
  let a := sortAsc l
  let n := a.length
  if n % 2 = 1 then 2 * a.getD (n / 2) 0 else a.getD (n / 2 - 1) 0 + a.getD (n / 2) 0

/-- A conversion that is not at a limit of R502. -/
def plainReading (v : Option Int) : Bool := match v with
  | some v => decide (-550 < v) && decide (v < 1500)
  | none => false

/-- A temperature sensor is excluded (R503). -/
def excludedBy (temps : List (Option Int)) (v : Option Int) : Bool :=
  let med := median2 ((temps.filter plainReading).filterMap id)
  match v with
  | some x => !plainReading v || decide (200 < (2 * x - med).natAbs)
  | none => true

/-- The temperature sensors after a sample (R501, R503). -/
def sampleTemps (s : State) (temps : List (Option Int)) : State :=
  (idxd temps).foldl (fun s x =>
    let ex := excludedBy temps x.2
    let s := match x.2 with
      | some v => sensorTake s x.1 (max (-550) (min 1500 v))
      | none => modSensor s x.1 fun y => { y with valid := false }
    modSensor s x.1 fun y => { y with excluded := ex }) s

/-- Temperature triggers of the points (R225, R227). -/
def tempTriggers (s : State) : State :=
  (List.range 49).foldl (fun s pt =>
    if ptUp s pt && ptDrift s pt && !(calPt s pt).running then modCalPt s pt fun x => { x with due := x.due ||| 4 } else s) s

/-- SENSOR_SAMPLE (R501, R503). -/
def execSensorSample (temps : List (Option Int)) (volts : List Int) (s : State) : Host.Outcome State Fault Refusal :=
  run s fun s =>
    let t := (temps ++ List.replicate 8 none).take 8
    let s := sampleTemps (keepPast s) t
    let s := (idxd (volts.take 7)).foldl (fun s x => sensorTake s (8 + x.1) x.2) s
    let s := if t.any (excludedBy t) then condOn s 17 else condOff s 17
    tempTriggers s

/-- A type 11 record (Table 14-6). -/
def logLife (s : State) : State := logAdd s 11 0 (toLe 4 (lifeHours s) ++ toLe 1 (lifeLimit s))

/-- The limiting factor changes: one record (R508). -/
def limitCheck (s : State) : State :=
  if lifeLimit s = s.mg.limiting then s
  else logLife (s.modMg fun m => { m with limiting := lifeLimit s })

/-- WEAR_SAMPLE (R501). -/
def execWearSample (shifts : List Int) (s : State) : Host.Outcome State Fault Refusal :=
  run s fun s => limitCheck ((idxd (shifts.take 4)).foldl (fun s x => sensorTake s (16 + x.1) x.2) s)

/-- Tj of the hottest sensor that is not excluded (R503); none while no sensor reads. -/
def hotSensor (s : State) : Option Int :=
  (((List.range 8).filter fun i => (sensor s i).valid && !(sensor s i).excluded).map fun i => (sensor s i).reading).max?

/-- LIFE_ACCUMULATE: one second, or what has passed since the last addition before a restart (R504), into log memory
while that is on; once a day of powered time a type 11 record (R508, log entry 112). With no sensor that reads, T is a
free value among the readings (log entry 217). -/
def execLifeAccumulate (s : State) : Host.Outcome State Fault Refusal :=
  run s fun s =>
    if !on s 76 then s else
    let sec := max 1 ((s.clock - s.mg.lifeAt) / 1000000000)
    let was := s.mg.powered
    let s := match hotSensor s with
      | some t => lifeAdd s sec t
      | none => let (v, s) := draw s; lifeAdd s sec ((v % 2051 : Nat) - 550)
    let s := if s.mg.powered / 86400 = was / 86400 then s else logLife s
    limitCheck s

/-- A flash operation that failed (R510). -/
def flashFailed (s : State) : State := fault (flashError s) 59

/-- WEAR_RECORD_WRITE, of the accumulators in log memory (R504, R505, R511). -/
def execWearRecordWrite (ok : Bool) (s : State) : Host.Outcome State Fault Refusal :=
  run s fun s =>
    if !on s 76 then s
    else if !ok then flashFailed (flashSpoil s (otherSector s wearBase wearMagic) 0x1000)
    else (writeRecord s wearBase wearMagic (wearBody s)).modMg fun m => { m with topTj := -550, flash := true }

/-- The sector of a record is in use for it: its header names the sector's first record (Table 14-7). -/
def sectorReady (s : State) (n : Nat) : Bool :=
  let h := flashRead s (logSector n) 32
  le h 0 4 == logMagic && le h 4 4 == n / 127 * 127 && le h 28 4 == crc32c (h.take 28)

/-- One record goes into the log ring; its sector is erased just before its first reuse (R511, Table 14-7). -/
def flushRecord (s : State) (x : Nat × Bytes) : State :=
  let first := x.1 / 127 * 127
  let a := logSector x.1
  let s := if sectorReady s x.1 then s else
    let b := toLe 4 logMagic ++ toLe 4 first ++ zz 20
    let s := flashWrite (flashErase s a 0x1000) a (b ++ toLe 4 (crc32c b))
    s.modMg fun m => { m with oldest := max m.oldest (first - 751 * 127) }
  flashWrite s (logAddr x.1) x.2

/-- What a failed flush leaves of the place of one record: all of it free (log entry 114). -/
def spoilRecord (s : State) (x : Nat × Bytes) : State :=
  if sectorReady s x.1 then flashSpoil s (logAddr x.1) 32 else flashSpoil s (logSector x.1) 0x1000

/-- LOG_FLUSH (R508). The records of a flush that failed are still to be written. -/
def execLogFlush (ok : Bool) (s : State) : Host.Outcome State Fault Refusal :=
  run s fun s =>
    let todo := logRest s
    if !ok then flashFailed (todo.foldl spoilRecord s)
    else
      let s := todo.foldl flushRecord s
      let s := s.modMg fun m => { m with unflushed := 0, flash := true }
      if s.mg.logLost = s.mg.lostTold then s else logLoss s

/-- Sensors of Table 14-1. -/
def sensorOk (n : Nat) : Bool := n ≤ 14 || (16 ≤ n && n ≤ 19) || n == 32

/-- A sensor record; before the first sample its readings are free values (Table 14-2, log entry 113). -/
def sensorRecord (s : State) (n : Nat) : Bytes :=
  if n = 32 then lifeRecord s else
  let x := sensor s n
  let v (k : Nat) (y : Int) : Int := if x.seen then y else Config.unsampled (64 * k + n)
  let wear := decide (16 ≤ n)
  let age : Int := if wear then ((s.clock - x.at_) / 1000000000 : Nat) else (msSince s x.at_ : Nat)
  toLe 1 n ++ toLe 1 (if wear then 2 else if 8 ≤ n then 1 else 0) ++ toLe 2 (uns 16 (v 0 x.reading)) ++
    (if wear then toLe 2 (Config.endShift (n - 16)).toNat ++ toLe 2 (uns 16 (v 2 (wearFraction s (n - 16))))
     else toLe 2 (uns 16 (v 1 x.low)) ++ toLe 2 (uns 16 (v 2 x.high))) ++
    toLe 1 (b1 (x.seen && x.valid) + (if wear then 0 else 2 * b1 x.excluded)) ++ zz 3 ++ toLe 4 (uns 32 (v 3 age))

/-- SENSOR_READ (R501). -/
def execSensorRead (via : Via) (s : State) : Host.Outcome State Fault Refusal :=
  runCmd via 0xB1 (fun s r => sized r 4 (
    let n := by_ r.payload 0
    if !sensorOk n then badRange 16 else reserved r [1, 2, 3] (.ok s (sensorRecord s n)))) s

/-- A log record by its number, from log memory or flash. -/
def logRecordAt (s : State) (n : Nat) : Option Bytes :=
  match s.mg.log.find? (·.1 == n) with
  | some x => some x.2
  | none =>
    let b := flashRead s (logAddr n) 32
    if le b 0 4 = n ∧ logOk b = true then some b else none

/-- LOG_READ (R509). -/
def logReadCmd (s : State) (r : Request) : Answer :=
  sized r 8 (
    let first := le r.payload 0 4
    let n := min 127 (le r.payload 4 2)
    reserved r [6, 7] (
      if s.mg.nextRec ≤ first then .ok s (toLe 4 first ++ zz 4)
      else
        let from_ := max first s.mg.oldest
        let l := ((List.range (s.mg.nextRec - from_)).filterMap fun i => (logRecordAt s (from_ + i)).map fun b => (from_ + i, b)).take n
        .done s (if first < s.mg.oldest then stPartial else stOk)
          (toLe 4 ((l.head?.map (·.1)).getD from_) ++ toLe 2 l.length ++ zz 2 ++ l.flatMap (·.2))))

/-- LOG_READ (R509). -/
def execLogRead (via : Via) (s : State) : Host.Outcome State Fault Refusal := runCmd via 0xB0 logReadCmd s

/-- A counter block as read (R516). -/
def countersPayload (s : State) (oid n : Nat) : Bytes :=
  toLe 2 n ++ zz 6 ++ (List.range n).flatMap fun k => toLe 8 (counter s oid k).toNat

/-- COUNTERS_PEEK, and with `clear` COUNTERS_READ by its owner (R516–R518). -/
def countersCmd (clear : Bool) (s : State) (r : Request) : Answer :=
  sized r 0 (
    let oid := r.oid.toNat
    if clear && !sameAgent (BitVec.ofNat 8 (cfg s 0x0B100000 0 1)) r.via then .no stAuth []
    else match counterBlock oid with
      | none => .no stUnknown []
      | some (n, _) =>
        if !blockOn s oid then .no stState []
        else
          let p := countersPayload s oid n
          .ok (if clear then s.setCnt (s.cnt.filter fun c => c.1 / 64 != oid) else s) p)

/-- COUNTERS_READ (R517, R518). -/
def execCountersRead (via : Via) (s : State) : Host.Outcome State Fault Refusal := runCmd via 0x70 (countersCmd true) s

/-- COUNTERS_PEEK (R516). -/
def execCountersPeek (via : Via) (s : State) : Host.Outcome State Fault Refusal := runCmd via 0x71 (countersCmd false) s

/-- A type 4 record of a firmware order (Table 14-6). -/
def logFw (s : State) (op slot status ver : Nat) : State :=
  logAdd s 4 0 (toLe 2 op ++ toLe 1 slot ++ toLe 1 status ++ toLe 4 ver)

/-- The slot is named active by a valid slot record (Table 14-9). -/
def isActive (s : State) (slot : Nat) : Bool := ((slotRec s).map fun r => r.active == slot).getD false

/-- The open update of the request's agent (R129); MB1 and MB2 are one agent (R95). -/
def updateOf (s : State) (r : Request) : Option Update :=
  s.mg.update.filter fun u => sameAgent u.agent r.via

/-- What a slot record write that failed leaves of the sector it went to (R510, log entry 114). The answer is what the
order's rule gives (log entry 221). -/
def slotRecFailed (s : State) : State := flashFailed (flashSpoil s (otherSector s 0 slotMagic) 0x1000)

/-- The checks and effect of FW_BEGIN (R475, R512, R129). -/
def fwBegin (ok : Bool) (s : State) (r : Request) : Answer :=
  sized r 8 (
    let size := le r.payload 0 4
    let slot := by_ r.payload 4
    let agent := BitVec.ofNat 8 (agentOf r.via)
    if 492032 < size then badRange 16
    else if !s.se.hostLoad && decide (1 < slot) then badRange 20
    else reserved r [5, 6, 7] (
      if s.se.hostLoad then
        let s := s.modSe fun x => { x with image := List.replicate size 0 }
        .ok (s.modMg fun m => { m with update := some ⟨agent, 0xFF, size, true, 128, [], false⟩ }) []
      else if isActive s slot then .no stState []
      else if s.mg.update.isSome && (updateOf s r).isNone then .no stBusy []
      else
        let s := s.modMg fun m => { m with update := some ⟨agent, slot, size, false, 0, [], false⟩ }
        let s := if ok then setVerified s slot false none else slotRecFailed s
        .ok (logFw s 0xA0 slot stOk 0) []))

/-- FW_BEGIN (R512). -/
def execFwBegin (o : FlashOrder) (s : State) : Host.Outcome State Fault Refusal := runCmd o.via 0xA0 (fwBegin o.ok) s

/-- Sectors of a slot, and the part of it from sector `n` on. -/
def slotSectors : Nat := 128
def slotFrom (u : Update) (n : Nat) : Nat := slotAddr u.slot + 0x1000 * n

/-- The background erase of an open update goes on: how far it has come is free (R512, log entry 219). -/
def eraseOn (s : State) (u : Update) : Update × State :=
  if u.erased then (u, s) else
  let (v, s) := draw s
  let n := u.sectors + v % (slotSectors + 1 - u.sectors)
  ({ u with sectors := n }, flashErase s (slotFrom u u.sectors) (0x1000 * (n - u.sectors)))

/-- SLOT_ERASE_COMPLETE: the sectors not yet erased are (R512). -/
def execSlotEraseComplete (ok : Bool) (s : State) : Host.Outcome State Fault Refusal :=
  run s fun s =>
    match s.mg.update with
    | none => s
    | some u =>
      if u.erased then s else
      let rest := 0x1000 * (slotSectors - u.sectors)
      let s := if ok then flashErase s (slotFrom u u.sectors) rest else flashSpoil s (slotFrom u u.sectors) rest
      let s := s.modMg fun m => { m with update := some { u with erased := true, sectors := slotSectors } }
      if ok then s.modMg fun m => { m with flash := true } else flashFailed s

/-- The bytes of a chunk go to their place, which an operation that failed leaves free (R510, R512). -/
def chunkWrite (s : State) (ok : Bool) (u : Update) (off : Nat) (data : Bytes) : State :=
  let s := s.modMg fun m => { m with update := some { u with got := u.got ++ [(off, data.length)] } }
  if s.se.hostLoad then s.modSe fun x => { x with image := patch x.image off data }
  else if ok then flashWrite s (slotAddr u.slot + off) data
  else flashFailed (flashSpoil s (slotAddr u.slot + off) data.length)

/-- The checks and effect of FW_CHUNK (R512). -/
def fwChunk (ok : Bool) (s : State) (r : Request) : Answer :=
  if r.length < 4 then badRange 4 else
  match updateOf s r with
  | none => .no stState []
  | some u =>
    let off := le r.payload 0 4
    let data := r.payload.drop 4
    if u.size < off + data.length then badRange 16
    else
      let (u, s) := eraseOn s u
      if 0x1000 * u.sectors < off + data.length then .done (s.modMg fun m => { m with update := some u }) stBusy []
      else .ok (chunkWrite s ok u off data) []

/-- FW_CHUNK (R512). -/
def execFwChunk (o : FlashOrder) (s : State) : Host.Outcome State Fault Refusal := runCmd o.via 0xA1 (fwChunk o.ok) s

/-- FW_FINISH of an image that host loading brought (R475). -/
def finishHost (s : State) (r : Request) : Answer :=
  let s := s.modMg fun m => { m with update := none }
  let img := s.se.image
  let reason := rejectBytes s img (lockedProt s)
  if reason = 0 then
    let h := sub img 0 512
    .later (acceptImage (respondWith s r stOk false (toLe 4 (hdrVersion h) ++ toLe 4 (hdrIndex h))) h 0xFF)
  else .done (rejectImage s reason) stIntegrity []

/-- FW_FINISH of a slot (R513). What is left of the background erase is over with it (log entry 219). -/
def finishSlot (s : State) (ok : Bool) (u : Update) : Answer :=
  let h := slotHeader s u.slot
  let reason := if u.failed || !ok then 9 else imageReject s h (fun n => flashRead s (slotAddr u.slot + 512) n) u.size none
  let s := if u.erased then s else flashErase s (slotFrom u u.sectors) (0x1000 * (slotSectors - u.sectors))
  let s := (if ok then s else slotRecFailed s).modMg fun m => { m with update := none }
  let ver := hdrVersion h
  if reason = 0 then
    let s := setVerified s u.slot true (some ver)
    .ok (logFw s 0xA2 u.slot stOk ver) (toLe 4 ver ++ toLe 4 (hdrIndex h))
  else
    let s := count (s.modMg fun m => { m with finishErr := BitVec.ofNat 8 reason }) cDev 16
    let s := if reason = 5 ∨ reason = 7 then raiseAlarm s 5 else s
    .done (logFw s 0xA2 u.slot stIntegrity ver) stIntegrity []

/-- The checks and effect of FW_FINISH (R513). -/
def fwFinish (ok : Bool) (s : State) (r : Request) : Answer :=
  sized r 0 (
    match updateOf s r with
    | none => .no stState []
    | some u => if !covered u then .no stState [] else if s.se.hostLoad then finishHost s r else finishSlot s ok u)

/-- FW_FINISH (R513). -/
def execFwFinish (o : FlashOrder) (s : State) : Host.Outcome State Fault Refusal := runCmd o.via 0xA2 (fwFinish o.ok) s

/-- The Gaffer core restarts from a slot (R514, R520). -/
def restartFrom (s : State) (slot : Nat) : State :=
  (gafferReset s).modSe fun x => { x with tries := [slot, 1 - slot] }

/-- The checks and effect of FW_ACTIVATE (R514, R515). -/
def fwActivate (ok : Bool) (s : State) (r : Request) : Answer :=
  sized r 4 (
    let slot := by_ r.payload 0
    let now := by_ r.payload 1 == 1
    if 1 < slot then badRange 16
    else if 1 < by_ r.payload 1 then badRange 17
    else reserved r [2, 3] (
      if !slotVerified s slot then .no stState []
      else if now && hdrProt (slotHeader s slot) != secProt s then .no stLocked []
      else
        let ver := hdrVersion (slotHeader s slot)
        let s := if ok then slotRecWrite s { (slotRec s).getD ⟨0, 0, 0, 0⟩ with active := slot } else slotRecFailed s
        let s := logFw s 0xA3 slot stOk ver
        if now then .later (restartFrom (respondWith s r stOk false []) slot) else .ok s []))

/-- FW_ACTIVATE (R514). -/
def execFwActivate (o : FlashOrder) (s : State) : Host.Outcome State Fault Refusal := runCmd o.via 0xA3 (fwActivate o.ok) s

end Sys2Proof.Machine
end

