-- ==== Sys2Proof/Machine/Dispatch.lean ====
section
/-! DEFINITION. What each command does: one arm per constructor, each one direct call of its meaning. -/

namespace Sys2Proof.Machine

/-- The effect of a command on everything but the queue. -/
def exec (i : Instr) (s : State) : Host.Outcome State Fault Refusal :=
  match i with
  | .powerOnReset => Sys2Proof.Machine.execPowerOnReset s
  | .railsGood => Sys2Proof.Machine.execRailsGood s
  | .vddIoGood => Sys2Proof.Machine.execVddIoGood s
  | .railUndervoltage rail => Sys2Proof.Machine.execRailUndervoltage rail s
  | .railOvervoltage rail => Sys2Proof.Machine.execRailOvervoltage rail s
  | .resetNRecognised => Sys2Proof.Machine.execResetNRecognised s
  | .resetNRise => Sys2Proof.Machine.execResetNRise s
  | .strapSample stackId bootSrc testN => Sys2Proof.Machine.execStrapSample stackId bootSrc testN s
  | .refclkTimeMeasurement hz => Sys2Proof.Machine.execRefclkTimeMeasurement hz s
  | .pllsLocked => Sys2Proof.Machine.execPllsLocked s
  | .uciePhyReady => Sys2Proof.Machine.execUciePhyReady s
  | .guardXtalStable => Sys2Proof.Machine.execGuardXtalStable s
  | .systemPllLossOfLock => Sys2Proof.Machine.execSystemPllLossOfLock s
  | .refclkTimeLost => Sys2Proof.Machine.execRefclkTimeLost s
  | .refclkTimeReturn hz => Sys2Proof.Machine.execRefclkTimeReturn hz s
  | .linkTrainingStart => Sys2Proof.Machine.execLinkTrainingStart s
  | .linkTrainingComplete rate half => Sys2Proof.Machine.execLinkTrainingComplete rate half s
  | .flitReceive flit => Sys2Proof.Machine.execFlitReceive flit s
  | .nakReceive seq => Sys2Proof.Machine.execNakReceive seq s
  | .retrainTimeout => Sys2Proof.Machine.execRetrainTimeout s
  | .nullFlitSend => Sys2Proof.Machine.execNullFlitSend s
  | .flitReceiveTimeout => Sys2Proof.Machine.execFlitReceiveTimeout s
  | .adapterLinkDown => Sys2Proof.Machine.execAdapterLinkDown s
  | .mwr m => Sys2Proof.Machine.execMwr m s
  | .mrd m => Sys2Proof.Machine.execMrd m s
  | .dcpld c => Sys2Proof.Machine.execDcpld c s
  | .dcpl c => Sys2Proof.Machine.execDcpl c s
  | .dmrdTimeout tag => Sys2Proof.Machine.execDmrdTimeout tag s
  | .hostQuiesce => Sys2Proof.Machine.execHostQuiesce s
  | .hlCtrlWrite v => Sys2Proof.Machine.execHlCtrlWrite v s
  | .hlStatusClear v => Sys2Proof.Machine.execHlStatusClear v s
  | .evMaskWrite word v => Sys2Proof.Machine.execEvMaskWrite word v s
  | .evPendClear word v => Sys2Proof.Machine.execEvPendClear word v s
  | .evHoldoffExpiry vec => Sys2Proof.Machine.execEvHoldoffExpiry vec s
  | .txqTailWrite q v => Sys2Proof.Machine.execTxqTailWrite q v s
  | .rxqTailWrite q v => Sys2Proof.Machine.execRxqTailWrite q v s
  | .queueEnable d q v => Sys2Proof.Machine.execQueueEnable d q v s
  | .queueDisable d q v => Sys2Proof.Machine.execQueueDisable d q v s
  | .queueDisableComplete d q => Sys2Proof.Machine.execQueueDisableComplete d q s
  | .stampedWrite d q v => Sys2Proof.Machine.execStampedWrite d q v s
  | .txDescriptorFetch q => Sys2Proof.Machine.execTxDescriptorFetch q s
  | .txFrameFetch q => Sys2Proof.Machine.execTxFrameFetch q s
  | .rxDescriptorFetch q => Sys2Proof.Machine.execRxDescriptorFetch q s
  | .txWriteBack q => Sys2Proof.Machine.execTxWriteBack q s
  | .rxWriteBack q => Sys2Proof.Machine.execRxWriteBack q s
  | .detach via => Sys2Proof.Machine.execDetach via s
  | .detachDrainComplete => Sys2Proof.Machine.execDetachDrainComplete s
  | .attach via => Sys2Proof.Machine.execAttach via s
  | .holdLimitExpiry => Sys2Proof.Machine.execHoldLimitExpiry s
  | .post n => Sys2Proof.Machine.execPost n s
  | .ack n => Sys2Proof.Machine.execAck n s
  | .abandon n => Sys2Proof.Machine.execAbandon n s
  | .requestTake => Sys2Proof.Machine.execRequestTake s
  | .mailboxServiceLimitMissed => Sys2Proof.Machine.execMailboxServiceLimitMissed s
  | .ping via => Sys2Proof.Machine.execPing via s
  | .getInfo via => Sys2Proof.Machine.execGetInfo via s
  | .attrGet via => Sys2Proof.Machine.execAttrGet via s
  | .attrSet via => Sys2Proof.Machine.execAttrSet via s
  | .tableWrite via => Sys2Proof.Machine.execTableWrite via s
  | .tableRead via => Sys2Proof.Machine.execTableRead via s
  | .tableClear via => Sys2Proof.Machine.execTableClear via s
  | .stageMode via => Sys2Proof.Machine.execStageMode via s
  | .commit via => Sys2Proof.Machine.execCommit via s
  | .abortStage via => Sys2Proof.Machine.execAbortStage via s
  | .epochSwap via => Sys2Proof.Machine.execEpochSwap via s
  | .epochStatus via => Sys2Proof.Machine.execEpochStatus via s
  | .domainEnable via => Sys2Proof.Machine.execDomainEnable via s
  | .domainEnableComplete d => Sys2Proof.Machine.execDomainEnableComplete d s
  | .domainEnableFailed d => Sys2Proof.Machine.execDomainEnableFailed d s
  | .domainDisable via => Sys2Proof.Machine.execDomainDisable via s
  | .domainDisableComplete d => Sys2Proof.Machine.execDomainDisableComplete d s
  | .ledgerQuery via => Sys2Proof.Machine.execLedgerQuery via s
  | .tjReading => Sys2Proof.Machine.execTjReading s
  | .ledgerShed => Sys2Proof.Machine.execLedgerShed s
  | .dozeEntry unit => Sys2Proof.Machine.execDozeEntry unit s
  | .dozeExit unit => Sys2Proof.Machine.execDozeExit unit s
  | .wakePatternMatch p => Sys2Proof.Machine.execWakePatternMatch p s
  | .energyDetect seg => Sys2Proof.Machine.execEnergyDetect seg s
  | .timeRead via => Sys2Proof.Machine.execTimeRead via s
  | .timeAdjust via => Sys2Proof.Machine.execTimeAdjust via s
  | .adjustmentPoint => Sys2Proof.Machine.execAdjustmentPoint s
  | .permitArm via => Sys2Proof.Machine.execPermitArm via s
  | .permitExpiry => Sys2Proof.Machine.execPermitExpiry s
  | .channelOutvoted ch values => Sys2Proof.Machine.execChannelOutvoted ch values s
  | .voteFailed => Sys2Proof.Machine.execVoteFailed s
  | .servoUpdate plane offset => Sys2Proof.Machine.execServoUpdate plane offset s
  | .grandmasterChange plane identity => Sys2Proof.Machine.execGrandmasterChange plane identity s
  | .announceTimeout plane => Sys2Proof.Machine.execAnnounceTimeout plane s
  | .holdoverEntry => Sys2Proof.Machine.execHoldoverEntry s
  | .holdoverMax => Sys2Proof.Machine.execHoldoverMax s
  | .timedOutSet via => Sys2Proof.Machine.execTimedOutSet via s
  | .timedOutputEdge n => Sys2Proof.Machine.execTimedOutputEdge n s
  | .timedCapWrite via n image => Sys2Proof.Machine.execTimedCapWrite via n image s
  | .capture n rising sub => Sys2Proof.Machine.execCapture n rising sub s
  | .captureWindowClose n => Sys2Proof.Machine.execCaptureWindowClose n s
  | .captureRead via => Sys2Proof.Machine.execCaptureRead via s
  | .calStatus via => Sys2Proof.Machine.execCalStatus via s
  | .calPolicy via => Sys2Proof.Machine.execCalPolicy via s
  | .codeDensityTest conv ok => Sys2Proof.Machine.execCodeDensityTest conv ok s
  | .calibrationPassStart pt => Sys2Proof.Machine.execCalibrationPassStart pt s
  | .calibrationPassEnd pt samples => Sys2Proof.Machine.execCalibrationPassEnd pt samples s
  | .laneRelock lane gbps => Sys2Proof.Machine.execLaneRelock lane gbps s
  | .calStale pt => Sys2Proof.Machine.execCalStale pt s
  | .probeSend p => Sys2Proof.Machine.execProbeSend p s
  | .probeReceive p frame => Sys2Proof.Machine.execProbeReceive p frame s
  | .echoSend p => Sys2Proof.Machine.execEchoSend p s
  | .echoReceive p frame => Sys2Proof.Machine.execEchoReceive p frame s
  | .frameTransmitStart p => Sys2Proof.Machine.execFrameTransmitStart p s
  | .transmissionEnd p => Sys2Proof.Machine.execTransmissionEnd p s
  | .preemption p dataBytes => Sys2Proof.Machine.execPreemption p dataBytes s
  | .gateOverrun p dataBytes => Sys2Proof.Machine.execGateOverrun p dataBytes s
  | .gateEntryStart p copyAgrees => Sys2Proof.Machine.execGateEntryStart p copyAgrees s
  | .hold p => Sys2Proof.Machine.execHold p s
  | .parisonReady q idx p => Sys2Proof.Machine.execParisonReady q idx p s
  | .parisonLate q idx p => Sys2Proof.Machine.execParisonLate q idx p s
  | .commitDecide => Sys2Proof.Machine.execCommitDecide s
  | .agreeRepeat => Sys2Proof.Machine.execAgreeRepeat s
  | .preparedSetHold => Sys2Proof.Machine.execPreparedSetHold s
  | .commitBoundary => Sys2Proof.Machine.execCommitBoundary s
  | .proposeReceive p frame => Sys2Proof.Machine.execProposeReceive p frame s
  | .replyReceive p frame => Sys2Proof.Machine.execReplyReceive p frame s
  | .confirmReceive p frame => Sys2Proof.Machine.execConfirmReceive p frame s
  | .cancelReceive p frame => Sys2Proof.Machine.execCancelReceive p frame s
  | .smdVReceive p => Sys2Proof.Machine.execSmdVReceive p s
  | .smdRReceive p addFragSize => Sys2Proof.Machine.execSmdRReceive p addFragSize s
  | .verifyTimeout p => Sys2Proof.Machine.execVerifyTimeout p s
  | .fragmentReceive p smd count data mcrc good => Sys2Proof.Machine.execFragmentReceive p smd count data mcrc good s
  | .spOfferReceive p frame => Sys2Proof.Machine.execSpOfferReceive p frame s
  | .spAnswerReceive p frame => Sys2Proof.Machine.execSpAnswerReceive p frame s
  | .spOfferRepeat p => Sys2Proof.Machine.execSpOfferRepeat p s
  | .pauseReceive p frame => Sys2Proof.Machine.execPauseReceive p frame s
  | .pauseExpiry p tc => Sys2Proof.Machine.execPauseExpiry p tc s
  | .frameReceive p frame codeError => Sys2Proof.Machine.execFrameReceive p frame codeError s
  | .secondPass => Sys2Proof.Machine.execSecondPass s
  | .loopWaitExpiry => Sys2Proof.Machine.execLoopWaitExpiry s
  | .voteWindowExpiry h seq => Sys2Proof.Machine.execVoteWindowExpiry h seq s
  | .lateHoldExpiry h seq => Sys2Proof.Machine.execLateHoldExpiry h seq s
  | .recoveryReset h => Sys2Proof.Machine.execRecoveryReset h s
  | .segmentCycleStart seg => Sys2Proof.Machine.execSegmentCycleStart seg s
  | .ownSlotStart seg entry => Sys2Proof.Machine.execOwnSlotStart seg entry s
  | .collision seg => Sys2Proof.Machine.execCollision seg s
  | .ktbFrameReceive seg line markPs skewed overran => Sys2Proof.Machine.execKtbFrameReceive seg line markPs skewed overran s
  | .nodeSlotEnd seg entry => Sys2Proof.Machine.execNodeSlotEnd seg entry s
  | .statusBlockWrite seg => Sys2Proof.Machine.execStatusBlockWrite seg s
  | .gauntletMarker drift => Sys2Proof.Machine.execGauntletMarker drift s
  | .markerLost => Sys2Proof.Machine.execMarkerLost s
  | .gauntletBlock seg => Sys2Proof.Machine.execGauntletBlock seg s
  | .discoverSend => Sys2Proof.Machine.execDiscoverSend s
  | .discover k d => Sys2Proof.Machine.execDiscover k d s
  | .discoveryComplete => Sys2Proof.Machine.execDiscoveryComplete s
  | .cascadeAckDue k => Sys2Proof.Machine.execCascadeAckDue k s
  | .ackReceive k frame => Sys2Proof.Machine.execAckReceive k frame s
  | .cascadeResend k => Sys2Proof.Machine.execCascadeResend k s
  | .cascadeLinkLost k => Sys2Proof.Machine.execCascadeLinkLost k s
  | .timeReqSend => Sys2Proof.Machine.execTimeReqSend s
  | .timeReq k frame => Sys2Proof.Machine.execTimeReq k frame s
  | .timeResp k frame => Sys2Proof.Machine.execTimeResp k frame s
  | .command k frame => Sys2Proof.Machine.execCommand k frame s
  | .response k frame => Sys2Proof.Machine.execResponse k frame s
  | .stackRelayWrite via pos first data => Sys2Proof.Machine.execStackRelayWrite via pos first data s
  | .relayUnreachable pos => Sys2Proof.Machine.execRelayUnreachable pos s
  | .stackAgree k frame => Sys2Proof.Machine.execStackAgree k frame s
  | .stackAgreeReplyRepeat => Sys2Proof.Machine.execStackAgreeReplyRepeat s
  | .trafficUp k u => Sys2Proof.Machine.execTrafficUp k u s
  | .trafficDown k frame => Sys2Proof.Machine.execTrafficDown k frame s
  | .txDone k frame => Sys2Proof.Machine.execTxDone k frame s
  | .heartbeatSend => Sys2Proof.Machine.execHeartbeatSend s
  | .heartbeat path bytes => Sys2Proof.Machine.execHeartbeat path bytes s
  | .partnerLost => Sys2Proof.Machine.execPartnerLost s
  | .takeover => Sys2Proof.Machine.execTakeover s
  | .yieldTimeout => Sys2Proof.Machine.execYieldTimeout s
  | .assign k frame => Sys2Proof.Machine.execAssign k frame s
  | .mirror k frame => Sys2Proof.Machine.execMirror k frame s
  | .mirrorSend => Sys2Proof.Machine.execMirrorSend s
  | .regionRead n data seqAfter => Sys2Proof.Machine.execRegionRead n data seqAfter s
  | .region k frame => Sys2Proof.Machine.execRegion k frame s
  | .twinConfig via => Sys2Proof.Machine.execTwinConfig via s
  | .twinStatus via => Sys2Proof.Machine.execTwinStatus via s
  | .twinYield via => Sys2Proof.Machine.execTwinYield via s
  | .mirrorDeclare via => Sys2Proof.Machine.execMirrorDeclare via s
  | .stackStatus via => Sys2Proof.Machine.execStackStatus via s
  | .stackConfig via => Sys2Proof.Machine.execStackConfig via s
  | .faultSourceAssert src ipTable entry => Sys2Proof.Machine.execFaultSourceAssert src ipTable entry s
  | .presentBitExpiry src => Sys2Proof.Machine.execPresentBitExpiry src s
  | .faultRead via => Sys2Proof.Machine.execFaultRead via s
  | .faultClear o => Sys2Proof.Machine.execFaultClear o s
  | .faultInject o => Sys2Proof.Machine.execFaultInject o s
  | .faultConfig o => Sys2Proof.Machine.execFaultConfig o s
  | .safeNRelease o => Sys2Proof.Machine.execSafeNRelease o s
  | .safeNWithdraw o => Sys2Proof.Machine.execSafeNWithdraw o s
  | .safeNReadback pads => Sys2Proof.Machine.execSafeNReadback pads s
  | .gafferWatchdog => Sys2Proof.Machine.execGafferWatchdog s
  | .ci09Check hz => Sys2Proof.Machine.execCi09Check hz s
  | .imageLoaded readOk => Sys2Proof.Machine.execImageLoaded readOk s
  | .bootSourceTimeout => Sys2Proof.Machine.execBootSourceTimeout s
  | .bootReq => Sys2Proof.Machine.execBootReq s
  | .bootData frame => Sys2Proof.Machine.execBootData frame s
  | .secProtWrite image => Sys2Proof.Machine.execSecProtWrite image s
  | .secLock => Sys2Proof.Machine.execSecLock s
  | .lockTimeout => Sys2Proof.Machine.execLockTimeout s
  | .keyLoad via => Sys2Proof.Machine.execKeyLoad via s
  | .keyErase via => Sys2Proof.Machine.execKeyErase via s
  | .alarm a => Sys2Proof.Machine.execAlarm a s
  | .alarmStatus via => Sys2Proof.Machine.execAlarmStatus via s
  | .sHello frame => Sys2Proof.Machine.execSHello frame s
  | .sProof frame => Sys2Proof.Machine.execSProof frame s
  | .proofTimeout k => Sys2Proof.Machine.execProofTimeout k s
  | .sMsg frame => Sys2Proof.Machine.execSMsg frame s
  | .sClose frame => Sys2Proof.Machine.execSClose frame s
  | .sessionIdle k => Sys2Proof.Machine.execSessionIdle k s
  | .sensorSample temps volts => Sys2Proof.Machine.execSensorSample temps volts s
  | .wearSample shifts => Sys2Proof.Machine.execWearSample shifts s
  | .lifeAccumulate => Sys2Proof.Machine.execLifeAccumulate s
  | .wearRecordWrite ok => Sys2Proof.Machine.execWearRecordWrite ok s
  | .logFlush ok => Sys2Proof.Machine.execLogFlush ok s
  | .sensorRead via => Sys2Proof.Machine.execSensorRead via s
  | .logRead via => Sys2Proof.Machine.execLogRead via s
  | .countersRead via => Sys2Proof.Machine.execCountersRead via s
  | .countersPeek via => Sys2Proof.Machine.execCountersPeek via s
  | .fwBegin o => Sys2Proof.Machine.execFwBegin o s
  | .slotEraseComplete ok => Sys2Proof.Machine.execSlotEraseComplete ok s
  | .fwChunk o => Sys2Proof.Machine.execFwChunk o s
  | .fwFinish o => Sys2Proof.Machine.execFwFinish o s
  | .fwActivate o => Sys2Proof.Machine.execFwActivate o s
  | .fence via => Sys2Proof.Machine.execFence via s
  | .vddAoLoss => Sys2Proof.Machine.execVddAoLoss s
  | .faultSourceDeassert src => Sys2Proof.Machine.execFaultSourceDeassert src s
  | .linkDown p => Sys2Proof.Machine.execLinkDown p s
  | .decidingPassComplete p pfx smdE => Sys2Proof.Machine.execDecidingPassComplete p pfx smdE s
  | .fuseBurnComplete => Sys2Proof.Machine.execFuseBurnComplete s
  | .ledgerCeilWrite v => Sys2Proof.Machine.execLedgerCeilWrite v s
  | .serviceKeyLockoutEnd k => Sys2Proof.Machine.execServiceKeyLockoutEnd k s
  | .alarmConditionEnd a => Sys2Proof.Machine.execAlarmConditionEnd a s
  | .missingLocal h launch => Sys2Proof.Machine.execMissingLocal h launch s

end Sys2Proof.Machine
end

