-- ==== Sys2Proof/Machine/Voter.lean ====
section
/-! DEFINITION. The outputs of the time-core channels and the voter's comparison of them on each tick
(R182, R184, Table 5-1). -/

namespace Sys2Proof.Machine

/-- What a channel presents to the voter for one tick (R182). -/
structure ChanOut where
  raw : Nat
  corr : Nat
  /-- gate enables, 8 queues on each of P0–P5 -/
  gates : List Nat
  /-- preemption hold bits of P0–P5 -/
  holds : Nat
  /-- slot enables of T0–T15 -/
  slots : Nat
  /-- levels of EVT0–EVT7 -/
  levels : Nat
  /-- the stamp that an edge on CAP0–CAP3 would take -/
  stamps : List Nat
  deriving DecidableEq, Repr

/-- Level of an output at a corrected time (R203, R208). -/
def levelAt (s : State) (n t : Nat) : Bool :=
  let o := tout s n
  if o.mode = 0 ∨ s.fs.f4 then false
  else if o.state = 3 then o.pol
  else (edgeAfter o t % 2 == 1) != o.pol

/-- A slot of the segment's running cycle is in force at a corrected time in ns (R375). -/
def slotAt (s : State) (i t : Nat) : Bool :=
  let g := sgm s i
  g.runs && (segTable s i).any fun e => decide (g.start + e.start ≤ t) && decide (t < g.start + e.start + e.len)

/-- Hold bit of a port at a corrected time in ps (R259). -/
def holdBit (s : State) (p t : Nat) : Bool :=
  mergeOn s p && !(gates s p).isEmpty && holdOf (gates s p) (cyclePos s t) (holdAdvance s p) (cyclePs s)

/-- Outputs of a channel for the tick 80 ns ahead of its raw count (R182). -/
def chanOut (s : State) (c : Chan) : ChanOut :=
  let raw := c.raw.toNat + 80 * 65536
  let t := corrAt c raw
  { raw := raw, corr := t,
    gates := ports6.map fun p => maskOf 8 fun q => gateOpen s p q (psOf t),
    holds := maskOf 6 fun p => holdBit s p (psOf t),
    slots := maskOf 16 fun i => slotAt s i (t / 65536),
    levels := maskOf 8 fun n => levelAt s n t,
    stamps := (List.range 4).map fun n => (form48 (capStamp s n t)).toNat }

/-- Values in which two channels' outputs differ, as TIME_CORE byte 26 numbers them (Table 5-5). -/
def outDiff (a b : ChanOut) : BitVec 8 :=
  ofBits 8 (((idxd [a.raw != b.raw, a.corr != b.corr, a.gates != b.gates, a.holds != b.holds, a.slots != b.slots,
    a.levels != b.levels, a.stamps != b.stamps]).filter (·.2)).map (·.1))

/-- Three channels' outputs (Table 5-1): no two share some value, or two would be outvoted; one is outvoted,
with the values in which it stands alone; all are equal. -/
def vote3 (s : State) (a b c : Nat) : State :=
  let x := chanOut s (chan s a); let y := chanOut s (chan s b); let z := chanOut s (chan s c)
  let xy := outDiff x y; let yz := outDiff y z; let xz := outDiff x z
  if xy &&& yz &&& xz ≠ 0 then voteFail s
  else match xy &&& xz, xy &&& yz, xz &&& yz with
    | 0#8, 0#8, 0#8 => s
    | v, 0#8, 0#8 => outvote s a v
    | 0#8, v, 0#8 => outvote s b v
    | 0#8, 0#8, v => outvote s c v
    | _, _, _ => voteFail s

/-- The voter compares the outputs of a tick (R184, Table 5-1). Channels that hold one time compute one set of
outputs, so that only channels that differ are compared in full. -/
def voteTick (s : State) : State :=
  if !on s 68 || s.tm.lostVote then s else
  let same (a b : Nat) : Bool := decide ((chan s a).raw = (chan s b).raw ∧ (chan s a).off = (chan s b).off ∧
    (chan s a).rate = (chan s b).rate ∧ (chan s a).anchor = (chan s b).anchor)
  match voters s with
  | [a, b, c] => if same a b && same b c then s else vote3 s a b c
  | [a, b] => if same a b || outDiff (chanOut s (chan s a)) (chanOut s (chan s b)) == 0#8 then s else voteFail s
  | _ => voteFail s

end Sys2Proof.Machine
end

