-- ==== Sys2Proof/Machine/Tick.lean ====
section
/-! DEFINITION. What time alone does: the raw counts and the vote of the channels, AO-safety's copy, the levels of
Ts_TXEN and the once-a-second log summary (R16, R164, R184, R402, R452, R508). -/

namespace Sys2Proof.Machine

/-- One 500 MHz tick of the three channels: each raw count of an enabled channel under an enabled
voter advances by exactly 2 ns (R164, R165). -/
def tickChans (s : State) : State :=
  if !on s 68 then s else
  [0, 1, 2].foldl (fun s i =>
    if on s (65 + i) then modChan s i fun c => { c with raw := c.raw + 0x20000 } else s) s

/-- The collector's two copies of its state are compared: a mismatch asserts FS024 (R459). -/
def copiesChecked (s : State) : State := if s.fs.second = s.fs.inverted then s else aoFault s 24

/-- AO-safety on each CI09 edge that falls in the tick: its copies compared, its raw count (R452, R459). -/
def tickAo (s : State) : State :=
  let edges := (s.clock + 2) * 4 / 125 - s.clock * 4 / 125
  if edges = 0 then s else
  let s := copiesChecked s
  if timeOk s then s.modFs fun f => { f with aoRaw := (vch s).raw }
  else s.modFs fun f => { f with aoRaw := f.aoRaw + BitVec.ofNat 80 (2048000 * edges) }

/-- One tick of 2 ns, under the interlock of AO-safety. -/
def tick (s : State) : State :=
  let s := driveSegs (tickAo (voteTick (tickChans s)))
  let s := if (s.clock + 2) / 1000000000 = s.clock / 1000000000 then s else logSummaries s (clsOf s)
  (interlock s).setClock (s.clock + 2)

end Sys2Proof.Machine
end

