-- ==== Sys2Proof/Safety.lean ====
section
/-! DEFINITION. What counts as a safe state of the machine: the invariants and the conditions that the
statements use. -/

namespace Sys2Proof

open Machine

/-- What AO-safety guarantees at the bumps (R20, R34, R464, Table 12-4): SAFE_N is high only while it
has released the pins, no F4 is latched and the chip is not in test mode; in either of these no Ts_TXEN
is high and every lane transmitter is in electrical idle; with an F4, EVT0–7 are low and MODn_TXDIS is
high. -/
def FailSafe (s : State) : Prop :=
  (s.pads.safeN ≠ 0 → s.fs.released = true ∧ s.fs.f4 = false ∧ s.pw.testMode = false) ∧
  (s.fs.f4 = true → s.pads.evt = 0 ∧ s.pads.modTxdis = 0x3F) ∧
  (s.fs.f4 = true ∨ s.pw.testMode = true → s.pads.txen = 0 ∧ s.pads.laneIdle = 0x1FF)

/-- The bumps that a fail-safe state guarantees and the conditions they follow are the same in two states. -/
def SameSafety (s t : State) : Prop :=
  t.pads = s.pads ∧ t.fs.f4 = s.fs.f4 ∧ t.fs.released = s.fs.released ∧ t.pw.testMode = s.pw.testMode

/-- Every memory of the state is in its canonical form. -/
def CanonicalMem (s : State) : Prop :=
  Memory.wf objReset s.objs ∧ Memory.wf win0Reset s.win0 ∧ Memory.wf win1Reset s.win1 ∧ Memory.wf flashReset s.flash

/-- Commands that the always-on domains act on while the core is held in reset (R24–R31, R459,
R466, R471, R491, R492). -/
def alwaysOn : Instr → Bool
  | .powerOnReset | .railsGood | .vddIoGood | .railUndervoltage _ | .railOvervoltage _ | .resetNRecognised
  | .resetNRise | .alarm _ | .vddAoLoss | .alarmConditionEnd _ | .faultSourceAssert _ _ _ | .faultSourceDeassert _
  | .presentBitExpiry _ | .safeNReadback _ => true
  | _ => false

/-- Commands of the reset exit, which come before or with the clocks of the islands (R32–R37, R193, Table 1-10). -/
def resetExit : Instr → Bool
  | .strapSample _ _ _ | .refclkTimeMeasurement _ | .pllsLocked | .guardXtalStable | .refclkTimeLost
  | .refclkTimeReturn _ => true
  | _ => false

/-- A request of agent `v` for opcode `op` that has been taken and that steps 6 to 8 of R105 let through: the
opcode's own checks and effect come next. -/
structure Admitted (s : State) (v : Via) (op : Nat) (r : Request) : Prop where
  up : held s = false
  taken : s.mb.taken.find? (fun r => r.via == v && r.opcode.toNat == op && !r.served) = some r
  auth : authCheck s v op = none
  grave : s.fs.f4 = false ∨ graveServed op r.oid.toNat = true
  oid : oidCheck op r.oid.toNat = none

/-- The state in which an opcode acts on a taken request: the request is marked, so that it is acted on once. -/
def onTaken (s : State) (r : Request) : State := markServed s r

/-- A request that is being acted on. -/
def acted (r : Request) : Request := { r with served := true }

/-- The state after an effect was answered with ST_OK and a payload, or with another status. -/
def okWith (s : State) (r : Request) (payload : Bytes) : State := interlock (respondWith s (acted r) stOk false payload)

/-- The state after an effect was answered with ST_OK and STAGED 1. -/
def stagedWith (s : State) (r : Request) (payload : Bytes) : State := interlock (respondWith s (acted r) stOk true payload)

/-- The state after a request was answered with a status. -/
def noWith (s : State) (r : Request) (status : Nat) (payload : Bytes) : State :=
  interlock (respondWith (onTaken s r) (acted r) status false payload)

/-- The groups of the state, one for each field of `State`. -/
inductive Grp where
  | pads
  | pw
  | hl
  | qs
  | mb
  | ld
  | tm
  | cal
  | tx
  | rx
  | str
  | sg
  | sk
  | tw
  | fs
  | se
  | fuses
  | mg
  | fences
  | objs
  | win0
  | win1
  | flash
  | cnt
  | clock
  | freeIx
  | outs
  | pending
  deriving DecidableEq, Repr

/-- Two states agree in one group. -/
def SameIn (g : Grp) (s t : State) : Prop :=
  match g with
  | .pads => t.pads = s.pads
  | .pw => t.pw = s.pw
  | .hl => t.hl = s.hl
  | .qs => t.qs = s.qs
  | .mb => t.mb = s.mb
  | .ld => t.ld = s.ld
  | .tm => t.tm = s.tm
  | .cal => t.cal = s.cal
  | .tx => t.tx = s.tx
  | .rx => t.rx = s.rx
  | .str => t.str = s.str
  | .sg => t.sg = s.sg
  | .sk => t.sk = s.sk
  | .tw => t.tw = s.tw
  | .fs => t.fs = s.fs
  | .se => t.se = s.se
  | .fuses => t.fuses = s.fuses
  | .mg => t.mg = s.mg
  | .fences => t.fences = s.fences
  | .objs => t.objs = s.objs
  | .win0 => t.win0 = s.win0
  | .win1 => t.win1 = s.win1
  | .flash => t.flash = s.flash
  | .cnt => t.cnt = s.cnt
  | .clock => t.clock = s.clock
  | .freeIx => t.freeIx = s.freeIx
  | .outs => t.outs = s.outs
  | .pending => t.pending = s.pending

/-- Of two states the second differs from the first in the listed groups at most. -/
def Only (l : List Grp) (s t : State) : Prop := ∀ g, l.contains g = false → SameIn g s t

/-- The groups a command may change: everything else it leaves as it was. The queue of waiting commands and
the clock are in none of them. -/
def footprint (c : Instr) : List Grp :=
  match c with
  | .powerOnReset | .vddAoLoss =>
    [.pads, .pw, .hl, .qs, .mb, .ld, .tm, .cal, .tx, .rx, .str, .sg, .sk, .tw, .fs,
      .se, .fuses, .mg, .fences, .objs, .win0, .win1, .cnt, .freeIx]
  | .railsGood =>
    [.pads, .pw, .fs, .mg]
  | .vddIoGood =>
    [.pads, .pw, .fs]
  | .railUndervoltage .. | .strapSample .. | .refclkTimeMeasurement .. | .pllsLocked | .systemPllLossOfLock
  | .refclkTimeLost | .refclkTimeReturn .. =>
    [.pads, .pw, .hl, .qs, .mb, .ld, .tm, .tx, .sg, .sk, .tw, .fs, .se, .mg, .objs, .win0, .cnt, .freeIx, .outs]
  | .railOvervoltage .. | .nakReceive .. | .retrainTimeout | .flitReceiveTimeout | .adapterLinkDown | .mrd ..
  | .mailboxServiceLimitMissed | .commit .. | .domainEnableFailed .. | .tjReading | .ledgerShed | .dozeEntry ..
  | .dozeExit .. | .wakePatternMatch .. | .energyDetect .. | .timeAdjust .. | .channelOutvoted .. | .voteFailed
  | .servoUpdate .. | .grandmasterChange .. | .announceTimeout .. | .holdoverMax | .gateEntryStart ..
  | .preparedSetHold | .spAnswerReceive .. | .spOfferRepeat .. | .segmentCycleStart .. | .ownSlotStart ..
  | .collision .. | .gauntletMarker .. | .markerLost | .gauntletBlock .. | .discover .. | .discoveryComplete
  | .cascadeResend .. | .cascadeLinkLost .. | .heartbeat .. | .partnerLost | .takeover | .faultSourceAssert ..
  | .presentBitExpiry .. | .faultClear .. | .faultInject .. | .faultConfig .. | .safeNRelease ..
  | .safeNWithdraw .. | .safeNReadback .. | .gafferWatchdog | .ci09Check .. | .imageLoaded .. | .bootSourceTimeout
  | .bootData .. | .alarm .. | .sProof .. | .ledgerCeilWrite .. =>
    [.pads, .hl, .qs, .mb, .ld, .tm, .tx, .sg, .sk, .tw, .fs, .se, .mg, .objs, .win0, .cnt, .freeIx, .outs]
  | .resetNRecognised =>
    [.pads, .pw, .hl, .qs, .mb, .ld, .tm, .cal, .tx, .rx, .str, .sg, .sk, .tw, .fs,
      .se, .fuses, .mg, .fences, .objs, .win0, .win1, .cnt, .freeIx, .outs]
  | .resetNRise | .uciePhyReady | .guardXtalStable =>
    [.pads, .pw]
  | .linkTrainingStart | .hlCtrlWrite .. | .evMaskWrite .. | .evPendClear .. | .evHoldoffExpiry .. =>
    [.pads, .hl, .cnt, .outs]
  | .linkTrainingComplete .. | .hostQuiesce =>
    [.pads, .hl, .qs, .tx, .cnt, .freeIx, .outs]
  | .flitReceive .. =>
    [.pads, .hl, .qs, .mb, .ld, .tm, .tx, .str, .sg, .sk, .tw, .fs, .se,
      .mg, .objs, .win0, .win1, .cnt, .freeIx, .outs]
  | .nullFlitSend =>
    [.pads, .hl, .outs]
  | .mwr .. =>
    [.pads, .hl, .qs, .mb, .ld, .tm, .tx, .sg, .sk, .tw, .fs, .se, .mg, .objs, .win0, .win1, .cnt, .freeIx, .outs]
  | .dcpld .. | .dcpl .. | .dmrdTimeout .. | .parisonReady .. | .trafficDown .. | .assign .. =>
    [.pads, .hl, .qs, .mb, .ld, .tm, .tx, .str, .sg, .sk, .tw, .fs, .se, .mg, .objs, .win0, .cnt, .freeIx, .outs]
  | .hlStatusClear .. | .holdLimitExpiry =>
    [.pads, .hl]
  | .txqTailWrite .. | .rxqTailWrite .. | .queueEnable .. | .queueDisable .. | .stampedWrite ..
  | .txDescriptorFetch .. | .rxDescriptorFetch .. =>
    [.pads, .hl, .qs, .cnt, .outs]
  | .queueDisableComplete .. | .txWriteBack .. | .rxWriteBack .. =>
    [.pads, .hl, .qs, .tx, .win1, .cnt, .outs]
  | .txFrameFetch .. =>
    [.pads, .hl, .qs, .tx, .cnt, .outs]
  | .detach .. | .requestTake | .ping .. | .getInfo .. | .attrGet .. | .tableRead .. | .epochStatus ..
  | .ledgerQuery .. | .timeRead .. | .calStatus .. | .twinStatus .. | .stackStatus .. | .faultRead ..
  | .alarmStatus .. | .sensorRead .. | .logRead .. | .countersRead .. | .countersPeek .. =>
    [.pads, .hl, .mb, .sk, .se, .win0, .cnt, .outs]
  | .detachDrainComplete =>
    [.pads, .hl, .qs, .mb, .tx, .sk, .se, .win0, .win1, .cnt, .freeIx, .outs]
  | .attach .. =>
    [.pads, .hl, .qs, .mb, .sk, .fs, .se, .win0, .cnt, .outs]
  | .post .. | .ack .. | .abandon .. =>
    [.pads, .mb]
  | .attrSet .. | .domainEnableComplete .. | .codeDensityTest .. | .calibrationPassEnd .. | .laneRelock ..
  | .calStale .. | .probeSend .. | .echoReceive .. | .ktbFrameReceive .. | .timeResp .. | .sensorSample .. =>
    [.pads, .hl, .qs, .mb, .ld, .tm, .cal, .tx, .sg, .sk, .tw, .fs, .se, .mg, .objs, .win0, .cnt, .freeIx, .outs]
  | .tableWrite .. | .tableClear .. =>
    [.pads, .hl, .mb, .ld, .rx, .sg, .sk, .fs, .se, .mg, .objs, .win0, .cnt, .outs]
  | .stageMode .. | .abortStage .. | .twinConfig .. | .mirrorDeclare .. | .stackConfig .. =>
    [.pads, .hl, .mb, .ld, .sk, .fs, .se, .win0, .cnt, .outs]
  | .epochSwap .. =>
    [.pads, .hl, .mb, .rx, .sk, .se, .win0, .cnt, .outs]
  | .domainEnable .. =>
    [.pads, .hl, .mb, .ld, .sk, .se, .win0, .cnt, .freeIx, .outs]
  | .domainDisable .. | .timedOutSet .. =>
    [.pads, .hl, .mb, .ld, .tm, .sk, .se, .win0, .cnt, .outs]
  | .domainDisableComplete .. | .nodeSlotEnd .. =>
    [.pads, .hl, .qs, .mb, .ld, .tm, .cal, .tx, .rx, .str, .sg, .sk, .tw, .fs,
      .se, .mg, .objs, .win0, .win1, .cnt, .freeIx, .outs]
  | .adjustmentPoint | .commitBoundary | .fragmentReceive .. | .frameReceive .. | .secondPass =>
    [.pads, .hl, .qs, .mb, .ld, .tm, .cal, .tx, .rx, .str, .sg, .sk, .tw,
      .fs, .se, .mg, .objs, .win0, .cnt, .freeIx, .outs]
  | .permitArm .. | .permitExpiry | .captureWindowClose .. =>
    [.pads, .tm]
  | .holdoverEntry =>
    [.pads, .tm, .fs, .mg, .cnt]
  | .timedOutputEdge .. | .capture .. =>
    [.pads, .hl, .tm, .cnt, .outs]
  | .timedCapWrite .. =>
    [.pads, .ld, .tm, .objs]
  | .captureRead .. =>
    [.pads, .hl, .mb, .tm, .sk, .se, .win0, .cnt, .outs]
  | .calPolicy .. =>
    [.pads, .hl, .mb, .cal, .sk, .se, .win0, .cnt, .outs]
  | .calibrationPassStart .. =>
    [.pads, .cal]
  | .probeReceive .. =>
    [.pads, .cal, .cnt, .freeIx]
  | .echoSend .. =>
    [.pads, .qs, .tm, .cal, .tx, .objs, .cnt, .freeIx]
  | .frameTransmitStart .. =>
    [.pads, .qs, .tm, .tx, .sk, .objs, .cnt, .freeIx, .outs]
  | .transmissionEnd .. | .preemption .. | .gateOverrun .. =>
    [.pads, .qs, .tx, .sk, .cnt, .freeIx, .outs]
  | .hold .. | .proposeReceive .. | .replyReceive .. | .confirmReceive .. | .smdVReceive .. | .pauseExpiry .. =>
    [.pads, .tx]
  | .parisonLate .. =>
    [.pads, .qs, .tx, .sk, .tw, .cnt, .freeIx, .outs]
  | .commitDecide =>
    [.pads, .hl, .mb, .ld, .tx, .sk, .fs, .se, .mg, .win0, .cnt, .outs]
  | .agreeRepeat | .stackAgree .. =>
    [.pads, .tx, .sk, .cnt, .outs]
  | .cancelReceive .. =>
    [.pads, .hl, .mb, .ld, .tx, .sg, .sk, .fs, .se, .mg, .win0, .cnt, .outs]
  | .smdRReceive .. =>
    [.pads, .tx, .freeIx]
  | .verifyTimeout .. | .spOfferReceive .. | .pauseReceive .. =>
    [.pads, .tx, .cnt]
  | .loopWaitExpiry =>
    [.pads, .tx, .rx, .cnt]
  | .voteWindowExpiry .. | .lateHoldExpiry .. =>
    [.pads, .hl, .qs, .mb, .ld, .tm, .tx, .rx, .str, .sg, .sk, .tw, .fs, .se, .mg, .objs, .win0, .cnt, .freeIx, .outs]
  | .recoveryReset .. =>
    [.pads, .str, .cnt]
  | .statusBlockWrite .. =>
    [.pads, .hl, .win1, .cnt, .outs]
  | .discoverSend | .cascadeAckDue .. | .ackReceive .. | .response .. | .stackRelayWrite ..
  | .stackAgreeReplyRepeat | .mirrorSend | .regionRead .. =>
    [.pads, .sk, .cnt, .outs]
  | .timeReqSend =>
    [.pads, .cal, .sk, .cnt, .freeIx, .outs]
  | .timeReq .. =>
    [.pads, .sk, .cnt, .freeIx, .outs]
  | .command .. =>
    [.pads, .mb, .sk, .cnt, .outs]
  | .relayUnreachable .. =>
    [.pads, .hl, .sk, .cnt, .outs]
  | .trafficUp .. | .txDone .. =>
    [.pads, .qs, .sk, .cnt, .outs]
  | .heartbeatSend =>
    [.pads, .tx, .sk, .tw, .cnt, .outs]
  | .yieldTimeout | .twinYield .. =>
    [.pads, .hl, .mb, .sk, .tw, .se, .win0, .cnt, .outs]
  | .mirror .. =>
    [.pads, .hl, .str, .sk, .tw, .mg, .cnt, .outs]
  | .region .. =>
    [.pads, .hl, .sk, .tw, .mg, .cnt, .outs]
  | .bootReq =>
    [.pads, .freeIx, .outs]
  | .secProtWrite .. =>
    [.pads, .objs]
  | .secLock | .lockTimeout =>
    [.pads, .hl, .mb, .se, .mg, .cnt, .outs]
  | .keyLoad .. =>
    [.pads, .hl, .mb, .rx, .sk, .se, .win0, .cnt, .freeIx, .outs]
  | .keyErase .. =>
    [.pads, .hl, .mb, .sk, .se, .mg, .win0, .cnt, .outs]
  | .sHello .. =>
    [.pads, .se, .cnt, .freeIx, .outs]
  | .proofTimeout .. | .sessionIdle .. =>
    [.pads, .se, .mg, .outs]
  | .sMsg .. =>
    [.pads, .mb, .se, .mg, .cnt, .outs]
  | .sClose .. =>
    [.pads, .se, .mg, .cnt, .outs]
  | .wearSample .. =>
    [.pads, .mg, .cnt]
  | .lifeAccumulate =>
    [.pads, .mg, .cnt, .freeIx]
  | .wearRecordWrite .. | .logFlush .. | .fwBegin .. | .slotEraseComplete .. | .fwChunk .. | .fwFinish ..
  | .fwActivate .. =>
    [.pads, .hl, .qs, .mb, .ld, .tm, .tx, .sg, .sk, .tw, .fs, .se, .mg, .objs, .win0, .flash, .cnt, .freeIx, .outs]
  | .fence .. =>
    [.pads, .hl, .qs, .mb, .ld, .tm, .tx, .sg, .sk, .tw, .fs, .se, .mg, .fences, .objs, .win0, .cnt, .freeIx, .outs]
  | .faultSourceDeassert .. =>
    [.pads, .fs]
  | .linkDown .. =>
    [.pads, .hl, .qs, .mb, .ld, .tm, .tx, .rx, .sg, .sk, .tw, .fs, .se, .mg, .objs, .win0, .cnt, .freeIx, .outs]
  | .decidingPassComplete .. =>
    [.pads, .tx, .rx, .cnt, .freeIx]
  | .fuseBurnComplete =>
    [.pads, .hl, .mb, .se, .fuses, .mg, .cnt, .outs]
  | .serviceKeyLockoutEnd .. | .alarmConditionEnd .. =>
    [.pads, .se]
  | .missingLocal .. =>
    [.pads, .tw, .cnt]

/-- What nothing but the loss of the always-on supply takes back: the F4 latch (R471), manufacturing test
mode (R34), the sticky alarms and the mark that keys were zeroised (R493); and the fuses, of which none
is ever unburnt (R480). -/
def Latched (s t : State) : Prop :=
  (s.fs.f4 = true → t.fs.f4 = true) ∧ (s.pw.testMode = true → t.pw.testMode = true) ∧
  (∀ a, s.se.sticky.getLsbD a = true → t.se.sticky.getLsbD a = true) ∧
  (s.se.zeroised = true → t.se.zeroised = true) ∧ FusesRise s.fuses t.fuses
where
  /-- Fuses are only ever burnt. -/
  FusesRise (a b : Fuses) : Prop :=
    a.rollback ≤ b.rollback ∧ ∀ k, a.revoked.getLsbD k = true → b.revoked.getLsbD k = true

end Sys2Proof
end

