-- ==== Sys2Proof/Certificates/Slice0/Obligations.lean ====
section
/-! DEFINITION. The statements for the provers. A statement about a command gives the state that it
answers: `interlock` around it says that AO-safety's interlock holds at the bumps after every command. -/

open Sys2Proof Sys2Proof.Machine

/-! ### Power, reset and clocks -/

/-- The machine right after reset (R24, R29, R452, Tables 1-10 and 4-3): RESET_N is high and every rail good, the
islands are not clocked yet, so the core is held until PLLS_LOCKED; fail-safe, every memory canonical, no request,
nothing sent and no command waiting, only the domains that Table 4-3 has ENABLED at reset enabled, no fault recorded.
The values that the rules do not give are the model's (log entries 4 and 7). -/
def Obligations.ResetState : Prop :=
  inReset State.reset = false ∧ State.reset.pw.clocked = false ∧ held State.reset = true ∧ FailSafe State.reset ∧ CanonicalMem State.reset ∧ State.reset.pending = [] ∧
  State.reset.outs = [] ∧ State.reset.mb.taken = [] ∧ State.reset.objs = [] ∧ State.reset.pads.safeN = 0 ∧
  State.reset.fs.f4 = false ∧ State.reset.fs.recValid = false ∧ State.reset.fs.ring = [] ∧ State.reset.se.locked = false ∧
  (∀ d : Fin 78, on State.reset d.val = [46, 47, 70, 71, 73, 74, 76, 77].contains d.val)

/-- POWER_ON_RESET (R24, R471) and VDD_AO_LOSS (R27): everything starts from cleared state with the core held and the
VDD_IO outputs undriven; only flash and fuses keep their contents (besides the model's own clock, from which powered
time counts, count of free values, record of outputs and queue), and a fuse burn that ran may leave the fuses short of their new value. That VDD_AO_LOSS
takes the other rails with it is the model's choice (log entry 130). RESET_N_RISE (R29) ends the hold by RESET_N and
changes nothing else. RESET_N_RECOGNISED (R28–R31, R471): the core is held and every object, queue, window and the host
link are at their reset values, SAFE_N is low, no Ts_TXEN is high and every lane idle; a rail whose undervoltage
condition stands is not good; flash, the first-fault record, the event ring, the F4 latch, keys and sticky alarms
stay. Held already, it changes nothing. -/
def Obligations.ResetCommands : Prop :=
  (∀ s : State, ∃ f k, (s.se.burns = [] → f = s.fuses) ∧ exec .powerOnReset s = .next
    { flash := s.flash, fuses := f, clock := s.clock, freeIx := k, outs := s.outs, pending := s.pending,
      pw := { rails := 1, resetLow := true }, pads := { ioDriven := false }, mg := { lifeAt := s.clock } }) ∧
  (∀ s : State, ∃ f k, (s.se.burns = [] → f = s.fuses) ∧ exec .vddAoLoss s = .next
    { flash := s.flash, fuses := f, clock := s.clock, freeIx := k, outs := s.outs, pending := s.pending,
      pw := { rails := 0, aoRuns := false, resetLow := true }, pads := { ioDriven := false }, mg := { lifeAt := s.clock } }) ∧
  (∀ s : State, s.pw.aoRuns = true →
    exec .resetNRise s = .next (interlock { s with pw := { s.pw with resetLow := false } })) ∧
  (∀ s : State, s.pw.aoRuns = true → s.pw.resetLow = false → ∃ t, exec .resetNRecognised s = .next t ∧
    held t = true ∧ t.pw = { rails := railsAt s, resetLow := true, testMode := s.pw.testMode } ∧
    t.pads = { ioDriven := s.pads.ioDriven } ∧ t.objs = [] ∧ t.win0 = [] ∧ t.win1 = [] ∧ t.qs = [] ∧ t.hl = {} ∧
    t.mb = {} ∧ t.ld = {} ∧ t.tm = {} ∧ t.cal = {} ∧ t.tx = {} ∧ t.rx = {} ∧ t.str = {} ∧ t.sg = {} ∧ t.sk = {} ∧
    t.tw = {} ∧ t.flash = s.flash ∧ t.fs.f4 = s.fs.f4 ∧ t.fs.recSrc = s.fs.recSrc ∧ t.fs.recCls = s.fs.recCls ∧
    t.fs.recRaw = s.fs.recRaw ∧ t.fs.recValid = s.fs.recValid ∧ t.fs.ring = s.fs.ring ∧ t.fs.released = false ∧
    t.se.keys = s.se.keys ∧ t.se.sticky = s.se.sticky ∧ t.se.zeroised = s.se.zeroised ∧ t.pending = s.pending) ∧
  (∀ (s : State) (n : Fin 6), (railsAt s).getLsbD (n.val + 1) = (s.pw.rails.getLsbD (n.val + 1) && !(srcOf s n.val).cond)) ∧
  (∀ s : State, s.pw.aoRuns = true → s.pw.resetLow = true → exec .resetNRecognised s = .next (interlock s))

/-- RAILS_GOOD, VDD_IO_GOOD, RAIL_UNDERVOLTAGE and RAIL_OVERVOLTAGE (R24, R25, R28, R447): power-good ends the
conditions of the first six rail sources; a good VDD_IO drives its outputs to their reset states; a rail under its
trip with RESET_N high raises FS000–FS005, which in class F4 latches F4 with SAFE_N low; with RESET_N low it is a rail
not yet good; without VDD_IO its outputs are not driven; an overvoltage raises FS006–FS011. STRAP_SAMPLE,
REFCLK_TIME_MEASUREMENT, PLLS_LOCKED, UCIE_PHY_READY, GUARD_XTAL_STABLE, SYSTEM_PLL_LOSS_OF_LOCK, REFCLK_TIME_LOST and
REFCLK_TIME_RETURN (R32–R38, R193, R473, Table 1-10): the straps are latched once and GUARD_XTAL starts; the first
measurement within 500 ppm selects the reference and ends the measuring, one that is not raises FS013; the PLLs' lock
clocks the islands and at the first time starts the boot ROM; a guard oscillator that has started runs; what is lost
raises FS012 or FS013, and what returns ends it. -/
def Obligations.PowerAndClocks : Prop :=
  (∀ s : State, s.pw.aoRuns = true → ∃ t, exec .railsGood s = .next t ∧ t.pw = { s.pw with rails := 0x7F } ∧
    ∀ n < 6, (srcOf t n).cond = false) ∧
  (∀ s : State, s.pw.aoRuns = true → s.pads.ioDriven = false → ∃ t, exec .vddIoGood s = .next t ∧
    t.pads.ioDriven = true ∧ t.pads.safeN = 0 ∧ t.pads.txen = 0 ∧ t.pads.evt = 0 ∧ t.pads.modTxdis = 0x3F ∧
    t.pads.modRs = 0 ∧ t.pads.modI2cEn = 0 ∧ t.pads.spiSck = false ∧ t.pads.spiCsN = true ∧ t.pads.spiIo = 0 ∧
    t.pads.i2cLow = 0 ∧ t.pads.tdo = false ∧ t.pw.rails.getLsbD 6 = true ∧ (srcOf t 5).cond = false) ∧
  (∀ (s : State) (rail : Fin 6), s.pw.aoRuns = true → s.pw.resetLow = false → (srcOf s rail.val).cond = false →
    clsOf s rail.val = 4 → ∃ t, exec (.railUndervoltage rail) s = .next t ∧ (srcOf t rail.val).cond = true ∧
    t.fs.f4 = true ∧ t.pads.safeN = 0 ∧ t.pads.txen = 0 ∧ t.pads.laneIdle = 0x1FF ∧ t.pw = s.pw ∧
    (rail = 5 → t.pads.ioDriven = false)) ∧
  (∀ (s : State) (rail : Fin 6), s.pw.aoRuns = true → s.pw.resetLow = true → ∃ t,
    exec (.railUndervoltage rail) s = .next t ∧ t.pw.rails.getLsbD (rail.val + 1) = false ∧ held t = true) ∧
  (∀ (s : State) (rail : Fin 6), s.pw.aoRuns = true → (srcOf s (6 + rail.val)).cond = false → ∃ t,
    exec (.railOvervoltage rail) s = .next t ∧ (srcOf t (6 + rail.val)).cond = true ∧
    (srcOf t (6 + rail.val)).sticky = true ∧ t.pw = s.pw) ∧
  (∀ (s : State) (id : BitVec 3) (src : BitVec 2), inReset s = false → s.pw.strapped = false →
    exec (.strapSample id src true) s = .next (interlock { s with
      pw := { s.pw with strapped := true, stackPos := id, bootSrc := src }, pads := { s.pads with xtalOut := true } })) ∧
  (∀ (s : State) (id : BitVec 3) (src : BitVec 2), inReset s = false → s.pw.strapped = false → ∃ t,
    exec (.strapSample id src false) s = .next t ∧ t.pw.testMode = true ∧ t.pw.strapped = true ∧ t.pw.stackPos = id ∧
    t.pw.bootSrc = src ∧ t.se.sticky.getLsbD 8 = true ∧ t.pads.safeN = 0 ∧ t.pads.txen = 0 ∧ t.pads.xtalOut = true) ∧
  (∀ (s : State) (id : BitVec 3) (src : BitVec 2) (testN : Bool), inReset s = false → s.pw.strapped = true →
    exec (.strapSample id src testN) s = .next (interlock s)) ∧
  (∀ (s : State) (hz m : Nat), inReset s = false → s.pw.strapped = true → s.pw.refMHz = 0 → m ∈ [10, 20, 25] →
    ((hz : Int) - m * 1000000).natAbs ≤ m * 500 → ∃ t, exec (.refclkTimeMeasurement hz) s = .next t ∧
    t.pw = { s.pw with refMHz := m, refLost := false } ∧ (srcOf t 13).cond = false) ∧
  (∀ (s : State) (hz : Nat), inReset s = false → s.pw.strapped = true → s.pw.refMHz = 0 →
    (∀ m : Nat, m ∈ [10, 20, 25] → m * 500 < ((hz : Int) - m * 1000000).natAbs) → ∃ t,
    exec (.refclkTimeMeasurement hz) s = .next t ∧ t.pw = s.pw ∧ (srcOf t 13).cond = true) ∧
  (∀ (s : State) (hz : Nat), inReset s = false → s.pw.refMHz ≠ 0 →
    exec (.refclkTimeMeasurement hz) s = .next (interlock s)) ∧
  (∀ (s : State) (hz m : Nat), inReset s = false → s.pw.refLost = true → m ∈ [10, 20, 25] →
    ((hz : Int) - m * 1000000).natAbs ≤ m * 500 → ∃ t, exec (.refclkTimeReturn hz) s = .next t ∧
    t.pw = { s.pw with refMHz := m, refLost := false } ∧ (srcOf t 13).cond = false ∧ t.tm = s.tm) ∧
  (∀ s : State, inReset s = false → s.pw.strapped = true → s.pw.refMHz ≠ 0 → s.se.phase ≠ 0 → exec .pllsLocked s =
    .next (interlock (condOff { s with pw := { s.pw with sysPll := true, timePll := true, clocked := true } } 12))) ∧
  (∀ s : State, inReset s = false → s.pw.strapped = true → s.pw.refMHz ≠ 0 → s.se.phase = 0 → s.pw.bootSrc = 0 → ∃ t,
    exec .pllsLocked s = .next t ∧ t.pw = { s.pw with sysPll := true, timePll := true, clocked := true } ∧
    held t = false ∧ (srcOf t 12).cond = false ∧ t.se.phase = 1 ∧
    t.se.tries = if activeSlot s = 0 then [0, 1] else [1, 0]) ∧
  (∀ s : State, inReset s = false → s.pw.strapped = true → s.pw.refMHz ≠ 0 → s.se.phase = 0 → s.pw.bootSrc = 1 → ∃ t,
    exec .pllsLocked s = .next t ∧ t.pw = { s.pw with sysPll := true, timePll := true, clocked := true } ∧
    held t = false ∧ (srcOf t 12).cond = false ∧ t.se.phase = 1 ∧ t.se.hostLoad = true ∧ t.hl.fwReady = true) ∧
  (∀ s : State, held s = false →
    exec .uciePhyReady s = .next (interlock { s with pw := { s.pw with ucieReady := true } })) ∧
  (∀ s : State, inReset s = false → s.pads.xtalOut = true →
    exec .guardXtalStable s = .next (interlock { s with pw := { s.pw with guardRuns := true } })) ∧
  (∀ s : State, held s = false → s.pw.sysPll = true → ∃ t, exec .systemPllLossOfLock s = .next t ∧
    t.pw = { s.pw with sysPll := false } ∧ (srcOf t 12).cond = true) ∧
  (∀ s : State, inReset s = false → s.pw.refMHz ≠ 0 → ∃ t, exec .refclkTimeLost s = .next t ∧
    t.pw = { s.pw with refLost := true } ∧ (srcOf t 13).cond = true ∧ (timeOk t = true → t.tm.state ≠ 0))

/-! ### The host link -/

/-- LINK_TRAINING_START and LINK_TRAINING_COMPLETE (R48): a start takes the link down, counts a retraining but the
first time, and shows TRAINING or RETRAIN, but not over QUIESCING or DETACHED; the end shows the rate, the width and
the half that carries a x8 link, and ACTIVE. RETRAIN_TIMEOUT, FLIT_RECEIVE_TIMEOUT and ADAPTER_LINK_DOWN (R53, R54,
R66, R89): the link is lost. LINK_STATE shows DETACHED with HOST_LOST, every queue has stopped with ERR 5, every DMRD
has ended as one that timed out, nothing is held for replay, FS052 asserts and the loss is counted. (FS052 has one
permitted class, F1; that the class in force is that one is the hypothesis.) NULL_FLIT_SEND, NAK_RECEIVE and
FLIT_RECEIVE (R51–R54): a null flit of 256 bytes carries the credits owed and no number; a NAK drops from the replay
buffer what it acknowledges and sends the rest again, each flit counting its own replays, and at the fourth of one
asks for retraining; a null flit with a good CRC grants its credits; a flit with a bad CRC is answered with one NAK
that names the expected number, or, with 64 flits held for replay, one is due (that it waits is the model's choice,
log entry 128). -/
def Obligations.LinkAndFlits : Prop :=
  (∀ s : State, held s = false → s.pw.ucieReady = true → s.hl.training = false → ∃ t,
    exec .linkTrainingStart s = .next t ∧ t.hl.trained = false ∧ t.hl.training = true ∧ t.hl.rate = 0 ∧ t.hl.width = 0 ∧
    t.hl.retrains = (if s.hl.everTrained then BitVec.ofNat 16 (min 65535 (s.hl.retrains.toNat + 1)) else s.hl.retrains) ∧
    t.hl.state = (if s.hl.state = lsQuiescing ∨ s.hl.state = lsDetached then s.hl.state
      else if s.hl.everTrained then lsRetrain else lsTraining)) ∧
  (∀ (s : State) (r : Fin 4) (half : Fin 3), held s = false → s.hl.training = true → s.hl.leaving = false → ∃ t,
    exec (.linkTrainingComplete r half) s = .next t ∧ t.hl.trained = true ∧ t.hl.training = false ∧
    t.hl.rate.toNat = 4 * (r.val + 1) ∧ t.hl.width = (if half = 0 then 16 else 8) ∧ t.hl.half.toNat = half.val ∧
    t.hl.state = (if s.hl.state = lsQuiescing ∨ s.hl.state = lsDetached then s.hl.state else lsActive)) ∧
  (∀ (s : State) (c : Instr), held s = false → clsOf s 52 = 1 →
    (c = .retrainTimeout ∧ s.hl.asked = true) ∨ ((c = .flitReceiveTimeout ∨ c = .adapterLinkDown) ∧ s.hl.trained = true) →
    ∃ t, exec c s = .next t ∧ t.hl.state = lsDetached ∧ t.hl.hostLost = true ∧ t.hl.trained = false ∧
    t.hl.losses = s.hl.losses + 1 ∧ t.hl.dmrds = [] ∧ t.hl.replay = [] ∧ (srcOf t 52).cond = true ∧
    (∀ d ∈ s.hl.dmrds, (d.tag, s.clock + 2 * s.hl.cplTimeout.toNat * 50000) ∈ t.hl.deadTags) ∧
    (s.hl.dmrds ≠ [] → t.hl.flags.getLsbD 2 = true) ∧
    ∀ i < 128, (que t i).stopped = true ∧ (que t i).err = 5) ∧
  (∀ s : State, held s = false → s.hl.trained = true → ∃ t f, exec .nullFlitSend s = .next t ∧ t.outs = s.outs ++ [.flit f] ∧
    f.length = 256 ∧ le f 0 2 = 0 ∧ by_ f 240 = s.hl.rtP % 256 ∧ t.hl.rtP = 0 ∧ t.hl.rtPD = 0 ∧ t.hl.rtNP = 0 ∧ t.hl.rtLM = 0 ∧
    t.hl.gvP = s.hl.gvP + s.hl.rtP ∧ t.hl.txSeq = s.hl.txSeq ∧ t.hl.replay = s.hl.replay) ∧
  (∀ (s : State) (seq : BitVec 12), held s = false → s.hl.trained = true → s.hl.waiting = [] → s.hl.replay = [] →
    s.hl.nakDue = false → s.hl.leaving = false → exec (.nakReceive seq) s = .next (interlock s)) ∧
  (∀ (s : State) (a : HeldFlit) (l : List HeldFlit), held s = false → s.hl.trained = true →
    s.hl.waiting = [] → s.hl.nakDue = false → s.hl.leaving = false → s.hl.replay = a :: l →
    (∀ x ∈ a :: l, x.seq ≠ a.seq - 1 ∧ x.replays < 3) → ∃ t,
    exec (.nakReceive a.seq) s = .next t ∧ t.outs = s.outs ++ (a :: l).map (fun x => .flit x.flit) ∧
    t.hl.replay = (a :: l).map (fun x => { x with replays := x.replays + 1 }) ∧ t.hl.asked = s.hl.asked) ∧
  (∀ (s : State) (a : HeldFlit) (l : List HeldFlit), held s = false → s.hl.trained = true →
    s.hl.waiting = [] → s.hl.nakDue = false → s.hl.leaving = false → s.hl.replay = a :: l → s.hl.asked = false →
    (∀ x ∈ a :: l, x.seq ≠ a.seq - 1) → (∃ x ∈ a :: l, 3 ≤ x.replays) → ∃ t,
    exec (.nakReceive a.seq) s = .next t ∧ t.hl.asked = true ∧ .adapter true ∈ t.outs ∧ t.hl.flags.getLsbD 3 = true ∧
    (t.hl.replay.map (·.flit)).take (l.length + 1) = (a :: l).map (·.flit)) ∧
  (∀ (s : State) (f : Bytes), held s = false → s.hl.trained = true → s.hl.waiting = [] → s.hl.nakDue = false →
    s.hl.leaving = false → s.hl.rxBad = false →
    le f 252 4 = crc32c (f.take 252) → le f 0 2 / 4096 = 0 → bitN (le f 248 2) 15 = false →
    exec (.flitReceive f) s = .next (interlock (s.modHl fun l =>
      { l with crP := l.crP + by_ f 240, crPD := l.crPD + le f 241 2 % 4096, crNP := l.crNP + by_ f 243,
               crLM := l.crLM + by_ f 244 }))) ∧
  (∀ (s : State) (f : Bytes), held s = false → s.hl.trained = true → s.hl.rxBad = false → s.hl.replay.length < 64 →
    le f 252 4 ≠ crc32c (f.take 252) → ∃ t g, exec (.flitReceive f) s = .next t ∧ t.hl.rxBad = true ∧
    t.hl.rxSeq = s.hl.rxSeq ∧ t.outs = s.outs ++ [.flit g] ∧ le g 0 2 = s.hl.txSeq.toNat + 8192 ∧
    le g 248 2 = s.hl.rxSeq.toNat + 0x8000 ∧ t.hl.replay = s.hl.replay ++ [⟨s.hl.txSeq, g, 0⟩]) ∧
  (∀ (s : State) (f : Bytes), held s = false → s.hl.trained = true → s.hl.rxBad = false → 64 ≤ s.hl.replay.length →
    le f 252 4 ≠ crc32c (f.take 252) → ∃ t, exec (.flitReceive f) s = .next t ∧ t.hl.rxBad = true ∧
    t.hl.nakDue = true ∧ t.hl.rxSeq = s.hl.rxSeq ∧ t.outs = s.outs ∧ t.hl.replay = s.hl.replay)

/-- HOST_QUIESCE, HL_CTRL_WRITE, HL_STATUS_CLEAR, EV_MASK_WRITE, EV_PEND_CLEAR, EV_HOLDOFF_EXPIRY and
HOLD_LIMIT_EXPIRY (R68, R85–R87, R399, R522, R523): a quiesce drops what was posted and shows QUIESCING, where no detach is about to end; HL_CTRL takes
its defined bits; each 1 written to HL_STATUS clears its flag; a mask bit is what was written; a 1 to EV_PEND clears
the bit unless an event came since; an expired holdoff is over; neither clears a bit of EV_PEND, and none is set but
where a write-back that waited goes out; the hold limit is recorded. -/
def Obligations.HostRegisters : Prop :=
  (∀ s : State, held s = false → s.hl.trained = true → s.hl.leaving = false →
    s.hl.state = lsActive ∨ s.hl.state = lsQuiescing → ∃ t, exec .hostQuiesce s = .next t ∧
    t.hl.state = lsQuiescing ∧ t.hl.quiesce = true ∧ t.hl.evWait = 0 ∧ ∀ x ∈ t.hl.waiting, x.cls ≠ .posted) ∧
  (∀ (s : State) (v : BitVec 32), held s = false → s.hl.state ≠ lsDetached → s.hl.waiting = [] → s.hl.nakDue = false →
    exec (.hlCtrlWrite v) s = .next (interlock { s with hl := { s.hl with ctrl := v &&& 0x3C007 } })) ∧
  (∀ (s : State) (v : BitVec 32), held s = false → v.toNat / 128 % 32 ≠ 0 → ∃ t, exec (.hlStatusClear v) s = .next t ∧
    (∀ k < 5, t.hl.flags.getLsbD k = (s.hl.flags.getLsbD k && !v.getLsbD (7 + k))) ∧ t.hl.err = 0 ∧ t.hl.errHeld = false) ∧
  (∀ (s : State) (w : Fin 4) (v : BitVec 32), held s = false → ∃ t, exec (.evMaskWrite w v) s = .next t ∧
    (∀ i, s.hl.evPend.getLsbD i = true → t.hl.evPend.getLsbD i = true) ∧
    ((∀ x ∈ s.hl.waiting, x.vec = none) → t.hl.evPend = s.hl.evPend) ∧ ∀ i < 128, t.hl.evMask.getLsbD i =
      (if i / 32 = w.val then v.getLsbD (i % 32) else s.hl.evMask.getLsbD i)) ∧
  (∀ (s : State) (w : Fin 4) (v : BitVec 32), held s = false → s.hl.evAgain = 0 → ∃ t, exec (.evPendClear w v) s = .next t ∧
    ∀ i < 128, t.hl.evPend.getLsbD i = (s.hl.evPend.getLsbD i && !(i / 32 == w.val && v.getLsbD (i % 32)))) ∧
  (∀ (s : State) (vec : Fin 128), held s = false → s.hl.evWait.getLsbD vec.val = true → ∃ t,
    exec (.evHoldoffExpiry vec) s = .next t ∧ t.hl.evWait.getLsbD vec.val = false ∧
    (∀ i, s.hl.evPend.getLsbD i = true → t.hl.evPend.getLsbD i = true) ∧
    ((∀ x ∈ s.hl.waiting, x.vec = none) → t.hl.evPend = s.hl.evPend)) ∧
  (∀ s : State, held s = false → s.hl.state = lsDetached → s.hl.detach.toNat / 65536 ≠ 0 →
    exec .holdLimitExpiry s = .next (interlock { s with hl := { s.hl with holdOver := true } }))

/-- MWR and MRD (R56, R68, R101): a well-formed, legal write lands and returns its credits; bytes for a request buffer
that is neither POSTED nor RUNNING read back; HL_CPL_TIMEOUT takes a value in its range. A legal read is answered with
a completion of its tag that carries what is read; one that names no register or is illegal with status 1, one whose
domain is held with status 2. DCPLD, DCPL and DMRD_TIMEOUT (R57, R60, R66, R67): a piece that continues its DMRD is
added to it, the last one ends it; a read of a descriptor that is refused, or that times out, stops its queue with ERR
2 or 1 at that descriptor, and a timed-out tag stays out of use. -/
def Obligations.MemoryMessages : Prop :=
  (∀ (s : State) (m : WinMsg), held s = false → s.hl.trained = true → winMalformed true m = false →
    m.attr.getLsbD 0 = false → winLegal m = true → winHeld s m = false → exec (.mwr m) s = .next (interlock
    (winWrite { s with hl := { s.hl with
      gvP := s.hl.gvP - 1, gvPD := s.hl.gvPD - (m.length.toNat + 63) / 64,
      rtP := s.hl.rtP + 1, rtPD := s.hl.rtPD + (m.length.toNat + 63) / 64 } } m))) ∧
  (∀ (s : State) (m : WinMsg) (n : Fin 4), held s = false → s.hl.trained = true → winMalformed true m = false →
    m.attr.getLsbD 0 = false → winLegal m = true → m.window = 0 → m.data.length = m.length.toNat →
    reqBuf n.val ≤ m.offset.toNat → m.offset.toNat + m.length.toNat ≤ reqBuf n.val + 0x1000 →
    (mbox s n.val).state ≠ 2 → (mbox s n.val).state ≠ 3 → ∃ t, exec (.mwr m) s = .next t ∧
    mread win0Reset t.win0 m.offset.toNat m.length.toNat = m.data ∧ t.mb = s.mb ∧
    ∀ a, a < m.offset.toNat ∨ m.offset.toNat + m.length.toNat ≤ a → tget win0Reset t.win0 a = tget win0Reset s.win0 a) ∧
  (∀ (s : State) (v : Nat), held s = false → s.hl.trained = true → 1 ≤ v → v ≤ 1000 → ∃ t,
    exec (.mwr { attr := 0, tag := 0, length := 4, resv6 := 0, offset := 0x10, window := 0, resv13 := 0, data := toLe 4 v }) s
      = .next t ∧ t.hl.cplTimeout.toNat = v ∧ t.hl.rtP = s.hl.rtP + 1) ∧
  (∀ (s : State) (m : WinMsg), held s = false → s.hl.trained = true → winMalformed false m = false →
    m.attr.getLsbD 0 = false → exec (.mrd m) s = .next (interlock
    (sendMsg { s with hl := { s.hl with gvNP := s.hl.gvNP - 1, rtNP := s.hl.rtNP + 1 } }
      (if winLegal m = false then msgHeader 4 0 m.tag.toNat 0 1 0 0
       else if winHeld s m = true then msgHeader 4 0 m.tag.toNat 0 2 0 0
       else msgHeader 3 0 m.tag.toNat m.length.toNat 0 0 0 ++ winRead s m)))) ∧
  (∀ (s : State) (c : CplMsg) (d : Dmrd), held s = false → s.hl.trained = true → s.hl.waiting = [] →
    s.hl.nakDue = false → cplReserved c = false → c.length ≠ 0 → c.length.toNat ≤ 256 → c.status = 0 → c.attr.getLsbD 0 = false →
    s.hl.dmrds.find? (·.tag == c.tag.toNat) = some d → pieceOk d c = true → d.got.length + c.data.length ≠ d.len →
    exec (.dcpld c) s = .next (interlock { s with hl := { s.hl with
      dmrds := s.hl.dmrds.map fun x => if x = d then { d with got := d.got ++ c.data } else x } })) ∧
  (∀ (s : State) (c : CplMsg) (d : Dmrd) (q idx : Nat), held s = false → s.hl.trained = true →
    cplReserved c = false → c.length ≠ 0 → c.length.toNat ≤ 256 → c.status = 0 → c.attr.getLsbD 0 = false →
    s.hl.dmrds = [d] → d.tag = c.tag.toNat → pieceOk d c = true → d.got.length + c.data.length = d.len →
    d.bad = false → d.use = .rxDesc q idx → (que s (64 + q)).enable = true → (que s (64 + q)).bufs = [] →
    le (d.got ++ c.data) 8 2 % 64 = 0 → 256 ≤ le (d.got ++ c.data) 8 2 → le (d.got ++ c.data) 8 2 ≤ 16384 →
    allZero ((d.got ++ c.data).drop 10) = true → ∃ t, exec (.dcpld c) s = .next t ∧ t.hl.dmrds = [] ∧
    (que t (64 + q)).reading = false ∧ (que t (64 + q)).bufs =
      [{ idx := idx, addr := le (d.got ++ c.data) 0 8, size := le (d.got ++ c.data) 8 2, bad := false }]) ∧
  (∀ (s : State) (c : CplMsg) (d : Dmrd) (q idx : Nat), held s = false → s.hl.trained = true → s.hl.waiting = [] →
    cplReserved c = false → c.length = 0 → clsOf s 49 ≤ 1 →
    s.hl.dmrds.find? (·.tag == c.tag.toNat) = some d → d.use = .txDesc q idx → (que s q).enable = true → ∃ t,
    exec (.dcpl c) s = .next t ∧ (que t q).stopped = true ∧ (que t q).err = 2 ∧ (que t q).reading = false ∧
    (que t q).head = BitVec.ofNat 12 idx ∧ t.hl.dmrds = s.hl.dmrds.erase d ∧ t.hl.flags.getLsbD 1 = true ∧
    (srcOf t 49).sticky = true) ∧
  (∀ (s : State) (tag : BitVec 10) (d : Dmrd) (q idx : Nat), held s = false → clsOf s 50 ≤ 1 →
    s.hl.dmrds.find? (·.tag == tag.toNat) = some d → d.use = .rxDesc q idx → (que s (64 + q)).enable = true → ∃ t,
    exec (.dmrdTimeout tag) s = .next t ∧ (que t (64 + q)).stopped = true ∧ (que t (64 + q)).err = 1 ∧
    (que t (64 + q)).head = BitVec.ofNat 12 idx ∧ t.hl.dmrds = s.hl.dmrds.erase d ∧ t.hl.flags.getLsbD 2 = true ∧
    (d.tag, s.clock + 2 * s.hl.cplTimeout.toNat * 50000) ∈ t.hl.deadTags ∧ (srcOf t 50).sticky = true)

/-- TXQ_TAIL_WRITE, RXQ_TAIL_WRITE, QUEUE_ENABLE and QUEUE_DISABLE (R69, R70, R72): a doorbell within the ring moves
TAIL; one beyond it stops an enabled queue with ERR 3; a queue with a legal ring starts, one with an illegal BASE
keeps ENABLE 0 with ERR 4; clearing ENABLE starts the disable. -/
def Obligations.QueueRegisters : Prop :=
  (∀ (s : State) (q : Fin 64) (v : BitVec 32), held s = false → queuesOpen s = true →
    (que s q.val).enable = false ∨ v.toNat % 4096 < (que s q.val).size.toNat →
    exec (.txqTailWrite q v) s = .next (interlock (modQue s q.val fun u => { u with tail := BitVec.ofNat 12 v.toNat }))) ∧
  (∀ (s : State) (q : Fin 64) (v : BitVec 32), held s = false → queuesOpen s = true →
    (que s (64 + q.val)).enable = false ∨ v.toNat % 4096 < (que s (64 + q.val)).size.toNat →
    exec (.rxqTailWrite q v) s = .next (interlock (modQue s (64 + q.val) fun u => { u with tail := BitVec.ofNat 12 v.toNat }))) ∧
  (∀ (s : State) (q : Fin 64) (v : BitVec 32), held s = false → queuesOpen s = true → (que s q.val).enable = true →
    (que s q.val).stopped = false → (que s q.val).closing = false → (que s q.val).size.toNat ≤ v.toNat % 4096 → ∃ t,
    exec (.txqTailWrite q v) s = .next t ∧ (que t q.val).stopped = true ∧ (que t q.val).err = 3 ∧
    t.hl.evPend.getLsbD 126 = true) ∧
  (∀ (s : State) (d : Dir) (q : Fin 64) (v : BitVec 32), held s = false → queuesOpen s = true →
    (que s (queIx d q.val)).enable = false → (que s (queIx d q.val)).stamped = false → v.getLsbD 31 = true →
    v.getLsbD 30 = false → (que s (queIx d q.val)).base.toNat % 4096 = 0 →
    (que s (queIx d q.val)).size.toNat ∈ [16, 32, 64, 128, 256, 512, 1024, 2048, 4096] →
    (que s (queIx d q.val)).tail.toNat < (que s (queIx d q.val)).size.toNat → ∃ t, exec (.queueEnable d q v) s = .next t ∧
    (que t (queIx d q.val)).enable = true ∧ (que t (queIx d q.val)).err = 0 ∧ (que t (queIx d q.val)).stopped = false ∧
    (que t (queIx d q.val)).slot = none ∧ (v.toNat % 128 < 120 → queVec t (queIx d q.val) = v.toNat % 128) ∧
    ∀ i, i ≠ queIx d q.val → que t i = que s i) ∧
  (∀ (s : State) (d : Dir) (q : Fin 64) (v : BitVec 32), held s = false → queuesOpen s = true →
    (que s (queIx d q.val)).enable = false → (que s (queIx d q.val)).stamped = v.getLsbD 30 → v.getLsbD 31 = true →
    (que s (queIx d q.val)).base.toNat % 4096 ≠ 0 → ∃ t, exec (.queueEnable d q v) s = .next t ∧
    (que t (queIx d q.val)).enable = false ∧ (que t (queIx d q.val)).err = 4) ∧
  (∀ (s : State) (d : Dir) (q : Fin 64) (v : BitVec 32), held s = false → queuesOpen s = true →
    (que s (queIx d q.val)).enable = true → v.getLsbD 31 = false → ∃ t, exec (.queueDisable d q v) s = .next t ∧
    (que t (queIx d q.val)).closing = true ∧ (que t (queIx d q.val)).enable = true ∧
    (que t (queIx d q.val)).recs = (que s (queIx d q.val)).recs)

/-- STAMPED_WRITE and QUEUE_ENABLE with STAMPED (R71, R82): a write that would set STAMPED on a ninth queue of its
direction leaves it 0 and sets HL_STATUS.STAMP_REFUSED, any other sets it, and no such write takes a direction past
eight; a queue enabled with STAMPED takes the lowest of the slots 0–7 that no enabled queue of its direction holds. -/
def Obligations.Stamping : Prop :=
  (∀ (s : State) (d : Dir) (q : Fin 64) (v : BitVec 32), held s = false → queuesOpen s = true →
    (que s (queIx d q.val)).enable = false → (que s (queIx d q.val)).stamped = false → v.getLsbD 31 = false →
    v.getLsbD 30 = true → 8 ≤ stampedCount s (64 ≤ queIx d q.val) → ∃ t, exec (.stampedWrite d q v) s = .next t ∧
    (que t (queIx d q.val)).stamped = false ∧ t.hl.flags.getLsbD 4 = true ∧
    (que t (queIx d q.val)).enable = false) ∧
  (∀ (s : State) (d : Dir) (q : Fin 64) (v : BitVec 32), held s = false → queuesOpen s = true →
    (que s (queIx d q.val)).enable = false → (que s (queIx d q.val)).stamped = false → v.getLsbD 31 = false →
    v.getLsbD 30 = true → stampedCount s (64 ≤ queIx d q.val) < 8 → ∃ t, exec (.stampedWrite d q v) s = .next t ∧
    (que t (queIx d q.val)).stamped = true ∧ t.hl.flags = s.hl.flags ∧ (que t (queIx d q.val)).enable = false) ∧
  (∀ (s : State) (d : Dir) (q : Fin 64) (v : BitVec 32), held s = false → queuesOpen s = true →
    (que s (queIx d q.val)).enable = false → (que s (queIx d q.val)).stamped = false → v.getLsbD 31 = true →
    v.getLsbD 30 = true → ∃ t, exec (.queueEnable d q v) s = .next t ∧
    (que t (queIx d q.val)).stamped = decide (stampedCount s (64 ≤ queIx d q.val) < 8) ∧
    (8 ≤ stampedCount s (64 ≤ queIx d q.val) → t.hl.flags.getLsbD 4 = true)) ∧
  (∀ (s t : State) (d : Dir) (q : Fin 64) (v : BitVec 32) (rx : Bool), stampedCount s rx ≤ 8 →
    (exec (.stampedWrite d q v) s = .next t ∨ exec (.queueEnable d q v) s = .next t) → stampedCount t rx ≤ 8) ∧
  (∀ (s : State) (d : Dir) (q : Fin 64) (v : BitVec 32), held s = false → queuesOpen s = true →
    (que s (queIx d q.val)).enable = false → (que s (queIx d q.val)).stamped = true → v.getLsbD 31 = true →
    v.getLsbD 30 = true → (que s (queIx d q.val)).base.toNat % 4096 = 0 →
    (que s (queIx d q.val)).size.toNat ∈ [16, 32, 64, 128, 256, 512, 1024, 2048, 4096] →
    (que s (queIx d q.val)).tail.toNat < (que s (queIx d q.val)).size.toNat → ∃ t, exec (.queueEnable d q v) s = .next t ∧
    (que t (queIx d q.val)).enable = true ∧ (que t (queIx d q.val)).slot =
      (List.range 8).find? fun k => !(slotsHeld s (64 ≤ queIx d q.val)).contains k)

/-- TX_DESCRIPTOR_FETCH, RX_DESCRIPTOR_FETCH, TX_FRAME_FETCH, TX_WRITE_BACK, RX_WRITE_BACK and QUEUE_DISABLE_COMPLETE
(R59, R70, R73, R76–R78, R270): a queue that may read a descriptor issues a DMRD of 32 bytes at BASE + 32 × HEAD with
a free tag and moves HEAD; the fetch of a frame that one read holds issues a DMRD at its ADDRESS and takes its cells on
its port; the fetch of a frame with no port up holds no cells; the oldest decided descriptor or
delivery is written back and WB_INDEX names the next one; a disabled queue is at its start. Where nothing waits before
it, a write-back is a DMWR of 32 bytes at BASE + 32 × its descriptor's index, with the status and the DONE bit of a TX
descriptor, after the DMWR of a received frame's data at its buffer's address, and its event is pending once it is
sent. -/
def Obligations.DmaCommands : Prop :=
  (∀ (s : State) (q : Fin 64) (tag : Nat), held s = false → fetches s q.val = true → findTag s 1024 s.hl.nextTag = some tag →
    ∃ t d, exec (.txDescriptorFetch q) s = .next t ∧ t.hl.dmrds = s.hl.dmrds ++ [d] ∧ d.tag = tag ∧
    d.use = .txDesc q.val (que s q.val).head.toNat ∧ d.len = 32 ∧
    d.addr = (que s q.val).base.toNat + 32 * (que s q.val).head.toNat ∧ (que t q.val).reading = true ∧
    (que t q.val).head = BitVec.ofNat 12 (((que s q.val).head.toNat + 1) % (que s q.val).size.toNat)) ∧
  (∀ (s : State) (q : Fin 64) (tag : Nat), held s = false → fetches s (64 + q.val) = true →
    findTag s 1024 s.hl.nextTag = some tag → ∃ t d, exec (.rxDescriptorFetch q) s = .next t ∧
    t.hl.dmrds = s.hl.dmrds ++ [d] ∧ d.tag = tag ∧ d.use = .rxDesc q.val (que s (64 + q.val)).head.toNat ∧ d.len = 32 ∧
    d.addr = (que s (64 + q.val)).base.toNat + 32 * (que s (64 + q.val)).head.toNat ∧
    (que t (64 + q.val)).reading = true ∧
    (que t (64 + q.val)).head = BitVec.ofNat 12 (((que s (64 + q.val)).head.toNat + 1) % (que s (64 + q.val)).size.toNat)) ∧
  (∀ (s : State) (q : Fin 64) (r : TxRec), held s = false → dmaOk s = true → s.hl.state = lsActive → s.fs.f4 = false →
    (que s q.val).enable = true → (que s q.val).stopped = false → (que s q.val).closing = false →
    (que s q.val).recs = [r] → r.phase = .read → r.dest = none → r.todo ≠ 0 →
    (∀ p ∈ ones r.todo, downFor s p = true) → descLaunch r.desc = false → s.tw.on = false ∨ descHandle r.desc = none →
    ∃ t, exec (.txFrameFetch q) s = .next t ∧
    (que t q.val).recs = [{ r with phase := .staged }] ∧ t.tx = s.tx ∧ t.hl = s.hl) ∧
  (∀ (s : State) (q : Fin 64) (r : TxRec) (p : Fin 6) (n tag : Nat), held s = false → dmaOk s = true →
    s.hl.state = lsActive → s.fs.f4 = false → (que s q.val).enable = true → (que s q.val).stopped = false →
    (que s q.val).closing = false → (que s q.val).recs = [r] → r.phase = .read → r.dest = none →
    ones r.todo = [p.val] → downFor s p.val = false → descLaunch r.desc = false → cellsFit s r [p.val] = true →
    pieces (maxRead s) (le r.desc 0 8) (descLen r.desc) = [(0, n)] → 4 ≤ n → findTag s 1024 s.hl.nextTag = some tag →
    ∃ t d x, exec (.txFrameFetch q) s = .next t ∧ t.hl.dmrds = s.hl.dmrds ++ [d] ∧ d.tag = tag ∧
    d.use = .txFrame q.val r.idx 0 ∧ d.addr = le r.desc 0 8 ∧ d.len = n ∧ (que t q.val).recs = [x] ∧
    x.phase = .fetching 1 ∧ (prt t p.val).cells = (prt s p.val).cells + cellsOf (descLen r.desc)) ∧
  (∀ (s : State) (q : Fin 64) (r : TxRec) (l : List TxRec) (v : BitVec 8), held s = false → dmaOk s = true →
    postedOk s = true → (que s q.val).recs = r :: l → r.phase = .done v → (que s q.val).stamped = false → ∃ t, exec (.txWriteBack q) s = .next t ∧ (que t q.val).recs = l ∧
    (que t q.val).wb = BitVec.ofNat 12 ((r.idx + 1) % (que s q.val).size.toNat)) ∧
  (∀ (s : State) (q : Fin 64) (w : RxWb) (l : List RxWb), held s = false → dmaOk s = true → postedOk s = true →
    s.fs.f4 = false → (que s (64 + q.val)).wbs = w :: l → ∃ t, exec (.rxWriteBack q) s = .next t ∧
    (que t (64 + q.val)).wbs = l ∧
    (que t (64 + q.val)).wb = BitVec.ofNat 12 ((w.idx + 1) % (que s (64 + q.val)).size.toNat)) ∧
  (∀ (s : State) (d : Dir) (q : Fin 64), held s = false → (que s (queIx d q.val)).closing = true →
    reads s (queIx d q.val) = false → anyStarted s (queIx d q.val) = false → (que s (queIx d q.val)).recs = [] →
    (que s (queIx d q.val)).wbs = [] → ∃ t, exec (.queueDisableComplete d q) s = .next t ∧
    (que t (queIx d q.val)).enable = false ∧ (que t (queIx d q.val)).closing = false ∧ (que t (queIx d q.val)).err = 0 ∧
    (que t (queIx d q.val)).stopped = false ∧ (que t (queIx d q.val)).head = 0 ∧ (que t (queIx d q.val)).tail = 0 ∧
    (que t (queIx d q.val)).wb = 0 ∧ t.hl = s.hl) ∧
  (∀ (s : State) (q : Fin 64) (r : TxRec) (l : List TxRec) (v : BitVec 8) (a : Nat), held s = false → dmaOk s = true →
    postedOk s = true → (que s q.val).recs = r :: l → r.phase = .done v → (que s q.val).stamped = false →
    s.hl.trained = true → s.hl.waiting = [] → s.hl.nakDue = false → s.hl.replay.length < 64 →
    a = (que s q.val).base.toNat + 32 * r.idx → ∃ t f g, exec (.txWriteBack q) s = .next t ∧
    t.outs = s.outs ++ .flit f :: g ∧ sub f 4 48 = msgHeader 0x11 0 0 32 0 (a % 2 ^ 32) (a / 2 ^ 32 % 2 ^ 32) ++
      patch (txWb r false v 0) 19 [0] ∧ (r.member = none → by_ f 51 = 0x80 ∧ by_ f 35 = v.toNat) ∧
    t.hl.evPend.getLsbD (queVec s q.val) = true) ∧
  (∀ (s : State) (q : Fin 64) (w : RxWb) (l : List RxWb) (a : Nat), held s = false → dmaOk s = true →
    postedOk s = true → s.fs.f4 = false → (que s (64 + q.val)).wbs = w :: l → w.data = [] → w.wb.length = 32 →
    s.hl.trained = true → s.hl.waiting = [] → s.hl.nakDue = false → s.hl.replay.length < 64 →
    a = (que s (64 + q.val)).base.toNat + 32 * w.idx → ∃ t f g, exec (.rxWriteBack q) s = .next t ∧
    t.outs = s.outs ++ .flit f :: g ∧
    sub f 4 48 = msgHeader 0x11 0 0 32 0 (a % 2 ^ 32) (a / 2 ^ 32 % 2 ^ 32) ++ w.wb ∧
    t.hl.evPend.getLsbD (queVec s (64 + q.val)) = true) ∧
  (∀ (s : State) (q : Fin 64) (w : RxWb) (l : List RxWb) (a n : Nat), held s = false → dmaOk s = true →
    2 ≤ s.hl.crP → 2 ≤ s.hl.crPD → s.fs.f4 = false → (que s (64 + q.val)).wbs = w :: l → w.data.length = n → 0 < n →
    n ≤ 64 → pieces (maxWrite s) w.addr n = [(0, n)] → w.wb.length = 32 →
    s.hl.trained = true → s.hl.waiting = [] → s.hl.nakDue = false → s.hl.replay.length < 63 →
    a = (que s (64 + q.val)).base.toNat + 32 * w.idx → ∃ t e f g, exec (.rxWriteBack q) s = .next t ∧
    t.outs = s.outs ++ .flit e :: .flit f :: g ∧
    sub e 4 (16 + n) = msgHeader 0x11 ((if w.poison then 1 else 0) + (if s.hl.ctrl.getLsbD 2 then 2 else 0)) 0 n 0
      (w.addr % 2 ^ 32) (w.addr / 2 ^ 32 % 2 ^ 32) ++ w.data ∧
    sub f 4 48 = msgHeader 0x11 0 0 32 0 (a % 2 ^ 32) (a / 2 ^ 32 % 2 ^ 32) ++ w.wb ∧
    t.hl.evPend.getLsbD (queVec s (64 + q.val)) = true)

/-! ### The mailbox, objects and the stage -/

/-- POST, ACK, ABANDON (R100) and what a doorbell with none of them due does: IDLE or RESPONDED goes to POSTED with
the received time, RESPONDED to IDLE, POSTED to IDLE; in every other state the doorbell changes nothing. REQUEST_TAKE
(R102, R105, R117): a POSTED MB0 comes before everything else; its request is read from its buffer, the channel is
RUNNING, the request is counted, and steps 1 to 5 of R105 answer at once in their order: a length above 4,080, a bad
CRC, a busy agent, an unknown opcode, a flag that is not defined; under CHECK_ONLY such an answer has no payload (R106). One that passes them waits for its opcode. A request
of a remote agent is taken when no channel is POSTED. -/
def Obligations.MailboxChannels : Prop :=
  (∀ (s : State) (n : Fin 4), held s = false → (mbox s n.val).state = 1 ∨ (mbox s n.val).state = 4 →
    exec (.post n) s = .next (interlock (modMbox s n.val fun c => { c with state := 2, at_ := recvTime s }))) ∧
  (∀ (s : State) (n : Fin 4), held s = false → (mbox s n.val).state = 4 →
    exec (.ack n) s = .next (interlock (modMbox s n.val fun c => { c with state := 1 }))) ∧
  (∀ (s : State) (n : Fin 4), held s = false → (mbox s n.val).state = 2 →
    exec (.abandon n) s = .next (interlock (modMbox s n.val fun c => { c with state := 1 }))) ∧
  (∀ (s : State) (n : Fin 4), held s = false → (mbox s n.val).state ≠ 1 → (mbox s n.val).state ≠ 4 →
    exec (.post n) s = .next (interlock s)) ∧
  (∀ (s : State) (n : Fin 4), held s = false → (mbox s n.val).state ≠ 4 → exec (.ack n) s = .next (interlock s)) ∧
  (∀ (s : State) (n : Fin 4), held s = false → (mbox s n.val).state ≠ 2 → exec (.abandon n) s = .next (interlock s)) ∧
  (∀ s : State, held s = false → (mbox s 0).state = 2 → exec .requestTake s = .next (interlock
    (takeReq (count (modMbox s 0 fun c => { c with state := 3 }) cDev 9)
      (parseReq (.mb 0) (mread win0Reset s.win0 (reqBuf 0) 4096) (mbox s 0).at_ false)))) ∧
  (∀ (s : State) (r : Request), held s = false → (∀ n < 4, (mbox s n).state ≠ 2) → s.mb.remote = [r] →
    exec .requestTake s = .next (interlock (takeReq { s with mb := { s.mb with remote := [] } } r))) ∧
  (∀ (s : State) (r : Request), earlyCheck s r = none → takeReq s r = { s with mb := { s.mb with taken := s.mb.taken ++ [r] } }) ∧
  (∀ (s : State) (r : Request) (st : Nat) (p : Bytes), earlyCheck s r = some (st, p) → takeReq s r =
    respondWith { s with mb := { s.mb with taken := s.mb.taken ++ [r] } } r st false (refusalPayload r p)) ∧
  (∀ (s : State) (r : Request), 4080 < r.length → earlyCheck s r = some (stRange, [4, 0])) ∧
  (∀ (s : State) (r : Request), r.length ≤ 4080 → r.crcOk = false → earlyCheck s r = some (stIntegrity, [])) ∧
  (∀ (s : State) (r : Request), r.length ≤ 4080 → r.crcOk = true → r.busy = true → earlyCheck s r = some (stBusy, [])) ∧
  (∀ (s : State) (r : Request), r.length ≤ 4080 → r.crcOk = true → r.busy = false → s.se.hostLoad = false →
    opcodes.contains r.opcode.toNat = false → earlyCheck s r = some (stUnknown, [])) ∧
  (∀ (s : State) (r : Request), r.length ≤ 4080 → r.crcOk = true → r.busy = false → s.se.hostLoad = false →
    opcodes.contains r.opcode.toNat = true → 2 ≤ r.word6.toNat → earlyCheck s r = some (stRange, [6, 0]))

/-- A response to a mailbox channel in RUNNING (R100, R104, Table 3-7): its bytes stand in the response buffer, the
channel is RESPONDED with the tag and the status, its event is pending, the request is no longer taken, and no other
byte of window 0 and no other channel changes; in any other state of the channel nothing is written. The order of
refusals after a request is taken (steps 6 to 8 of R105, R125): an agent without the opcode gets ST_AUTH and a key
opcode of an agent outside KEY_AGENTS too, but for what host loading serves on every channel (R475) and for the size
of an image, which FW_BEGIN judges first (R512); with an F4 latched what R125 does not serve gets ST_GRAVE, and a write
that withdraws the release of SAFE_N is served (R465); an OID that R109 forbids gets its answer, under CHECK_ONLY
without its payload (R106). None of them changes anything but the answer. -/
def Obligations.RequestOutcomes : Prop :=
  (∀ (s : State) (r : Request) (n : Fin 4) (status : Nat) (staged : Bool) (p : Bytes), r.via = .mb n → status < 256 →
    ((mbox s n.val).state = 3 →
      mread win0Reset (respondWith s r status staged p).win0 (rspBuf n.val) (16 + p.length) = respMsg r status staged p ∧
      (∀ a, a < rspBuf n.val ∨ rspBuf n.val + 16 + p.length ≤ a →
        tget win0Reset (respondWith s r status staged p).win0 a = tget win0Reset s.win0 a) ∧
      (mbox (respondWith s r status staged p) n.val).state = 4 ∧
      (mbox (respondWith s r status staged p) n.val).lastTag = r.tag ∧
      (mbox (respondWith s r status staged p) n.val).lastStatus.toNat = status ∧
      (respondWith s r status staged p).hl.evPend.getLsbD (121 + n.val) = true ∧
      (∀ m, m ≠ n.val → mbox (respondWith s r status staged p) m = mbox s m)) ∧
    ((mbox s n.val).state ≠ 3 → status ≠ stConflict → respondWith s r status staged p = { s with mb := { s.mb with taken := s.mb.taken.erase r } }) ∧
    (respondWith s r status staged p).mb.taken = s.mb.taken.erase r) ∧
  (∀ (s : State) (r : Request) (f : State → Request → Answer) (st : Nat), authCheck s r.via r.opcode.toNat = some st →
    sizeFirst r = false → serve s r f = respondWith s r st false []) ∧
  (∀ (s : State) (r : Request) (f : State → Request → Answer), authCheck s r.via r.opcode.toNat = none → s.fs.f4 = true →
    graveServed r.opcode.toNat r.oid.toNat = false → withdraws r = false → serve s r f = respondWith s r stGrave false []) ∧
  (∀ (s : State) (r : Request) (f : State → Request → Answer) (st : Nat) (p : Bytes),
    authCheck s r.via r.opcode.toNat = none → s.fs.f4 = false → oidCheck r.opcode.toNat r.oid.toNat = some (st, p) →
    serve s r f = respondWith s r st false (refusalPayload r p)) ∧
  (∀ (s : State) (v : Via) (op : Nat), opAllowed s v op = false → (s.se.hostLoad && loadServes v op) = false →
    authCheck s v op = some stAuth) ∧
  (∀ (s : State) (v : Via) (op : Nat), opAllowed s v op = true → op = 0x90 ∨ op = 0x91 → keyAgent s v = false →
    authCheck s v op = some stAuth) ∧
  (∀ (s : State) (v : Via), opAllowed s v 0x62 = true → protFlag s 3 = true → authCheck s v 0x62 = some stLocked) ∧
  (∀ (s : State) (v : Via) (op : Nat), opAllowed s v op = true → 0xA0 ≤ op → op ≤ 0xA3 → protFlag s 6 = true →
    s.se.hostLoad = false → authCheck s v op = some stLocked) ∧
  (∀ (s : State) (v : Via) (r : Request) (i : Instr) (op : Nat) (f : State → Request → Answer),
    (∀ s, exec i s = runCmd v op f s) → Admitted s v op r → exec i s = .next (interlock (settleAnswer (onTaken s r) (acted r)
      (f (onTaken s r) (acted r))))) ∧
  (∀ (s : State) (r : Request) (f : State → Request → Answer) (st : Nat), authCheck s r.via r.opcode.toNat = some st →
    sizeFirst r = true → serve s r f = respondWith s r stRange false (refusalPayload r (toLe 2 16))) ∧
  (∀ (s : State) (r : Request) (f : State → Request → Answer), authCheck s r.via r.opcode.toNat = none →
    withdraws r = true → oidCheck r.opcode.toNat r.oid.toNat = none → serve s r f = settleAnswer s r (f s r)) ∧
  (∀ (s : State) (v : Via) (op : Nat), s.se.hostLoad = true → loadServes v op = true → op < 0x90 →
    op ≠ 0x62 → authCheck s v op = none)

/-- DETACH, DETACH_DRAIN_COMPLETE and ATTACH (R88, R92): a DETACH of an ACTIVE link shows QUIESCING and is answered
later; with no DMRD outstanding the drain's last message is DETACH_NOTICE, and where nothing else waits but what
DMA_ENABLE 0 holds back and its credit is there, DETACHED follows, every queue stopped with ERR 5, nothing held for replay, and the adapter takes the link
down; without the credit the notice waits in QUIESCING; an ATTACH of a trained link shows ACTIVE again with every queue disabled at index 0 and
HOST_LOST cleared. MAILBOX_SERVICE_LIMIT_MISSED raises FS057 (R102). PING and GET_INFO (R126): PING returns its
payload of up to 64 bytes; GET_INFO names the device, its revision, the specification version, the firmware and its
slot, the stack position, the agent with its rank, and the die. -/
def Obligations.ServiceOrders : Prop :=
  (∀ (s : State) (v : Via) (r : Request), Admitted s v 0xC0 r → checkOnly r = false → r.length = 0 →
    s.hl.state = lsActive → exec (.detach v) s = .next (interlock (setLinkState ((onTaken s r).modHl fun l =>
      { l with detachVia := some r.via }) lsQuiescing))) ∧
  (∀ (s : State) (v : Via) (r : Request), Admitted s v 0xC0 r → checkOnly r = false → r.length = 0 →
    s.hl.state ≠ lsActive → exec (.detach v) s = .next (noWith s r stState [])) ∧
  (∀ s : State, held s = false → s.hl.state = lsQuiescing → s.hl.dmrds = [] → s.hl.leaving = false →
    s.hl.trained = true → (∀ x ∈ s.hl.waiting, dmaHeld s.hl x.msg = true ∧ x.cls ≠ .linkMgmt) → s.hl.nakDue = false →
    1 ≤ s.hl.crLM → s.hl.replay.length < 64 → s.hl.quiesce = true ∨ (s.hl.detachVia = none ∧ s.hl.evMask.getLsbD 126 = true ∧
      ∀ i < 128, (que s i).recs = [] ∧ (que s i).wbs = []) → ∃ t, exec .detachDrainComplete s = .next t ∧
    t.hl.state = lsDetached ∧ t.hl.trained = false ∧ t.hl.replay = [] ∧ t.hl.detachVia = none ∧
    t.hl.ctrl.getLsbD 0 = false ∧ .adapter false ∈ t.outs ∧
    ∀ i < 128, (que t i).stopped = true ∧ (que t i).err = 5 ∧ (que t i).recs.length = 0) ∧
  (∀ s : State, held s = false → s.hl.state = lsQuiescing → s.hl.dmrds = [] → s.hl.leaving = false →
    s.hl.trained = true → s.hl.waiting = [] → s.hl.nakDue = false → s.hl.crLM = 0 → s.hl.quiesce = true → ∃ t m,
    exec .detachDrainComplete s = .next t ∧ t.hl.state = lsQuiescing ∧ t.hl.leaving = true ∧ t.hl.waiting = [m] ∧
    m.msg = msgHeader 0x30 0 0 0 1 0 0 ∧ ∀ i < 128, (que t i).stopped = true ∧ (que t i).err = 5) ∧
  (∀ (s : State) (v : Via) (r : Request), Admitted s v 0xC1 r → checkOnly r = false → r.length = 0 →
    s.hl.state = lsDetached → s.hl.trained = true → ∃ t, exec (.attach v) s = .next t ∧ t.hl.state = lsActive ∧
    t.hl.hostLost = false ∧ t.hl.quiesce = false ∧ t.hl.ctrl = setBit s.hl.ctrl 0 s.hl.dmaSaved ∧
    (srcOf t 52).cond = false ∧ ∀ i < 128, (que t i).enable = false ∧ (que t i).err = 0 ∧ (que t i).head = 0 ∧
    (que t i).tail = 0 ∧ (que t i).base = (que s i).base ∧ (que t i).size = (que s i).size) ∧
  (∀ s : State, held s = false → clsOf s 57 = 1 → ∃ t, exec .mailboxServiceLimitMissed s = .next t ∧
    (srcOf t 57).sticky = true ∧ (srcOf t 57).real = min 65535 ((srcOf s 57).real + 1) ∧
    t.hl.evPend.getLsbD 120 = true ∧ t.mb = s.mb ∧ t.qs = s.qs ∧ t.objs = s.objs) ∧
  (∀ (s : State) (v : Via) (r : Request), Admitted s v 0x01 r → checkOnly r = false → r.length ≤ 64 →
    exec (.ping v) s = .next (okWith (onTaken s r) r r.payload)) ∧
  (∀ (s : State) (v : Via) (r : Request), Admitted s v 0x01 r → checkOnly r = false → 64 < r.length →
    exec (.ping v) s = .next (noWith s r stRange [4, 0])) ∧
  (∀ (s : State) (v : Via) (r : Request), Admitted s v 0x02 r → checkOnly r = false → r.length = 0 → s.se.hostLoad = false → ∃ p,
    exec (.getInfo v) s = .next (okWith (onTaken s r) r p) ∧ p.length = 24 ∧ le p 0 2 = 0x860 ∧
    by_ p 2 = Config.siliconRevision.toNat ∧ by_ p 3 = 1 ∧ le p 4 4 = s.se.version.toNat ∧ by_ p 8 = s.se.slot.toNat ∧
    by_ p 9 = s.pw.stackPos.toNat ∧ by_ p 10 = agentOf r.via ∧ by_ p 11 = rankOf r.via ∧ le p 12 8 = Config.dieSerial.toNat)

/-- ATTR_SET and ATTR_GET of an immediate group (R110, R126, Table 3-17): a legal image replaces the words that
WORD_MASK takes and leaves the others, and nothing else of the object memory changes; a read returns the stored bytes.
An object in a domain that is not ENABLED is answered ST_STATE; a read-only group, ST_RANGE at byte 8. TABLE_WRITE,
TABLE_READ and TABLE_CLEAR (R110, R521): legal entries of an immediate table are written in ascending order and
counted; a read returns as many whole entries as the table, the request and 4,076 bytes allow, with the entry size; a
clear puts the reset entry into every entry named, all that follow where the count is 0. -/
def Obligations.ObjectOrders : Prop :=
  (∀ (s : State) (v : Via) (r : Request) (d : Desc), Admitted s v 0x11 r → checkOnly r = false →
    descOf r.oid.toNat = some d → d.kind = .immediate →
    r.oid.toNat / 0x10000 ∉ [0x0103, 0x0206, 0x0300, 0x0900] → r.oid.toNat ≠ 0x02000002 → 8 ≤ r.length → r.length ≤ 132 → wordsOutside d r.payload = false →
    needsMet s r.oid.toNat d 0 1 = true →
    imageIllegal r.oid.toNat d r.payload (mergeImage d r.payload (objRead s (physOid s r.oid.toNat) 0 d.size)) = none →
    attrRefusal (onTaken s r) (acted r) r.oid.toNat
      (mergeImage d r.payload (objRead s (physOid s r.oid.toNat) 0 d.size)) = none →
    exec (.attrSet v) s = .next (okWith (objWrite (onTaken s r) (physOid s r.oid.toNat) 0
      (mergeImage d r.payload (objRead s (physOid s r.oid.toNat) 0 d.size))) r [])) ∧
  (∀ (s : State) (v : Via) (r : Request) (d : Desc), Admitted s v 0x11 r → checkOnly r = false →
    descOf r.oid.toNat = some d → d.kind = .immediate → r.oid.toNat / 0x10000 = 0x0300 → 8 ≤ r.length →
    r.length ≤ 132 → wordsOutside d r.payload = false → needsMet s r.oid.toNat d 0 1 = true →
    imageIllegal r.oid.toNat d r.payload (mergeImage d r.payload (objRead s (physOid s r.oid.toNat) 0 d.size)) = none →
    ∃ t, exec (.attrSet v) s = .next (okWith t r []) ∧ t.objs = (objWrite s (physOid s r.oid.toNat) 0
      (mergeImage d r.payload (objRead s (physOid s r.oid.toNat) 0 d.size))).objs ∧ t.mb = (onTaken s r).mb) ∧
  (∀ (s : State) (v : Via) (r : Request) (d : Desc), Admitted s v 0x11 r → checkOnly r = false →
    descOf r.oid.toNat = some d → d.kind = .immediate → 8 ≤ r.length → r.length ≤ 132 → wordsOutside d r.payload = false →
    needsMet s r.oid.toNat d 0 1 = false → exec (.attrSet v) s = .next (noWith s r stState [])) ∧
  (∀ (s : State) (v : Via) (r : Request) (d : Desc), Admitted s v 0x11 r → checkOnly r = false →
    descOf r.oid.toNat = some d → d.kind = .readOnly → exec (.attrSet v) s = .next (noWith s r stRange [8, 0])) ∧
  (∀ (s : State) (v : Via) (r : Request) (d : Desc), Admitted s v 0x10 r → checkOnly r = false →
    descOf r.oid.toNat = some d → r.oid.toNat % 16 ≠ 15 → r.length = 4 → by_ r.payload 0 ≤ 1 → by_ r.payload 1 = 0 →
    by_ r.payload 2 = 0 → by_ r.payload 3 = 0 → needsMet s r.oid.toNat d 0 1 = true →
    exec (.attrGet v) s = .next (okWith (onTaken s r) r
      (groupImage (onTaken s r) (if by_ r.payload 0 = 1 then allOrders s else []) r.oid.toNat d))) ∧
  (∀ (s : State) (oid off : Nat) (b : Bytes), objRead (objWrite s oid off b) oid off b.length = b) ∧
  (∀ (s : State) (oid off x n : Nat) (b : Bytes), x + n ≤ off ∨ off + b.length ≤ x →
    objRead (objWrite s oid off b) oid x n = objRead s oid x n) ∧
  (∀ (s : State) (v : Via) (r : Request) (d : Desc), Admitted s v 0x20 r → checkOnly r = false →
    descOf r.oid.toNat = some d → d.kind = .immediate → r.oid.toNat / 0x10000 ≠ 0x0803 →
    le r.payload 0 4 + le r.payload 4 2 ≤ d.entries → 0 < le r.payload 4 2 → le r.payload 6 2 = d.size →
    r.length = 8 + le r.payload 4 2 * d.size →
    entriesIllegal (onTaken s r) r.oid.toNat d
      ((List.range (le r.payload 4 2)).map fun k => sub r.payload (8 + k * d.size) d.size) = none →
    needsMet s r.oid.toNat d (le r.payload 0 4) (le r.payload 4 2) = true →
    tableRefusal (onTaken s r) (acted r) r.oid.toNat (le r.payload 0 4)
      ((List.range (le r.payload 4 2)).map fun k => sub r.payload (8 + k * d.size) d.size) false = none →
    exec (.tableWrite v) s = .next (okWith (writeEntries (onTaken s r) r.oid.toNat d (le r.payload 0 4)
      ((List.range (le r.payload 4 2)).map fun k => sub r.payload (8 + k * d.size) d.size)) r (toLe 4 (le r.payload 4 2)))) ∧
  (∀ (s : State) (v : Via) (r : Request) (d : Desc), Admitted s v 0x21 r → checkOnly r = false →
    descOf r.oid.toNat = some d → r.length = 8 → le r.payload 0 4 < d.entries → by_ r.payload 6 ≤ 1 → by_ r.payload 7 = 0 →
    needsMet s r.oid.toNat d (le r.payload 0 4)
      (min (le r.payload 4 2) (min (d.entries - le r.payload 0 4) (4076 / d.size))) = true →
    exec (.tableRead v) s = .next (okWith (onTaken s r) r
      (toLe 2 (min (le r.payload 4 2) (min (d.entries - le r.payload 0 4) (4076 / d.size))) ++ toLe 2 d.size ++
        (List.range (min (le r.payload 4 2) (min (d.entries - le r.payload 0 4) (4076 / d.size)))).flatMap fun k =>
          entryImage (onTaken s r) (if by_ r.payload 6 = 1 then allOrders s else []) r.oid.toNat d (le r.payload 0 4 + k)))) ∧
  (∀ (s : State) (v : Via) (r : Request) (d : Desc), Admitted s v 0x22 r → checkOnly r = false →
    descOf r.oid.toNat = some d → d.kind = .immediate → r.oid.toNat / 0x10000 ≠ 0x0803 →
    r.length = 8 → le r.payload 0 4 < d.entries → le r.payload 4 4 = 0 →
    needsMet s r.oid.toNat d (le r.payload 0 4) (d.entries - le r.payload 0 4) = true →
    tableRefusal (onTaken s r) (acted r) r.oid.toNat (le r.payload 0 4)
      (List.replicate (d.entries - le r.payload 0 4) d.reset) true = none →
    exec (.tableClear v) s = .next (okWith (writeEntries (onTaken s r) r.oid.toNat d (le r.payload 0 4)
      (List.replicate (d.entries - le r.payload 0 4) d.reset)) r (toLe 4 (d.entries - le r.payload 0 4))))

/-- STAGE_MODE and ABORT_STAGE (R119, R122, R262): a mode that the stage passes is staged and answered with STAGED 1,
with no relay while the device is alone; an abort removes the orders its scope selects and counts them, OVER ends where the
charge is then within the ceiling (R150), and with none selected it is answered ST_STATE. COMMIT (R112, R113): the boundary is the first multiple of the commit period at or after the
earliest it may name, or the one it names; an accepted COMMIT freezes the open stage and is answered at its boundary;
one with a COMMIT pending, or without voted time, is ST_STATE, one that names no boundary it may name a range error.
-/
def Obligations.StageOrders : Prop :=
  (∀ (s : State) (v : Via) (r : Request), Admitted s v 0x30 r → checkOnly r = false → r.length = 4 →
    by_ r.payload 0 ≤ 7 → by_ r.payload 1 = 0 → by_ r.payload 2 = 0 → by_ r.payload 3 = 0 →
    modeFail (onTaken s r) [] (by_ r.payload 0) true = none → s.mb.stage = [] → s.mb.frozen = [] → s.sk.config = 0 →
    ∃ t o, exec (.stageMode v) s = .next (stagedWith t r []) ∧ t.mb.stage = [o] ∧ o.opcode = r.opcode ∧ o.tag = r.tag ∧
    o.agent.toNat = agentOf r.via ∧ o.payload = r.payload ∧ t.mb.frozen = [] ∧ t.objs = s.objs ∧ t.ld = s.ld) ∧
  (∀ (s : State) (v : Via) (r : Request), Admitted s v 0x32 r → checkOnly r = false → r.length = 8 →
    by_ r.payload 0 ≤ 2 → by_ r.payload 1 = 0 → by_ r.payload 2 = 0 → by_ r.payload 3 = 0 →
    (s.mb.stage.filter (abortSel r)) ≠ [] → exec (.abortStage v) s = .next (okWith (underCeil ((onTaken s r).modMb fun m =>
      { m with stage := m.stage.filter fun o => !abortSel r o })) r (toLe 2 (s.mb.stage.filter (abortSel r)).length))) ∧
  (∀ (s : State) (v : Via) (r : Request), Admitted s v 0x32 r → checkOnly r = false → r.length = 8 →
    by_ r.payload 0 ≤ 2 → by_ r.payload 1 = 0 → by_ r.payload 2 = 0 → by_ r.payload 3 = 0 →
    (s.mb.stage.filter (abortSel r)) = [] → exec (.abortStage v) s = .next (noWith s r stState [])) ∧
  (∀ (s : State) (v : Via), commitPeriod s ≠ 0 → ∃ b, chooseBoundary s v 0 = some b ∧ b % commitPeriod s = 0 ∧
    earliest s v ≤ b ∧ b < earliest s v + commitPeriod s) ∧
  (∀ (s : State) (v : Via) (r : Request) (b : Nat), Admitted s v 0x31 r → checkOnly r = false → r.length = 8 →
    s.mb.boundary = none → timeOk s = true → chooseBoundary s r.via (le r.payload 0 8) = some b →
    periodFits s s.mb.stage (commitPeriod s) = true → s.sk.config = 0 → modeOf s.mb.stage = none →
    freezeBad s s.mb.stage = false → freezeDomains s s.mb.stage = [] → ∃ t, exec (.commit v) s = .next t ∧
    t.mb.boundary = some b ∧ t.mb.frozen = s.mb.stage ∧ t.mb.stage = [] ∧ t.mb.commit = some (acted r) ∧
    t.mb.held = false ∧ t.mb.selfBad = false) ∧
  (∀ (s : State) (v : Via) (r : Request), Admitted s v 0x31 r → checkOnly r = false → r.length = 8 →
    (s.mb.boundary.isSome || !timeOk s) = true → exec (.commit v) s = .next (noWith s r stState [])) ∧
  (∀ (s : State) (v : Via) (r : Request), Admitted s v 0x31 r → checkOnly r = false → r.length = 8 →
    s.mb.boundary = none → timeOk s = true → chooseBoundary s r.via (le r.payload 0 8) = none →
    ∃ p, exec (.commit v) s = .next (noWith s r stRange p))

/-- COMMIT_DECIDE, AGREE_REPEAT, PREPARED_SET_HOLD and COMMIT_BOUNDARY (R114–R116, R266, R389): at DECIDE an agreement
without a gap is confirmed and one with a gap cancelled, with nothing applied; 1 ms before the boundary an agreed set
is held; at the boundary, and not before it, a held set applies, its mode with it, and the commit is over. -/
def Obligations.CommitMoments : Prop :=
  (∀ (s : State) (m : Nat), held s = false → undecided s = some m → s.tx.phase = 1 → planesMissing s = 0 →
    stackMissing s = 0 → s.mb.selfBad = false → segsMissing s m = 0 → ∃ t, exec .commitDecide s = .next t ∧
    t.tx.phase = 2 ∧ t.tx.agree.decided = true ∧ t.tx.agree.result = 2 ∧ t.mb = s.mb) ∧
  (∀ (s : State) (m : Nat), held s = false → undecided s = some m → s.tx.phase = 1 → planesMissing s ≠ 0 → ∃ t,
    exec .commitDecide s = .next t ∧ t.tx.phase = 3 ∧ t.tx.agree.result = 3 ∧ t.mb.boundary = none ∧ t.mb.frozen = [] ∧
    t.tx.mode = s.tx.mode) ∧
  (∀ s : State, held s = false → s.tx.phase = 1 → exec .agreeRepeat s = .next (interlock
    (sendPlanes s 0x20 ((ones s.tx.agree.planes).filter fun pl => !planeReplied s pl)))) ∧
  (∀ s : State, held s = false → s.tx.phase = 3 → s.tx.agree.boundary < nowNs s + repeatNs s →
    exec .agreeRepeat s = .next (interlock (s.modTx fun t => { t with phase := 0 }))) ∧
  (∀ (s : State) (b : Nat), held s = false → undecided s = none → s.mb.boundary = some b → s.mb.held = false →
    s.mb.selfBad = false → planned s .commit = false → agreementGap s b = none → ∃ t,
    exec .preparedSetHold s = .next t ∧ t.mb = { s.mb with held := true }) ∧
  (∀ (s : State) (b pm sm : Nat), held s = false → undecided s = none → s.mb.boundary = some b → s.mb.held = false →
    s.mb.selfBad = false → planned s .commit = false → agreementGap s b = some (pm, sm) → ∃ t,
    exec .preparedSetHold s = .next t ∧ t.mb.held = false ∧ t.mb.boundary = none ∧ t.mb.frozen = []) ∧
  (∀ (s : State) (b : Nat), held s = false → s.mb.boundary = some b → s.mb.held = true → now80 s < b * 65536 → ∃ t,
    exec .commitBoundary s = .next t ∧ t.mb.boundary = some b ∧ t.mb.held = true ∧ t.mb.frozen = s.mb.frozen ∧
    t.tx.mode = s.tx.mode) ∧
  (∀ (s : State) (b : Nat), held s = false → timeOk s = true → s.mb.boundary = some b → s.mb.held = true →
    b * 65536 ≤ now80 s → ∃ t, exec .commitBoundary s = .next t ∧ t.mb.boundary = none ∧ t.mb.held = false ∧
    t.mb.frozen = [] ∧ t.mb.lastBoundary = b ∧ (∀ m, modeOf s.mb.frozen = some m → t.tx.mode = m ∧ t.tx.switched = b) ∧
    (modeOf s.mb.frozen = none → t.tx.mode = s.tx.mode)) ∧
  (∀ s : State, held s = false → timeOk s = true → s.mb.boundary = none →
    s.mb.lastBoundary < nowNs s / commitPeriod s * commitPeriod s → ∃ t, exec .commitBoundary s = .next t ∧
    t.mb = { s.mb with lastBoundary := nowNs s / commitPeriod s * commitPeriod s } ∧ t.tx.mode = s.tx.mode)

/-- PROPOSE_RECEIVE, REPLY_RECEIVE, CONFIRM_RECEIVE and CANCEL_RECEIVE (R267, R268, Table 7-5): a proposal is judged
and answered on its port, and an acceptable one taken; a matching ACCEPT of the proposer's own round counts for its
plane's participant; a REFUSE, or an ACCEPT that does not match, counts against it, and where the participant is
required its plane is missing from the agreement; a reply of no participant counts as unknown; a confirmed proposal is
followed, a cancelled one not, also where its set was held: its commit ends with the old mode in force. -/
def Obligations.AgreementFrames : Prop :=
  (∀ (s : State) (p : Fin 6) (f : Bytes), held s = false → on s (6 + p.val) = true → (prt s p.val).up = true →
    isKin f 0x20 = true → on s 49 = true → portSilent s p.val = false → ∃ t g, exec (.proposeReceive p f) s = .next t ∧
    (prt t p.val).eg = (prt s p.val).eg ++ [g] ∧ g.data = agreeFrame s 0x21 p.val (be f 16 2) (by_ f 25) (be f 26 8)
      (be f 34 4) (sub f 18 6) (proposeResult s p.val f)) ∧
  (∀ (s : State) (p : Fin 6) (f : Bytes), held s = false → on s (6 + p.val) = true → (prt s p.val).up = true →
    isKin f 0x20 = true → on s 49 = true → proposeResult s p.val f = 0 → s.tx.follow.state = 0 → ∃ t, exec (.proposeReceive p f) s = .next t ∧ t.tx.follow =
      { state := 1, id := BitVec.ofNat 16 (be f 16 2), proposers := tset (fun _ => 0) [] (p.val / 2) (BitVec.ofNat 48 (be f 18 6)), mode := by_ f 25,
        boundary := be f 26 8, tag := BitVec.ofNat 32 (be f 34 4), cancelled := false }) ∧
  (∀ (s : State) (p : Fin 6) (f : Bytes) (e : Nat) (req : Bool), held s = false → on s (6 + p.val) = true →
    (prt s p.val).up = true → isKin f 0x21 = true → on s 49 = true → s.tx.phase = 1 → s.tx.agree.result ≠ 0 →
    s.tx.agree.planes.getLsbD (p.val / 2) = true → be f 16 2 = s.tx.agree.id.toNat →
    sub f 18 6 = portAddr s (2 * (p.val / 2)) → participant s (p.val / 2) (sub f 6 6) = some (e, req) → by_ f 38 = 0 →
    by_ f 24 = p.val / 2 → by_ f 25 = s.tx.agree.mode → be f 26 8 = s.tx.agree.boundary →
    be f 34 4 = s.tx.agree.tag.toNat → exec (.replyReceive p f) s = .next (interlock (s.modTx fun t =>
      { t with agree := { t.agree with acc := tset (fun _ => 0) t.agree.acc (p.val / 2)
                                               (tget (fun _ => 0) t.agree.acc (p.val / 2) ||| BitVec.ofNat 32 (2 ^ e)) } }))) ∧
  (∀ (s : State) (p : Fin 6) (f : Bytes), held s = false → on s (6 + p.val) = true → (prt s p.val).up = true →
    isKin f 0x21 = true → on s 49 = true → participant s (p.val / 2) (sub f 6 6) = none → ∃ t,
    exec (.replyReceive p f) s = .next t ∧
    t.tx = { s.tx with agree := { s.tx.agree with unknown := min (2 ^ 32 - 1) (s.tx.agree.unknown + 1) } }) ∧
  (∀ (s : State) (p : Fin 6) (f : Bytes), held s = false → on s (6 + p.val) = true → (prt s p.val).up = true →
    isKin f 0x22 = true → on s 49 = true → ourProposal s p.val f = true → s.tx.follow.cancelled = false →
    nowNs s + 1000000 < s.tx.follow.boundary → exec (.confirmReceive p f) s =
    .next (interlock (s.modTx fun t => { t with follow := { t.follow with state := 2 } }))) ∧
  (∀ (s : State) (p : Fin 6) (f : Bytes), held s = false → on s (6 + p.val) = true → (prt s p.val).up = true →
    isKin f 0x23 = true → on s 49 = true → ourProposal s p.val f = true → s.mb.held = false → exec (.cancelReceive p f) s =
    .next (interlock (s.modTx fun t => { t with follow := { t.follow with state := 3, cancelled := true } }))) ∧
  (∀ (s : State) (p : Fin 6) (f : Bytes) (b m : Nat), held s = false → on s (6 + p.val) = true → (prt s p.val).up = true →
    isKin f 0x23 = true → on s 49 = true → ourProposal s p.val f = true → s.mb.held = true → s.mb.boundary = some b →
    nowNs s < b → modeOf s.mb.frozen = some m → s.sk.config = 0 → agreeProposes s = false → agreeFollows s = true → ∃ t,
    exec (.cancelReceive p f) s = .next t ∧ t.mb.boundary = none ∧ t.mb.frozen = [] ∧ t.mb.held = false ∧
    t.tx.mode = s.tx.mode) ∧
  (∀ (s : State) (p : Fin 6) (f : Bytes) (e : Nat) (req : Bool), held s = false → on s (6 + p.val) = true →
    (prt s p.val).up = true → isKin f 0x21 = true → on s 49 = true → s.tx.phase = 1 → s.tx.agree.result ≠ 0 →
    s.tx.agree.planes.getLsbD (p.val / 2) = true → be f 16 2 = s.tx.agree.id.toNat →
    sub f 18 6 = portAddr s (2 * (p.val / 2)) → participant s (p.val / 2) (sub f 6 6) = some (e, req) →
    ¬(by_ f 38 = 0 ∧ by_ f 24 = p.val / 2 ∧ by_ f 25 = s.tx.agree.mode ∧ be f 26 8 = s.tx.agree.boundary ∧
      be f 34 4 = s.tx.agree.tag.toNat) → ∃ t, exec (.replyReceive p f) s = .next t ∧
    t.tx = { s.tx with agree := { s.tx.agree with ref := tset (fun _ => 0) s.tx.agree.ref (p.val / 2)
                                                          (tget (fun _ => 0) s.tx.agree.ref (p.val / 2) |||
                                                            BitVec.ofNat 32 (2 ^ e)) } } ∧
    (req = true → bitN (planesMissing t) (p.val / 2) = true))

/-! ### Domains, the ledger, doze and fences -/

/-- DOMAIN_ENABLE and DOMAIN_DISABLE (R134–R139, R147): a DISABLED domain whose dependencies are ENABLED and whose
cost the headroom holds starts to be enabled under the agent and rank that ordered it, and the answer follows later;
one that is ENABLED is answered at once with the totals; too little headroom is ST_BUDGET. An ENABLED domain that
nothing ENABLED needs and that the rank may take starts to be disabled, a time channel then out of the vote (R184) and
an adjustment that waits discarded with the voter (R174); a rank below the enabler's is ST_AUTH, a
domain that stays on or is needed is ST_STATE. DOMAIN_ENABLE_COMPLETE, DOMAIN_ENABLE_FAILED and
DOMAIN_DISABLE_COMPLETE (R140–R142): the domain in motion is ENABLED and gains what it drives; a failure leaves it at
its reset record and raises FS064; a completed disable leaves it at its reset record. The order is answered, the
next planned move starts, and an agreement that waited for the last enable starts (R149). Frames in forwarding for
which the cells no longer suffice when a bank of cells goes off are given up first (R156). Before the lock boot code
enables a domain as agent 0 of rank 0 without a request (R96); which one is a free value (log entry 207). (The status
of a failed enable is a free value, log entry 13: it does not occur here.) -/
def Obligations.DomainOrders : Prop :=
  (∀ (s : State) (v : Via) (r : Request) (d : Nat), Admitted s v 0x40 r → v ≠ .boot → checkOnly r = false → r.length = 4 →
    by_ r.payload 0 = d → by_ r.payload 1 = 0 → by_ r.payload 2 = 0 → by_ r.payload 3 = 0 → d ≤ 77 → enabled s d = false →
    s.ld.moving = none → depsMet (enabled s) d = true → pinConflict s d = none → s.ld.exceeds = false →
    cost d ≤ headroom s → exec (.domainEnable v) s = .next (interlock ((setDom (onTaken s r) d
      { state := 1, agent := BitVec.ofNat 8 (agentOf r.via), rank := rankOf r.via }).modLd fun l =>
        { l with moving := some (d, .order r.via) }))) ∧
  (∀ (s : State) (v : Via) (r : Request) (d : Nat), Admitted s v 0x40 r → v ≠ .boot → checkOnly r = false → r.length = 4 →
    by_ r.payload 0 = d → by_ r.payload 1 = 0 → by_ r.payload 2 = 0 → by_ r.payload 3 = 0 → d ≤ 77 → enabled s d = false →
    s.ld.moving = none → depsMet (enabled s) d = true → pinConflict s d = none →
    s.ld.exceeds = true ∨ headroom s < cost d → exec (.domainEnable v) s = .next (noWith s r stBudget
      (budgetPayload s (cost d) (headroom s)))) ∧
  (∀ (s : State) (v : Via) (r : Request) (d : Nat), Admitted s v 0x40 r → v ≠ .boot → checkOnly r = false → r.length = 4 →
    by_ r.payload 0 = d → by_ r.payload 1 = 0 → by_ r.payload 2 = 0 → by_ r.payload 3 = 0 → d ≤ 77 → enabled s d = true →
    exec (.domainEnable v) s = .next (okWith (onTaken s r) r (toLe 4 (chargedTotal s) ++ toLe 4 (ceiling s)))) ∧
  (∀ (s : State) (v : Via) (r : Request) (d : Nat), Admitted s v 0x41 r → checkOnly r = false → r.length = 4 →
    by_ r.payload 0 = d → by_ r.payload 1 = 0 → by_ r.payload 2 = 0 → by_ r.payload 3 = 0 → d ≤ 77 → d < 65 ∨ 68 < d →
    (dom s d).state ≠ 0 → neverOff d = false → rankOf r.via ≤ (dom s d).rank → s.ld.moving = none →
    needed s d = false → disableConflict s d = none → exec (.domainDisable v) s = .next (interlock
      ((setDom (onTaken s r) d { dom s d with state := 3 }).modLd fun l => { l with moving := some (d, .order r.via) }))) ∧
  (∀ (s : State) (v : Via) (r : Request) (d : Nat), Admitted s v 0x41 r → checkOnly r = false → r.length = 4 →
    by_ r.payload 0 = d → by_ r.payload 1 = 0 → by_ r.payload 2 = 0 → by_ r.payload 3 = 0 → 65 ≤ d → d ≤ 68 →
    (dom s d).state ≠ 0 → neverOff d = false → rankOf r.via ≤ (dom s d).rank → s.ld.moving = none →
    needed s d = false → disableConflict s d = none → ∃ t, exec (.domainDisable v) s = .next t ∧
    dom t d = { dom s d with state := 3 } ∧ t.ld.moving = some (d, .order r.via) ∧
    (d < 68 → (chan t (d - 65)).inVote = false) ∧ (d = 68 → t.tm.pending = none)) ∧
  (∀ (s : State) (v : Via) (r : Request) (d : Nat), Admitted s v 0x41 r → checkOnly r = false → r.length = 4 →
    by_ r.payload 0 = d → by_ r.payload 1 = 0 → by_ r.payload 2 = 0 → by_ r.payload 3 = 0 → d ≤ 77 →
    (dom s d).state ≠ 0 → neverOff d = false → (dom s d).rank < rankOf r.via →
    exec (.domainDisable v) s = .next (noWith s r stAuth [])) ∧
  (∀ (s : State) (v : Via) (r : Request) (d : Nat), Admitted s v 0x41 r → checkOnly r = false → r.length = 4 →
    by_ r.payload 0 = d → by_ r.payload 1 = 0 → by_ r.payload 2 = 0 → by_ r.payload 3 = 0 → d ≤ 77 →
    (dom s d).state ≠ 0 → neverOff d = true → exec (.domainDisable v) s = .next (noWith s r stState [])) ∧
  (∀ (s : State) (d : Fin 78) (v : Via), held s = false → s.ld.moving = some (d.val, .order v) → (dom s d.val).state = 1 →
    ∀ u, u = gain ((setDom s d.val { dom s d.val with state := 2 }).modLd fun l => { l with moving := none }) d.val →
    exec (.domainEnableComplete d) s = .next (interlock (lateAgree (advance (answerMove u (.order v) 0x40 stOk
      (toLe 4 (chargedTotal u) ++ toLe 4 (ceiling u))))))) ∧
  (∀ (s : State) (d : Fin 78) (v : Via), held s = false → s.ld.moving = some (d.val, .order v) → (dom s d.val).state = 1 →
    s.ld.plan = [] → s.mb.taken = [] → clsOf s 64 = 1 → clsOf s 65 = 1 → ∃ t, exec (.domainEnableFailed d) s = .next t ∧
    dom t d.val = {} ∧ t.ld.moving = none ∧ (srcOf t 64).sticky = true ∧ ∀ e, e ≠ d.val → dom t e = dom s e) ∧
  (∀ (s : State) (d : Fin 78) (v : Via), held s = false → s.ld.moving = some (d.val, .order v) → (dom s d.val).state = 3 →
    ∀ x u, x = (setDom s d.val {}).modLd (fun l => { l with moving := none, isolated := l.isolated.erase d.val }) →
    u = checkOver (lose (if 50 ≤ d.val ∧ d.val < 58 then bankGone x else x) d.val) →
    exec (.domainDisableComplete d) s = .next (interlock (lateAgree (advance (answerMove u (.order v) 0x41 stOk
      (toLe 4 (chargedTotal u) ++ toLe 4 (ceiling u))))))) ∧
  (∀ (s s' : State) (x : Nat), held s = false → s.se.phase = 2 → s.se.locked = false → s.fs.f4 = false →
    draw s = (x, s') → enabled s (x % 78) = false → s.ld.moving = none → depsMet (enabled s) (x % 78) = true →
    pinConflict s (x % 78) = none → s.ld.exceeds = false → cost (x % 78) ≤ headroom s →
    exec (.domainEnable .boot) s = .next (interlock ((setDom s' (x % 78)
      { state := 1, agent := 0, rank := 0 }).modLd fun l => { l with moving := some (x % 78, .order .boot) })))

/-- LEDGER_QUERY, LEDGER_CEIL_WRITE, TJ_READING and LEDGER_SHED (R143–R150, R163, R469): the query reports the
ceilings and the charge; a ceiling of 1,000 to 7,200 mW in steps of 10 is taken before the protection lock; a reading
sets Tj and the thermal ceiling, a lower ceiling at once and a higher one only after every reading of one second has
supported it, and ends FS015 and FS016 below their limits; a shed starts the disable of the first
domain of LEDGER_SHED that may go, and with none left is exhausted. -/
def Obligations.LedgerCommands : Prop :=
  (∀ (s : State) (v : Via) (r : Request), Admitted s v 0x42 r → checkOnly r = false → r.length = 0 → ∃ p,
    exec (.ledgerQuery v) s = .next (okWith (onTaken s r) r p) ∧ p.length = 32 ∧ sub p 0 4 = toLe 4 s.ld.bootCeil ∧
    sub p 4 4 = toLe 4 (min s.ld.bootCeil s.ld.thermal) ∧ sub p 8 4 = toLe 4 (chargedTotal s)) ∧
  (∀ (s : State) (v : BitVec 32), held s = false → s.se.locked = false → 1000 ≤ v.toNat % 8192 → v.toNat % 8192 ≤ 7200 →
    v.toNat % 8192 % 10 = 0 → exec (.ledgerCeilWrite v) s = .next (interlock (checkOver { s with
      ld := { s.ld with bootCeil := v.toNat % 8192 } }))) ∧
  (∀ (s : State) (v : BitVec 32), held s = false → s.se.locked = true ∨ v.toNat % 8192 < 1000 ∨ 7200 < v.toNat % 8192 ∨
    v.toNat % 8192 % 10 ≠ 0 → exec (.ledgerCeilWrite v) s = .next (interlock s)) ∧
  (∀ s : State, held s = false → clsOf s 65 = 1 → hottest s ≤ 1050 → ∃ t, exec .tjReading s = .next t ∧
    t.ld.tj = hottest s ∧ t.ld.rising = ceilQueue s.ld.rising s.clock 7200 ∧
    t.ld.thermal = ((ceilQueue s.ld.rising s.clock 7200).headD (0, 7200)).2 ∧
    (s.ld.rising = [] → t.ld.thermal = 7200) ∧ t.fs.hot = 0 ∧ (srcOf t 15).cond = false ∧ (srcOf t 16).cond = false) ∧
  (∀ s : State, held s = false → clsOf s 15 = 1 → clsOf s 65 = 1 → 1150 < hottest s → hottest s < 1220 →
    ∃ t, exec .tjReading s = .next t ∧ t.ld.tj = hottest s ∧ t.ld.rising = ceilQueue s.ld.rising s.clock 5800 ∧
    ((∀ x ∈ s.ld.rising, 5800 ≤ x.2) → t.ld.thermal = 5800) ∧ t.fs.hot = 0 ∧ (srcOf t 15).cond = true) ∧
  (∀ (s : State) (d : Nat), held s = false → s.ld.moving = none → s.ld.exceeds = true → (srcOf s 65).cond = true →
    ceiling s < chargedTotal s → shedNext s = some d →
    exec .ledgerShed s = .next (interlock (startDisable (logLedger s d 0) d .shed))) ∧
  (∀ s : State, held s = false → s.ld.moving = none → s.ld.exceeds = true → (srcOf s 65).cond = true →
    ceiling s < chargedTotal s → shedNext s = none →
    exec .ledgerShed s = .next (interlock (condOn { s with ld := { s.ld with exhausted := true } } 66))) ∧
  (∀ s : State, held s = false → ∃ t, exec .tjReading s = .next t ∧
    t.ld.tj = hottest s ∧ t.ld.rising = ceilQueue s.ld.rising s.clock (thermalCeil (hottest s)) ∧
    t.ld.thermal = ((ceilQueue s.ld.rising s.clock (thermalCeil (hottest s))).headD (0, 7200)).2) ∧
  (∀ (l : List (Nat × Nat)) (now new : Nat), (∀ x ∈ l, new ≤ x.2) → ceilQueue l now new = [(now, new)]) ∧
  (∀ at_ c now new : Nat, c < new → ((ceilQueue [(at_, c)] now new).headD (0, 7200)).2 = c) ∧
  (∀ at_ c x c' now new : Nat, at_ + 1000000000 ≤ now →
    ((ceilQueue [(at_, c), (x, c')] now new).headD (0, 7200)).2 = min c' new)

/-- DOZE_ENTRY, DOZE_EXIT, WAKE_PATTERN_MATCH and ENERGY_DETECT (R157–R161): an awake segment whose domain is ENABLED
enters doze with its disable started; a dozing unit is woken by an order, by its pattern or by energy on its line, and
with headroom for what it held it starts to wake and the wake is counted; under an F4 latch nothing wakes (R464).
FENCE (R127): a fence set on the device, a
port, a plane or a segment holds what it names; lifting it lets go what no other fence holds, and is ST_STATE while an
F3 holds the same target. -/
def Obligations.DozeAndFences : Prop :=
  (∀ (s : State) (i : Fin 16) (u : Fin 32), held s = false → u.val = 16 + i.val → (doz s u.val).status = 0 →
    (dom s (30 + i.val)).state = 2 → s.ld.moving = none → s.ld.plan = [] → ∃ t, exec (.dozeEntry u) s = .next t ∧
    (doz t u.val).status = 1 ∧ (doz t u.val).held = [30 + i.val] ∧ (dom t (30 + i.val)).state = 3 ∧
    t.ld.moving = some (30 + i.val, .doze u.val) ∧ objRead t (oidOf 0x0103 u.val 0) 0 1 = [1]) ∧
  (∀ (s : State) (u : Fin 32), held s = false → dozeUnit u.val = true → (doz s u.val).status = 2 →
    s.fs.f4 = false → exec (.dozeExit u) s = .next (interlock (wakeUp (objWrite s (oidOf 0x0103 u.val 0) 0 [0]) u.val))) ∧
  (∀ (s : State) (p : Fin 6), held s = false → (doz s p.val).status = 2 → on s (18 + p.val) = true →
    exec (.wakePatternMatch p) s = .next (interlock (wakeUp s p.val))) ∧
  (∀ (s : State) (i : Fin 16), held s = false → (doz s (16 + i.val)).status = 2 →
    exec (.energyDetect i) s = .next (interlock (wakeUp s (16 + i.val)))) ∧
  (∀ (s : State) (i : Fin 16), s.fs.f4 = false → (doz s (16 + i.val)).held = [30 + i.val] → s.ld.exceeds = false → 6 ≤ headroom s →
    (dom s (30 + i.val)).state = 0 → depsMet (enabled s) (30 + i.val) = true → s.ld.moving = none → s.ld.plan = [] →
    (doz (wakeUp s (16 + i.val)) (16 + i.val)).status = 3 ∧
    (doz (wakeUp s (16 + i.val)) (16 + i.val)).wakes = (doz s (16 + i.val)).wakes + 1 ∧
    (dom (wakeUp s (16 + i.val)) (30 + i.val)).state = 1 ∧
    (wakeUp s (16 + i.val)).ld.moving = some (30 + i.val, .wake (16 + i.val))) ∧
  (∀ (s : State) (v : Via) (r : Request), Admitted s v 0xC2 r → checkOnly r = false → r.length = 4 →
    by_ r.payload 0 = 1 → by_ r.payload 1 ≤ 3 → by_ r.payload 2 ≤ (if by_ r.payload 1 = 1 then 5 else
      if by_ r.payload 1 = 2 then 2 else if by_ r.payload 1 = 3 then 15 else 255) → by_ r.payload 3 = 0 →
    exec (.fence v) s = .next (okWith ((fenceSegs (by_ r.payload 1) (by_ r.payload 2)).foldl segFence
      ((fencePorts (by_ r.payload 1) (by_ r.payload 2)).foldl portFence
        ((onTaken s r).modFences fun f => setFence f (by_ r.payload 1) (by_ r.payload 2) true))) r [])) ∧
  (∀ (s : State) (v : Via) (r : Request), Admitted s v 0xC2 r → checkOnly r = false → r.length = 4 →
    by_ r.payload 0 = 0 → by_ r.payload 1 ≤ 3 → by_ r.payload 2 ≤ (if by_ r.payload 1 = 1 then 5 else
      if by_ r.payload 1 = 2 then 2 else if by_ r.payload 1 = 3 then 15 else 255) → by_ r.payload 3 = 0 →
    fenceHeld s (by_ r.payload 1) (by_ r.payload 2) = true → exec (.fence v) s = .next (noWith s r stState [])) ∧
  (∀ (s : State) (v : Via) (r : Request), Admitted s v 0xC2 r → checkOnly r = false → r.length = 4 →
    by_ r.payload 0 = 0 → by_ r.payload 1 ≤ 3 → by_ r.payload 2 ≤ (if by_ r.payload 1 = 1 then 5 else
      if by_ r.payload 1 = 2 then 2 else if by_ r.payload 1 = 3 then 15 else 255) → by_ r.payload 3 = 0 →
    fenceHeld s (by_ r.payload 1) (by_ r.payload 2) = false → ∃ t, exec (.fence v) s = .next (okWith t r []) ∧
    t.fences = setFence s.fences (by_ r.payload 1) (by_ r.payload 2) false) ∧
  (∀ (s : State) (v : Via) (r : Request), Admitted s v 0xC2 r → checkOnly r = false → r.length = 4 →
    1 < by_ r.payload 0 → exec (.fence v) s = .next (noWith s r stRange [16, 0])) ∧
  (∀ (s : State) (u : Nat), s.fs.f4 = true → wakeUp s u = s)

/-! ### Network time -/

/-- Raw counts (R164): with the voter and a channel enabled, each 500 MHz edge, which is a step on an empty queue (log
entry 2), advances the channel's 80-bit count of ns and 2^-16 ns by exactly 2 ns; a channel that is off stands still.
-/
def Obligations.RawCounts : Prop :=
  (∀ (s : State) (i : Fin 3), s.pending = [] → on s 68 = true → on s (65 + i.val) = true → ∃ t, step s = .next t ∧
    (chan t i.val).raw = (chan s i.val).raw + BitVec.ofNat 80 (2 * 2 ^ 16)) ∧
  (∀ (s : State) (i : Fin 3), s.pending = [] → (on s 68 = false ∨ on s (65 + i.val) = false) → ∃ t, step s = .next t ∧
    (chan t i.val).raw = (chan s i.val).raw)

/-- TIME_READ and TIME_ADJUST (R171, R173–R176, R215): with a voted time the payload gives seconds, nanoseconds and
fraction of corrected time, its state and the raw count; without one, state 2 and zeros. An adjustment by its owner
within the limits awaits its point; one beyond them without a permit raises FS037 and is answered ST_JUMP with nothing
pending; one with a permit uses it up; another agent's is ST_AUTH, a second one ST_STATE. -/
def Obligations.TimeRequests : Prop :=
  (∀ (s : State) (v : Via) (r : Request), Admitted s v 0x50 r → checkOnly r = false → r.length = 0 → timeOk s = true →
    exec (.timeRead v) s = .next (okWith (onTaken s r) r (toLe 6 (now80 s / 65536 / 1000000000) ++
      toLe 4 (now80 s / 65536 % 1000000000) ++ toLe 2 (now80 s % 65536) ++ toLe 1 s.tm.state ++ [0, 0, 0] ++
      toLe 8 (rawNow s / 65536) ++ toLe 2 (rawNow s % 65536) ++ [0, 0, 0, 0, 0, 0]))) ∧
  (∀ (s : State) (v : Via) (r : Request), Admitted s v 0x50 r → checkOnly r = false → r.length = 0 → timeOk s = false →
    exec (.timeRead v) s = .next (okWith (onTaken s r) r (List.replicate 12 0 ++ [2] ++ List.replicate 19 0))) ∧
  (∀ (s : State) (v : Via) (r : Request), Admitted s v 0x51 r → checkOnly r = false → r.length = 24 →
    by_ r.payload 0 = 1 → (∀ o ∈ [1, 2, 3, 18, 19, 20, 21, 22, 23], by_ r.payload o = 0) → mayAdjust s r.via = true →
    on s 68 = true → s.tm.pending = none → (sgn 32 (le r.payload 4 4) - rateNow s).natAbs ≤ rateStepLimit s →
    exec (.timeAdjust v) s = .next (interlock ((onTaken s r).modTm fun t =>
      { t with
        pending := some { rate := some (BitVec.ofInt 32 (sgn 32 (le r.payload 4 4))), step := none, permit := false,
                          via := some r.via, servo := true, at_ := rawNow s / 65536 } }))) ∧
  (∀ (s : State) (v : Via) (r : Request), Admitted s v 0x51 r → checkOnly r = false → r.length = 24 →
    by_ r.payload 0 = 2 → (∀ o ∈ [1, 2, 3, 18, 19, 20, 21, 22, 23], by_ r.payload o = 0) → mayAdjust s r.via = true →
    on s 68 = true → s.tm.pending = none → jumpLimit s * 65536 < (sgn 80 (le r.payload 8 10)).natAbs →
    exec (.timeAdjust v) s = .next (interlock (respondWith (fault (onTaken s r) 37) (acted r) stJump false
      (toLe 10 (uns 80 (sgn 80 (le r.payload 8 10))) ++ toLe 4 (jumpLimit s))))) ∧
  (∀ (s : State) (v : Via) (r : Request), Admitted s v 0x51 r → checkOnly r = false → r.length = 24 →
    by_ r.payload 0 = 6 → (∀ o ∈ [1, 2, 3, 18, 19, 20, 21, 22, 23], by_ r.payload o = 0) → mayAdjust s r.via = true →
    on s 68 = true → s.tm.pending = none → jumpLimit s * 65536 < (sgn 80 (le r.payload 8 10)).natAbs → s.tm.permit ≠ 0 →
    ∃ t, exec (.timeAdjust v) s = .next t ∧ t.tm.permit = 0 ∧ t.tm.pending =
      some { rate := none, step := some (sgn 80 (le r.payload 8 10)), permit := true, via := some r.via, servo := true,
             at_ := rawNow s / 65536 }) ∧
  (∀ (s : State) (v : Via) (r : Request), Admitted s v 0x51 r → checkOnly r = false → r.length = 24 →
    by_ r.payload 0 < 8 → (∀ o ∈ [1, 2, 3, 18, 19, 20, 21, 22, 23], by_ r.payload o = 0) → mayAdjust s r.via = false →
    exec (.timeAdjust v) s = .next (noWith s r stAuth [])) ∧
  (∀ (s : State) (v : Via) (r : Request), Admitted s v 0x51 r → checkOnly r = false → r.length = 24 →
    by_ r.payload 0 < 8 → (∀ o ∈ [1, 2, 3, 18, 19, 20, 21, 22, 23], by_ r.payload o = 0) → mayAdjust s r.via = true →
    s.tm.pending ≠ none → exec (.timeAdjust v) s = .next (noWith s r stState []))

/-- ADJUSTMENT_POINT (R168, R192): at a raw count that is a multiple of 1,024 ns and at least 2,000 ns after the
acceptance, the pending adjustment takes effect in every channel in the vote: the offset takes what the old rate gave
since the old anchor and the step, the anchor becomes the point, the rate is the new one or stays. Nothing is pending
any more, and a pending adjustment before its point changes nothing. An adjustment of rate alone is continuous (R168):
where the corrected time that the old offset, rate and anchor give at the point lies within 80 bits, the new ones give
the same corrected time at that point, whatever the rate. A step is added to the offset at the point, in every channel
in the vote and in no other. -/
def Obligations.Adjustment : Prop :=
  (∀ (s : State) (a : Adjust), held s = false → s.tm.pending = some a → timeOk s = true → atPoint s a = true →
    a.permit = false → a.step = none → ∃ t, exec .adjustmentPoint s = .next t ∧ t.tm.pending = none ∧
    ∀ i < 3, (chan s i).inVote = true → (chan t i).raw = (chan s i).raw ∧ (chan t i).anchor = BitVec.ofNat 80 (rawNow s) ∧
      (chan t i).rate = a.rate.getD (chan s i).rate ∧
      (chan t i).off = BitVec.ofInt 80 ((chan s i).off.toInt +
        (chan s i).rate.toInt * ((rawNow s : Int) - (chan s i).anchor.toNat) / 2 ^ 40)) ∧
  (∀ (s : State) (a : Adjust), held s = false → s.tm.pending = some a → timeOk s = true → atPoint s a = true →
    a.permit = false → a.step.getD 0 < 0 → ∃ t, exec .adjustmentPoint s = .next t ∧ t.tm.stepAt = s.clock + 1) ∧
  (∀ (s : State) (a : Adjust), held s = false → s.tm.pending = some a → timeOk s = true → atPoint s a = false →
    exec .adjustmentPoint s = .next (interlock s)) ∧
  (∀ (a : Adjust) (c : Chan) (p : Nat), a.step = none → p < 2 ^ 80 →
    -2 ^ 79 ≤ c.off.toInt + c.rate.toInt * ((p : Int) - c.anchor.toNat) / 2 ^ 40 →
    c.off.toInt + c.rate.toInt * ((p : Int) - c.anchor.toNat) / 2 ^ 40 < 2 ^ 79 →
    corrAt (adjustChan a p c) p = corrAt c p) ∧
  (∀ (s : State) (a : Adjust) (o : Int), held s = false → s.tm.pending = some a → timeOk s = true → atPoint s a = true →
    a.permit = false → a.step = some o → o < 0 ∨ (s.mb.boundary = none ∧ ∀ i < 3, (chan s i).resync = false) →
    ∃ t, exec .adjustmentPoint s = .next t ∧
    t.tm.pending = none ∧ ∀ i < 3, chan t i =
      if (chan s i).inVote then adjustChan a (rawNow s) (chan s i) else chan s i) ∧
  (∀ (a : Adjust) (o : Int) (c : Chan) (p : Nat), a.step = some o → (adjustChan a p c).off =
    BitVec.ofInt 80 (c.off.toInt + c.rate.toInt * ((p : Int) - c.anchor.toNat) / 2 ^ 40 + o))

/-- PERMIT_ARM and PERMIT_EXPIRY (R176, R177, R181): a permit lasts ten seconds and names its agent; an armed permit
that expires is gone. CHANNEL_OUTVOTED and VOTE_FAILED (R184–R186): with three channels in the vote, the one outvoted
leaves it and is to be resynchronised, its count grows and FS032 to FS034 asserts; the third time within 24 hours
retires it. With two the vote fails. A failed vote is FS035, which in class F4 latches F4. The voter compares what the channels
present at each tick (R182, R184, Table 5-1): three that agree stay; one that stands alone against two that agree is
outvoted with the values in which it differs; where no two agree, or of two channels one differs, the vote fails. -/
def Obligations.PermitAndVote : Prop :=
  (∀ (s : State) (v : Via), held s = false → on s 68 = true → opAllowed s v 0x11 = true → rankOf v ≤ 3 →
    exec (.permitArm v) s = .next (interlock { s with
      tm := { s.tm with permit := 1, permitAgent := BitVec.ofNat 8 (agentOf v), permitEnd := s.clock + 10000000000 } })) ∧
  (∀ s : State, held s = false → s.tm.permit = 1 → exec .permitExpiry s = .next (interlock { s with
    tm := { s.tm with permit := 0, permitAgent := 0, permitEnd := 0 } })) ∧
  (∀ (s : State) (ch : Fin 3) (vals : BitVec 8), held s = false → timeOk s = true → (voters s).length = 3 →
    clsOf s (32 + ch.val) = 2 → (chan s ch.val).times = [] → ∃ t, exec (.channelOutvoted ch vals) s = .next t ∧
    (chan t ch.val).inVote = false ∧ (chan t ch.val).resync = true ∧ (chan t ch.val).retired = (chan s ch.val).retired ∧
    (chan t ch.val).outvotes = min (2 ^ 32 - 1) ((chan s ch.val).outvotes + 1) ∧ t.tm.outvoteVals = vals ∧
    (srcOf t (32 + ch.val)).cond = true ∧ ∀ i, i ≠ ch.val → chan t i = chan s i) ∧
  (∀ (s : State) (ch : Fin 3) (vals : BitVec 8), held s = false → timeOk s = true → (voters s).length = 3 →
    clsOf s (32 + ch.val) = 2 → clsOf s 36 = 1 → 2 ≤ ((chan s ch.val).times.filter fun t => s.clock < t + 86400000000000).length →
    ∃ t, exec (.channelOutvoted ch vals) s = .next t ∧ (chan t ch.val).retired = true ∧ (chan t ch.val).resync = false ∧
    (chan t ch.val).inVote = false ∧ (srcOf t 36).sticky = true) ∧
  (∀ (s : State) (ch : Fin 3) (vals : BitVec 8), held s = false → timeOk s = true → (voters s).length = 2 →
    (chan s ch.val).inVote = true → clsOf s 35 = 4 → ∃ t, exec (.channelOutvoted ch vals) s = .next t ∧
    t.tm.lostVote = true ∧ t.fs.f4 = true ∧ timeOk t = false) ∧
  (∀ s : State, held s = false → on s 68 = true → s.tm.lostVote = false → clsOf s 35 = 4 → ∃ t,
    exec .voteFailed s = .next t ∧ t.tm.lostVote = true ∧ t.fs.f4 = true ∧ t.pads.safeN = 0) ∧
  (∀ (s : State) (x y z : ChanOut), on s 68 = true → s.tm.lostVote = false → voters s = [0, 1, 2] →
    chanOut s (chan s 0) = x → chanOut s (chan s 1) = y → chanOut s (chan s 2) = z →
    (outDiff x y = 0 → outDiff y z = 0 → outDiff x z = 0 → voteTick s = s) ∧
    (outDiff x y = 0 → outDiff x z ≠ 0 → outDiff y z = outDiff x z → voteTick s = outvote s 2 (outDiff x z)) ∧
    (outDiff x z = 0 → outDiff x y ≠ 0 → outDiff y z = outDiff x y → voteTick s = outvote s 1 (outDiff x y)) ∧
    (outDiff y z = 0 → outDiff x y ≠ 0 → outDiff x z = outDiff x y → voteTick s = outvote s 0 (outDiff x y)) ∧
    (outDiff x y &&& outDiff y z &&& outDiff x z ≠ 0 → voteTick s = voteFail s)) ∧
  (∀ (s : State) (a b : Nat), on s 68 = true → s.tm.lostVote = false → voters s = [a, b] →
    outDiff (chanOut s (chan s a)) (chanOut s (chan s b)) ≠ 0 → voteTick s = voteFail s)

/-- SERVO_UPDATE, GRANDMASTER_CHANGE, ANNOUNCE_TIMEOUT, HOLDOVER_ENTRY and HOLDOVER_MAX (R188–R192, Table 5-3): an
offset is held with its time; a new grandmaster starts its plane's settling and is counted; a timeout takes the plane
out with FS042; holdover is entered from LOCKED, and at its end FREE with FS043. -/
def Obligations.ServoCommands : Prop :=
  (∀ (s : State) (p : Fin 3) (o : BitVec 80), held s = false → timeOk s = true → servoRuns s = false →
    (plane s p.val).settle = 0 → ∃ t, exec (.servoUpdate p o) s = .next t ∧ (plane t p.val).off = o.toInt ∧
    (plane t p.val).at_ = s.clock ∧ (plane t p.val).seen = true ∧ (plane t p.val).state = (plane s p.val).state ∧
    (∀ q, q ≠ p.val → plane t q = plane s q) ∧ t.tm.pending = s.tm.pending) ∧
  (∀ (s : State) (p : Fin 3) (id : BitVec 64), held s = false → on s 68 = true → (plane s p.val).gm ≠ id →
    clsOf s 38 ≤ 1 → clsOf s 41 ≤ 1 → clsOf s 42 ≤ 1 → ∃ t, exec (.grandmasterChange p id) s = .next t ∧
    (plane t p.val).gm = id ∧ (plane t p.val).state = 1 ∧ (plane t p.val).settle = cfg s (oidOf 0x0202 p.val 0) 4 1 ∧
    (plane t p.val).changes = min (2 ^ 32 - 1) ((plane s p.val).changes + 1) ∧ (srcOf t 41).sticky = true) ∧
  (∀ (s : State) (p : Fin 3), held s = false → on s 68 = true → clsOf s 38 ≤ 1 → clsOf s 42 ≤ 1 → ∃ t,
    exec (.announceTimeout p) s = .next t ∧ (plane t p.val).state = 0 ∧ (plane t p.val).expired = true ∧
    (srcOf t 42).cond = true ∧ ∀ q, q ≠ p.val → plane t q = plane s q) ∧
  (∀ s : State, held s = false → timeOk s = true → s.tm.state = 0 → servoOwner s = 1 → ∃ t,
    exec .holdoverEntry s = .next t ∧ t.tm.state = 1 ∧ t.tm.since = s.clock ∧ t.tm.pending = s.tm.pending) ∧
  (∀ s : State, held s = false → timeOk s = true → s.tm.state = 1 → clsOf s 43 ≤ 1 → ∃ t,
    exec .holdoverMax s = .next t ∧ t.tm.state = 2 ∧ t.tm.since = s.clock ∧ (srcOf t 43).cond = true)

/-- TIMED_OUT_SET, TIMED_OUTPUT_EDGE, TIMED_CAP_WRITE, CAPTURE, CAPTURE_WINDOW_CLOSE and CAPTURE_READ (R203–R212): an
output is armed at a start at least 10 µs ahead with its pin at its idle level, or released with mode 0; an edge in
its turn moves the level and is placed DELAY_PS earlier in steps of 2^-6 ns (R205); a capture image claims the pin; an edge selected by EDGES is stamped within the FIFO of 16
and lost beyond it; the window's end shuts the capture; a read empties it, with ST_PARTIAL where stamps were lost. -/
def Obligations.TimedPins : Prop :=
  (∀ (s : State) (v : Via) (r : Request) (n : Nat), Admitted s v 0x52 r → checkOnly r = false → r.length = 24 →
    by_ r.payload 0 = n → n ≤ 7 → by_ r.payload 1 = 1 → by_ r.payload 2 ≤ 1 → (∀ o ∈ [3, 14, 15], by_ r.payload o = 0) →
    100 ≤ le r.payload 16 4 → le r.payload 16 4 ≤ 1000000000 → 4 ≤ le r.payload 20 4 → le r.payload 20 4 ≤ 1000000000 →
    on s 68 = true → on s 72 = true →
    now80 s + 10000 * 65536 ≤ le r.payload 4 10 → compRefusal (onTaken s r) (oTout n) 1 = none → s.fs.f4 = false → ∃ t,
    exec (.timedOutSet v) s = .next (okWith t r []) ∧ (tout t n).mode = 1 ∧ (tout t n).state = 1 ∧
    (tout t n).start = le r.payload 4 10 ∧ (tout t n).width = le r.payload 20 4 ∧
    t.pads.evt.getLsbD n = (by_ r.payload 2 == 1) ∧ ∀ m, m ≠ n → tout t m = tout s m) ∧
  (∀ (s : State) (v : Via) (r : Request) (n : Nat), Admitted s v 0x52 r → checkOnly r = false → r.length = 24 →
    by_ r.payload 0 = n → n ≤ 7 → by_ r.payload 1 = 0 → by_ r.payload 2 ≤ 1 → (∀ o ∈ [3, 14, 15], by_ r.payload o = 0) →
    on s 68 = true → on s 72 = true → ∃ t, exec (.timedOutSet v) s = .next (okWith t r []) ∧ (tout t n).mode = 0 ∧
    (tout t n).state = 0 ∧ t.pads.evt.getLsbD n = false ∧ ∀ m, m ≠ n → tout t m = tout s m) ∧
  (∀ (s : State) (n : Fin 8), held s = false → on s 72 = true → timeOk s = true → s.fs.f4 = false →
    (tout s n.val).mode = 2 → (tout s n.val).state ≠ 3 → (tout s n.val).last = 0 → ∃ t,
    exec (.timedOutputEdge n) s = .next t ∧ (tout t n.val).edge = (tout s n.val).edge + 1 ∧ (tout t n.val).state = 2 ∧
    (tout t n.val).placed = (((edgeTime (tout s n.val) (tout s n.val).edge : Int) -
      psUnits (cfgI s (oTout n.val) 0 4)) / 1024 * 1024).toNat ∧
    t.pads.evt.getLsbD n.val = (((tout s n.val).edge % 2 == 0) != (tout s n.val).pol)) ∧
  (∀ (s : State) (v : Via) (n : Fin 4), held s = false → on s 68 = true → on s 72 = true → opAllowed s v 0x11 = true → ∃ t,
    exec (.timedCapWrite v n ([1, 3] ++ List.replicate 18 0 ++ toLe 4 100)) s = .next t ∧ (cap t n.val).shut = false ∧
    objRead t (oTcap n.val) 0 24 = [1, 3] ++ List.replicate 18 0 ++ toLe 4 100 ∧
    tget (fun _ => none) t.ld.pins (8 + n.val) = some (oTcap n.val, agentOf v)) ∧
  (∀ (s : State) (n : Fin 4) (rising : Bool) (sub : BitVec 7), held s = false → on s 72 = true → timeOk s = true →
    capOn s n.val = true → (cap s n.val).shut = false → bitN (cfg s (oTcap n.val) 1 1) (if rising then 0 else 1) = true →
    capWindowed s n.val = false → (cap s n.val).last = 0 → (cap s n.val).stamps.length < 16 → ∃ t x,
    exec (.capture n rising sub) s = .next t ∧ (cap t n.val).stamps = (cap s n.val).stamps ++ [x] ∧ x.port = n.val ∧
    x.at48 = form48 (capStamp s n.val (corrAt (vch s) ((vch s).raw.toNat + sub.toNat * 1024))) ∧
    (cap t n.val).lost = (cap s n.val).lost ∧ t.hl.evPend.getLsbD 125 = true) ∧
  (∀ (s : State) (n : Fin 4) (rising : Bool) (sub : BitVec 7), held s = false → on s 72 = true → timeOk s = true →
    capOn s n.val = true → (cap s n.val).shut = false → bitN (cfg s (oTcap n.val) 1 1) (if rising then 0 else 1) = true →
    capWindowed s n.val = false → (cap s n.val).last = 0 → 16 ≤ (cap s n.val).stamps.length → ∃ t,
    exec (.capture n rising sub) s = .next t ∧ (cap t n.val).stamps = (cap s n.val).stamps ∧
    (cap t n.val).lost = min 255 ((cap s n.val).lost + 1)) ∧
  (∀ (s : State) (n : Fin 4), held s = false → on s 72 = true → capOn s n.val = true → capWindowed s n.val = true →
    exec (.captureWindowClose n) s = .next (interlock (modCap s n.val fun c => { c with shut := true }))) ∧
  (∀ (s : State) (v : Via) (r : Request) (n : Nat), Admitted s v 0x53 r → checkOnly r = false → r.length = 4 →
    by_ r.payload 0 = n → n ≤ 3 → by_ r.payload 1 = 0 → by_ r.payload 2 = 0 → by_ r.payload 3 = 0 → on s 68 = true →
    on s 72 = true → capOn s n = true → exec (.captureRead v) s = .next (interlock (respondWith
      (modCap (onTaken s r) n fun c => { c with stamps := [], lost := 0 }) (acted r)
      (if (cap s n).lost = 0 then stOk else stPartial) false (capPayload (cap s n)))))

/-! ### Calibration and the lanes -/

/-- CODE_DENSITY_TEST, CALIBRATION_PASS_START, CALIBRATION_PASS_END and CAL_STALE (R219–R228, R243): a failed
converter is out of service; a pass of a point that is due starts on a converter that those served before it leave
free, waits where none is, and is deferred while its port is suspended; the mean
of the central samples is accepted where they spread over no more than 40 ps; a wider spread is rejected and the pass
repeated; fewer than 16 samples defer it; a result more than 200 ps from the last is held for confirmation; a point
gone stale raises its level. CAL_STATUS and CAL_POLICY (R230, R244, Table 3-18): a port instance answers its two
points; a policy takes the trigger, and runs, suspends or resumes the port's passes; a run already waiting is ST_BUSY;
an instance that does not exist is a range error, one whose domain is off ST_STATE. The stamps (R216, R217, R223):
an egress stamp of a port has the accepted delay and the tap delay at its point's temperature added to the time of its
mark as it lies in the die, which is the path's own delay, a free value (log entry 212), before the mark's instant at
the bump, 8 bytes of preamble and delimiter after the start; an ingress stamp's mark lies its bytes before their end,
and its class is that of its point at the mark; the tap delay is the fused value at −40, 25 and 125 °C. -/
def Obligations.Calibration : Prop :=
  (∀ (s : State) (conv : Fin 8) (ok : Bool), held s = false → on s 70 = true → exec (.codeDensityTest conv ok) s =
    .next (interlock (trefFault (s.modCal fun c => { c with convBad := setBit c.convBad conv.val (!ok) })))) ∧
  (∀ (s : State) (pt : Fin 49), held s = false → on s 70 = true → on s (ptDomain pt.val) = true →
    (calPt s pt.val).running = false → (ptDue s pt.val).isSome = true →
    pt.val = 48 ∨ (calPort s (calInst pt.val)).suspended = false → aheadOf s pt.val < freeConv s →
    exec (.calibrationPassStart pt) s =
      .next (interlock (modCalPt s pt.val fun x => { x with running := true, start := s.clock, waits := none }))) ∧
  (∀ (s : State) (pt : Fin 49), held s = false → on s 70 = true → on s (ptDomain pt.val) = true →
    (calPt s pt.val).running = false → (ptDue s pt.val).isSome = true →
    pt.val = 48 ∨ (calPort s (calInst pt.val)).suspended = false → freeConv s ≤ aheadOf s pt.val →
    (calPt s pt.val).waits = none → ∃ t, exec (.calibrationPassStart pt) s = .next t ∧
    calPt t pt.val = { calPt s pt.val with waits := some s.clock } ∧ (calPort t (calInst pt.val)).reason = 3 ∧
    (calPort t (calInst pt.val)).deferred = (calPort s (calInst pt.val)).deferred) ∧
  (∀ (s : State) (pt : Fin 49) (w : Nat), held s = false → on s 70 = true → on s (ptDomain pt.val) = true →
    (calPt s pt.val).running = false → (ptDue s pt.val).isSome = true →
    pt.val = 48 ∨ (calPort s (calInst pt.val)).suspended = false → freeConv s ≤ aheadOf s pt.val →
    (calPt s pt.val).waits = some w → w + ptLimit s pt.val ≤ s.clock → ∃ t,
    exec (.calibrationPassStart pt) s = .next t ∧ (calPort t (calInst pt.val)).deferred = true ∧
    (calPort t (calInst pt.val)).reason = 3 ∧ (calPt t pt.val).running = false) ∧
  (∀ (s : State) (pt : Fin 49), held s = false → on s 70 = true → on s (ptDomain pt.val) = true →
    (calPt s pt.val).running = false → (ptDue s pt.val).isSome = true → pt.val ≠ 48 →
    (calPort s (calInst pt.val)).suspended = true → ∃ t,
    exec (.calibrationPassStart pt) s = .next t ∧ (calPort t (calInst pt.val)).deferred = true ∧
    (calPort t (calInst pt.val)).reason = 4 ∧ t.cal.points = s.cal.points) ∧
  (∀ (s : State) (pt : Fin 49) (xs : List Int), held s = false → (calPt s pt.val).running = true → xs.length = 64 →
    (central xs).getLastD 0 - (central xs).headD 0 ≤ 40 → (calPt s pt.val).held = none → (calPt s pt.val).delay = none →
    16 ≤ pt.val → pt.val ≠ 48 → ∃ t, exec (.calibrationPassEnd pt xs) s = .next t ∧
    (calPt t pt.val).delay = some (sumI (central xs) / (central xs).length) ∧ (calPt t pt.val).at_ = s.clock ∧
    (calPt t pt.val).tj = ptTemp s pt.val ∧ (calPt t pt.val).running = false ∧ (calPt t pt.val).steady = true ∧
    (calPt t pt.val).stale = false) ∧
  (∀ (s : State) (pt : Fin 49) (xs : List Int), held s = false → (calPt s pt.val).running = true → xs.length = 64 →
    40 < (central xs).getLastD 0 - (central xs).headD 0 → ∃ t, exec (.calibrationPassEnd pt xs) s = .next t ∧
    (calPt t pt.val) = { (calPt s pt.val) with start := s.clock } ∧
    (calPort t (calInst pt.val)).rejected = min (2 ^ 32 - 1) ((calPort s (calInst pt.val)).rejected + 1)) ∧
  (∀ (s : State) (pt : Fin 49) (xs : List Int), held s = false → (calPt s pt.val).running = true → xs.length < 16 → ∃ t,
    exec (.calibrationPassEnd pt xs) s = .next t ∧ (calPt t pt.val).running = false ∧
    (calPt t pt.val).delay = (calPt s pt.val).delay ∧ (calPort t (calInst pt.val)).deferred = true) ∧
  (∀ (s : State) (pt : Fin 49) (xs : List Int) (d : Int), held s = false → (calPt s pt.val).running = true →
    xs.length = 64 → (central xs).getLastD 0 - (central xs).headD 0 ≤ 40 → (calPt s pt.val).held = none →
    (calPt s pt.val).delay = some d → (calPt s pt.val).steady = true →
    200 < (sumI (central xs) / (central xs).length - d).natAbs → ∃ t, exec (.calibrationPassEnd pt xs) s = .next t ∧
    (calPt t pt.val).held = some (sumI (central xs) / (central xs).length) ∧ (calPt t pt.val).delay = some d) ∧
  (∀ (s : State) (pt : Fin 49), held s = false → ptUp s pt.val = true → (calPt s pt.val).stale = false → ptOld s pt.val = true →
    pt.val < 12 → ∃ t, exec (.calStale pt) s = .next t ∧ (calPt t pt.val).stale = true ∧
    (srcOf t (80 + 8 * (pt.val / 2) + 6)).cond = true) ∧
  (∀ (s : State) (v : Via) (r : Request) (d : Nat), Admitted s v 0x58 r → checkOnly r = false → r.length = 4 →
    calDomain (by_ r.payload 0) = some d → (∀ o ∈ [1, 2, 3], by_ r.payload o = 0) → on s d = true →
    exec (.calStatus v) s = .next (okWith (onTaken s r) r (calPayload s (by_ r.payload 0)))) ∧
  (∀ (s : State) (v : Via) (r : Request) (d : Nat), Admitted s v 0x58 r → checkOnly r = false → r.length = 4 →
    calDomain (by_ r.payload 0) = some d → (∀ o ∈ [1, 2, 3], by_ r.payload o = 0) → on s d = false →
    exec (.calStatus v) s = .next (noWith s r stState [])) ∧
  (∀ (s : State) (v : Via) (r : Request) (d : Nat), Admitted s v 0x59 r → checkOnly r = false → r.length = 4 →
    calDomain (by_ r.payload 0) = some d → on s d = true → by_ r.payload 1 ≤ 2 → 5 ≤ by_ r.payload 2 →
    by_ r.payload 2 ≤ 100 → by_ r.payload 3 = 0 → by_ r.payload 0 < 32 →
    (by_ r.payload 1 = 1 → ∀ pt ∈ ptsOf (by_ r.payload 0), (calPt s pt).due.getLsbD 1 = false) →
    exec (.calPolicy v) s = .next (okWith (policy (onTaken s r) (by_ r.payload 0) (by_ r.payload 1) (by_ r.payload 2)) r [])) ∧
  (∀ (s : State) (i trig : Nat), i < 32 → (calPort (policy s i 2 trig) i).suspended = true ∧
    (calPort (policy s i 2 trig) i).trigger = trig ∧ ∀ pt ∈ ptsOf i, (calPt (policy s i 2 trig) pt).running = false) ∧
  (∀ (s : State) (i trig : Nat), (calPort (policy s i 0 trig) i).suspended = false ∧
    (calPort (policy s i 0 trig) i).trigger = trig) ∧
  (∀ (s : State) (p : Fin 6) (d : Int), (calPt s (2 * p.val)).delay = some d → (txStamp s p.val).1.at48 =
    BitVec.ofNat 48 (uns 48 (((now80 s : Int) + ((Config.subTick s.freeIx).toNat * 1024 : Nat) +
      psUnits ((8 : Nat) * (psPerByte (prt s p.val).gbps : Int) +
        (d + tapDelay (2 * p.val) (ptTemp s (2 * p.val)) - Config.pathPs (2 * p.val) s.freeIx))) / 1024 * 1024))) ∧
  (∀ pt : Nat, tapDelay pt (-400) = Config.tapFusePs pt 0 ∧ tapDelay pt 250 = Config.tapFusePs pt 1 ∧
    tapDelay pt 1250 = Config.tapFusePs pt 2) ∧
  (∀ (s : State) (p : Fin 6) (n : Nat), (rxStamp s p.val n).1.mark = s.clock - (lanePs s p.val n).toNat / 1000 ∧
    (rxStamp s p.val n).1.cls = BitVec.ofNat 2 (ptClass (atMark s (markAt s p.val n)) (2 * p.val + 1))) ∧
  (∀ (s : State) (t pt : Nat), (s.cal.past.find? fun x => decide (t < x.till)) = none → pt ≠ 48 →
    (calPt (atMark s t) pt) = calPt s pt ∧ (atMark s t).clock = t)

/-- PROBE_SEND, PROBE_RECEIVE, ECHO_SEND and ECHO_RECEIVE (R232–R238, R243, R244): a probe numbered and stamped goes
where it fits and is outstanding; none goes while the port is suspended or its silent partner rests, and want of a brim
defers the pass; a probe without an echo for a millisecond is unanswered, and the fourth in succession marks the
partner silent (log entry 210); a probe taken is held with its stamp and its mark and answered by one echo, or, a millisecond old, by none
(the model's choice, log entry 148); where MACsec takes protected frames only, one in clear is dropped and counted; the echo
of an outstanding probe gives a pair, or defers the pass where a side is not LOCKED. -/
def Obligations.Probes : Prop :=
  (∀ (s : State) (p : Fin 6), held s = false → cfg s (oidOf 0x0300 p.val 0) 0 1 ≠ 0 →
    (calPort s p.val).suspended = false → on s (6 + p.val) = true → noBrim s p.val = false → probeFits s p.val = true →
    probeRests s p.val = false → (∀ b ∈ (calPort s p.val).out, b.told = true ∨ s.clock ≤ b.at_ + 1000000) →
    (calPort s p.val).probes < 64 → secOn s p.val = false → ∃ t,
    exec (.probeSend p) s = .next t ∧ (calPort t p.val).seq = (calPort s p.val).seq + 1 ∧
    (calPort t p.val).out = ((calPort s p.val).out ++ [Probe.mk (calPort s p.val).seq (txStamp s p.val).1.at48
      (s.tm.state == 0) s.clock false]).drop ((calPort s p.val).out.length - 63) ∧
    (prt t p.val).line.map (fun l => l.frame.data) = some (padTo 60 (lehrHead s p.val 0x10 (calPort s p.val).seq.toNat
      (lehrFlags s p.val false) ++ toBe 6 (txStamp s p.val).1.at48.toNat))) ∧
  (∀ (s : State) (p : Fin 6), held s = false → (calPort s p.val).suspended = true →
    exec (.probeSend p) s = .next (interlock s)) ∧
  (∀ (s : State) (p : Fin 6), held s = false → (calPort s p.val).out = [] → noBrim s p.val = false →
    probeRests s p.val = true → ∃ t, exec (.probeSend p) s = .next t ∧ t.tx = s.tx ∧ calPort t p.val = calPort s p.val) ∧
  (∀ (s : State) (p : Fin 6), held s = false → cfg s (oidOf 0x0300 p.val 0) 0 1 ≠ 0 →
    (calPort s p.val).suspended = false → on s (6 + p.val) = true → noBrim s p.val = true →
    (calPort s p.val).deferred = false → (calPort s p.val).out = [] → ∃ t, exec (.probeSend p) s = .next t ∧
    (calPort t p.val).deferred = true ∧ (calPort t p.val).reason = 1 ∧ t.tx = s.tx) ∧
  (∀ (s : State) (p : Fin 6) (f : Bytes), held s = false → on s (6 + p.val) = true → (prt s p.val).up = true →
    isKin f 0x10 = true → secRx s p.val = false → ∃ t, exec (.probeReceive p f) s = .next t ∧
    (calPort t p.val) = { (calPort s p.val) with
      echo := some (f, (rxStamp s p.val f.length).1.at48, (rxStamp s p.val f.length).1.mark) }) ∧
  (∀ (s : State) (p : Fin 6) (f : Bytes), held s = false → on s (6 + p.val) = true → (prt s p.val).up = true →
    secRx s p.val = true → (isKin f 0x10 = true → exec (.probeReceive p f) s =
      .next (interlock (count s (cPort p.val 3) 6))) ∧
    (isKin f 0x11 = true → exec (.echoReceive p f) s = .next (interlock (count s (cPort p.val 3) 6)))) ∧
  (∀ (s : State) (p : Fin 6) (f : Bytes) (t2 : BitVec 48) (at_ : Nat), held s = false →
    (calPort s p.val).echo = some (f, t2, at_) → s.clock ≤ at_ + 1000000 → echoFits s p.val = true →
    secOn s p.val = false → ∃ t, exec (.echoSend p) s = .next t ∧ (calPort t p.val).echo = none ∧
    (calPort t p.val).pairs = (calPort s p.val).pairs ∧
    (prt t p.val).line.map (fun l => l.frame.data) = some (padTo 60 (lehrHead s p.val 0x11 (be f 16 2)
      (lehrFlags s p.val (steppedSince s at_)) ++ sub f 20 6 ++ toBe 6 t2.toNat ++
      toBe 6 (txStamp s p.val).1.at48.toNat))) ∧
  (∀ (s : State) (p : Fin 6) (f : Bytes) (t2 : BitVec 48) (at_ : Nat), held s = false →
    (calPort s p.val).echo = some (f, t2, at_) → at_ + 1000000 < s.clock →
    exec (.echoSend p) s = .next (interlock (modCalPort s p.val fun c => { c with echo := none }))) ∧
  (∀ (s : State) (p : Fin 6) (f : Bytes) (b : Probe), held s = false → on s (6 + p.val) = true →
    (prt s p.val).up = true → isKin f 0x11 = true → secRx s p.val = false → (calPort s p.val).suspended = false →
    ((calPort s p.val).out.find? fun b => be f 16 2 == b.seq.toNat && BitVec.ofNat 48 (be f 20 6) == b.t1) = some b →
    b.locked = true → bitN (by_ f 18) 7 = true → bitN (by_ f 18) 4 = false →
    steppedSince s b.at_ = false → (BitVec.ofNat 48 (be f 32 6) - BitVec.ofNat 48 (be f 26 6)).toNat ≤ 65536000000 →
    (calPort s p.val).pairs.length < 15 → ∃ t, exec (.echoReceive p f) s = .next t ∧ (calPort t p.val) =
      { (calPort s p.val) with
        out := (calPort s p.val).out.erase b, unanswered := 0, partner := 1,
        pairs := (calPort s p.val).pairs ++
          [((diff48 (rxStamp s p.val f.length).1.at48 b.t1 -
              diff48 (BitVec.ofNat 48 (be f 32 6)) (BitVec.ofNat 48 (be f 26 6))).tdiv 2,
            (diff48 (rxStamp s p.val f.length).1.at48 (BitVec.ofNat 48 (be f 32 6)) -
              diff48 (BitVec.ofNat 48 (be f 26 6)) b.t1).tdiv 2)] }) ∧
  (∀ (s : State) (p : Fin 6) (f : Bytes) (b : Probe), held s = false → on s (6 + p.val) = true →
    (prt s p.val).up = true → isKin f 0x11 = true → secRx s p.val = false → (calPort s p.val).suspended = false →
    ((calPort s p.val).out.find? fun b => be f 16 2 == b.seq.toNat && BitVec.ofNat 48 (be f 20 6) == b.t1) = some b →
    b.locked = false → ∃ t, exec (.echoReceive p f) s = .next t ∧
    (calPort t p.val).out = (calPort s p.val).out.erase b ∧ (calPort t p.val).deferred = true ∧
    (calPort t p.val).reason = 6) ∧
  (∀ (s : State) (p : Fin 6) (b : Probe), (calPort s p.val).out = [b] → b.told = false → b.at_ + 1000000 < s.clock →
    (calPort s p.val).unanswered < 3 → calPort (expireProbes s p.val) p.val =
      { (calPort s p.val) with out := [{ b with told := true }], unanswered := (calPort s p.val).unanswered + 1 }) ∧
  (∀ (s : State) (p : Fin 6) (b : Probe), (calPort s p.val).out = [b] → b.told = false → b.at_ + 1000000 < s.clock →
    3 ≤ (calPort s p.val).unanswered → (calPort s p.val).partner ≠ 2 →
    (calPort (expireProbes s p.val) p.val).partner = 2 ∧ (calPort (expireProbes s p.val) p.val).reason = 5)

/-- LANE_RELOCK (R224, R279, R282): a lane that locks is up at its rate, its delay points start over with a relock
pass due, which starts where converters are free, its reassemblies are gone, MAC merge starts over, and what was on
its line or suspended has ended (the model's choice, log entry 145). SECOND_PASS, LOOP_WAIT_EXPIRY and LINK_DOWN (R282,
R318, R323, R332, R498): the oldest head of the loop is classified again in its own view, its frame concluded where it is
whole and its verdict kept where it is not, or it leaves with its frame dropped and counted; a lane whose link is lost is down with nothing on it and no reassembly; the service link's loss
closes every session. -/
def Obligations.LanesAndLoop : Prop :=
  (∀ (s : State) (p : Fin 6) (gbps : Nat), held s = false → on s p.val = true → on s (6 + p.val) = true →
    s.pw.testMode = false → (prt s p.val).ctxs = [] → exec (.laneRelock ⟨p.val, by omega⟩ gbps) s =
    .next (interlock (linkFault (mergeStart (settleLevels (relockPts (modPrt (abortLine s p.val .down) p.val fun x =>
      { x with up := true, gbps := gbps, ctxs := [], partnerFrag := 0 }) p.val) p.val) p.val) p.val))) ∧
  (∀ (s : State) (p : Fin 6) (gbps : Nat), held s = false → on s p.val = true → on s (6 + p.val) = true →
    s.pw.testMode = false → cfg s (oMerge p.val) 0 1 = 0 → ∃ t,
    exec (.laneRelock ⟨p.val, by omega⟩ gbps) s = .next t ∧ (prt t p.val).up = true ∧ (prt t p.val).gbps = gbps ∧
    (prt t p.val).ctxs = [] ∧ (prt t p.val).merge = 0 ∧ (prt t p.val).line = none ∧ (prt t p.val).susp = [] ∧
    ∀ pt ∈ ptsOf p.val, (calPt t pt).delay = none ∧ (calPt t pt).relock = s.clock ∧ (calPt t pt).due = 1 ∧
      (calPt t pt).stale = false ∧
      (on s 70 = true → (calPort s p.val).suspended = false → 2 ≤ freeConv s → (calPt t pt).running = true)) ∧
  (∀ (s : State) (k : Fin 2) (gbps : Nat), held s = false → on s (24 + k.val) = true → on s (26 + k.val) = true →
    exec (.laneRelock ⟨6 + k.val, by omega⟩ gbps) s = .next (interlock (relockPts s (6 + k.val)))) ∧
  (∀ (s w : State) (h : LoopHead) (rest : List LoopHead) (v : Verdict), held s = false → s.rx.loop = h :: rest →
    s.fs.f4 = false → classify (s.modRx fun r => { r with loop := rest }) h.port h.view h.plain (some ⟨h.tci, h.sci⟩) none
      = (v, w) → h.whole = true → v.drop = true → exec .secondPass s = .next (interlock (drainCheck w))) ∧
  (∀ (s w : State) (h : LoopHead) (rest : List LoopHead) (v : Verdict), held s = false → s.rx.loop = h :: rest →
    s.fs.f4 = false → classify (s.modRx fun r => { r with loop := rest }) h.port h.view h.plain (some ⟨h.tci, h.sci⟩) none
      = (v, w) → h.whole = true → exec .secondPass s =
      .next (interlock (drainCheck (conclude w devTake h.port v h.plain h.len h.stamp h.epoch none)))) ∧
  (∀ (s : State) (h : LoopHead) (rest : List LoopHead), held s = false → s.rx.loop = h :: rest → s.fs.f4 = false →
    h.whole = false → exec .secondPass s = .next (interlock (drainCheck (passEarly (s.modRx fun r => { r with loop := rest })
      h.port h.view h.pfx h.plain (some ⟨h.tci, h.sci⟩) h.smdE h.set h.stamp h.epoch)))) ∧
  (∀ (s : State) (h : LoopHead) (rest : List LoopHead), held s = false → s.rx.loop = h :: rest → ∃ t,
    exec .loopWaitExpiry s = .next t ∧ t.rx.loop = rest ∧ t.rx.active = s.rx.active ∧
    (on s 49 = true → counter t cDev 1 = BitVec.ofNat 64 (min (2 ^ 64 - 1) ((counter s cDev 1).toNat + 1)))) ∧
  (∀ (s : State) (p : Fin 6), held s = false → (prt s p.val).up = true → ∃ t,
    exec (.linkDown ⟨p.val, by omega⟩) s = .next t ∧ (prt t p.val).up = false ∧ (prt t p.val).ctxs = [] ∧
    (prt t p.val).eg = [] ∧ (prt t p.val).line = none ∧ (prt t p.val).susp = []) ∧
  (∀ s : State, held s = false → ∃ t, exec (.linkDown 6) s = .next t ∧
    ∀ k < 8, (sess t k).state = if (sess s k).state = 3 then 3 else 0)

/-! ### Transmission and reception -/

/-- FRAME_TRANSMIT_START and TRANSMISSION_END (R250, R277, R285, R332): the frame that transmission selection picks
leaves its queue for the free line, where cut-through copies that are not admitted are kept back until they are whole;
a frame whose last byte has gone leaves the line with its FCS, or, where it was found bad, with an inverted one, and
one found bad while it was suspended ends at its first legal point with an inverted mCRC. PAUSE_RECEIVE and PAUSE_EXPIRY (R286, R287): PAUSE pauses the TCs of FC_MASK for its quanta, PFC
those it also names; a pause that expires ends. -/
def Obligations.Transmissions : Prop :=
  (∀ (s : State) (p : Fin 6) (f : EgFrame), held s = false → (prt s p.val).line = none → portSilent s p.val = false →
    (prt s p.val).up = true → on s (6 + p.val) = true → (prt s p.val).smds = [] → secOn s p.val = false →
    pick (keepBack (cbsUpdate s p.val) p.val) p.val (nowPs s) = .new f → ∃ t, exec (.frameTransmitStart p) s = .next t ∧
    (prt t p.val).line.map (fun l => (l.frame.id, l.gone, l.ct)) = some (f.id, 0, !f.whole) ∧
    (prt t p.val).eg = (prt (keepBack (cbsUpdate s p.val) p.val) p.val).eg.filter (·.id != f.id)) ∧
  (∀ (s : State) (p : Nat), (prt (keepBack s p) p).eg.map (·.id) = (prt s p).eg.map (·.id) ∧
    ((∀ x ∈ (prt s p).eg, x.whole = true) → keepBack s p = s)) ∧
  (∀ (s : State) (p : Fin 6) (l : OnLine), held s = false → (prt s p.val).line = some l → l.frame.whole = true →
    l.stomp = false → l.frame.bad = false → l.short = false → ∃ t, exec (.transmissionEnd p) s = .next t ∧ (prt t p.val).line = none ∧
    Out.port p.val l.smd (if l.gone = 0 then 0 else fragCode (l.frag - 1)) (l.wire.drop l.gone ++ toLe 4 (crc32 l.wire))
      ∈ t.outs) ∧
  (∀ (s : State) (p : Fin 6) (l : OnLine), held s = false → (prt s p.val).line = some l → l.frame.whole = true →
    (l.stomp || l.frame.bad) = true → l.short = false → ∃ t, exec (.transmissionEnd p) s = .next t ∧
    (prt t p.val).line = none ∧ Out.port p.val l.smd (if l.gone = 0 then 0 else fragCode (l.frag - 1))
      (l.wire.drop l.gone ++ toLe 4 (crc32 l.wire ^^^ 0xFFFFFFFF)) ∈ t.outs) ∧
  (∀ (s : State) (p : Fin 6) (l : OnLine) (n : Nat), held s = false → (prt s p.val).line = some l →
    l.frame.whole = true → l.stomp = true → l.short = true → firstLegal l 0 = some n → ∃ t,
    exec (.transmissionEnd p) s = .next t ∧ (prt t p.val).line = none ∧ (prt t p.val).susp = (prt s p.val).susp ∧
    Out.port p.val l.smd (if l.gone = 0 then 0 else fragCode (l.frag - 1))
      (sub l.wire l.gone n ++ toLe 4 (mcrc (l.wire.take (l.gone + n)) ^^^ 0xFFFFFFFF)) ∈ t.outs) ∧
  (∀ (s : State) (p : Fin 6) (f : Bytes) (q : Nat), held s = false → on s (6 + p.val) = true → (prt s p.val).up = true →
    fcsOk f = true → be f 12 2 = 0x8808 → be f 14 2 = 0x0001 → be f 16 2 ≠ 0 → q < 8 → ∃ t,
    exec (.pauseReceive p f) s = .next t ∧ tget (fun _ => 0) (prt t p.val).pause q =
      if fcMask s p.val q then s.clock * 1000 + be f 16 2 * 64 * psPerByte (prt s p.val).gbps
      else tget (fun _ => 0) (prt s p.val).pause q) ∧
  (∀ (s : State) (p : Fin 6) (f : Bytes) (q : Nat), held s = false → on s (6 + p.val) = true → (prt s p.val).up = true →
    fcsOk f = true → be f 12 2 = 0x8808 → be f 14 2 = 0x0101 → q < 8 → be f (18 + 2 * q) 2 ≠ 0 → ∃ t,
    exec (.pauseReceive p f) s = .next t ∧ tget (fun _ => 0) (prt t p.val).pause q =
      if fcMask s p.val q && bitN (be f 16 2) q then s.clock * 1000 + be f (18 + 2 * q) 2 * 64 * psPerByte (prt s p.val).gbps
      else tget (fun _ => 0) (prt s p.val).pause q) ∧
  (∀ (s : State) (p : Fin 6) (tc : Fin 8), held s = false → ∃ t, exec (.pauseExpiry p tc) s = .next t ∧
    paused t p.val tc.val = false)

/-- PREEMPTION, GATE_OVERRUN, GATE_ENTRY_START and HOLD (R255–R259, R276, R277, R280, R463): a preemptable frame is cut
at a legal point that is still ahead, its fragment ends with its mCRC and it is suspended, its stamp with the class of
its mark, or it goes on where there is no such point; an overrun is counted, a preemptable frame is cut at its first legal point, and a cut-through frame ends
with an inverted FCS; a gate copy that differs lets no new frame start; a HOLD entry holds, a RELEASE entry releases,
and on a port without a list nothing holds. The operand of the first two is the number of data bytes of the fragment
that have left (the model's choice, log entry 155). -/
def Obligations.Gates : Prop :=
  (∀ (s : State) (p : Fin 6) (sent n : Nat) (l : OnLine), held s = false → (prt s p.val).line = some l → l.lvl ≠ 0 →
    cutPoint (cbsUpdate s p.val) p.val l sent = some n → l.stomp = false → sent ≤ n ∧ legalCut l n = true ∧ ∃ t c,
    exec (.preemption p sent) s = .next t ∧ (prt t p.val).line = none ∧ (prt t p.val).susp =
      { l with gone := l.gone + n, frag := l.frag + 1, stamp := { l.stamp with cls := c } } :: (prt s p.val).susp ∧
    Out.port p.val l.smd (if l.gone = 0 then 0 else fragCode (l.frag - 1))
      (sub l.wire l.gone n ++ toLe 4 (mcrc (l.wire.take (l.gone + n)))) ∈ t.outs) ∧
  (∀ (s : State) (p : Fin 6) (sent : Nat) (l : OnLine), held s = false → (prt s p.val).line = some l → l.lvl ≠ 0 →
    cutPoint (cbsUpdate s p.val) p.val l sent = none →
    exec (.preemption p sent) s = .next (interlock (cbsUpdate s p.val))) ∧
  (∀ (s : State) (p : Fin 6) (sent n : Nat) (l : OnLine), held s = false → (prt s p.val).line = some l → l.lvl ≠ 0 →
    firstLegal l sent = some n → l.stomp = false → sent ≤ n ∧ legalCut l n = true ∧ ∃ t c,
    exec (.gateOverrun p sent) s = .next t ∧ (prt t p.val).line = none ∧
    (prt t p.val).overruns = min (2 ^ 32 - 1) ((prt s p.val).overruns + 1) ∧
    (prt t p.val).susp =
      { l with gone := l.gone + n, frag := l.frag + 1, stamp := { l.stamp with cls := c } } :: (prt s p.val).susp) ∧
  (∀ (s : State) (p : Fin 6) (sent : Nat) (l : OnLine), held s = false → (prt s p.val).line = some l → l.lvl ≠ 0 →
    firstLegal l sent = none → ∃ t, exec (.gateOverrun p sent) s = .next t ∧ (prt t p.val) =
      { (prt s p.val) with overruns := min (2 ^ 32 - 1) ((prt s p.val).overruns + 1) }) ∧
  (∀ (s : State) (p : Fin 6) (n : Nat) (l : OnLine), held s = false → (prt s p.val).line = some l → l.lvl = 0 →
    l.ct = false → ∃ t, exec (.gateOverrun p n) s = .next t ∧ (prt t p.val) =
      { (prt s p.val) with overruns := min (2 ^ 32 - 1) ((prt s p.val).overruns + 1) }) ∧
  (∀ (s : State) (p : Fin 6) (n : Nat) (l : OnLine), held s = false → (prt s p.val).line = some l → l.lvl = 0 →
    l.ct = true → ∃ t, exec (.gateOverrun p n) s = .next t ∧ (prt t p.val).line = none ∧
    (prt t p.val).overruns = min (2 ^ 32 - 1) ((prt s p.val).overruns + 1) ∧
    Out.port p.val l.smd (if l.gone = 0 then 0 else fragCode (l.frag - 1)) ((l.wire.take (l.gone + n)).drop l.gone ++
      toLe 4 (crc32 (l.wire.take (l.gone + n)) ^^^ 0xFFFFFFFF)) ∈ t.outs) ∧
  (∀ (s : State) (p : Fin 6), held s = false → on s (6 + p.val) = true → timeOk s = true → gates s p.val ≠ [] →
    clsOf s (80 + 8 * p.val + 2) = 2 → ∃ t, exec (.gateEntryStart p false) s = .next t ∧ (prt t p.val).noNew = true ∧
    t.tx.mismatches = min (2 ^ 32 - 1) (s.tx.mismatches + 1) ∧ (srcOf t (80 + 8 * p.val + 2)).sticky = true) ∧
  (∀ (s : State) (p : Fin 6) (k : Nat), held s = false → on s (6 + p.val) = true → timeOk s = true →
    gates s p.val ≠ [] → mergeOn s p.val = true → (entryAt (gates s p.val) (cyclePos s (nowPs s))).1 = k →
    ∃ t, exec (.gateEntryStart p true) s = .next t ∧
    (((gates s p.val).getD k ⟨0, 0, 0⟩).op = 1 → (prt t p.val).hold = true) ∧
    (((gates s p.val).getD k ⟨0, 0, 0⟩).op = 2 → (prt t p.val).hold = false) ∧
    (k = 0 → (prt t p.val).noNew = false ∧ (prt t p.val).resume = false)) ∧
  (∀ (s : State) (p : Fin 6) (c : Bool), held s = false → on s (6 + p.val) = true → timeOk s = true →
    gates s p.val = [] → ∃ t, exec (.gateEntryStart p c) s = .next t ∧
    (prt t p.val) = { (prt s p.val) with noNew := false, resume := false, hold := false }) ∧
  (∀ (s : State) (p : Fin 6), held s = false → on s (6 + p.val) = true → mergeOn s p.val = true →
    timeOk s = true → holdNear s p.val = true →
    exec (.hold p) s = .next (interlock (modPrt s p.val fun x => { x with hold := true })))

/-- PARISON_READY and PARISON_LATE (R251, R269–R273, R456, Table 7-7): a ready parison joins the queue of its port with
its assembled bytes, behind the earlier ones of its TXQ, port and TC; a port that counts as down or is held fail-silent
is decided without it, and so is a talker's beyond the overlap limit while detached (R443); a late one is dropped, or
kept and marked late, as its policy says. -/
def Obligations.Parisons : Prop :=
  (∀ (s : State) (q : Fin 64) (idx : BitVec 12) (p : Fin 6) (a i : Nat) (r : TxRec), held s = false →
    whichRec s q.val idx.toNat = some (a, i) → recOf s a i = some r → r.todo.getLsbD p.val = true → r.phase = .staged →
    r.withheld = false → (∀ f ∈ (prt s p.val).eg, mine a i f = false) → started s a i p.val = false →
    behind s a i p.val r = false → (∀ x ∈ (que s a).recs, x.ripe.getLsbD p.val = false) →
    standsBy s = false → (s.hl.state == lsDetached && beyondOverlap s r) = false → downFor s p.val = false → r.cellsOn.getLsbD p.val = true → f3Holds s (p.val / 2) = false →
    r.late.getLsbD p.val = false →
    neverFits s p.val { id := 0, tc := descTc r.desc, data := parison r, src := .host a i } = false →
    ∃ t, exec (.parisonReady q idx p) s = .next t ∧ (prt t p.val).eg = (prt s p.val).eg ++
      [{ id := s.tx.nextId + 1, tc := descTc r.desc, data := parison r, src := .host a i }]) ∧
  (∀ (s : State) (q : Fin 64) (idx : BitVec 12) (p : Fin 6) (a i : Nat) (r : TxRec), held s = false →
    whichRec s q.val idx.toNat = some (a, i) → recOf s a i = some r → r.todo.getLsbD p.val = true → r.phase = .staged →
    r.withheld = false → (∀ f ∈ (prt s p.val).eg, mine a i f = false) → started s a i p.val = false →
    behind s a i p.val r = false → standsBy s = false → (s.hl.state == lsDetached && beyondOverlap s r) = false →
    downFor s p.val = true → exec (.parisonReady q idx p) s =
    .next (interlock (flushDown (ripenRest (settle s a i p.val .down) a p.val)))) ∧
  (∀ (s : State) (q : Fin 64) (idx : BitVec 12) (p : Fin 6) (a i : Nat) (r : TxRec), held s = false →
    whichRec s q.val idx.toNat = some (a, i) → recOf s a i = some r → r.phase = .staged → behind s a i p.val r = true →
    (∀ x ∈ (que s a).recs, x.ripe.getLsbD p.val = false) → ∃ t, exec (.parisonReady q idx p) s = .next t ∧
    (prt t p.val).eg = (prt s p.val).eg) ∧
  (∀ (s : State) (q : Fin 64) (idx : BitVec 12) (p : Fin 6) (a i : Nat) (r : TxRec), held s = false →
    whichRec s q.val idx.toNat = some (a, i) → recOf s a i = some r → descLaunch r.desc = true →
    r.todo.getLsbD p.val = true → r.late.getLsbD p.val = false → started s a i p.val = false → r.withheld = false →
    standsBy s = false → (∀ x ∈ (que s a).recs, x.ripe.getLsbD p.val = false) → latePolicy s a i r.desc ≠ 2 → latePolicy s a i r.desc ≠ 3 →
    ∃ t, exec (.parisonLate q idx p) s = .next t ∧
    (prt t p.val).lates = min (2 ^ 32 - 1) ((prt s p.val).lates + 1) ∧
    (prt t p.val).eg = (prt s p.val).eg.filter fun f => !mine a i f) ∧
  (∀ (s : State) (q : Fin 64) (idx : BitVec 12) (p : Fin 6) (a i : Nat) (r : TxRec), held s = false →
    whichRec s q.val idx.toNat = some (a, i) → recOf s a i = some r → descLaunch r.desc = true →
    r.todo.getLsbD p.val = true → r.late.getLsbD p.val = false → started s a i p.val = false → r.withheld = false →
    standsBy s = false → (∀ x ∈ (que s a).recs, x.ripe.getLsbD p.val = false) → latePolicy s a i r.desc = 2 →
    ∃ t, exec (.parisonLate q idx p) s = .next t ∧
    (prt t p.val).lates = min (2 ^ 32 - 1) ((prt s p.val).lates + 1) ∧
    (prt t p.val).eg = (prt s p.val).eg.map fun f => if mine a i f then { f with late := true, waitFrom := none } else f) ∧
  (∀ (s : State) (q : Fin 64) (idx : BitVec 12) (p : Fin 6) (a i : Nat) (r : TxRec), held s = false →
    whichRec s q.val idx.toNat = some (a, i) → recOf s a i = some r → r.todo.getLsbD p.val = true → r.phase = .staged →
    r.withheld = false → (∀ f ∈ (prt s p.val).eg, mine a i f = false) → started s a i p.val = false →
    behind s a i p.val r = false → standsBy s = false → s.hl.state = lsDetached → beyondOverlap s r = true →
    exec (.parisonReady q idx p) s = .next (interlock (flushDown (ripenRest (settle s a i p.val .dropped) a p.val))))

/-- SMD_V_RECEIVE, SMD_R_RECEIVE and VERIFY_TIMEOUT (R278): a port with MAC merge enabled answers SMD-V with SMD-R;
SMD-R ends its own verify, and the larger of its own addFragSize and the one heard is used from then on; three attempts are made, then verify has FAILED.
SP_OFFER_RECEIVE, SP_ANSWER_RECEIVE and SP_OFFER_REPEAT (R284): an offer is answered with the levels this side takes;
the answer to the outstanding offer confirms stacked preemption or refuses it; an offer unanswered is repeated, then
the direction falls back, with FS085 + 8n. -/
def Obligations.Preemption : Prop :=
  (∀ (s : State) (p : Fin 6), held s = false → on s (6 + p.val) = true → (prt s p.val).up = true →
    cfg s (oMerge p.val) 0 1 = 1 → exec (.smdVReceive p) s =
    .next (interlock (modPrt s p.val fun x => { x with smds := x.smds ++ [false] }))) ∧
  (∀ (s : State) (p : Fin 6) (a : Fin 4), held s = false → on s (6 + p.val) = true → (prt s p.val).up = true →
    cfg s (oMerge p.val) 0 1 = 1 → (prt s p.val).merge = 1 → cfg s (oMerge p.val) 4 1 ≠ 1 →
    ∃ t, exec (.smdRReceive p a) s = .next t ∧ (prt t p.val) =
      { (prt s p.val) with merge := 2, partnerFrag := a.val, frag := max (cfg s (oMerge p.val) 3 1) a.val }) ∧
  (∀ (s : State) (p : Fin 6) (a : Fin 4), held s = false → on s (6 + p.val) = true → (prt s p.val).up = true →
    cfg s (oMerge p.val) 0 1 = 1 → (prt s p.val).merge ≠ 1 →
    ∃ t, exec (.smdRReceive p a) s = .next t ∧ (prt t p.val) =
      { (prt s p.val) with partnerFrag := a.val, frag := max (cfg s (oMerge p.val) 3 1) a.val }) ∧
  (∀ (s : State) (p : Fin 6) (a : Fin 4), held s = false → on s (6 + p.val) = true → (prt s p.val).up = true →
    cfg s (oMerge p.val) 0 1 = 1 → (prt s p.val).merge = 1 → cfg s (oMerge p.val) 4 1 = 1 →
    ∃ t, exec (.smdRReceive p a) s = .next t ∧ (prt t p.val).merge = 2 ∧ (prt t p.val).sp = 1 ∧
    (prt t p.val).spTries = 1 ∧ (prt t p.val).frag = max (cfg s (oMerge p.val) 3 1) a.val) ∧
  (∀ (s : State) (p : Fin 6), held s = false → (prt s p.val).merge = 1 → (prt s p.val).tries < 3 →
    exec (.verifyTimeout p) s =
    .next (interlock (modPrt s p.val fun x => { x with tries := x.tries + 1, smds := x.smds ++ [true] }))) ∧
  (∀ (s : State) (p : Fin 6), held s = false → (prt s p.val).merge = 1 → 3 ≤ (prt s p.val).tries →
    exec (.verifyTimeout p) s =
    .next (interlock (count (modPrt s p.val fun x => { x with merge := 4 }) (cPort p.val 0) 15))) ∧
  (∀ (s : State) (p : Fin 6) (f : Bytes), held s = false → on s (6 + p.val) = true → (prt s p.val).up = true →
    isKin f 0x30 = true → portSilent s p.val = false → ∃ t, exec (.spOfferReceive p f) s = .next t ∧
    (prt t p.val).spRx = (cfg s (oMerge p.val) 4 1 == 1) ∧ ∃ g, (prt t p.val).eg = (prt s p.val).eg ++ [g] ∧
    g.express = true ∧ g.tc = agreeTc s ∧ g.data = spFrame s p.val 0x31 (be f 16 2)
      (if cfg s (oMerge p.val) 4 1 == 1 then 3 else 0) (cfg s (oMerge p.val) 3 1)) ∧
  (∀ (s : State) (p : Fin 6) (f : Bytes), held s = false → on s (6 + p.val) = true → (prt s p.val).up = true →
    isKin f 0x31 = true → (prt s p.val).sp = 1 → be f 16 2 = (prt s p.val).nonce.toNat → by_ f 18 = 3 →
    (prt s p.val).susp = [] → (prt s p.val).line = none → ∃ t, exec (.spAnswerReceive p f) s = .next t ∧
    (prt t p.val).sp = 2 ∧ (prt t p.val).merge = 3 ∧ (prt t p.val).spWait = none ∧
    (prt t p.val).frag = max (prt s p.val).frag (by_ f 19 % 4)) ∧
  (∀ (s : State) (p : Fin 6) (f : Bytes), held s = false → on s (6 + p.val) = true → (prt s p.val).up = true →
    isKin f 0x31 = true → (prt s p.val).sp = 1 → be f 16 2 = (prt s p.val).nonce.toNat → by_ f 18 = 0 → ∃ t,
    exec (.spAnswerReceive p f) s = .next t ∧ (srcOf t (80 + 8 * p.val + 5)).sticky = true) ∧
  (∀ (s : State) (p : Fin 6), held s = false → (prt s p.val).sp = 1 → cfg s (oMerge p.val) 5 1 ≤ (prt s p.val).spTries →
    exec (.spOfferRepeat p) s =
    .next (interlock (fault (modPrt s p.val fun x => { x with sp := 4 }) (80 + 8 * p.val + 5)))) ∧
  (∀ (s : State) (p : Fin 6), held s = false → (prt s p.val).sp = 1 → (prt s p.val).spTries < cfg s (oMerge p.val) 5 1 →
    exec (.spOfferRepeat p) s =
    .next (interlock (sendOffer (modPrt s p.val fun x => { x with spTries := x.spTries + 1 }) p.val)))

/-- FRAME_RECEIVE, FRAGMENT_RECEIVE and DECIDING_PASS_COMPLETE (Tables 8-1 and 5-4, R282, R316, R318, R325): a frame
that fails the MAC checks is counted and goes no further; one of this device's own that came back is dropped and
counted; an accepted frame is classified in the active view and concluded on its verdict, and goes to the Gaffer with
its ingress stamp where its verdict says so; a fragment waits for the rest of its frame, and its last one ends the
frame; a pass that completes early keeps its verdict, and the head of a protected frame enters the loop. Whatever its
verdict, a frame is concluded on it: dropped, copied to the other port of its plane where that is up and its cells are
free (R328, R333), given to the servo, put into its receive queue with its write-back or counted where the queue has no
buffer (R78), or, where its handle is a listener's, into the elimination engine (R346). FRAME_LEN of
an early pass is a free value of at least the bytes received (log entry 149). -/
def Obligations.Reception : Prop :=
  (∀ (s u : State) (p : Fin 6) (f : Bytes) (ce : Bool) (k : Nat) (st : Stamp), held s = false →
    receives s p.val = true → (prt s p.val).early = [] → openHeads s p.val = [] → rxStamp s p.val f.length = (st, u) →
    macFail s p.val f ce = some k → exec (.frameReceive p f ce) s = .next (interlock
      (count (countN (count u (cPort p.val 0) 0) (cPort p.val 0) 1 f.length) (cPort p.val 0) k))) ∧
  (∀ (s u : State) (p : Fin 6) (f : Bytes) (st : Stamp), held s = false → receives s p.val = true →
    (prt s p.val).early = [] → openHeads s p.val = [] → rxStamp s p.val f.length = (st, u) →
    macFail s p.val f false = none → s.fs.f4 = false → be (f.take (f.length - 4)) 12 2 ≠ 0x8808 →
    ownFrame s p.val (sub (f.take (f.length - 4)) 6 6) = true → exec (.frameReceive p f false) s = .next (interlock
      (count (countN (count u (cPort p.val 0) 0) (cPort p.val 0) 1 f.length) (cPort p.val 0) 9))) ∧
  (∀ (s u w : State) (p : Fin 6) (f : Bytes) (v : Verdict) (st : Stamp), held s = false → receives s p.val = true →
    (prt s p.val).early = [] → openHeads s p.val = [] → macFail s p.val f false = none → s.fs.f4 = false →
    be (f.take (f.length - 4)) 12 2 ≠ 0x8808 → ownFrame s p.val (sub (f.take (f.length - 4)) 6 6) = false →
    on s 62 = true → secRx s p.val = false → rxStamp s p.val f.length = (st, u) →
    classify (countN (count u (cPort p.val 0) 0) (cPort p.val 0) 1 f.length) p.val s.rx.active (f.take (f.length - 4))
      none none = (v, w) → v.drop = false → v.meter = none → v.handle = none → v.fwd = false → v.servo = false →
    v.device = 0 → v.dest = some none → exec (.frameReceive p f false) s = .next (interlock
      ((emit (count w (cPort p.val 2) 28) (.gaffer p.val (f.take (f.length - 4)) [st])).modRx fun x =>
        { x with gaffer := x.gaffer + 1 }))) ∧
  (∀ (s u : State) (p : Fin 6) (smd cnt : BitVec 8) (d : Bytes) (c : Nat) (st : Stamp), held s = false →
    receives s p.val = true → cfg s (oMerge p.val) 0 1 = 1 → (prt s p.val).ctxs = [] → codeOf smdS smd.toNat = some c →
    64 * (1 + cfg s (oMerge p.val) 3 1) ≤ d.length + 4 → rxStamp s p.val (d.length + 4) = (st, u) →
    exec (.fragmentReceive p smd cnt d true true) s =
    .next (interlock (fragCopy (modPrt u p.val fun x => { x with ctxs := [⟨c, 0, d, st⟩] }) p.val d))) ∧
  (∀ (s : State) (p : Fin 6) (smd cnt : BitVec 8) (d b : Bytes) (c k : Nat) (st : Stamp), held s = false →
    receives s p.val = true → cfg s (oMerge p.val) 0 1 = 1 → (prt s p.val).ctxs = [⟨c, k, b, st⟩] →
    codeOf smdS smd.toNat = none → codeOf smdC smd.toNat = some c → codeOf fragCode cnt.toNat = some k →
    exec (.fragmentReceive p smd cnt d false true) s = .next (interlock
      (receive (modPrt s p.val fun x => { x with ctxs := [] }) devTake p.val (withFcs (b ++ d)) false st))) ∧
  (∀ (s u w : State) (p : Fin 6) (f : Bytes) (e : Bool) (v : Verdict) (st : Stamp) (n : Nat), held s = false →
    receives s p.val = true → on s 62 = true → s.fs.f4 = false → be f 12 2 ≠ 0x8808 →
    ownFrame s p.val (sub f 6 6) = false → secRx s p.val = false → rxStamp s p.val f.length = (st, u) →
    n = (lenEarly u f.length).1 → classify (lenEarly u f.length).2 p.val s.rx.active f none (some n) = (v, w) →
    v.fwd = false → f.length ≤ n ∧ exec (.decidingPassComplete p f e) s = .next (interlock (keepEarly w p.val
      { pfx := f, sec := false, verdict := v, copy := none, set := passSet s p.val, stamp := st, epoch := s.rx.epoch }))) ∧
  (∀ (s u : State) (p : Fin 6) (f plain : Bytes) (e : Bool) (st : Stamp), held s = false → receives s p.val = true →
    on s 62 = true → s.fs.f4 = false → be f 12 2 = 0x88E5 → ownFrame s p.val (sub f 6 6) = false →
    secRx s p.val = true → rxStamp s p.val f.length = (st, u) → secPeek s p.val f (passSet s p.val) = some plain →
    loopOpen s = true →
    ∃ t, exec (.decidingPassComplete p f e) s = .next t ∧ t.rx.loop = s.rx.loop ++
      [{ port := p.val, len := 0, plain := plain, whole := false, pfx := f, smdE := e, set := passSet s p.val,
         tci := (secTagOf f).tci, sci := (secTagOf f).sci, epoch := s.rx.epoch, view := s.rx.active, stamp := st,
         at_ := s.clock }]) ∧
  (∀ (s u w : State) (p : Fin 6) (f : Bytes) (v : Verdict) (st : Stamp), held s = false → receives s p.val = true →
    (prt s p.val).early = [] → openHeads s p.val = [] → macFail s p.val f false = none → s.fs.f4 = false →
    be (f.take (f.length - 4)) 12 2 ≠ 0x8808 → ownFrame s p.val (sub (f.take (f.length - 4)) 6 6) = false →
    on s 62 = true → secRx s p.val = false → rxStamp s p.val f.length = (st, u) →
    classify (countN (count u (cPort p.val 0) 0) (cPort p.val 0) 1 f.length) p.val s.rx.active (f.take (f.length - 4))
      none none = (v, w) → exec (.frameReceive p f false) s = .next (interlock
      (conclude w devTake p.val v (f.take (f.length - 4)) f.length st s.rx.epoch none))) ∧
  (∀ (s : State) (dev : DevFn) (p : Nat) (v : Verdict) (b : Bytes) (n : Nat) (st : Stamp) (ep : BitVec 16), v.drop = true →
    conclude s dev p v b n st ep none = s) ∧
  (∀ (s u : State) (dev : DevFn) (p : Nat) (v : Verdict) (b : Bytes) (n : Nat) (st : Stamp) (ep : BitVec 16),
    v.drop = false → v.meter = none → v.handle = none → v.device = 0 → u = count s (cPort p 2) 28 →
    (v.fwd = false → v.servo = false → v.dest = none → conclude s dev p v b n st ep none = u) ∧
    (v.fwd = true → v.servo = false → v.dest = none → conclude s dev p v b n st ep none = (forwardCopy u p v b true st).2) ∧
    (v.fwd = false → v.servo = true → v.dest = none → conclude s dev p v b n st ep none = servoCopy u p b st) ∧
    (∀ q, v.fwd = false → v.servo = false → v.dest = some (some q) → ∃ m : RxMeta, m.inPort = p ∧ m.handle = none ∧
      m.colour = 0 ∧ m.tc = v.tc ∧ m.ecc = false ∧ m.stamps = [st] ∧ m.epoch = ep.toNat ∧ m.tag = v.tag.toNat ∧
      conclude s dev p v b n st ep none = deliverRx u q m b)) ∧
  (∀ (s : State) (p : Nat) (v : Verdict) (b : Bytes) (st : Stamp), f3Holds s (egressOf p / 2) = false → s.fs.f4 = false →
    fwdDown s (egressOf p) = false →
    (prt s (egressOf p)).fwdCells + fwdCellsOf b.length ≤ fwdLimit s (egressOf p) → fwdCellsOf b.length ≤ cellsFree s →
    ∃ g, (prt (forwardCopy s p v b true st).2 (egressOf p)).eg = (prt s (egressOf p)).eg ++ [g] ∧ g.data = b ∧
      g.tc = v.tc ∧ g.src = .fwd p ∧ g.whole = true ∧ (prt (forwardCopy s p v b true st).2 (egressOf p)).fwdCells =
      (prt s (egressOf p)).fwdCells + fwdCellsOf b.length) ∧
  (∀ (s : State) (p : Nat) (v : Verdict) (b : Bytes) (st : Stamp), f3Holds s (egressOf p / 2) = false → s.fs.f4 = false →
    fwdDown s (egressOf p) = true → forwardCopy s p v b true st = (none, count s (cPort (egressOf p) 1) 6)) ∧
  (∀ (s : State) (q : Nat) (m : RxMeta) (f : Bytes) (b : RxBuf) (l : List RxBuf), q < 64 → s.fs.f4 = false →
    s.sk.config = 0 → s.hl.state ≠ lsQuiescing → s.hl.state ≠ lsDetached → s.hl.ctrl.getLsbD 0 = true →
    (que s (64 + q)).enable = true → (que s (64 + q)).closing = false → (que s (64 + q)).stamped = false →
    (que s (64 + q)).bufs = b :: l → (∀ x ∈ l, x.bad = false) → m.ecc = false → m.inPort < 9 → f.length ≤ b.size →
    f.length < 65536 → ∃ w, (que (deliverRx s q m f) (64 + q)).wbs = (que s (64 + q)).wbs ++ [w] ∧
    (que (deliverRx s q m f) (64 + q)).bufs = l ∧ w.idx = b.idx ∧ w.addr = b.addr ∧ w.data = f ∧
    le w.wb 8 2 = f.length ∧ by_ w.wb 7 = m.inPort ∧ by_ w.wb 15 = 0 ∧ by_ w.wb 31 = 0x80) ∧
  (∀ (s : State) (q : Nat) (m : RxMeta) (f : Bytes), s.fs.f4 = false → s.sk.config = 0 → s.hl.state ≠ lsQuiescing →
    s.hl.state ≠ lsDetached → (que s (64 + q)).bufs = [] → deliverRx s q m f = count s (cRxq q) 2) ∧
  (∀ (s : State) (p h : Nat) (v : Verdict) (dest : Option Nat) (c : Nat) (b : Bytes) (st : Stamp) (ep : BitVec 16),
    v.handle = some h → cfg s (oListen h) 0 1 = 1 → on s 69 = true → ∃ (r : Replica) (m : RxMeta),
    r.port = p ∧ r.digest = digestOf s h v b ∧ r.frame = b ∧ r.dest = dest ∧ r.seq = v.rtag.getD 0 ∧ r.stamp = st ∧
    localCopy s p v dest c b st ep = eliminate s h r v.rtag.isSome (fun s => handOver s dest m b))

/-- EPOCH_SWAP and EPOCH_STATUS (R321–R323): a complete shadow view becomes the active one and the old one drains;
while a view drains a swap is ST_EPOCH; without a complete shadow view, ST_STATE. VOTE_WINDOW_EXPIRY, LATE_HOLD_EXPIRY
and RECOVERY_RESET (R347, R352, R356, Table 9-4): at the window's end a slot two planes agree on is decided LATE and
gone; one they do not is held where the policy holds, else decided short; a held one is decided short at the end of
its hold; a recovery reset takes any number next. The
elimination engine (R346–R352): a replica out of its history's range is dropped, a new one of a stream that takes the
first is delivered, and where two planes vote, the second plane's replica decides if it agrees and is delivered once. -/
def Obligations.EpochsAndVotes : Prop :=
  (∀ (s : State) (v : Via) (r : Request), Admitted s v 0x38 r → checkOnly r = false → r.length = 0 → on s 62 = true →
    s.rx.draining = none → shadowComplete s = true → exec (.epochSwap v) s =
    .next (okWith (drainCheck (swapEpoch (onTaken s r))) r (toLe 2 s.rx.shadow.toNat ++ toLe 2 s.rx.epoch.toNat))) ∧
  (∀ (s : State) (v : Via) (r : Request), Admitted s v 0x38 r → checkOnly r = false → r.length = 0 →
    s.rx.draining.isSome = true → exec (.epochSwap v) s = .next (noWith s r stEpoch (epochPayload s))) ∧
  (∀ (s : State) (v : Via) (r : Request), Admitted s v 0x38 r → checkOnly r = false → r.length = 0 →
    s.rx.draining = none → on s 62 = false ∨ shadowComplete s = false → exec (.epochSwap v) s = .next (noWith s r stState [])) ∧
  (∀ s : State, (swapEpoch s).rx.active = 1 - s.rx.active ∧ (swapEpoch s).rx.epoch = s.rx.shadow ∧
    (swapEpoch s).rx.draining = some s.rx.epoch) ∧
  (∀ (s : State) (v : Via) (r : Request), Admitted s v 0x39 r → checkOnly r = false → r.length = 0 →
    exec (.epochStatus v) s = .next (okWith (onTaken s r) r (toLe 2 s.rx.epoch.toNat ++ toLe 2 (shadowField s) ++
      toLe 2 (drainField s) ++ [0, 0] ++ toLe 4 (drainCount s)))) ∧
  (∀ (s : State) (h : Fin 16384) (seq : BitVec 16) (x : Slot) (d : BitVec 64), held s = false →
    (slotsOf s h.val seq).find? (!·.inHold) = some x → x.phase = 0 → winner x.votes = some d → exec (.voteWindowExpiry h seq) s =
    .next (interlock (decideSlot s x 2 (some d) true true))) ∧
  (∀ (s : State) (h : Fin 16384) (seq : BitVec 16) (x : Slot), held s = false → (slotsOf s h.val seq).find? (!·.inHold) = some x →
    x.phase = 0 → winner x.votes = none → unvotedPolicy s x.handle = 2 → exec (.voteWindowExpiry h seq) s =
    .next (interlock (setSlot s { x with phase := 1, inHold := true }))) ∧
  (∀ (s : State) (h : Fin 16384) (seq : BitVec 16) (x : Slot), held s = false → (slotsOf s h.val seq).find? (!·.inHold) = some x →
    x.phase = 0 → winner x.votes = none → unvotedPolicy s x.handle ≠ 2 → exec (.voteWindowExpiry h seq) s =
    .next (interlock (decideShort s x (unvotedPolicy s x.handle != 0)))) ∧
  (∀ (s : State) (h : Fin 16384) (seq : BitVec 16) (x : Slot), held s = false → (slotsOf s h.val seq).find? (!·.inHold) = some x →
    x.phase = 2 → exec (.voteWindowExpiry h seq) s = .next (interlock (freeSlot s x))) ∧
  (∀ (s : State) (h : Fin 16384) (seq : BitVec 16) (x : Slot), held s = false → (slotsOf s h.val seq).find? (·.inHold) = some x →
    x.phase = 1 → exec (.lateHoldExpiry h seq) s = .next (interlock (decideShort s x true))) ∧
  (∀ (s : State) (h : Fin 16384) (seq : BitVec 16) (x : Slot), held s = false → (slotsOf s h.val seq).find? (·.inHold) = some x →
    x.phase = 2 → exec (.lateHoldExpiry h seq) s = .next (interlock (freeSlot s x))) ∧
  (∀ (s : State) (x : Slot) (out : Nat) (w : Option (BitVec 64)) (give : Bool),
    (∀ y ∈ (decideSlot s x out w give true).str.slots, y.id ≠ x.id) ∧
    (recovOf (decideSlot s x out w give true) x.handle).outcome = out) ∧
  (∀ (s : State) (h : Fin 16384), held s = false → on s 49 = true → on s 69 = true → cfg s (oListen h.val) 0 1 = 1 →
    (recovOf s h.val).takeAny = false → ∃ t, exec (.recoveryReset h) s = .next t ∧
    recovOf t h.val = { (recovOf s h.val) with takeAny := true }) ∧
  (∀ (s s' : State) (h : Nat) (r : Replica) (f : State → State),
    (recoverSeq (count s (cStream h) (r.port / 2)) h r.seq = (.rogue, s') → eliminate s h r true f = s') ∧
    (recoverSeq (count s (cStream h) (r.port / 2)) h r.seq = (.new, s') → cfg s' (oListen h) 1 1 = 0 →
      eliminate s h r true f = deliverReplica (count (modRecov s' h fun y => { y with outcome := 1 }) (cStream h) 3) h r
        (planesOf [r.port]) 1 [])) ∧
  (∀ (s : State) (x : Slot) (a r : Replica), cfg s (oListen x.handle) 1 1 = 1 → x.phase = 0 → x.votes = [a] →
    a.port / 2 ≠ r.port / 2 → a.port < 6 → r.port < 6 →
    (a.digest = r.digest → joinSlot s x r =
      decideSlot (setSlot s { x with votes := [a, r] }) { x with votes := [a, r] } 2 (some r.digest) true false) ∧
    (a.digest ≠ r.digest → joinSlot s x r = setSlot s { x with votes := [a, r] }))

/-! ### Time-triggered segments -/

/-- SEGMENT_CYCLE_START, OWN_SLOT_START and COLLISION (R16, R367, R374, R377, R381, R400, R402): the cycle's number,
start and mode are renewed, at whole multiples of its length only; a head that has listened its length starts to send;
an own sync leaves through the Gauntlet's open window and is a block where the window is closed; an own HEAD entry
takes the snapshot of the OUT buffers whose sequence word is even, and sends their records, or the safe ones in their
place, as far as they fit (R395, R396, R399); an own CAL entry asks the next integrated node (R388); what a segment
sends is read back from its line as the same frame (R368; the line code itself is PRESUMED, log entry 213); a collision aborts what is sent and is counted;
Ts_TXEN is high while the segment requests it and the Gauntlet's window is open; a window is open within its bounds of
the cycle by the Gauntlet's own time, and never while the Gauntlet does not run, has diverged or has lost its marker,
nor before it has loaded windows. -/
def Obligations.SegmentCycles : Prop :=
  (∀ (s : State) (i : Fin 16), held s = false → segOn s i.val = true → (sgm s i.val).calReq = none →
    (sgm s i.val).runs = false → (sgm s i.val).head = 0 → (sgm s i.val).listened < (sgm s i.val).listen →
    segCycleNs s i.val ≠ 0 → nowNs s ≤ segCycleAt s i.val + 2 → ∃ t,
    exec (.segmentCycleStart i) s = .next t ∧ (sgm t i.val).cycle = 0 ∧ (sgm t i.val).runs = true ∧
    (sgm t i.val).start = segCycleAt s i.val ∧ (sgm t i.val).mode = s.tx.mode ∧
    (sgm t i.val).listened = (sgm s i.val).listened + 1 ∧ (sgm t i.val).head = 0) ∧
  (∀ (s : State) (i : Fin 16), held s = false → segOn s i.val = true → (sgm s i.val).calReq = none →
    (sgm s i.val).runs = true → (sgm s i.val).head = 0 → (sgm s i.val).heard = true →
    (sgm s i.val).listen ≤ (sgm s i.val).listened → segCycleNs s i.val ≠ 0 → nowNs s ≤ segCycleAt s i.val + 2 →
    (sgm s i.val).start ≠ segCycleAt s i.val → ∃ t, exec (.segmentCycleStart i) s = .next t ∧
    (sgm t i.val).cycle = (sgm s i.val).cycle + 1 ∧ (sgm t i.val).head = 1 ∧ (sgm t i.val).sends = true) ∧
  (∀ (s : State) (i : Fin 16) (e : Fin 64) (x : SlotEntry), held s = false → segOn s i.val = true →
    (sgm s i.val).runs = true → (sgm s i.val).stopped = false → (segTable s i.val)[e.val]? = some x →
    x.owner = segOwn s i.val → x.kind = 1 → (sgm s i.val).sends = true →
    ((sgm s i.val).head = 1 ∨ (sgm s i.val).head = 2) → fencedSeg s i.val = false → f3Holds s (16 + i.val) = false →
    (sgm s i.val).ran.contains e.val = false → (sgm s i.val).calReq = none → gauntOpen s i.val (riseOf s i.val x) = true → ∃ t,
    exec (.ownSlotStart i e) s = .next t ∧ (sgm t i.val).sending = some e.val ∧ t.outs = s.outs ++
      [.ktb i.val (ktbLine (ktbFrame s i.val 1 0xFF e.val (4 * b1 (sgm s i.val).restart) (syncBody s i.val x)))]) ∧
  (∀ (s : State) (i : Fin 16) (e : Fin 64) (x : SlotEntry), held s = false → segOn s i.val = true →
    (sgm s i.val).runs = true → (sgm s i.val).stopped = false → (segTable s i.val)[e.val]? = some x →
    x.owner = segOwn s i.val → x.kind = 1 → (sgm s i.val).sends = true →
    ((sgm s i.val).head = 1 ∨ (sgm s i.val).head = 2) → fencedSeg s i.val = false → f3Holds s (16 + i.val) = false →
    (sgm s i.val).ran.contains e.val = false → (sgm s i.val).calReq = none → gauntOpen s i.val (riseOf s i.val x) = false →
    exec (.ownSlotStart i e) s = .next (interlock (gauntBlock
      (modSgm s i.val fun g => { g with ran := e.val :: g.ran, sending := none }) i.val))) ∧
  (∀ (s : State) (i : Fin 16) (e : Nat), held s = false → (sgm s i.val).sending = some e → (sgm s i.val).head ≠ 1 →
    (sgm s i.val).head ≠ 2 → ∃ t, exec (.collision i) s = .next t ∧ (sgm t i.val).sending = none ∧
    (sgm t i.val).collisions = min (2 ^ 32 - 1) ((sgm s i.val).collisions + 1) ∧ t.outs = s.outs ++ [.ktbAbort i.val]) ∧
  (∀ (s : State) (i : Fin 16) (e : Nat) (x : SlotEntry), held s = false → (sgm s i.val).sending = some e →
    (sgm s i.val).head = 1 → (segTable s i.val)[e]? = some x → x.kind = 1 → (sgm s i.val).coldCol < 2 → ∃ t,
    exec (.collision i) s = .next t ∧ (sgm t i.val).sending = none ∧ (sgm t i.val).head = 0 ∧
    (sgm t i.val).listen = relisten s i.val ∧ (sgm t i.val).coldCol = (sgm s i.val).coldCol + 1 ∧
    (sgm t i.val).sends = false) ∧
  (∀ (s : State) (i : Fin 16), (segDrive s i.val).pads.txen.getLsbD i.val = ((sgm s i.val).sending.isSome &&
    segSends s i.val && decide ((sgm s i.val).rise ≤ nowNs s) && decide (nowNs s < (sgm s i.val).fall) &&
    gauntOpen s i.val (nowNs s))) ∧
  (∀ (s : State) (i t : Nat), (on s 71 = false ∨ s.pw.guardRuns = false ∨ s.sg.diverged = true ∨
    s.sg.markerLost = true ∨ f3Holds s (16 + i) = true ∨ s.sg.own = none ∨ (∀ x, windowsAt s i x = none))
    → gauntOpen s i t = false) ∧
  (∀ (s : State) (i t : Nat) (w : Windows) (v : Nat × Nat) (own : Int), on s 71 = true → s.pw.guardRuns = true →
    s.sg.diverged = false → s.sg.markerLost = false → f3Holds s (16 + i) = false → gauntTime s = some own →
    windowsAt s i ((own + ((t * 65536 : Nat) : Int) - ((now80 s : Nat) : Int)) / 65536) = some w → w.cycle ≠ 0 →
    v ∈ w.wins →
    v.1 ≤ (((own + ((t * 65536 : Nat) : Int) - ((now80 s : Nat) : Int)) / 65536) % w.cycle).toNat →
    (((own + ((t * 65536 : Nat) : Int) - ((now80 s : Nat) : Int)) / 65536) % w.cycle).toNat < v.2 →
    gauntOpen s i t = true) ∧
  (∀ (s : State) (i : Fin 16), held s = false → segCycleAt s i.val + 2 < nowNs s →
    exec (.segmentCycleStart i) s = .next (interlock s)) ∧
  (∀ (s : State) (i : Nat), segCycleNs s i ≠ 0 → segCycleAt s i % segCycleNs s i = 0 ∧ segCycleAt s i ≤ nowNs s ∧
    nowNs s < segCycleAt s i + segCycleNs s i) ∧
  (∀ (s z : State) (i : Fin 16) (e : Fin 64) (x : SlotEntry), held s = false → segOn s i.val = true →
    (sgm s i.val).runs = true → (sgm s i.val).stopped = false → (segTable s i.val)[e.val]? = some x →
    x.owner = segOwn s i.val → x.kind = 2 → (sgm s i.val).sends = true →
    ((sgm s i.val).head = 1 ∨ (sgm s i.val).head = 2) → fencedSeg s i.val = false → f3Holds s (16 + i.val) = false →
    (sgm s i.val).ran.contains e.val = false → (sgm s i.val).calReq = none → gauntOpen s i.val (riseOf s i.val x) = true → 
    z = (if (sgm s i.val).held = false ∧ (sgm s i.val).safe = false then snapshot s i.val else s) → ∃ t,
    exec (.ownSlotStart i e) s = .next t ∧ (sgm t i.val).sending = some e.val ∧ t.outs = s.outs ++
      [.ktb i.val (ktbLine (ktbFrame s i.val 2 0xFF e.val (headFlags s i.val) (headBody z i.val x).1))]) ∧
  (∀ (s : State) (i : Fin 16) (e : Fin 64) (x : SlotEntry) (n : Nat), held s = false → segOn s i.val = true →
    (sgm s i.val).runs = true → (sgm s i.val).stopped = false → (segTable s i.val)[e.val]? = some x →
    x.owner = segOwn s i.val → x.kind = 4 → (sgm s i.val).sends = true →
    ((sgm s i.val).head = 1 ∨ (sgm s i.val).head = 2) → fencedSeg s i.val = false → f3Holds s (16 + i.val) = false →
    (sgm s i.val).ran.contains e.val = false → (sgm s i.val).calReq = none → gauntOpen s i.val (riseOf s i.val x) = true → 
    calNext (sgm s i.val) = some n → ∃ t, exec (.ownSlotStart i e) s = .next t ∧ (sgm t i.val).sending = some e.val ∧
    (sgm t i.val).calLast = some n ∧
    (sgm t i.val).calReq = some (n, ((markNs (segBrim s i.val) x * 1000 : Nat) : Int)) ∧ t.outs = s.outs ++
      [.ktb i.val (ktbLine (ktbFrame s i.val 4 n e.val 0 (toBe 4 (match tget (fun _ => none) s.cal.nodes (32 * i.val + n) with
        | some (rt, _) => rt / 2
        | none => maxAge))))]) ∧
  (∀ (s : State) (i n : Nat), n < 32 → (snapshot s i).win1 = s.win1 ∧
    (nodeFlag (sgm s i) n 0 = true → nodeFlag (sgm s i) n 2 = true →
      by_ (mread win1Reset s.win1 (outBuf i n) 128) 0 % 2 = 0 → by_ (mread win1Reset s.win1 (outBuf i n) 128) 4 ≤ 112 →
      (node (sgm (snapshot s i) i) n).snap = some (sub (mread win1Reset s.win1 (outBuf i n) 128) 16
        (by_ (mread win1Reset s.win1 (outBuf i n) 128) 4))) ∧
    (by_ (mread win1Reset s.win1 (outBuf i n) 128) 0 % 2 = 1 ∨ 112 < by_ (mread win1Reset s.win1 (outBuf i n) 128) 4 →
      (node (sgm (snapshot s i) i) n).snap = (node (sgm s i) n).snap)) ∧
  (∀ (g : Seg) (n : Nat), nodeFlag g n 0 = true → nodeFlag g n 2 = true →
    (g.safe = false → recordOf g n = (node g n).snap) ∧
    (g.safe = true → (safeByte g n 0).toNat = 0 → recordOf g n = none) ∧
    (g.safe = true → ∀ d, recordOf g n = some d → d.length = (safeByte g n 0).toNat)) ∧
  (∀ (room used : Nat) (l : List (Nat × Bytes)),
    used + (packRecords room used l).1.length ≤ max used (min 255 room) ∧
    (packRecords room used l).2.1 + (packRecords room used l).2.2 = l.length) ∧
  (∀ f : Bytes, ktbRead (ktbLine f) = some f)

/-- KTB_FRAME_RECEIVE and NODE_SLOT_END (R372, R384, R385, Table 10-12): a bad frame is counted and one to be ignored
too; the first frame in a NODE entry waits for its end, a further one is a wrong sender; at the end the entry is
judged once, a wrong sender before an overrun and that before a mark out of its window, and the node's integration and
its IN buffer follow: the data with status 0, or a status alone, behind an even sequence word. STATUS_BLOCK_WRITE, GAUNTLET_MARKER, MARKER_LOST and
GAUNTLET_BLOCK (R397, R402, R403, R405, R406): the status block says the cycle, mode, head, nodes and start behind its
sequence word; the markers' divergence is that of the Gauntlet's own time, which its crystal moves off the nominal rate
by what the operand says (the model's choice, log entry 154), it is held, and the own time corrected by at most
1,000 ns, beyond 1,000 ns saturated with FS139, beyond 5,000 ns diverged with FS140; a lost marker closes the windows with FS141; a request at a closed window is counted. -/
def Obligations.SegmentFrames : Prop :=
  (∀ (s : State) (i : Fin 16) (l : List Bool) (m : Int) (b o : Bool), held s = false → segOn s i.val = true →
    (ktbHeard b l).all (fun f => !fcsOk f || decide (f.length < 64) || decide (300 < f.length)) = true →
    exec (.ktbFrameReceive i l m b o) s = .next (interlock (count s (cSeg i.val) 8))) ∧
  (∀ (s : State) (i : Fin 16) (l : List Bool) (f : Bytes) (m : Int) (o : Bool) (k : Nat) (x : SlotEntry), held s = false →
    ktbRead l = some f → segOn s i.val = true → (sgm s i.val).runs = true → fcsOk f = true → 64 ≤ f.length → f.length ≤ 300 →
    ktbIgnored s i.val f = false → by_ f 15 = 3 → entryOf s i.val m = some (k, x) → x.kind = 3 →
    (sgm s i.val).got = none → exec (.ktbFrameReceive i l m false o) s =
    .next (interlock (modSgm s i.val fun g => { g with got := some (m, o, f) }))) ∧
  (∀ (s : State) (i : Fin 16) (l : List Bool) (f : Bytes) (m : Int) (o : Bool) (k : Nat) (x : SlotEntry), held s = false →
    ktbRead l = some f → segOn s i.val = true → (sgm s i.val).runs = true → fcsOk f = true → 64 ≤ f.length → f.length ≤ 300 →
    ktbIgnored s i.val f = false → by_ f 15 = 3 → entryOf s i.val m = some (k, x) → x.kind = 3 →
    (sgm s i.val).got.isSome = true → exec (.ktbFrameReceive i l m false o) s =
    .next (interlock (count s (cSeg i.val) 7))) ∧
  (∀ (s : State) (i : Fin 16) (e : Fin 64) (x : SlotEntry), held s = false → segOn s i.val = true →
    (sgm s i.val).runs = true → (sgm s i.val).stopped = false → (segTable s i.val)[e.val]? = some x → x.kind = 3 →
    (sgm s i.val).ran.contains e.val = false → (sgm s i.val).got = none → nodeFlag (sgm s i.val) x.owner 0 = true →
    nodeFlag (sgm s i.val) x.owner 3 = false → (node (sgm s i.val) x.owner).integrated = false → ∃ t,
    exec (.nodeSlotEnd i e) s = .next t ∧ (sgm t i.val).ran = e.val :: (sgm s i.val).ran ∧ (sgm t i.val).got = none ∧
    (node (sgm t i.val) x.owner).misses = (node (sgm s i.val) x.owner).misses + 1 ∧ t.win1 = s.win1 ∧
    (on s (30 + i.val) = true →
      counter t (cSeg i.val) 4 = BitVec.ofNat 64 (min (2 ^ 64 - 1) ((counter s (cSeg i.val) 4).toNat + 1)))) ∧
  (∀ (s : State) (i : Fin 16) (e : Fin 64) (x : SlotEntry) (m : Int) (f : Bytes), held s = false →
    segOn s i.val = true → (sgm s i.val).runs = true → (sgm s i.val).stopped = false →
    (segTable s i.val)[e.val]? = some x → x.kind = 3 → (sgm s i.val).ran.contains e.val = false →
    (sgm s i.val).got = some (m, false, f) → (entryOf s i.val m).map (·.1) = some e.val → by_ f 15 = 3 →
    by_ f 16 = x.owner → by_ f 18 = e.val → (m - ((markNs (segBrim s i.val) x * 1000 +
      tget (fun _ => 0) (sgm s i.val).delays x.owner : Nat) : Int)).natAbs ≤ segAccept s i.val * 1000 →
    nodeFlag (sgm s i.val) x.owner 0 = true → ∃ t, exec (.nodeSlotEnd i e) s = .next t ∧
    (node (sgm t i.val) x.owner).integrated = true ∧ (node (sgm t i.val) x.owner).misses = 0 ∧
    (node (sgm t i.val) x.owner).modes = some (BitVec.ofNat 8 (by_ f 26), (sgm s i.val).cycle)) ∧
  (∀ (s : State) (i : Fin 16), held s = false → segOn s i.val = true → (sgm s i.val).runs = true →
    (segTable s i.val).isEmpty = false → cfg s (oSeg i.val) 9 1 ≠ 1 → exec (.statusBlockWrite i) s = .next (interlock
    (seqWrite s (0x4000 * i.val + 0x2000) [(4, toLe 2 (sgm s i.val).cycle.toNat ++ toLe 1 (sgm s i.val).mode ++
      toLe 1 (sgm s i.val).head ++ toLe 4 (maskOf 32 fun n => (node (sgm s i.val) n).integrated) ++
      toLe 6 ((sgm s i.val).start * 65536) ++ toLe 1 (b1 (sgm s i.val).held + 2 * b1 (sgm s i.val).safe))]))) ∧
  (∀ (s : State) (x d : Int), held s = false → on s 71 = true → s.pw.guardRuns = true → timeOk s = true →
    gauntDelta s x = d → d.natAbs ≤ 1000 * 65536 → s.sg.goodSince = none →
    exec (.gauntletMarker x) s = .next (interlock (driveSegs (condOff
      ((gauntTurn (gauntCorrect s x)).modSg fun y =>
        { y with delta := d.tdiv 65536, deltaMax := max y.deltaMax (d.tdiv 65536).natAbs, markerLost := false,
                 goodSince := some s.clock }) 141)))) ∧
  (∀ (s : State) (x d : Int), gauntDelta s x = d → gauntTime (gauntCorrect s x) = some (((now80 s : Nat) : Int) +
    (if 1000 * 65536 < d then d - 1000 * 65536 else if d < -1000 * 65536 then d + 1000 * 65536 else 0))) ∧
  (∀ (s : State) (x d : Int), held s = false → on s 71 = true → s.pw.guardRuns = true → timeOk s = true →
    gauntDelta s x = d → 1000 * 65536 < d.natAbs → d.natAbs ≤ 5000 * 65536 → ∃ t, exec (.gauntletMarker x) s = .next t ∧
    t.sg.delta = d.tdiv 65536 ∧ t.sg.saturated = min (2 ^ 32 - 1) (s.sg.saturated + 1) ∧
    t.sg.diverged = s.sg.diverged ∧ t.sg.goodSince = none ∧ (srcOf t 139).sticky = true) ∧
  (∀ (s : State) (x d : Int), held s = false → on s 71 = true → s.pw.guardRuns = true → timeOk s = true →
    gauntDelta s x = d → 5000 * 65536 < d.natAbs → clsOf s 139 = 1 → ∃ t, exec (.gauntletMarker x) s = .next t ∧
    t.sg.diverged = true ∧ (srcOf t 139).sticky = true ∧ (srcOf t 140).sticky = true) ∧
  (∀ s : State, held s = false → on s 71 = true → s.pw.guardRuns = true → ∃ t,
    exec .markerLost s = .next t ∧ t.sg.markerLost = true ∧ t.sg.goodSince = none ∧ (srcOf t 141).cond = true) ∧
  (∀ (s : State) (i : Fin 16), held s = false → segOn s i.val = true → (sgm s i.val).runs = true →
    (sgm s i.val).blocked = true → exec (.gauntletBlock i) s = .next (interlock (segDrive (modSgm
      ((count s (cSeg i.val) 11).modSg fun x => { x with blocks := min (2 ^ 32 - 1) (x.blocks + 1) })
      i.val fun g => { g with sending := none }) i.val))) ∧
  (∀ (s : State) (i : Fin 16) (l : List Bool) (f : Bytes) (m : Int) (o : Bool), held s = false → segOn s i.val = true →
    ktbRead l = some f → fcsOk f = true → 64 ≤ f.length → f.length ≤ 300 → ktbIgnored s i.val f = true →
    exec (.ktbFrameReceive i l m false o) s = .next (interlock (count s (cSeg i.val) 9))) ∧
  (∀ (s : State) (i e : Nat) (x : SlotEntry) (m : Int) (o : Bool) (f : Bytes), (sgm s i).got = some (m, o, f) →
    (by_ f 15 ≠ 3 ∨ by_ f 16 ≠ x.owner ∨ by_ f 18 ≠ e → judgeEntry s i e x = 7) ∧
    (by_ f 15 = 3 → by_ f 16 = x.owner → by_ f 18 = e → (o = true → judgeEntry s i e x = 6) ∧
      (o = false → judgeEntry s i e x = if segAccept s i * 1000 < (m - ((markNs (segBrim s i) x * 1000 +
        tget (fun _ => 0) (sgm s i).delays x.owner : Nat) : Int)).natAbs then 5 else 3))) ∧
  (∀ (s : State) (i e : Nat) (x : SlotEntry), (sgm s i).got = none → judgeEntry s i e x = 4) ∧
  (∀ (s : State) (i : Fin 16) (e : Fin 64) (x : SlotEntry) (j : Nat), held s = false → segOn s i.val = true →
    (sgm s i.val).runs = true → (sgm s i.val).stopped = false → (segTable s i.val)[e.val]? = some x → x.kind = 3 →
    (sgm s i.val).ran.contains e.val = false →
    (∀ y, (sgm s i.val).got = some y → (entryOf s i.val y.1).map (·.1) = some e.val) → clsOf s (fsSeg i.val 1) ≤ 1 →
    judgeEntry s i.val e.val x = j → j ≠ 3 → nodeFlag (sgm s i.val) x.owner 0 = true →
    nodeFlag (sgm s i.val) x.owner 3 = true → (node (sgm s i.val) x.owner).integrated = false → ∃ t,
    exec (.nodeSlotEnd i e) s = .next t ∧ (node (sgm t i.val) x.owner).integrated = false ∧
    (node (sgm t i.val) x.owner).misses = (node (sgm s i.val) x.owner).misses + 1 ∧
    counter t (cSeg i.val) j = BitVec.ofNat 64 (min (2 ^ 64 - 1) ((counter s (cSeg i.val) j).toNat + 1)) ∧
    mread win1Reset t.win1 (inBuf i.val x.owner + 5) 3 = toLe 1 (if j = 4 then 1 else 3) ++
      toLe 2 (sgm s i.val).cycle.toNat ∧
    mread win1Reset t.win1 (inBuf i.val x.owner + 8) 120 = mread win1Reset s.win1 (inBuf i.val x.owner + 8) 120) ∧
  (∀ (s : State) (i : Fin 16) (e : Fin 64) (x : SlotEntry) (m : Int) (f : Bytes), held s = false →
    segOn s i.val = true → (sgm s i.val).runs = true → (sgm s i.val).stopped = false →
    (segTable s i.val)[e.val]? = some x → x.kind = 3 → (sgm s i.val).ran.contains e.val = false →
    (sgm s i.val).got = some (m, false, f) → (entryOf s i.val m).map (·.1) = some e.val →
    judgeEntry s i.val e.val x = 3 → nodeFlag (sgm s i.val) x.owner 3 = true → by_ f 23 ≤ 116 → ∃ t,
    exec (.nodeSlotEnd i e) s = .next t ∧ mread win1Reset t.win1 (inBuf i.val x.owner + 4) 4 =
      toLe 1 (by_ f 23 - 4) ++ [0] ++ toLe 2 (sgm s i.val).cycle.toNat ∧
    mread win1Reset t.win1 (inBuf i.val x.owner + 16) 112 = padTo 112 (sub f 30 (by_ f 23 - 4)) ∧
    by_ (mread win1Reset t.win1 (inBuf i.val x.owner) 4) 0 % 2 = 0) ∧
  (∀ (s : State) (x : Int), gauntTime s = none → gauntDelta s x = x * 65536) ∧
  (∀ (s : State) (x own : Int), gauntTime s = some own →
    gauntDelta s x = own + x * 65536 - ((now80 s : Nat) : Int))

/-! ### The cascade, the stack and the twin -/

/-- CASCADE_ACK_DUE, ACK_RECEIVE, CASCADE_RESEND and CASCADE_LINK_LOST, and the taking of a frame that they and every
cascade frame share (R411–R414): a reliable frame for this position is taken once, in its sequence, and one out of
sequence discarded; an acknowledgement frees the frames up to its number; a resend round is counted, and after sixteen
without progress the link is lost. DISCOVER_SEND, DISCOVER and DISCOVERY_COMPLETE (R414, R416–R418): each link whose
PCS runs carries what this device knows; a neighbour's DISCOVER is kept, and the second one brings the link up; after
the wait the lowest position that no two devices hold is the master. A change of what the stack's status shows sets
event 127 (R84, log entry 214). TIME_REQ_SEND, TIME_REQ and TIME_RESP
(R419–R421): a device that is not the master asks the master over its nearer link, with the stamp of the request
outstanding; a request is answered with the stamps of its receipt and of the answer; the answer to the outstanding
request gives a pair, another one nothing. -/
def Obligations.CascadeCommands : Prop :=
  (∀ (s : State) (k kind : Nat) (f : Bytes), kRuns s k = true → s.fs.f4 = false → 64 ≤ f.length → f.length ≤ 9728 →
    fcsOk f = true → by_ f 0 = 1 → by_ f 1 = kind → kReliable kind = true → bitN (by_ f 5) 1 = false →
    be f 6 2 = (klink s k).rxSeq.toNat → by_ f 2 % 8 ≠ pos s → by_ f 3 = pos s → dupAt s (by_ f 2 % 8) = false →
    dupAt s (pos s) = false → ∃ u, kTake s k kind f = (true, u) ∧ (klink u k).rxSeq = (klink s k).rxSeq + 1 ∧
    (klink u k).rxAny = true ∧ u.outs = s.outs) ∧
  (∀ (s : State) (k kind : Nat) (f : Bytes), kRuns s k = true → s.fs.f4 = false → 64 ≤ f.length → f.length ≤ 9728 →
    fcsOk f = true → by_ f 0 = 1 → by_ f 1 = kind → kReliable kind = true → bitN (by_ f 5) 1 = false →
    be f 6 2 ≠ (klink s k).rxSeq.toNat → ∃ u, kTake s k kind f = (false, u) ∧ u.sk = s.sk ∧ u.outs = s.outs) ∧
  (∀ (s : State) (k : Fin 2), held s = false → kRuns s k.val = true →
    exec (.cascadeAckDue k) s = .next (interlock (kSend s k.val 0x05 0xFF []))) ∧
  (∀ (s : State) (k : Fin 2) (f : Bytes) (i : Nat) (x : KFrame), held s = false → kRuns s k.val = true →
    s.fs.f4 = false → 64 ≤ f.length → f.length ≤ 9728 → fcsOk f = true → by_ f 0 = 1 → by_ f 1 = 0x05 →
    bitN (by_ f 5) 1 = true →
    findIx (fun x : KFrame => x.seq == BitVec.ofNat 16 (be f 8 2)) (klink s k.val).held = some (i, x) →
    (klink s k.val).queue = [] → ∃ t, exec (.ackReceive k f) s = .next t ∧ (klink t k.val) =
      { (klink s k.val) with held := (klink s k.val).held.drop (i + 1), resends := 0 }) ∧
  (∀ (s : State) (k : Fin 2), held s = false → (klink s k.val).up = true → (klink s k.val).held ≠ [] →
    (klink s k.val).resends < 16 → ∃ t, exec (.cascadeResend k) s = .next t ∧ (klink t k.val) =
      { (klink s k.val) with
        resends := (klink s k.val).resends + 1, rounds := min (2 ^ 32 - 1) ((klink s k.val).rounds + 1) }) ∧
  (∀ (s : State) (k : Fin 2), held s = false → (klink s k.val).up = true → (klink s k.val).held ≠ [] →
    16 ≤ (klink s k.val).resends → exec (.cascadeResend k) s = .next (interlock (kLost s k.val))) ∧
  (∀ (s : State) (k : Fin 2), held s = false → (klink s k.val).up = true →
    exec (.cascadeLinkLost k) s = .next (interlock (kLost s k.val))) ∧
  (∀ (s : State) (k : Nat), k < 2 → clsOf s (128 + k) = 1 → clsOf s 132 = 1 → (klink (kLost s k) k) =
    { rounds := (klink s k).rounds, mean := (klink s k).mean } ∧ (srcOf (kLost s k) (128 + k)).sticky = true) ∧
  (∀ s : State, held s = false → kRuns s 0 = true → kRuns s 1 = false →
    exec .discoverSend s = .next (interlock (kSend s 0 0x01 0xFF (discoverBody s 0)))) ∧
  (∀ s : State, held s = false → kRuns s 0 = false → kRuns s 1 = true →
    exec .discoverSend s = .next (interlock (kSend s 1 0x01 0xFF (discoverBody s 1)))) ∧
  (∀ (s u : State) (k : Fin 2) (f : Bytes) (far : List DeepRange), held s = false → kTake s k.val 0x01 f = (true, u) →
    clsOf u 131 = 1 → clsOf u 132 = 1 → ∃ t, exec (.discover k ⟨f, far⟩) s = .next t ∧ (klink t k.val) =
      { (klink u k.val) with
        discovers := (klink u k.val).discovers + 1, nbr := some (sub f 16 56), far := far,
        up := (klink u k.val).up || decide (1 ≤ (klink u k.val).discovers) }) ∧
  (∀ s : State, held s = false → (on s 26 || on s 27) = true → isRing s = true → exec .discoveryComplete s =
    .next (interlock (stackEvent s (s.modSk fun x =>
      { x with complete := true, master := ((positions s).find? fun p => !dupAt s p).getD 0xFF })))) ∧
  (∀ (s : State), held s = false → s.sk.complete = true → s.sk.master ≠ pos s → s.sk.master < 8 → s.fs.f4 = false →
    kRuns s (linkTo s s.sk.master) = true → (klink s (linkTo s s.sk.master)).up = true → ∃ t,
    exec .timeReqSend s = .next t ∧ t.sk.timeSeq = s.sk.timeSeq + 1 ∧ t.sk.timeReq = some (linkTo s s.sk.master,
      Probe.mk s.sk.timeSeq (txStamp s (6 + linkTo s s.sk.master)).1.at48 (s.tm.state == 0) s.clock false)) ∧
  (∀ (s u v w : State) (k : Fin 2) (f : Bytes) (t2 t3 : Stamp), held s = false → kTake s k.val 0x02 f = (true, u) →
    rxStampAt u (6 + k.val) f.length (fun _ => 0) = (t2, v) → txStamp v (6 + k.val) = (t3, w) → exec (.timeReq k f) s =
    .next (interlock (kSend w k.val 0x03 (by_ f 2 % 8) (timeBody (be (kBody f) 0 2)
      (BitVec.ofNat 48 (be (kBody f) 2 6)) t2.at48 t3.at48 (kTimeFlags w k.val))))) ∧
  (∀ (s u v : State) (k : Fin 2) (f : Bytes) (t4 : Stamp) (q : Probe), held s = false →
    kTake s k.val 0x03 f = (true, u) → rxStampAt u (6 + k.val) f.length (fun _ => 0) = (t4, v) →
    v.sk.timeReq = some (k.val, q) →
    be (kBody f) 0 2 = q.seq.toNat → be (kBody f) 2 6 = q.t1.toNat → exec (.timeResp k f) s =
    .next (interlock (syncDone (takePair (v.modSk fun x => { x with timeReq := none }) k.val q (kBody f) t4.at48)))) ∧
  (∀ (s u v : State) (k : Fin 2) (f : Bytes) (t4 : Stamp), held s = false → kTake s k.val 0x03 f = (true, u) →
    rxStampAt u (6 + k.val) f.length (fun _ => 0) = (t4, v) → v.sk.timeReq = none → exec (.timeResp k f) s = .next (interlock v)) ∧
  (∀ (s : State) (k : Nat) (q : Probe) (b : Bytes) (t4 : BitVec 48), s.sk.config ≠ 3 → cfg s 0x02010000 1 1 ≠ 1 →
    q.locked = true → bitN (by_ b 20) 7 = true → bitN (by_ b 20) 4 = false → steppedSince s q.at_ = false →
    (BitVec.ofNat 48 (be b 14 6) - BitVec.ofNat 48 (be b 8 6)).toNat ≤ 65536000000 →
    (klink (takePair s k q b t4) k).mean =
      (diff48 t4 q.t1 - diff48 (BitVec.ofNat 48 (be b 14 6)) (BitVec.ofNat 48 (be b 8 6))).tdiv 2 * 1000 / 65536) ∧
  (∀ was s : State, stackView was ≠ stackView s → (stackEvent was s).hl.evPend.getLsbD 127 = true ∧
    (stackEvent was s).sk = s.sk) ∧
  (∀ was s : State, stackView was = stackView s → stackEvent was s = s)

/-- COMMAND, RESPONSE, RELAY_UNREACHABLE and STACK_RELAY_WRITE (R95, R422, R423): the recognised master's or the twin
partner's COMMAND arrives as its request, another's is answered ST_AUTH; the answer to an outstanding relay is kept; a
relay without an answer is unreachable, with vector 127; a written relay message leaves once it is whole. STACK_AGREE
and STACK_AGREE_REPLY_REPEAT (R425, R426): a member judges the master's proposal and replies, repeats its reply until
DECIDE, and follows a CONFIRM that comes in time or a CANCEL with its reasons; the master counts a member's last
reply. -/
def Obligations.StackOrders : Prop :=
  (∀ (s u : State) (k : Fin 2) (f : Bytes) (v : Via), held s = false → kTake s k.val 0x10 f = (true, u) →
    kAgent u ⟨by_ f 2 % 8, Nat.mod_lt _ (by decide)⟩ = some v → u.hl.fwReady = true → ∃ t r,
    exec (.command k f) s = .next t ∧ t.mb.remote = u.mb.remote ++ [r] ∧ r.via = v ∧
    r.opcode = BitVec.ofNat 16 (le (kBody f) 0 2) ∧ r.tag = BitVec.ofNat 16 (le (kBody f) 2 2) ∧ r.at_ = recvTime u) ∧
  (∀ (s u : State) (k : Fin 2) (f : Bytes), held s = false → kTake s k.val 0x10 f = (true, u) →
    kAgent u ⟨by_ f 2 % 8, Nat.mod_lt _ (by decide)⟩ = none → u.hl.fwReady = true → ∃ t,
    exec (.command k f) s = .next t ∧ t.mb = s.mb) ∧
  (∀ (s u : State) (k : Fin 2) (f : Bytes), held s = false → kTake s k.val 0x11 f = (true, u) →
    (relay u (by_ f 2 % 8)).state = 1 → le (kBody f) 2 2 = (relay u (by_ f 2 % 8)).tag.toNat →
    exec (.response k f) s = .next (interlock
      (modRelay u (by_ f 2 % 8) fun r => { r with state := 2, resp := kBody f }))) ∧
  (∀ (s : State) (p : Fin 8), held s = false → (relay s p.val).state = 1 → exec (.relayUnreachable p) s =
    .next (interlock (raiseEvent (count (modRelay s p.val fun r => { r with state := 3 }) cTwin 13) 127))) ∧
  (∀ (s : State) (v : Via) (p : Fin 8) (d : Bytes), held s = false → opAllowed s v 0x20 = true → rankOf v ≤ 3 →
    isMaster s = true → (members s).contains p.val = true → (relay s p.val).state = 0 → d ≠ [] →
    (∃ x, descOf (oidOf 0x0803 p.val 0) = some x ∧ needsMet s (oidOf 0x0803 p.val 0) x 0 1 = true) → d.length < 16 →
    exec (.stackRelayWrite v p 0 d) s = .next (interlock (modRelay s p.val fun r => { r with msg := d }))) ∧
  (∀ (s : State) (v : Via) (p : Fin 8) (d : Bytes), held s = false → opAllowed s v 0x20 = true → rankOf v ≤ 3 →
    isMaster s = true → (members s).contains p.val = true → (relay s p.val).state = 0 →
    (∃ x, descOf (oidOf 0x0803 p.val 0) = some x ∧ needsMet s (oidOf 0x0803 p.val 0) x 0 1 = true) → 16 ≤ d.length →
    d.length ≤ 4096 → d.length = 16 + le d 4 2 →
    exec (.stackRelayWrite v p 0 d) s = .next (interlock (relaySend s p.val false d))) ∧
  (∀ (s u : State) (k : Fin 2) (f : Bytes), held s = false → kTake s k.val 0x12 f = (true, u) → on u 49 = true →
    by_ (kBody f) 0 = 0 → isMember u = true → u.sk.master = by_ f 2 % 8 → exec (.stackAgree k f) s =
    .next (interlock (memberReply (u.modTx fun t => { t with member := followOf (kBody f) (by_ f 2 % 8) 1 })))) ∧
  (∀ (s u : State) (k : Fin 2) (f : Bytes), held s = false → kTake s k.val 0x12 f = (true, u) → on u 49 = true →
    by_ (kBody f) 0 = 2 → isMember u = true → u.sk.master = by_ f 2 % 8 → nowNs u + 1000000 < be (kBody f) 4 8 →
    exec (.stackAgree k f) s = .next (interlock
      (u.modTx fun t => { t with member := followOf (kBody f) (by_ f 2 % 8) 2 }))) ∧
  (∀ (s u : State) (k : Fin 2) (f : Bytes), held s = false → kTake s k.val 0x12 f = (true, u) → on u 49 = true →
    by_ (kBody f) 0 = 3 → isMember u = true → u.sk.master = by_ f 2 % 8 → u.tx.member.state ≠ 2 → ∃ t,
    exec (.stackAgree k f) s = .next t ∧ t.tx.member.state = 3 ∧
    t.tx.agree.planesMiss = BitVec.ofNat 3 (by_ (kBody f) 28) ∧
    t.tx.agree.stackMiss = BitVec.ofNat 8 (by_ (kBody f) 29)) ∧
  (∀ (s u : State) (k : Fin 2) (f : Bytes), held s = false → kTake s k.val 0x12 f = (true, u) → on u 49 = true →
    by_ (kBody f) 0 = 1 → isMaster u = true → u.tx.phase = 1 → u.tx.agree.members.getLsbD (by_ f 2 % 8) = true →
    be (kBody f) 2 2 = u.tx.agree.id.toNat → by_ (kBody f) 1 = u.tx.agree.mode →
    be (kBody f) 4 8 = u.tx.agree.boundary → be (kBody f) 12 4 = u.tx.agree.tag.toNat → ∃ t,
    exec (.stackAgree k f) s = .next t ∧
    tget (fun _ => 1) t.tx.agree.replies (by_ f 2 % 8) = by_ (kBody f) 24) ∧
  (∀ s : State, held s = false → isMember s = true → s.tx.member.state = 1 → nowNs s < s.tx.member.decide →
    exec .stackAgreeReplyRepeat s = .next (interlock (memberReply s)))

/-- TRAFFIC_UP, TRAFFIC_DOWN, TX_DONE, STACK_STATUS and STACK_CONFIG (R427–R430, Tables 3-19 and 3-20): the master
delivers a member's copy into the receive queue that the member's WIDEN_RX entry names, here an operand (log entry 90);
a member makes a parison
of the master's frame; TX_DONE ends the descriptor that travelled; the stack's configuration is read, or staged.
TWIN_CONFIG, TWIN_STATUS and MIRROR_DECLARE (R430, R438, Table 3-19): the configuration and a region within 64 KiB are
staged where the stack is, or will be, twin, and are ST_STATE elsewhere; the status says both roles and what the
partner told. -/
def Obligations.StackAndTwinOrders : Prop :=
  (∀ (s u : State) (k : Fin 2) (f : Bytes) (q : Fin 64), held s = false → kTake s k.val 0x30 f = (true, u) →
    isMaster u = true → (u.sk.config = 1 ∨ u.sk.config = 2) → 32 + le (kBody f) 8 2 ≤ (kBody f).length →
    exec (.trafficUp k ⟨f, q⟩) s = .next (interlock
      (upInto u q.val k.val (sub (kBody f) 0 32) (sub (kBody f) 32 (le (kBody f) 8 2))))) ∧
  (∀ (s : State) (q k : Nat) (wb f : Bytes) (b : RxBuf) (rest : List RxBuf), s.hl.state = lsActive →
    s.hl.ctrl.getLsbD 0 = true → (que s (64 + q)).enable = true → (que s (64 + q)).closing = false →
    (que s (64 + q)).bufs = b :: rest → (que s (64 + q)).stamped = false → by_ wb 15 = 0 → f.length ≤ b.size →
    rest = [] → ∃ w, (que (upInto s q k wb f) (64 + q)).wbs = (que s (64 + q)).wbs ++ [w] ∧ w.idx = b.idx ∧
    w.addr = b.addr ∧ w.data = f) ∧
  (∀ (s u : State) (k : Fin 2) (f : Bytes), held s = false → kTake s k.val 0x31 f = (true, u) → u.sk.complete = true →
    u.sk.master = by_ f 2 % 8 → (u.sk.config = 1 ∨ u.sk.config = 2) → exec (.trafficDown k f) s = .next (interlock
      (downInto u k.val (by_ (kBody f) 0 % 64 * 4096 + be (kBody f) 2 2 % 4096) (sub (kBody f) 4 32)
        (sub (kBody f) 36 (descLen (sub (kBody f) 4 32)))))) ∧
  (∀ (s u : State) (k : Fin 2) (f : Bytes) (r : TxRec), held s = false → kTake s k.val 0x32 f = (true, u) →
    by_ (kBody f) 0 < 64 → recOf u (by_ (kBody f) 0) (be (kBody f) 2 2) = some r → r.phase = .away →
    exec (.txDone k f) s = .next (interlock (modRec u (by_ (kBody f) 0) (be (kBody f) 2 2) fun r =>
      { r with phase := .done (BitVec.ofNat 8 (by_ (sub (kBody f) 4 32) 15)), todo := 0,
               member := some (sub (kBody f) 4 32) }))) ∧
  (∀ (s : State) (v : Via) (r : Request), Admitted s v 0x88 r → checkOnly r = false → r.length = 0 →
    exec (.stackStatus v) s = .next (okWith (onTaken s r) r (toLe 1 (pos s) ++ toLe 1 s.sk.master ++
      toLe 1 (presentMask s) ++ toLe 1 s.sk.config ++ toLe 1 s.sk.dup.toNat ++ [0, 0, 0]))) ∧
  (∀ (s u : State) (v : Via) (r : Request) (p : Bytes), Admitted s v 0x89 r → checkOnly r = false → r.length = 8 →
    by_ r.payload 0 ≤ 2 → (∀ o ∈ [1, 2, 3], by_ r.payload o = 0) →
    (by_ r.payload 0 = 2 → le r.payload 4 2 + le r.payload 6 2 ≤ 16384) → s.sk.complete = true →
    stageOrder (onTaken s r) (acted r) [] none [] = .staged u p →
    exec (.stackConfig v) s = .next (stagedWith u r p)) ∧
  (∀ (s : State) (v : Via) (r : Request), Admitted s v 0x89 r → checkOnly r = false → r.length = 8 →
    by_ r.payload 0 = 3 → (∀ o ∈ [1, 2, 3], by_ r.payload o = 0) → s.sk.complete = true → (positions s).length ≠ 2 →
    exec (.stackConfig v) s = .next (noWith s r stRange [16, 0])) ∧
  (∀ (s u : State) (v : Via) (r : Request) (p : Bytes), Admitted s v 0x80 r → checkOnly r = false → r.length = 12 →
    by_ r.payload 0 ≤ 1 → by_ r.payload 1 ≤ 7 → by_ r.payload 2 ≤ 1 → by_ r.payload 3 = 0 → 10 ≤ le r.payload 4 2 →
    le r.payload 4 2 ≤ 1000 → 2 ≤ by_ r.payload 6 → by_ r.payload 6 ≤ 16 → by_ r.payload 7 = 0 → twinConfigured s = true →
    stageOrder (onTaken s r) (acted r) [24 + by_ r.payload 2, 26 + by_ r.payload 2] none [] = .staged u p →
    exec (.twinConfig v) s = .next (stagedWith u r p)) ∧
  (∀ (s : State) (v : Via) (r : Request), Admitted s v 0x80 r → checkOnly r = false → r.length = 12 →
    by_ r.payload 0 ≤ 1 → by_ r.payload 1 ≤ 7 → by_ r.payload 2 ≤ 1 → by_ r.payload 3 = 0 → 10 ≤ le r.payload 4 2 →
    le r.payload 4 2 ≤ 1000 → 2 ≤ by_ r.payload 6 → by_ r.payload 6 ≤ 16 → by_ r.payload 7 = 0 →
    twinConfigured s = false → exec (.twinConfig v) s = .next (noWith s r stState [])) ∧
  (∀ (s : State) (v : Via) (r : Request), Admitted s v 0x81 r → checkOnly r = false → r.length = 0 →
    exec (.twinStatus v) s = .next (okWith (onTaken s r) r (twinPayload s))) ∧
  (∀ (s u : State) (v : Via) (r : Request) (p : Bytes), Admitted s v 0x83 r → checkOnly r = false → r.length = 16 →
    by_ r.payload 0 ≤ 7 → by_ r.payload 1 = 1 → by_ r.payload 2 = 0 → by_ r.payload 3 = 0 → le r.payload 12 4 % 64 = 0 →
    ((List.range 8).filter (· != by_ r.payload 0)).foldl (fun a k => a + regionSize s k) 0 + le r.payload 12 4 ≤ 65536 →
    twinConfigured s = true → stageOrder (onTaken s r) (acted r) [] none [] = .staged u p →
    exec (.mirrorDeclare v) s = .next (stagedWith u r p)) ∧
  (∀ (s : State) (v : Via) (r : Request), Admitted s v 0x83 r → checkOnly r = false → r.length = 16 →
    by_ r.payload 0 ≤ 7 → by_ r.payload 1 ≤ 1 → by_ r.payload 2 = 0 → by_ r.payload 3 = 0 → le r.payload 12 4 % 64 ≠ 0 →
    exec (.mirrorDeclare v) s = .next (noWith s r stRange [28, 0]))

/-- HEARTBEAT_SEND, HEARTBEAT and PARTNER_LOST (R431, R432, R434, R440): heartbeats are numbered and leave over the
cascade link; one of the partner's own is noted with what it says; the loss of the partner raises FS133, an active
unit is then alone, and a standby whose host is up decides to take over. TAKEOVER, YIELD_TIMEOUT and TWIN_YIELD (R441,
R442, R445): at its boundary a takeover makes the unit ACTIVE, or alone where the partner is lost, with the next
ROLE_SEQ, and a unit that leads and heard its partner's TAKEOVER loses its role; an accepted yield names its boundary and is answered later; one that no takeover answers ends with ST_STATE
and changes no role; one that may not be made is ST_STATE at once. -/
def Obligations.TwinRoles : Prop :=
  (∀ s : State, held s = false → twinRuns s = true → s.tw.role ≠ 0 → silent s = false →
    kShut s 0x04 s.tw.partner = false → (∀ i < 4, hbPath s i = true → tget (fun _ => 0) s.tw.gaps i < s.tw.missed) →
    (∀ pl < 3, cfgBit s oTwinPol 12 pl = false) → ∃ t f, exec .heartbeatSend s = .next t ∧
    t.tw.hbSeq = s.tw.hbSeq + 1 ∧ t.tw.paths = s.tw.paths ∧ tget (fun _ => 0) t.tw.gaps 0 =
      min 255 (tget (fun _ => 0) s.tw.gaps 0 + 1) ∧ t.outs = s.outs ++ [.casc s.tw.link (withFcs f)] ∧ by_ f 1 = 0x04 ∧
    by_ f 3 = s.tw.partner % 256) ∧
  (∀ (s : State) (p : Fin 3) (b : Bytes), held s = false → twinRuns s = true → hbHeard s b = true →
    s.tw.takeT = none → s.tw.yieldT = none → s.tw.role = 2 → s.hl.state ≠ lsActive → ∃ t,
    exec (.heartbeat (.plane p) b) s = .next t ∧ t.tw.pRole = by_ b 4 ∧ t.tw.pSeq = BitVec.ofNat 16 (be b 6 2) ∧
    t.tw.pBoundary = be b 18 8 ∧ t.tw.lost = false ∧ t.tw.paths.getLsbD (1 + p.val) = true ∧ tget (fun _ => 0) t.tw.gaps (1 + p.val) = 0 ∧
    t.tw.role = 2) ∧
  (∀ (s u : State) (k : Fin 2) (f : Bytes), held s = false → kTake s k.val 0x04 f = (true, u) → twinRuns u = true →
    hbHeard u (sub f 16 46) = true → u.tw.takeT = none → u.tw.yieldT = none → u.tw.role = 4 → by_ f 20 = 2 → ∃ t,
    exec (.heartbeat (.cascade k) f) s = .next t ∧ t.tw.role = 1 ∧ t.tw.seq = u.tw.seq ∧
    t.tw.paths.getLsbD 0 = true) ∧
  (∀ s : State, held s = false → twinRuns s = true → s.tw.lost = false → s.tw.role = 1 →
    clsOf s 133 = 1 → ∃ t, exec .partnerLost s = .next t ∧ t.tw.lost = true ∧ t.tw.role = 4 ∧ t.tw.paths = 0 ∧
    (srcOf t 133).sticky = true) ∧
  (∀ s : State, held s = false → twinRuns s = true → s.tw.lost = false → s.tw.role = 2 →
    s.hl.state = lsActive → s.tw.takeT = none → clsOf s 133 = 1 → ∃ t, exec .partnerLost s = .next t ∧
    t.tw.lost = true ∧ t.tw.role = 2 ∧ t.tw.takeT = some (twinBoundary s)) ∧
  (∀ (s : State) (b : Nat), held s = false → twinRuns s = true → s.tw.takeT = some b →
    (s.tw.role = 2 ∨ s.tw.role = 3) → ∃ t, exec .takeover s = .next t ∧ t.tw.takeT = none ∧
    t.tw.role = (if s.tw.lost then 4 else 1) ∧ t.tw.seq = s.tw.pSeq + 1 ∧ t.tw.takeRaw = rawNow s / 65536 ∧
    t.tw.hostDown = 0) ∧
  (∀ (s : State) (b : Nat), held s = false → twinRuns s = true → s.tw.takeT = none →
    s.tw.yieldT = some b → s.tw.role = 1 → s.tw.yieldAcked = true → ∃ t, exec .takeover s = .next t ∧
    t.tw.role = 2 ∧ t.tw.yieldT = none ∧ t.tw.seq = s.tw.seq) ∧
  (∀ s : State, held s = false → twinRuns s = true → s.tw.takeT = none → s.tw.yieldT = none → leads s = true →
    s.tw.pFlags.getLsbD 3 = true → s.tw.lost = false → ∃ t, exec .takeover s = .next t ∧ t.tw.role = 3 ∧
    t.tw.seq = s.tw.seq ∧ t.tw.snap = false) ∧
  (∀ (s : State) (r : Request), held s = false → s.tw.yieldReq = some r → exec .yieldTimeout s = .next (interlock
    (respondWith (s.modTw fun t => { t with yieldT := none, yieldReq := none }) r stState false []))) ∧
  (∀ (s : State) (v : Via) (r : Request), Admitted s v 0x82 r → checkOnly r = false → r.length = 0 → s.tw.on = true →
    s.tw.role = 1 → s.tw.lost = false → s.tw.pRole = 2 → s.tw.pFlags.getLsbD 1 = true → s.tw.yieldT = none →
    exec (.twinYield v) s = .next (interlock ((onTaken s r).modTw fun t =>
      { t with yieldT := some (twinBoundary s), yieldReq := some (acted r), yieldAcked := false }))) ∧
  (∀ (s : State) (v : Via) (r : Request), Admitted s v 0x82 r → checkOnly r = false → r.length = 0 →
    (s.tw.on = false ∨ s.tw.role ≠ 1 ∨ s.tw.lost = true ∨ s.tw.pRole ≠ 2 ∨ s.tw.pFlags.getLsbD 1 = false ∨
      s.tw.yieldT.isSome = true) → exec (.twinYield v) s = .next (noWith s r stState []))

/-- ASSIGN, MISSING_LOCAL, MIRROR, MIRROR_SEND, REGION_READ and REGION (R435–R439): a standby adopts an ASSIGN's
number for its own frame, or keeps it until it is found missing; items 2 and 3 of the mirror set are kept with their
clock, and a leading unit sends them; a region whose sequence word was even and stayed is sent in chunks, and a
complete copy of the declared size is written by DMA behind its sequence word. -/
def Obligations.TwinMirror : Prop :=
  (∀ (s u : State) (k : Fin 2) (f : Bytes), held s = false → fromPartner s k.val 0x20 f = (true, u) →
    standsBy u = true → ownTalker u (be (kBody f) 0 2) (be (kBody f) 4 6) = none → exec (.assign k f) s =
    .next (interlock (u.modTw fun t =>
      { t with
        assigns := t.assigns ++ [(be (kBody f) 0 2, BitVec.ofNat 48 (be (kBody f) 4 6),
                                  BitVec.ofNat 16 (be (kBody f) 2 2), BitVec.ofNat 64 (be (kBody f) 12 8))] }))) ∧
  (∀ (s u : State) (k : Fin 2) (f : Bytes) (q i : Nat) (r : TxRec), held s = false →
    fromPartner s k.val 0x20 f = (true, u) → standsBy u = true →
    ownTalker u (be (kBody f) 0 2) (be (kBody f) 4 6) = some (q, i) → recOf u q i = some r →
    r.seq ≠ BitVec.ofNat 16 (be (kBody f) 2 2) → twinDigest u r = BitVec.ofNat 64 (be (kBody f) 12 8) → ∃ t r',
    exec (.assign k f) s = .next t ∧ recOf t q i = some r' ∧ r'.seq = BitVec.ofNat 16 (be (kBody f) 2 2) ∧
    r'.assigned = true ∧ t.tw.corr = min (2 ^ 32 - 1) (u.tw.corr + 1) ∧
    talkSeq t (be (kBody f) 0 2) = BitVec.ofNat 16 (be (kBody f) 2 2) + 1) ∧
  (∀ (s : State) (h : Fin 4096) (l : BitVec 48) (a : Nat × BitVec 48 × BitVec 16 × BitVec 64), held s = false →
    s.tw.assigns.find? (fun a => a.1 == h.val && a.2.1 == l) = some a → ∃ t, exec (.missingLocal h l) s = .next t ∧
    t.tw.assigns = s.tw.assigns.erase a ∧ t.tw.missLocal = min (2 ^ 32 - 1) (s.tw.missLocal + 1)) ∧
  (∀ (s u : State) (k : Fin 2) (f : Bytes), held s = false → fromPartner s k.val 0x21 f = (true, u) →
    standsBy u = true → by_ (kBody f) 0 = 2 → exec (.mirror k f) s = .next (interlock (syncDone (u.modTw fun t =>
      { t with sched := sub (kBody f) 4 42, item2 := u.clock + 1 })))) ∧
  (∀ (s u : State) (k : Fin 2) (f : Bytes), held s = false → fromPartner s k.val 0x21 f = (true, u) →
    standsBy u = true → by_ (kBody f) 0 = 3 → ∃ t, exec (.mirror k f) s = .next t ∧
    t.tw.segs = sub (kBody f) 4 66 ∧ t.tw.item3 = u.clock + 1 ∧ t.tw.seq = BitVec.ofNat 16 (be (kBody f) 4 2)) ∧
  (∀ s : State, held s = false → leads s = true → exec .mirrorSend s = .next (interlock (sendItems s))) ∧
  (∀ s : State, held s = false → s.tw.on = true → s.tw.role = 3 → s.tw.snap = false →
    exec .mirrorSend s = .next (interlock (sendMirror s 1 false 0 []))) ∧
  (∀ (s : State) (n : Fin 8) (d : Bytes) (a : BitVec 32), held s = false → leads s = true →
    (region s n.val).on = true → dmaOk s = true → d.length = (region s n.val).size → le d 0 4 % 2 = 0 →
    le d 0 4 = a.toNat → exec (.regionRead n d a) s =
    .next (interlock (sendRegion s n.val (le d 0 4) 0 (chunks 8192 d)))) ∧
  (∀ (s u : State) (k : Fin 2) (f : Bytes), held s = false → fromPartner s k.val 0x22 f = (true, u) →
    standsBy u = true → by_ (kBody f) 0 < 8 → (region u (by_ (kBody f) 0)).on = true → be (kBody f) 4 4 = 0 →
    by_ (kBody f) 1 % 2 = 0 → exec (.region k f) s = .next (interlock (modRegion u (by_ (kBody f) 0) fun _ =>
      { (region u (by_ (kBody f) 0)) with part := (kBody f).drop 12, partSeq := BitVec.ofNat 32 (be (kBody f) 8 4) }))) ∧
  (∀ (s u : State) (k : Fin 2) (f : Bytes), held s = false → fromPartner s k.val 0x22 f = (true, u) →
    standsBy u = true → by_ (kBody f) 0 < 8 → (region u (by_ (kBody f) 0)).on = true → be (kBody f) 4 4 = 0 →
    by_ (kBody f) 1 % 2 = 1 → (kBody f).drop 12 ≠ [] →
    ((kBody f).drop 12).length = (region u (by_ (kBody f) 0)).size → dmaOk u = true → ∃ t,
    exec (.region k f) s = .next t ∧ (region t (by_ (kBody f) 0)).copied = u.clock + 1 ∧
    (region t (by_ (kBody f) 0)).mismatch = false ∧ (region t (by_ (kBody f) 0)).part = [] ∧
    t.tw.copies = min (2 ^ 32 - 1) (u.tw.copies + 1))

/-! ### Faults and the safe state -/

/-- FAULT_SOURCE_ASSERT, FAULT_SOURCE_DEASSERT and PRESENT_BIT_EXPIRY (R447–R451, R457): an assertion latches its
sticky and present bits and counts; the end of a level's condition clears present, but for a source in class F3, whose
present bit ends with its expiry; a target that no present or sticky source holds is free. Every real assertion is
recorded (R451, R452, R468): the first fault, or a later one of a higher class, stands in the record, of one CI09 cycle
the one of the lower source number, and the source's sticky bit is set and its real assertions are counted. What
AO-safety and AO-security detect is latched with the core held too (R30, R461); FS024 is an F4 and follows a mismatch
of the collector's two copies of its state (R459). -/
def Obligations.FaultSources : Prop :=
  (∀ (s : State) (n : Fin 192) (ip : Bool) (e : Nat), held s = false → (srcInfo n.val).isSome = true →
    (srcOf s n.val).cond = false → ∃ t, exec (.faultSourceAssert n ip e) s = .next t ∧
    (srcOf t n.val).sticky = true ∧ (srcOf t n.val).cond = isLevel n.val ∧
    (isLevel n.val = true → (srcOf t n.val).present = true)) ∧
  (∀ (s : State) (n : Fin 192), held s = false → isLevel n.val = true → (srcOf s n.val).cond = true →
    exec (.faultSourceDeassert n) s = .next (interlock (modSrc s n.val fun x =>
      { x with cond := false, present := x.hold || (clsOf s n.val == 3 && x.present) }))) ∧
  (∀ (s : State) (n : Fin 192), held s = false → absentLong s n.val = true → exec (.presentBitExpiry n) s =
    .next (interlock (f3Exit (modSrc s n.val fun x => { x with present := false })))) ∧
  (∀ s : State, (∀ p < 6, clsOf s (80 + 8 * p) ≤ 1) →
    (f3Exit s).fs.f3 = s.fs.f3.filter fun x => (srcOf s x.2).present || (srcOf s x.2).sticky) ∧
  (∀ (s : State) (n : Nat), s.fs.recValid = false → (fault s n).fs.recValid = true ∧
    (fault s n).fs.recSrc = n ∧ (fault s n).fs.recCls = clsOf s n ∧ (fault s n).fs.recRaw = aoRaw s ∧
    (fault s n).fs.recInj = false ∧ (fault s n).fs.recOver = s.fs.recOver) ∧
  (∀ (s : State) (n : Nat), s.fs.recValid = true → s.fs.recCls < clsOf s n → (fault s n).fs.recOver = true ∧
    (fault s n).fs.recSrc = n ∧ (fault s n).fs.recCls = clsOf s n) ∧
  (∀ (s : State) (n : Nat), s.fs.recValid = true → s.fs.recInj = false → clsOf s n ≤ s.fs.recCls →
    (s.fs.recCyc ≠ ci09 s ∨ clsOf s n < s.fs.recCls ∨ s.fs.recSrc ≤ n) →
    (fault s n).fs.recOver = true ∧ (fault s n).fs.recSrc = s.fs.recSrc ∧ (fault s n).fs.recCls = s.fs.recCls) ∧
  (∀ (s : State) (n : Nat), (srcOf (fault s n) n).sticky = true ∧
    (srcOf (fault s n) n).real = min 65535 ((srcOf s n).real + 1)) ∧
  (∀ (s : State) (n : Nat), s.fs.recValid = true → s.fs.recInj = false → s.fs.recCyc = ci09 s →
    clsOf s n = s.fs.recCls → n < s.fs.recSrc → (fault s n).fs.recSrc = n ∧ (fault s n).fs.recOver = true ∧
    (fault s n).fs.recRaw = aoRaw s) ∧
  (∀ (s : State) (n : Fin 192) (ip : Bool) (e : Nat), held s = true → s.pw.aoRuns = true → aoDetects n.val = true →
    (srcOf s n.val).cond = false → ∃ t, exec (.faultSourceAssert n ip e) s = .next t ∧
    (srcOf t n.val).sticky = true ∧ (srcOf t n.val).cond = isLevel n.val ∧ (clsOf s n.val = 4 → t.fs.f4 = true)) ∧
  (∀ (s : State) (n : Fin 192), s.pw.aoRuns = true → aoDetects n.val = true → isLevel n.val = true →
    (srcOf s n.val).cond = true → exec (.faultSourceDeassert n) s = .next (interlock (condOff s n.val))) ∧
  (∀ s : State, clsOf s 24 = 4) ∧
  (∀ s : State, s.fs.second ≠ s.fs.inverted → (srcOf (copiesChecked s) 24).sticky = true ∧
    (copiesChecked s).fs.f4 = true) ∧
  (∀ s : State, s.fs.second = s.fs.inverted → copiesChecked s = s)

/-- The event ring (R453): an assertion, real or injected, joins the latest 64; the oldest makes way and is counted;
of one CI09 cycle the assertions stand by descending class, then by source number (R452); its place moves on by one of
64; FAULT_READ, and a read of FAULT_EVENT by TABLE_READ, pass the F4 check of R105. -/
def Obligations.EventRing : Prop :=
  (∀ (s : State) (n e : Nat) (inj ip : Bool), s.fs.ring.length < 64 → (assertWith s n inj ip e).fs.ring =
    ringPlace s.fs.ring ⟨n, clsOf s n, inj, aoRaw s, ci09 s⟩ ∧ (assertWith s n inj ip e).fs.ringAt = (s.fs.ringAt + 1) % 64 ∧
    (assertWith s n inj ip e).fs.ringLost = s.fs.ringLost) ∧
  (∀ (s : State) (n e : Nat) (inj ip : Bool), 64 ≤ s.fs.ring.length → (assertWith s n inj ip e).fs.ring =
    (ringPlace s.fs.ring ⟨n, clsOf s n, inj, aoRaw s, ci09 s⟩).drop 1 ∧ (assertWith s n inj ip e).fs.ringAt = (s.fs.ringAt + 1) % 64 ∧
    (assertWith s n inj ip e).fs.ringLost = min (2 ^ 32 - 1) (s.fs.ringLost + 1)) ∧
  (∀ oid, graveServed 0x60 oid = true) ∧ graveServed 0x21 0x09020000 = true ∧
  (∀ (s : State) (v : Via) (r : Request), held s = false → s.fs.f4 = true →
    s.mb.taken.find? (fun r => r.via == v && r.opcode.toNat == 0x60 && !r.served) = some r → authCheck s v 0x60 = none →
    oidCheck 0x60 r.oid.toNat = none → checkOnly r = false → r.length = 0 →
    exec (.faultRead v) s = .next (okWith (onTaken s r) r (faultPayload s))) ∧
  (∀ e, ringPlace [] e = [e]) ∧
  (∀ (l : List RingEntry) (x e : RingEntry), (x.cyc ≠ e.cyc ∨ aheadOf09 e.src e.cls x.src x.cls = false) →
    ringPlace (l ++ [x]) e = l ++ [x, e]) ∧
  (∀ (l : List RingEntry) (x e : RingEntry), x.cyc = e.cyc → aheadOf09 e.src e.cls x.src x.cls = true →
    ringPlace (l ++ [x]) e = ringPlace l e ++ [x])

/-- FAULT_READ, FAULT_CLEAR, FAULT_INJECT and FAULT_CONFIG (R447, R449, R454, R467, R468): the record and the sticky
and present bits are read; a sticky bit whose source is absent is cleared, and the record where its source is absent
and no F4; an injection asserts once, or holds until it is ended; a class that the source may take is staged, another is a range error.
SAFE_N_RELEASE, SAFE_N_WITHDRAW, SAFE_N_READBACK, GAFFER_WATCHDOG and CI09_CHECK (R458, R465, R466, R469): SAFE_N is
released where every condition of R465 holds, with the pins high, and withdrawn in every state; an order whose
transfer to the collector fails its parity check is discarded with FS024 (R460; that it is answered ST_GRAVE is log
entry 215); pads that differ from their drivers are FS025, with the core held too; a Gaffer that does not answer is FS056; CI09 outside 32 MHz ± 5 % is FS014, an F4. -/
def Obligations.FaultAndSafetyOrders : Prop :=
  (∀ (s : State) (v : Via) (r : Request), Admitted s v 0x60 r → checkOnly r = false → r.length = 0 →
    exec (.faultRead v) s = .next (okWith (onTaken s r) r (faultPayload s))) ∧
  (∀ (s : State) (v : Via) (r : Request), Admitted s v 0x61 r → checkOnly r = false → r.length = 4 →
    (srcInfo (le r.payload 0 2)).isSome = true → by_ r.payload 2 = 1 → by_ r.payload 3 = 0 →
    (srcOf s (le r.payload 0 2)).present = false → exec (.faultClear ⟨v, true⟩) s = .next (okWith (f3Exit
      (modSrc (onTaken s r) (le r.payload 0 2) fun x => { x with sticky := false, onlyInj := false })) r [])) ∧
  (∀ (s : State) (v : Via) (r : Request), Admitted s v 0x61 r → checkOnly r = false → r.length = 4 →
    (srcInfo (le r.payload 0 2)).isSome = true → by_ r.payload 2 = 1 → by_ r.payload 3 = 0 →
    (srcOf s (le r.payload 0 2)).present = true → ∀ b, exec (.faultClear ⟨v, b⟩) s = .next (noWith s r stState [])) ∧
  (∀ (s : State) (v : Via) (r : Request), Admitted s v 0x62 r → checkOnly r = false → r.length = 4 →
    (srcInfo (le r.payload 0 2)).isSome = true → by_ r.payload 2 = 0 → by_ r.payload 3 = 0 →
    exec (.faultInject ⟨v, true⟩) s = .next (okWith (injectEnd (injectOnce (onTaken s r) (le r.payload 0 2)) (le r.payload 0 2))
      r [])) ∧
  (∀ (s : State) (v : Via) (r : Request), Admitted s v 0x62 r → checkOnly r = false → r.length = 4 →
    (srcInfo (le r.payload 0 2)).isSome = true → by_ r.payload 2 = 1 → by_ r.payload 3 = 0 →
    (srcOf s (le r.payload 0 2)).hold = true → ∀ b, exec (.faultInject ⟨v, b⟩) s = .next (noWith s r stState [])) ∧
  (∀ (s u : State) (v : Via) (r : Request) (p : Bytes) (l : Bool) (d : Nat) (cs : List Nat), Admitted s v 0x63 r →
    checkOnly r = false → r.length = 4 → srcInfo (le r.payload 0 2) = some (l, d, cs) →
    cs.contains (by_ r.payload 2) = true → by_ r.payload 3 = 0 →
    stageOrder (onTaken s r) (acted r) [] none [] = .staged u p → exec (.faultConfig ⟨v, true⟩) s = .next (stagedWith u r p)) ∧
  (∀ (s : State) (v : Via) (r : Request) (l : Bool) (d : Nat) (cs : List Nat), Admitted s v 0x63 r →
    checkOnly r = false → r.length = 4 → srcInfo (le r.payload 0 2) = some (l, d, cs) →
    cs.contains (by_ r.payload 2) = false → ∀ b, exec (.faultConfig ⟨v, b⟩) s = .next (noWith s r stRange [18, 0])) ∧
  (∀ (s : State) (v : Via), held s = false → rankOf v ≤ 3 → opAllowed s v 0x11 = true → safeMay s = true →
    s.fs.f4 = false → s.pw.testMode = false → ∃ t, exec (.safeNRelease ⟨v, true⟩) s = .next t ∧ t.fs.released = true ∧
    t.pads.safeN = 3 ∧ t.pads.safePad = 3) ∧
  (∀ (s : State) (v : Via), held s = false → rankOf v ≤ 3 → opAllowed s v 0x11 = true → ∃ t,
    exec (.safeNWithdraw ⟨v, true⟩) s = .next t ∧ t.fs.released = false ∧ t.pads.safeN = 0 ∧ t.pads.safePad = 0) ∧
  (∀ (s : State) (p : BitVec 2), held s = false → p ≠ s.pads.safeN → ∃ t, exec (.safeNReadback p) s = .next t ∧
    (srcOf t 25).cond = true) ∧
  (∀ s : State, held s = false → ∃ t, exec (.safeNReadback s.pads.safeN) s = .next t ∧ (srcOf t 25).cond = false) ∧
  (∀ s : State, held s = false → (s.se.phase = 2 ∨ s.se.phase = 3) → ∃ t, exec .gafferWatchdog s = .next t ∧
    (srcOf t 56).sticky = true) ∧
  (∀ s : State, held s = false → (s.se.phase = 2 ∨ s.se.phase = 3) → clsOf s 56 = 2 → ∃ t,
    exec .gafferWatchdog s = .next t ∧ t.se.phase = 1 ∧ t.se.restart = true ∧ t.mb.taken = []) ∧
  (∀ (s : State) (hz : Nat), held s = false → s.pw.sysPll = true → (hz < 30400000 ∨ 33600000 < hz) →
    (srcOf s 14).cond = false → clsOf s 14 = 4 → ∃ t, exec (.ci09Check hz) s = .next t ∧ t.fs.f4 = true ∧
    (srcOf t 14).cond = true) ∧
  (∀ (s : State) (hz : Nat), held s = false → s.pw.sysPll = true → 30400000 ≤ hz → hz ≤ 33600000 →
    exec (.ci09Check hz) s = .next (interlock (condOff s 14))) ∧
  (∀ (s : State) (v : Via) (r : Request), Admitted s v 0x61 r → checkOnly r = false → r.length = 4 →
    (srcInfo (le r.payload 0 2)).isSome = true → by_ r.payload 2 = 2 → by_ r.payload 3 = 0 → s.fs.recValid = true →
    (srcOf s s.fs.recSrc).present = false → s.fs.recCls ≠ 4 → exec (.faultClear ⟨v, true⟩) s = .next (okWith (f3Exit
      ((onTaken s r).modFs fun f => { f with recValid := false, recOver := false, recInj := false })) r [])) ∧
  (∀ (s : State) (v : Via) (r : Request), Admitted s v 0x61 r → checkOnly r = false → r.length = 4 →
    (srcInfo (le r.payload 0 2)).isSome = true → by_ r.payload 2 = 2 → by_ r.payload 3 = 0 → s.fs.recValid = true →
    ((srcOf s s.fs.recSrc).present = true ∨ s.fs.recCls = 4) →
    ∀ b, exec (.faultClear ⟨v, b⟩) s = .next (noWith s r stState [])) ∧
  (∀ (s : State) (v : Via) (r : Request), Admitted s v 0x62 r → checkOnly r = false → r.length = 4 →
    (srcInfo (le r.payload 0 2)).isSome = true → by_ r.payload 2 = 1 → by_ r.payload 3 = 0 →
    (srcOf s (le r.payload 0 2)).hold = false → ∃ t, exec (.faultInject ⟨v, true⟩) s = .next (okWith t r []) ∧
    (srcOf t (le r.payload 0 2)).hold = true ∧ ((srcOf s (le r.payload 0 2)).cond = false →
      t = injectOnce (modSrc (onTaken s r) (le r.payload 0 2) fun x => { x with hold := true }) (le r.payload 0 2))) ∧
  (∀ (s : State) (v : Via) (r : Request), Admitted s v 0x62 r → checkOnly r = false → r.length = 4 →
    (srcInfo (le r.payload 0 2)).isSome = true → by_ r.payload 2 = 2 → by_ r.payload 3 = 0 →
    (srcOf s (le r.payload 0 2)).hold = true → exec (.faultInject ⟨v, true⟩) s = .next (okWith (injectEnd (modSrc
      (onTaken s r) (le r.payload 0 2) fun x => { x with hold := false }) (le r.payload 0 2)) r [])) ∧
  (∀ (s : State) (v : Via) (r : Request), Admitted s v 0x62 r → checkOnly r = false → r.length = 4 →
    (srcInfo (le r.payload 0 2)).isSome = true → by_ r.payload 2 = 0 → by_ r.payload 3 = 0 →
    exec (.faultInject ⟨v, false⟩) s = .next (interlock (respondWith (fault (onTaken s r) 24) (acted r) stGrave false []))) ∧
  (∀ (s : State) (v : Via), held s = false → s.fs.f4 = false → rankOf v ≤ 3 → opAllowed s v 0x11 = true → ∃ t,
    exec (.safeNWithdraw ⟨v, false⟩) s = .next t ∧ t.fs.f4 = true ∧ t.fs.released = false ∧ (srcOf t 24).sticky = true) ∧
  (∀ (s : State) (v : Via) (b : Bool), held s = false → (3 < rankOf v ∨ opAllowed s v 0x11 = false ∨ safeMay s = false) →
    exec (.safeNRelease ⟨v, b⟩) s = .next (interlock s)) ∧
  (∀ s : State, safeMay s = true → s.se.locked = true ∧ (s.se.phase = 2 ∨ s.se.phase = 3) ∧ s.pw.testMode = false ∧
    on s 68 = true ∧ 2 ≤ (voters s).length ∧ s.fs.f4 = false) ∧
  (∀ s : State, held s = true → s.pw.aoRuns = true → ∃ t, exec (.safeNReadback s.pads.safeN) s = .next t ∧
    (srcOf t 25).cond = false)

/-- The F4 reaction (R462–R464): nothing is left on a backbone port, every lane transmitter is in electrical idle, no
Ts_TXEN is high, SAFE_N is low, EVT0–7 are low, MODn_TXDIS is high, no descriptor is left to be decided, and no COMMIT
is pending; the orders of its frozen stage are back in the open stage. -/
def Obligations.GraveReaction : Prop :=
  (∀ s : State, s.fs.f4 = false → (reactF4 s).fs.f4 = true ∧ (reactF4 s).fs.released = false ∧
    (reactF4 s).pads.safeN = 0 ∧ (reactF4 s).pads.safePad = 0 ∧ (reactF4 s).pads.txen = 0 ∧ (reactF4 s).pads.evt = 0 ∧
    (reactF4 s).pads.modTxdis = 0x3F ∧ (reactF4 s).pads.laneIdle = 0x1FF) ∧
  (∀ (s : State) (p : Nat), s.fs.f4 = false → p < 6 → (prt (reactF4 s) p).line = none ∧
    (prt (reactF4 s) p).susp = [] ∧ (prt (reactF4 s) p).eg = []) ∧
  (∀ (s : State) (q : Nat) (r : TxRec), s.fs.f4 = false → q < 64 → r ∈ (que (reactF4 s) q).recs →
    ∃ v, r.phase = .done v) ∧
  (∀ s : State, s.fs.f4 = false → (reactF4 s).mb.boundary = none ∧ (reactF4 s).mb.frozen = [] ∧
    (reactF4 s).mb.stage = s.mb.frozen ++ s.mb.stage ∧ (reactF4 s).tw.takeT = none) ∧
  (∀ s : State, s.fs.f4 = true → reactF4 s = s)

/-! ### Boot, keys and sessions -/

/-- IMAGE_LOADED and BOOT_SOURCE_TIMEOUT (R473, R478, R481, R520, Table 13-1): a slot's image that passes every check
of Table 13-3 starts the boot stage with its version and its protection block; one that fails is rejected with its
reason and the next slot is tried; the last slot's failure brings host loading; a port that delivers nothing more ends
its image with reason 9. BOOT_REQ and BOOT_DATA (R476): while no data has come the device asks for an image; data at
the expected offset is appended and acknowledged with the next offset, other data only acknowledged. The destination
of BOOT_REQ is a free value (log entry 100). SEC_PROT_WRITE, SEC_LOCK, LOCK_TIMEOUT and FUSE_BURN_COMPLETE
(R479–R483): boot code may only tighten the protection set-up; the lock, written or set by the ROM, starts the run
stage once its fuses are burnt; a completed burn only ever raises the rollback counter and the revocations. -/
def Obligations.BootAndLock : Prop :=
  (∀ (s : State) (k : Nat) (rest : List Nat), held s = false → s.se.phase = 1 → s.se.hostLoad = false →
    s.se.svcLoad = false → s.se.tries = k :: rest → s.se.locked = false → ∃ t, exec (.imageLoaded true) s = .next t ∧
    (rejectSlot s k none = 0 → t.se.phase = 2 ∧ t.se.slot = BitVec.ofNat 8 k ∧
      t.se.version = BitVec.ofNat 32 (hdrVersion (slotHeader s k)) ∧
      t.se.rollIndex = BitVec.ofNat 32 (hdrIndex (slotHeader s k)) ∧ t.se.tries = [] ∧
      objRead t 0x0A000001 0 64 = hdrProt (slotHeader s k)) ∧
    (rejectSlot s k none ≠ 0 → t.se.reject = BitVec.ofNat 8 (rejectSlot s k none) ∧ t.se.tries = rest ∧
      t.se.phase ≠ 2)) ∧
  (∀ (s : State) (k j : Nat) (rest : List Nat), held s = false → s.se.phase = 1 → s.se.hostLoad = false →
    s.se.svcLoad = false → s.se.tries = k :: j :: rest → clsOf s 27 = 1 → ∃ t,
    exec (.imageLoaded false) s = .next t ∧ t.se.phase = 1 ∧ t.se.tries = j :: rest ∧ t.se.reject = 9 ∧
    (srcOf t 27).sticky = true) ∧
  (∀ (s : State) (k : Nat), held s = false → s.se.phase = 1 → s.se.hostLoad = false → s.se.svcLoad = false →
    s.se.tries = [k] → s.se.restart = false → clsOf s 27 = 1 → ∃ t, exec (.imageLoaded false) s = .next t ∧
    t.se.phase = 1 ∧ t.se.tries = [] ∧ t.se.hostLoad = true ∧ t.hl.fwReady = true ∧ t.se.reject = 9) ∧
  (∀ s : State, held s = false → s.se.svcLoad = true → s.se.image ≠ [] → clsOf s 27 = 1 → ∃ t,
    exec .bootSourceTimeout s = .next t ∧ t.se.image = [] ∧ t.mg.update = none ∧ t.se.reject = 9 ∧
    t.se.phase = s.se.phase ∧ (srcOf t 27).sticky = true) ∧
  (∀ s : State, held s = false → s.se.svcLoad = true → s.se.bootSeen = false → exec .bootReq s =
    .next (interlock (svcSend (draw s).2 (toBe 6 (draw s).1) 0x58 (toBe 8 Config.dieSerial.toNat)))) ∧
  (∀ (s u : State) (f : Bytes), held s = false → svcTake s f 0x59 4 = (true, u) → u.se.svcLoad = true →
    be f 18 4 = u.se.image.length → be f 16 2 ≤ 1028 → 4 ≤ be f 16 2 →
    imageCovered (u.se.image ++ sub f 22 (be f 16 2 - 4)) = false → ∃ t, exec (.bootData f) s = .next t ∧
    t.se.image = u.se.image ++ sub f 22 (be f 16 2 - 4) ∧ t.se.bootSeen = true ∧ t.se.svcPeer = sub f 6 6 ∧
    t.se.phase = u.se.phase ∧ (on u 29 = true → silent u = false → t.outs = u.outs ++ [.svc (withFcs (padTo 60
      (sub (sub f 6 6) 0 6 ++ svcAddr u ++ [0x88, 0xB6] ++ svcBody 0x5A
        (toBe 4 (u.se.image.length + (sub f 22 (be f 16 2 - 4)).length) ++ toLe 1 0 ++ toLe 1 0))))])) ∧
  (∀ (s u : State) (f : Bytes), held s = false → svcTake s f 0x59 4 = (true, u) → u.se.svcLoad = true →
    be f 18 4 ≠ u.se.image.length → ∃ t, exec (.bootData f) s = .next t ∧ t.se.image = u.se.image ∧
    t.se.bootSeen = true ∧ (on u 29 = true → silent u = false → t.outs = u.outs ++ [.svc (withFcs (padTo 60
      (sub (sub f 6 6) 0 6 ++ svcAddr u ++ [0x88, 0xB6] ++ svcBody 0x5A
        (toBe 4 u.se.image.length ++ toLe 1 0 ++ toLe 1 0))))])) ∧
  (∀ (s : State) (f : Bytes), on s 29 = true → blockOn s cSvc = true → 4200 < f.length → ∃ u,
    svcTake s f 0x59 4 = (false, u) ∧ u = s.setCnt u.cnt ∧
    (counter u cSvc 1).toNat = min (2 ^ 64 - 1) ((counter s cSvc 1).toNat + 1)) ∧
  (∀ (s u : State) (f : Bytes) (k n : Nat), svcTake s f k n = (true, u) → s.fs.f4 = false ∧
    u.outs = s.outs ++ [.svcRx f (svcWb f)]) ∧
  (∀ (s : State) (b : Bytes), held s = false → s.se.phase = 2 → s.se.locked = false → protLegal (sub b 0 64) = true →
    protTighter (secProt s) (sub b 0 64) = true →
    exec (.secProtWrite b) s = .next (interlock (objWrite s 0x0A000001 0 (sub b 0 64)))) ∧
  (∀ (s : State) (b : Bytes), held s = false → (s.se.phase ≠ 2 ∨ s.se.locked = true) →
    exec (.secProtWrite b) s = .next (interlock s)) ∧
  (∀ s : State, held s = false → s.se.phase = 2 → s.se.locked = false → lockBurns s = [] → ∃ t,
    exec .secLock s = .next t ∧ t.se.locked = true ∧ t.se.phase = 3 ∧ t.hl.fwReady = true ∧ t.fuses = s.fuses) ∧
  (∀ s : State, held s = false → s.se.phase = 2 → s.se.locked = false → lockBurns s ≠ [] → exec .secLock s =
    .next (interlock (s.modSe fun x => { x with locked := true, burns := lockBurns s }))) ∧
  (∀ s : State, exec .lockTimeout s = exec .secLock s) ∧
  (∀ s : State, held s = false → s.se.phase = 2 → s.se.locked = false → lockBurns s = [] → ∃ t,
    exec .lockTimeout s = .next t ∧ t.se.locked = true ∧ t.se.phase = 3 ∧ t.hl.fwReady = true) ∧
  (∀ s : State, held s = false → s.se.phase = 2 → s.se.burns ≠ [] → ∃ t, exec .fuseBurnComplete s = .next t ∧
    t.se.burns = [] ∧ t.se.phase = 3 ∧ s.fuses.rollback ≤ t.fuses.rollback ∧
    s.fuses.revoked &&& t.fuses.revoked = s.fuses.revoked)

/-- KEY_LOAD and KEY_ERASE (R486–R489): a key that its agent may load goes into an empty slot and is answered with its
check value, a slot that holds one is ST_STATE; erasing zeroises the slot, or every slot, and counts each key. -/
def Obligations.KeyOrders : Prop :=
  (∀ (s : State) (v : Via) (r : Request), Admitted s v 0x90 r → checkOnly r = false → r.length = 64 →
    keyLoadRange r.payload = none → by_ r.payload 3 = 0 → keyLoadRefused s r.via (le r.payload 0 2) false = none →
    keyAt s (le r.payload 0 2) = none → ∃ t u, exec (.keyLoad v) s = .next (okWith t r (keyCheck (le r.payload 0 2) u)) ∧
    u = sub (sub r.payload 24 (if by_ r.payload 2 = 1 then 32 else 16)) 0 (if by_ r.payload 2 = 1 then 32 else 16) ∧
    keyAt t (le r.payload 0 2) = some { key := u, wrapped := false, agent := BitVec.ofNat 8 (agentOf r.via),
                                        ssci := sub r.payload 4 4, salt := sub r.payload 8 12 }) ∧
  (∀ (s : State) (v : Via) (r : Request), Admitted s v 0x90 r → checkOnly r = false → r.length = 64 →
    keyLoadRange r.payload = none → keyLoadRefused s r.via (le r.payload 0 2) (by_ r.payload 3 == 1) = none →
    (keyAt s (le r.payload 0 2)).isSome = true → exec (.keyLoad v) s = .next (noWith s r stState [])) ∧
  (∀ (s : State) (v : Via) (r : Request), Admitted s v 0x91 r → checkOnly r = false → r.length = 4 →
    keySlotOk (le r.payload 0 2) = true → by_ r.payload 2 = 0 → by_ r.payload 3 = 0 → le r.payload 0 2 ≠ 0xFFFF →
    exec (.keyErase v) s = .next (okWith (eraseKeys (onTaken s r) fun j => j == le r.payload 0 2) r [])) ∧
  (∀ (s : State) (v : Via) (r : Request), Admitted s v 0x91 r → checkOnly r = false → r.length = 4 →
    le r.payload 0 2 = 0xFFFF → by_ r.payload 2 = 0 → by_ r.payload 3 = 0 →
    exec (.keyErase v) s = .next (okWith (eraseKeys (onTaken s r) fun _ => true) r [])) ∧
  (∀ (s : State) (f : Nat → Bool) (k : Nat), keyAt (eraseKeys s f) k = if f k then none else keyAt s k)

/-- ALARM, ALARM_CONDITION_END and ALARM_STATUS (R492–R494): an alarm's present and sticky bits are set with FS026,
and its policy zeroises the MACsec keys or every key; one whose condition the state rules out, JTAG while JTAG_LOCK does
not apply among them (R484), changes nothing; the end of its condition clears present alone, but for TEST in
test mode; the status says all three. -/
def Obligations.Alarms : Prop :=
  (∀ (s : State) (a : Fin 9), s.pw.aoRuns = true → alarmMay s a.val = true → ∃ t, exec (.alarm a) s = .next t ∧
    t.se.present.getLsbD a.val = true ∧ t.se.sticky.getLsbD a.val = true ∧ (srcOf t 26).sticky = true ∧
    (alarmPolicy s a.val ≠ 0 → t.se.zeroised = true) ∧ (alarmPolicy s a.val = 2 → ∀ k, keyAt t k = none) ∧
    (alarmPolicy s a.val = 1 → ∀ k, (isSak k || isCak k) = true → keyAt t k = none) ∧
    (alarmPolicy s a.val = 0 → t.se.keys = s.se.keys)) ∧
  (∀ (s : State) (a : Fin 9), (a.val ≠ 8 ∨ s.pw.testMode = false) → exec (.alarmConditionEnd a) s =
    .next (interlock (s.modSe fun x => { x with present := setBit x.present a.val false }))) ∧
  (∀ s : State, s.pw.testMode = true → exec (.alarmConditionEnd 8) s = .next (interlock s)) ∧
  (∀ (s : State) (v : Via) (r : Request), Admitted s v 0x92 r → checkOnly r = false → r.length = 0 →
    exec (.alarmStatus v) s = .next (okWith (onTaken s r) r (toLe 4 s.se.present.toNat ++ toLe 4 s.se.sticky.toNat ++
      toLe 1 (b1 s.se.zeroised) ++ zz 7))) ∧
  (∀ (s : State) (a : Fin 9), s.pw.aoRuns = true → alarmMay s a.val = false →
    exec (.alarm a) s = .next (interlock s)) ∧
  (∀ s : State, alarmMay s 3 = true → s.se.locked = true ∧ protFlag s 2 = true)

/-- S_HELLO, S_PROOF, PROOF_TIMEOUT, S_MSG, S_CLOSE, SESSION_IDLE and SERVICE_KEY_LOCKOUT_END (R496–R498): a hello for
a key that is there is challenged with free values, under a SESSION_ID that no other attempt or session has; a right proof opens the session, a third wrong one within 60 s
locks the key out; a message in sequence with a right tag is a request of the session; a close, a silence or a timeout
ends it. -/
def Obligations.Sessions : Prop :=
  (∀ (s u : State) (f : Bytes) (key : Key), held s = false → svcTake s f 0x50 17 = (true, u) → by_ f 18 < 8 →
    protFlag u 5 = true → (sess u (by_ f 18)).state < 2 → keyAt u (0x200 + by_ f 18) = some key → ∃ t,
    exec (.sHello f) s = .next t ∧ (sess t (by_ f 18)).state = 1 ∧ (sess t (by_ f 18)).nc = sub f 19 16 ∧
    (sess t (by_ f 18)).peer = sub f 6 6 ∧ (sess t (by_ f 18)).sk = sessKey key.key (sub f 19 16)
      (sess t (by_ f 18)).nd (sess t (by_ f 18)).id ∧ t.freeIx = u.freeIx + 2) ∧
  (∀ (s u : State) (f : Bytes) (k : Nat), held s = false → svcTake s f 0x52 34 = (true, u) →
    sessById u 1 (be f 18 2) = some k → sub f 20 32 = proofTag (sess u k).sk 0x52 (sess u k).id → ∃ t,
    exec (.sProof f) s = .next t ∧ (sess t k).state = 2 ∧ (sess t k).rxSeq = 1 ∧ (sess t k).txSeq = 1 ∧
    (sess t k).bad = 0 ∧ (sess t k).peer = sub f 6 6) ∧
  (∀ (s u : State) (f : Bytes) (k : Nat), held s = false → svcTake s f 0x52 34 = (true, u) →
    sessById u 1 (be f 18 2) = some k → sub f 20 32 ≠ proofTag (sess u k).sk 0x52 (sess u k).id →
    2 ≤ ((sess u k).fails.filter fun t => u.clock < t + 60000000000).length → alarmPolicy u 4 = 0 → ∃ t,
    exec (.sProof f) s = .next t ∧ (sess t k).state = 3 ∧ t.se.sticky.getLsbD 4 = true) ∧
  (∀ (s : State) (k : Fin 8), held s = false → (sess s k.val).state = 1 →
    exec (.proofTimeout k) s = .next (interlock (sessClose s k.val none))) ∧
  (∀ (s u : State) (f : Bytes) (k : Nat), held s = false → svcTake s f 0x54 38 = (true, u) →
    sessById u 2 (be f 18 2) = some k → be f 20 4 = (sess u k).rxSeq → 54 ≤ be f 16 2 → be f 16 2 ≤ 4134 →
    sub f (be f 16 2 - 14) 32 = sub (hmacSha256 (sess u k).sk (sub f 14 (be f 16 2 - 28))) 0 32 →
    u.hl.fwReady = true → ∃ t r, exec (.sMsg f) s = .next t ∧ (sess t k).rxSeq = (sess u k).rxSeq + 1 ∧
    (sess t k).state = 2 ∧ t.mb.remote = u.mb.remote ++ [r] ∧ r.via = .session (Fin.ofNat 8 k) ∧
    r.opcode = BitVec.ofNat 16 (le (sub f 24 (be f 16 2 - 38)) 0 2)) ∧
  (∀ (s u : State) (f : Bytes) (k : Nat), held s = false → svcTake s f 0x54 38 = (true, u) →
    sessById u 2 (be f 18 2) = some k → be f 20 4 ≠ (sess u k).rxSeq → (sess u k).bad < 2 → ∃ t,
    exec (.sMsg f) s = .next t ∧ (sess t k) = { (sess u k) with bad := (sess u k).bad + 1 } ∧ t.mb = u.mb) ∧
  (∀ (s u : State) (f : Bytes) (k : Nat), held s = false → svcTake s f 0x55 35 = (true, u) →
    sessById u 2 (be f 18 2) = some k → sub f 21 32 = sub (hmacSha256 (sess u k).sk (sub f 14 7)) 0 32 →
    exec (.sClose f) s = .next (interlock (sessClose u k none))) ∧
  (∀ (s : State) (k : Fin 8), held s = false → (sess s k.val).state = 2 →
    exec (.sessionIdle k) s = .next (interlock (sessClose s k.val (some 1)))) ∧
  (∀ (s : State) (k : Nat) (why : Option Nat), k < 8 → sess (sessClose s k why) k =
    { state := if (sess s k).state = 3 then 3 else 0, fails := (sess s k).fails }) ∧
  (∀ (s : State) (k : Fin 8), held s = false → (sess s k.val).state = 3 → ∃ t,
    exec (.serviceKeyLockoutEnd k) s = .next t ∧ sess t k.val = {}) ∧
  (∀ (s : State) (v k : Nat), k < 8 → ((sess s k).state = 1 ∨ (sess s k).state = 2) → newId s v ≠ (sess s k).id)

/-! ### Management -/

/-- SENSOR_SAMPLE, WEAR_SAMPLE and LIFE_ACCUMULATE (R501–R504, R506, R508, Tables 14-1 and 14-2): each sensor takes
its reading, a temperature held to −55.0 to 150.0 °C with the time and its exclusion; FS017 is asserted while any
sensor is excluded; a second of powered time enters the life accumulators at the hottest temperature; the limiting
factor follows. The arithmetic of AF is fixed point (log entry 110). WEAR_RECORD_WRITE, LOG_FLUSH, SLOT_ERASE_COMPLETE
(R505, R508, R510–R512): a flash operation that fails asserts FS059, is remembered and counted, fails the open update,
and leaves free values where it wrote (log entry 114); with no sensor that reads, T is free among the readings (log
entry 217); a record lost from full log memory is told of at once; a wear record that is written starts a new highest Tj; a flush leaves nothing
unflushed, but the record that tells of records lost since; an erase empties what is left of its slot. -/
def Obligations.SensingAndFlash : Prop :=
  (∀ (s : State) (temps : List (Option Int)) (volts : List Int), held s = false → temps.length = 8 → volts.length = 7 →
    ∃ t, exec (.sensorSample temps volts) s = .next t ∧
    (∀ (i : Nat) (x : Option Int), temps[i]? = some x → (sensor t i).excluded = excludedBy temps x) ∧
    (∀ (i : Nat) (v : Int), temps[i]? = some (some v) → (sensor t i).reading = max (-550) (min 1500 v) ∧
      (sensor t i).valid = true ∧ (sensor t i).at_ = s.clock ∧ (sensor t i).low ≤ (sensor t i).reading ∧
      (sensor t i).reading ≤ (sensor t i).high) ∧
    (∀ i : Nat, temps[i]? = some none → (sensor t i).valid = false ∧ (sensor t i).reading = (sensor s i).reading ∧
      (sensor t i).seen = (sensor s i).seen ∧ (sensor t i).at_ = (sensor s i).at_) ∧
    (∀ (j : Nat) (v : Int), volts[j]? = some v → (sensor t (8 + j)).reading = v ∧ (sensor t (8 + j)).valid = true) ∧
    (srcOf t 17).cond = temps.any (excludedBy temps)) ∧
  (∀ (s : State) (shifts : List Int), held s = false → shifts.length = 4 → ∃ t, exec (.wearSample shifts) s = .next t ∧
    (∀ (j : Nat) (v : Int), shifts[j]? = some v → (sensor t (16 + j)).reading = v ∧ (sensor t (16 + j)).valid = true) ∧
    t.mg.limiting = lifeLimit t) ∧
  (∀ (s : State) (tj : Int), held s = false → on s 76 = true → hotSensor s = some tj → ∃ t,
    exec .lifeAccumulate s = .next t ∧
    t.mg.powered = s.mg.powered + max 1 ((s.clock - s.mg.lifeAt) / 1000000000) ∧
    t.mg.hot = s.mg.hot + (if 1050 ≤ tj then max 1 ((s.clock - s.mg.lifeAt) / 1000000000) else 0) ∧
    t.mg.equiv = s.mg.equiv + max 1 ((s.clock - s.mg.lifeAt) / 1000000000) * (accel tj / 65536).toNat ∧
    t.mg.topTj = max s.mg.topTj tj ∧ t.mg.limiting = lifeLimit t) ∧
  (∀ s : State, held s = false → on s 76 = true → hotSensor s = none → ∃ (t : State) (tj : Int),
    exec .lifeAccumulate s = .next t ∧ -550 ≤ tj ∧ tj ≤ 1500 ∧
    t.mg.powered = s.mg.powered + max 1 ((s.clock - s.mg.lifeAt) / 1000000000) ∧ t.mg.topTj = max s.mg.topTj tj) ∧
  (∀ s : State, held s = false → on s 76 = false → exec .lifeAccumulate s = .next (interlock s)) ∧
  (∀ s : State, held s = false → on s 76 = true → exec (.wearRecordWrite false) s =
    .next (interlock (flashFailed (flashSpoil s (otherSector s wearBase wearMagic) 0x1000)))) ∧
  (∀ s : State, held s = false → exec (.logFlush false) s = .next (interlock (flashFailed
    ((s.mg.log.drop (s.mg.log.length - s.mg.unflushed)).foldl spoilRecord s)))) ∧
  (∀ s : State, (flashFailed s).mg.flashErr = true ∧ (srcOf (flashFailed s) 59).sticky = true ∧
    (flashFailed s).mg.update = s.mg.update.map fun u => { u with failed := true }) ∧
  (∀ s : State, held s = false → on s 76 = true → ∃ t, exec (.wearRecordWrite true) s = .next t ∧
    t.flash = (writeRecord s wearBase wearMagic (wearBody s)).flash ∧ t.mg.topTj = -550 ∧ t.mg.flash = true ∧
    t.mg.powered = s.mg.powered ∧ t.mg.equiv = s.mg.equiv) ∧
  (∀ s : State, held s = false → s.mg.logLost = s.mg.lostTold → ∃ t, exec (.logFlush true) s = .next t ∧
    t.mg.unflushed = 0 ∧ t.mg.log = s.mg.log ∧ t.mg.nextRec = s.mg.nextRec ∧ t.mg.flash = true) ∧
  (∀ s : State, held s = false → s.mg.logLost ≠ s.mg.lostTold → ∃ t, exec (.logFlush true) s = .next t ∧
    t.mg.unflushed = 1 ∧ t.mg.nextRec = s.mg.nextRec + 1 ∧ t.mg.lostTold = s.mg.logLost) ∧
  (∀ (s : State) (u : Update), held s = false → s.mg.update = some u → u.erased = false → ∃ t,
    exec (.slotEraseComplete true) s = .next t ∧
    t.flash = (flashErase s (slotAddr u.slot + 4096 * u.sectors) (4096 * (128 - u.sectors))).flash ∧
    t.mg.update = some { u with erased := true, sectors := 128 }) ∧
  (∀ (s : State) (u : Update), held s = false → s.mg.update = some u → u.erased = false → ∃ t,
    exec (.slotEraseComplete false) s = .next t ∧
    t.mg.update = some { u with erased := true, sectors := 128, failed := true } ∧
    t.mg.flashErr = true ∧ (srcOf t 59).sticky = true) ∧
  (∀ (s : State) (type flags : Nat) (data : Bytes), on s 76 = true → s.mg.log.length = 2048 → s.mg.unflushed = 2048 →
    s.mg.lostTold ≤ s.mg.logLost → lossTold (logPut s type flags data) = false → (logAdd s type flags data).mg.logLost = s.mg.logLost + 2 ∧
    (logAdd s type flags data).mg.lostTold = s.mg.logLost + 2 ∧ ∃ x, (logAdd s type flags data).mg.log.getLast? =
      some x ∧ by_ x.2 14 = 9 ∧ le x.2 16 4 = (s.mg.logLost + 2 - s.mg.lostTold) % 2 ^ 32)

/-- SENSOR_READ, LOG_READ, COUNTERS_READ and COUNTERS_PEEK (R501, R509, R516–R518): a record of a sensor, records of
the log from the first that is kept, and a counter block, which its owner's read clears. -/
def Obligations.Readings : Prop :=
  (∀ (s : State) (v : Via) (r : Request), Admitted s v 0xB1 r → checkOnly r = false → r.length = 4 →
    sensorOk (by_ r.payload 0) = true → by_ r.payload 1 = 0 → by_ r.payload 2 = 0 → by_ r.payload 3 = 0 →
    exec (.sensorRead v) s = .next (okWith (onTaken s r) r (sensorRecord (onTaken s r) (by_ r.payload 0)))) ∧
  (∀ (s : State) (v : Via) (r : Request), Admitted s v 0xB1 r → checkOnly r = false → r.length = 4 →
    sensorOk (by_ r.payload 0) = false → exec (.sensorRead v) s = .next (noWith s r stRange [16, 0])) ∧
  (∀ (s : State) (v : Via) (r : Request), Admitted s v 0xB0 r → checkOnly r = false → r.length = 8 →
    by_ r.payload 6 = 0 → by_ r.payload 7 = 0 → s.mg.nextRec ≤ le r.payload 0 4 → exec (.logRead v) s =
    .next (okWith (onTaken s r) r (toLe 4 (le r.payload 0 4) ++ zz 4))) ∧
  (∀ (s : State) (v : Via) (r : Request) (b : Bytes), Admitted s v 0xB0 r → checkOnly r = false → r.length = 8 →
    by_ r.payload 6 = 0 → by_ r.payload 7 = 0 → le r.payload 0 4 < s.mg.nextRec → s.mg.oldest ≤ le r.payload 0 4 →
    le r.payload 4 2 = 1 → logRecordAt s (le r.payload 0 4) = some b → exec (.logRead v) s =
    .next (okWith (onTaken s r) r (toLe 4 (le r.payload 0 4) ++ toLe 2 1 ++ zz 2 ++ b))) ∧
  (∀ (s : State) (v : Via) (r : Request), Admitted s v 0xB0 r → checkOnly r = false → r.length = 8 →
    by_ r.payload 6 = 0 → by_ r.payload 7 = 0 → le r.payload 0 4 < s.mg.nextRec → le r.payload 0 4 < s.mg.oldest →
    ∃ p, exec (.logRead v) s = .next (noWith s r stPartial p)) ∧
  (∀ (s : State) (v : Via) (r : Request) (n : Nat) (ds : List Nat), Admitted s v 0x71 r → checkOnly r = false →
    r.length = 0 → counterBlock r.oid.toNat = some (n, ds) → blockOn s r.oid.toNat = true → exec (.countersPeek v) s =
    .next (okWith (onTaken s r) r (countersPayload s r.oid.toNat n))) ∧
  (∀ (s : State) (v : Via) (r : Request) (n : Nat) (ds : List Nat), Admitted s v 0x70 r → checkOnly r = false →
    r.length = 0 → sameAgent (BitVec.ofNat 8 (cfg s 0x0B100000 0 1)) v = true → counterBlock r.oid.toNat = some (n, ds) →
    blockOn s r.oid.toNat = true → exec (.countersRead v) s = .next (okWith ((onTaken s r).setCnt
      (s.cnt.filter fun c => c.1 / 64 != r.oid.toNat)) r (countersPayload s r.oid.toNat n))) ∧
  (∀ (s : State) (o : Nat) (k : Fin 64), counter (s.setCnt (s.cnt.filter fun c => c.1 / 64 != o)) o k.val = 0) ∧
  (∀ (s : State) (v : Via) (r : Request), Admitted s v 0x70 r → checkOnly r = false → r.length = 0 →
    sameAgent (BitVec.ofNat 8 (cfg s 0x0B100000 0 1)) v = false → exec (.countersRead v) s = .next (noWith s r stAuth []))

/-- FW_BEGIN, FW_CHUNK, FW_FINISH and FW_ACTIVATE (R95, R129, R475, R512–R515): an update opens for its agent, as which
MB1 and MB2 count as one, on the slot that is not active, and is busy for another; its chunks go to
the sectors of the slot that are erased by then, how many a free value (log entry 219), or under host loading to the
image; a flash operation that fails makes the update end with reason 9; an image that passes the checks is verified, and one that does not is ST_INTEGRITY with its
reason; a verified slot is made active, at once with a restart where its protection block is the locked one. -/
def Obligations.FirmwareUpdate : Prop :=
  (∀ (s : State) (v : Via) (r : Request), Admitted s v 0xA0 r → checkOnly r = false → r.length = 8 →
    le r.payload 0 4 ≤ 492032 → s.se.hostLoad = false → by_ r.payload 4 ≤ 1 → by_ r.payload 5 = 0 → by_ r.payload 6 = 0 →
    by_ r.payload 7 = 0 → isActive s (by_ r.payload 4) = false → s.mg.update = none → exec (.fwBegin ⟨v, true⟩) s =
    .next (okWith (logFw (setVerified ((onTaken s r).modMg fun m =>
      { m with update := some ⟨BitVec.ofNat 8 (agentOf v), by_ r.payload 4, le r.payload 0 4, false, 0, [], false⟩ })
      (by_ r.payload 4) false none) 0xA0 (by_ r.payload 4) stOk 0) r [])) ∧
  (∀ (s : State) (v : Via) (r : Request), Admitted s v 0xA0 r → checkOnly r = false → r.length = 8 →
    le r.payload 0 4 ≤ 492032 → s.se.hostLoad = false → by_ r.payload 4 ≤ 1 → by_ r.payload 5 = 0 → by_ r.payload 6 = 0 →
    by_ r.payload 7 = 0 → isActive s (by_ r.payload 4) = false → s.mg.update = none → ∃ t,
    exec (.fwBegin ⟨v, false⟩) s = .next (okWith t r []) ∧ t.mg.flashErr = true ∧ (srcOf t 59).sticky = true ∧
    t.mg.update = some ⟨BitVec.ofNat 8 (agentOf v), by_ r.payload 4, le r.payload 0 4, false, 0, [], true⟩) ∧
  (∀ (s : State) (v : Via) (ok : Bool) (r : Request), Admitted s v 0xA0 r → checkOnly r = false → r.length = 8 →
    le r.payload 0 4 ≤ 492032 → s.se.hostLoad = false → by_ r.payload 4 ≤ 1 → by_ r.payload 5 = 0 → by_ r.payload 6 = 0 →
    by_ r.payload 7 = 0 → isActive s (by_ r.payload 4) = true → exec (.fwBegin ⟨v, ok⟩) s = .next (noWith s r stState [])) ∧
  (∀ (s : State) (v : Via) (ok : Bool) (r : Request), Admitted s v 0xA0 r → checkOnly r = false → r.length = 8 →
    le r.payload 0 4 ≤ 492032 → s.se.hostLoad = false → by_ r.payload 4 ≤ 1 → by_ r.payload 5 = 0 → by_ r.payload 6 = 0 →
    by_ r.payload 7 = 0 → isActive s (by_ r.payload 4) = false → (∃ u, s.mg.update = some u ∧ sameAgent u.agent v = false) →
    exec (.fwBegin ⟨v, ok⟩) s = .next (noWith s r stBusy [])) ∧
  (∀ (s : State) (v : Via) (ok : Bool) (r : Request), Admitted s v 0xA0 r → checkOnly r = false → r.length = 8 →
    le r.payload 0 4 ≤ 492032 → s.se.hostLoad = true → by_ r.payload 5 = 0 → by_ r.payload 6 = 0 →
    by_ r.payload 7 = 0 → ∃ t, exec (.fwBegin ⟨v, ok⟩) s = .next (okWith t r []) ∧
    t.se.image = List.replicate (le r.payload 0 4) 0 ∧ t.mg.update =
      some ⟨BitVec.ofNat 8 (agentOf v), 0xFF, le r.payload 0 4, true, 128, [], false⟩ ∧ t.flash = s.flash) ∧
  (∀ (s : State) (v : Via) (r : Request) (u : Update), Admitted s v 0xA1 r → checkOnly r = false → 4 ≤ r.length →
    s.mg.update = some u → sameAgent u.agent v = true → le r.payload 0 4 + (r.payload.drop 4).length ≤ u.size →
    u.erased = true → u.sectors = 128 → le r.payload 0 4 + (r.payload.drop 4).length ≤ 524288 →
    s.se.hostLoad = false → ∃ t, exec (.fwChunk ⟨v, true⟩) s = .next (okWith t r []) ∧
    t.flash = (flashWrite s (slotAddr u.slot + le r.payload 0 4) (r.payload.drop 4)).flash ∧
    t.mg.update = some { u with got := u.got ++ [(le r.payload 0 4, (r.payload.drop 4).length)] }) ∧
  (∀ (s : State) (v : Via) (r : Request) (u : Update), Admitted s v 0xA1 r → checkOnly r = false → 4 ≤ r.length →
    s.mg.update = some u → sameAgent u.agent v = true → le r.payload 0 4 + (r.payload.drop 4).length ≤ u.size →
    u.erased = true → u.sectors = 128 → le r.payload 0 4 + (r.payload.drop 4).length ≤ 524288 →
    s.se.hostLoad = false → ∃ t, exec (.fwChunk ⟨v, false⟩) s = .next (okWith t r []) ∧ t.mg.flashErr = true ∧
    (srcOf t 59).sticky = true ∧
    t.mg.update = some { u with got := u.got ++ [(le r.payload 0 4, (r.payload.drop 4).length)], failed := true }) ∧
  (∀ (s : State) (v : Via) (r : Request) (u : Update), Admitted s v 0xA1 r → checkOnly r = false → 4 ≤ r.length →
    s.mg.update = some u → sameAgent u.agent v = true → le r.payload 0 4 + (r.payload.drop 4).length ≤ u.size →
    u.erased = false → s.se.hostLoad = false → u.sectors ≤ 128 → ∃ n t, u.sectors ≤ n ∧ n ≤ 128 ∧
    exec (.fwChunk ⟨v, true⟩) s = .next t ∧ (le r.payload 0 4 + (r.payload.drop 4).length ≤ 4096 * n → (∃ w, t = okWith w r []) ∧
      t.mg.update = some { u with sectors := n, got := u.got ++ [(le r.payload 0 4, (r.payload.drop 4).length)] }) ∧
    (4096 * n < le r.payload 0 4 + (r.payload.drop 4).length →
      (∃ w, t = interlock (respondWith w (acted r) stBusy false [])) ∧ t.mg.update = some { u with sectors := n })) ∧
  (∀ (s : State) (v : Via) (ok : Bool) (r : Request) (u : Update), Admitted s v 0xA1 r → checkOnly r = false → 4 ≤ r.length →
    s.mg.update = some u → sameAgent u.agent v = true → le r.payload 0 4 + (r.payload.drop 4).length ≤ u.size →
    u.erased = true → u.sectors = 128 → le r.payload 0 4 + (r.payload.drop 4).length ≤ 524288 →
    s.se.hostLoad = true → ∃ t, exec (.fwChunk ⟨v, ok⟩) s = .next (okWith t r []) ∧
    t.se.image = patch s.se.image (le r.payload 0 4) (r.payload.drop 4) ∧ t.flash = s.flash) ∧
  (∀ (s : State) (v : Via) (ok : Bool) (r : Request) (u : Update), Admitted s v 0xA1 r → checkOnly r = false → 4 ≤ r.length →
    s.mg.update = some u → sameAgent u.agent v = false → exec (.fwChunk ⟨v, ok⟩) s = .next (noWith s r stState [])) ∧
  (∀ (s w : State) (v : Via) (r : Request) (u : Update), Admitted s v 0xA2 r → checkOnly r = false → r.length = 0 →
    s.mg.update = some u → sameAgent u.agent v = true → covered u = true → u.failed = false → s.se.hostLoad = false →
    w = (if u.erased then s else flashErase s (slotAddr u.slot + 4096 * u.sectors) (4096 * (128 - u.sectors))) → ∃ t,
    exec (.fwFinish ⟨v, true⟩) s = .next t ∧ t.mg.update = none ∧
    (imageReject s (slotHeader s u.slot) (fun n => flashRead s (slotAddr u.slot + 512) n) u.size none = 0 →
      (∃ w, t = okWith w r (toLe 4 (hdrVersion (slotHeader s u.slot)) ++ toLe 4 (hdrIndex (slotHeader s u.slot)))) ∧
      t.flash = (setVerified w u.slot true (some (hdrVersion (slotHeader s u.slot)))).flash) ∧
    (imageReject s (slotHeader s u.slot) (fun n => flashRead s (slotAddr u.slot + 512) n) u.size none ≠ 0 →
      t.mg.finishErr = BitVec.ofNat 8 (imageReject s (slotHeader s u.slot)
        (fun n => flashRead s (slotAddr u.slot + 512) n) u.size none) ∧ t.flash = w.flash ∧
      ∃ w, t = interlock (respondWith w (acted r) stIntegrity false []))) ∧
  (∀ (s : State) (v : Via) (r : Request) (u : Update), Admitted s v 0xA2 r → checkOnly r = false → r.length = 0 →
    s.mg.update = some u → sameAgent u.agent v = true → covered u = true → u.erased = true → u.failed = true →
    s.se.hostLoad = false → ∃ t, exec (.fwFinish ⟨v, true⟩) s =
    .next (interlock (respondWith t (acted r) stIntegrity false [])) ∧ t.mg.update = none ∧ t.mg.finishErr = 9 ∧
    t.flash = s.flash) ∧
  (∀ (s : State) (v : Via) (r : Request) (u : Update), Admitted s v 0xA2 r → checkOnly r = false → r.length = 0 →
    s.mg.update = some u → sameAgent u.agent v = true → covered u = true → s.se.hostLoad = false → ∃ t,
    exec (.fwFinish ⟨v, false⟩) s = .next (interlock (respondWith t (acted r) stIntegrity false [])) ∧ t.mg.update = none ∧
    t.mg.finishErr = 9 ∧ t.mg.flashErr = true ∧ (srcOf t 59).sticky = true) ∧
  (∀ (s : State) (v : Via) (ok : Bool) (r : Request) (u : Update), Admitted s v 0xA2 r → checkOnly r = false → r.length = 0 →
    s.mg.update = some u → sameAgent u.agent v = true → covered u = false →
    exec (.fwFinish ⟨v, ok⟩) s = .next (noWith s r stState [])) ∧
  (∀ (s : State) (v : Via) (ok : Bool) (r : Request) (u : Update), Admitted s v 0xA2 r → checkOnly r = false → r.length = 0 →
    s.mg.update = some u → sameAgent u.agent v = true → covered u = true → s.se.hostLoad = true →
    ∃ t, exec (.fwFinish ⟨v, ok⟩) s = .next t ∧ t.mg.update = none ∧ (rejectBytes s s.se.image (lockedProt s) = 0 →
      t.se.phase = 2 ∧ t.se.slot = 0xFF) ∧ (rejectBytes s s.se.image (lockedProt s) ≠ 0 →
      t.se.reject = BitVec.ofNat 8 (rejectBytes s s.se.image (lockedProt s)))) ∧
  (∀ (s : State) (v : Via) (r : Request), Admitted s v 0xA3 r → checkOnly r = false → r.length = 4 →
    by_ r.payload 0 ≤ 1 → by_ r.payload 1 = 0 → by_ r.payload 2 = 0 → by_ r.payload 3 = 0 →
    slotVerified s (by_ r.payload 0) = true → ∃ t, exec (.fwActivate ⟨v, true⟩) s = .next (okWith t r []) ∧
    t.flash = (slotRecWrite s { (slotRec s).getD ⟨0, 0, 0, 0⟩ with active := by_ r.payload 0 }).flash ∧ t.se = s.se) ∧
  (∀ (s : State) (v : Via) (ok : Bool) (r : Request), Admitted s v 0xA3 r → checkOnly r = false → r.length = 4 →
    by_ r.payload 0 ≤ 1 → by_ r.payload 1 = 1 → by_ r.payload 2 = 0 → by_ r.payload 3 = 0 →
    s.se.phase = 3 → slotVerified s (by_ r.payload 0) = true → hdrProt (slotHeader s (by_ r.payload 0)) = secProt s → ∃ t,
    exec (.fwActivate ⟨v, ok⟩) s = .next t ∧ t.se.phase = 1 ∧ t.se.tries = [by_ r.payload 0, 1 - by_ r.payload 0] ∧
    t.se.restart = true ∧ t.hl.fwReady = false) ∧
  (∀ (s : State) (v : Via) (ok : Bool) (r : Request), Admitted s v 0xA3 r → checkOnly r = false → r.length = 4 →
    by_ r.payload 0 ≤ 1 → by_ r.payload 1 ≤ 1 → by_ r.payload 2 = 0 → by_ r.payload 3 = 0 →
    slotVerified s (by_ r.payload 0) = false → exec (.fwActivate ⟨v, ok⟩) s = .next (noWith s r stState [])) ∧
  (∀ (s : State) (v : Via) (ok : Bool) (r : Request), Admitted s v 0xA3 r → checkOnly r = false → r.length = 4 →
    by_ r.payload 0 ≤ 1 → by_ r.payload 1 = 1 → by_ r.payload 2 = 0 → by_ r.payload 3 = 0 →
    slotVerified s (by_ r.payload 0) = true → hdrProt (slotHeader s (by_ r.payload 0)) ≠ secProt s →
    exec (.fwActivate ⟨v, ok⟩) s = .next (noWith s r stLocked [])) ∧
  (∀ s : State, ∃ t, slotRecFailed s = flashFailed t ∧ t.mg = s.mg ∧ t.fs = s.fs)

/-! ### The whole machine -/

/-- A step (the model's queue, log entry 2): with a command at the front of the queue it is exec of that command on
the state with the queue's rest; on an empty queue it is one tick of 2 ns, which, unless the vote finds the channels apart or the
collector's copies differ, leaves every group but the pads, segment, time, fault, management, counter and clock groups as it was. -/
def Obligations.StepRunsFront : Prop :=
  (∀ (s : State) (c : Instr) (rest : List Instr), step (s.setPending (c :: rest)) = exec c (s.setPending rest)) ∧
  (∀ s : State, s.pending = [] → ∃ t, step s = .next t ∧ t.clock = s.clock + 2 ∧ t.pending = [] ∧
    (voteTick (tickChans s) = tickChans s → s.fs.second = s.fs.inverted → Only [.pads, .sg, .tm, .fs, .mg, .cnt, .clock] s t))

/-- While RESET_N is recognised low, or a rail is not good, every command but those of the always-on domains leaves
the machine exactly as it is (R24, R29); so does every command but those and the ones of the reset exit until the
islands are clocked (R35, Table 1-10). -/
def Obligations.HeldCoreDiscards : Prop :=
  (∀ (c : Instr) (s : State), alwaysOn c = false → inReset s = true → exec c s = .next s) ∧
  (∀ (c : Instr) (s : State), alwaysOn c = false → resetExit c = false → held s = true → exec c s = .next s)

/-- The queue is first in, first out: a step takes the front command and nothing else, whatever the command does. -/
def Obligations.QueueIsFirstInFirstOut : Prop :=
  ∀ (s t : State) (c : Instr) (rest : List Instr), s.pending = c :: rest → step s = .next t → t.pending = rest

/-- The fail-safe interlock is an invariant of every step (R20, R34, R464, R465): SAFE_N is high only while AO-safety
has released it with no F4 and no test mode; under either no Ts_TXEN is high and every lane is in electrical idle;
under an F4, EVT0–7 are low and MODn_TXDIS is high. -/
def Obligations.FailSafeKept : Prop :=
  ∀ s t : State, FailSafe s → step s = .next t → FailSafe t

/-- What a command may change: for each of the 234 commands, every group of the state outside the command's footprint
is after it what it was before; the clock and the waiting commands are in no footprint. -/
def Obligations.CommandFootprint : Prop :=
  ∀ (c : Instr) (s t : State), exec c s = .next t → Only (footprint c) s t

/-- Nothing but the loss of the always-on supply takes back the F4 latch, test mode, a sticky alarm or the zeroised
mark, and no fuse is ever unburnt, by any command or tick (R34, R471, R480, R493). -/
def Obligations.LatchesHold : Prop :=
  ∀ s t : State, s.pending.head? ≠ some .powerOnReset → s.pending.head? ≠ some .vddAoLoss → step s = .next t → Latched s t

/-- The memories (objects, both windows and flash) keep their canonical form through every step. -/
def Obligations.MemoriesStayCanonical : Prop :=
  ∀ s t : State, CanonicalMem s → step s = .next t → CanonicalMem t

/-- EVERY COMMAND COMPLETES. The first clause: no command ends in a fault or a refusal, whatever the state and the
operands. Then one clause for each row of the command table, in the table's order, from POWER_ON_RESET to MISSING_LOCAL:
conditions on the state and the operands alone under which the command answers a next state, and in it the first thing
of the command's own effect; the whole of each effect is in the statement of its family, under the rules it cites. -/
def Obligations.EveryCommandCompletes : Prop :=
  (∀ (c : Instr) (s : State), ∃ t, exec c s = .next t) ∧
  (∀ s : State, ∃ t, exec .powerOnReset s = .next t ∧ held t = true ∧ t.hl = {} ∧ t.objs = [] ∧ t.pads.ioDriven =
    false) ∧
  (∀ s : State, s.pw.aoRuns = true → ∃ t, exec .railsGood s = .next t ∧ t.pw = { s.pw with rails := 0x7F }) ∧
  (∀ s : State, s.pw.aoRuns = true → s.pads.ioDriven = false → ∃ t, exec .vddIoGood s = .next t ∧ t.pads.ioDriven =
    true) ∧
  (∀ (s : State) (rail : Fin 6), s.pw.aoRuns = true → s.pw.resetLow = true → ∃ t, exec (.railUndervoltage rail) s =
    .next t ∧ t.pw.rails.getLsbD (rail.val + 1) = false) ∧
  (∀ (s : State) (rail : Fin 6), s.pw.aoRuns = true → (srcOf s (6 + rail.val)).cond = false → ∃ t, exec
    (.railOvervoltage rail) s = .next t ∧ (srcOf t (6 + rail.val)).cond = true) ∧
  (∀ s : State, s.pw.aoRuns = true → s.pw.resetLow = false → ∃ t, exec .resetNRecognised s = .next t ∧ held t = true)
    ∧
  (∀ s : State, s.pw.aoRuns = true → exec .resetNRise s = .next (interlock
    { s with pw := { s.pw with resetLow := false } })) ∧
  (∀ (s : State) (id : BitVec 3) (src : BitVec 2), inReset s = false → s.pw.strapped = false → ∃ t, exec (.strapSample
    id src true) s = .next t ∧ t.pw.stackPos = id ∧ t.pw.bootSrc = src) ∧
  (∀ (s : State) (hz m : Nat), inReset s = false → s.pw.strapped = true → s.pw.refMHz = 0 → m ∈ [10, 20, 25] → ((hz :
    Int) - m * 1000000).natAbs ≤ m * 500 → ∃ t, exec (.refclkTimeMeasurement hz) s = .next t ∧ t.pw =
    { s.pw with refMHz := m, refLost := false }) ∧
  (∀ s : State, inReset s = false → s.pw.strapped = true → s.pw.refMHz ≠ 0 → s.se.phase = 0 → s.pw.bootSrc = 0 → ∃ t,
    exec .pllsLocked s = .next t ∧ t.pw = { s.pw with sysPll := true, timePll := true, clocked := true }) ∧
  (∀ s : State, held s = false → exec .uciePhyReady s = .next (interlock
    { s with pw := { s.pw with ucieReady := true } })) ∧
  (∀ s : State, inReset s = false → s.pads.xtalOut = true → exec .guardXtalStable s = .next (interlock
    { s with pw := { s.pw with guardRuns := true } })) ∧
  (∀ s : State, held s = false → s.pw.sysPll = true → ∃ t, exec .systemPllLossOfLock s = .next t ∧ t.pw =
    { s.pw with sysPll := false }) ∧
  (∀ s : State, inReset s = false → s.pw.refMHz ≠ 0 → ∃ t, exec .refclkTimeLost s = .next t ∧ t.pw =
    { s.pw with refLost := true }) ∧
  (∀ (s : State) (hz m : Nat), inReset s = false → s.pw.refLost = true → m ∈ [10, 20, 25] → ((hz : Int) - m *
    1000000).natAbs ≤ m * 500 → ∃ t, exec (.refclkTimeReturn hz) s = .next t ∧ t.pw =
    { s.pw with refMHz := m, refLost := false }) ∧
  (∀ s : State, held s = false → s.pw.ucieReady = true → s.hl.training = false → ∃ t, exec .linkTrainingStart s =
    .next t ∧ t.hl.trained = false) ∧
  (∀ (s : State) (r : Fin 4) (half : Fin 3), held s = false → s.hl.training = true → s.hl.leaving = false → ∃ t, exec
    (.linkTrainingComplete r half) s = .next t ∧ t.hl.trained = true) ∧
  (∀ (s : State) (f : Bytes), held s = false → s.hl.trained = true → s.hl.waiting = [] → s.hl.nakDue = false →
    s.hl.leaving = false → s.hl.rxBad = false → le f 252 4 = crc32c (f.take 252) → le f 0 2 / 4096 = 0 → bitN (le f
    248 2) 15 = false → exec (.flitReceive f) s = .next (interlock (s.modHl fun l =>
    { l with crP := l.crP + by_ f 240, crPD := l.crPD + le f 241 2 % 4096, crNP := l.crNP + by_ f 243, crLM := l.crLM + by_ f 244 })))
    ∧
  (∀ (s : State) (a : HeldFlit) (l : List HeldFlit), held s = false → s.hl.trained = true → s.hl.waiting = [] →
    s.hl.nakDue = false → s.hl.leaving = false → s.hl.replay = a :: l → (∀ x ∈ a :: l, x.seq ≠ a.seq - 1 ∧ x.replays <
    3) → ∃ t, exec (.nakReceive a.seq) s = .next t ∧ t.outs = s.outs ++ (a :: l).map (fun x => .flit x.flit)) ∧
  (∀ s : State, held s = false → clsOf s 52 = 1 → s.hl.asked = true → ∃ t, exec .retrainTimeout s = .next t ∧
    t.hl.hostLost = true) ∧
  (∀ s : State, held s = false → s.hl.trained = true → ∃ t f, exec .nullFlitSend s = .next t ∧ t.outs = s.outs ++
    [.flit f]) ∧
  (∀ s : State, held s = false → clsOf s 52 = 1 → s.hl.trained = true → ∃ t, exec .flitReceiveTimeout s = .next t ∧
    t.hl.hostLost = true) ∧
  (∀ s : State, held s = false → clsOf s 52 = 1 → s.hl.trained = true → ∃ t, exec .adapterLinkDown s = .next t ∧
    t.hl.hostLost = true) ∧
  (∀ (s : State) (m : WinMsg), held s = false → s.hl.trained = true → winMalformed true m = false → m.attr.getLsbD 0 =
    false → winLegal m = true → winHeld s m = false → exec (.mwr m) s = .next (interlock (winWrite
    { s with hl := { s.hl with gvP := s.hl.gvP - 1, gvPD := s.hl.gvPD - (m.length.toNat + 63) / 64, rtP := s.hl.rtP + 1, rtPD := s.hl.rtPD + (m.length.toNat + 63) / 64 } }
    m))) ∧
  (∀ (s : State) (m : WinMsg), held s = false → s.hl.trained = true → winMalformed false m = false → m.attr.getLsbD 0
    = false → winLegal m = true → winHeld s m = false → exec (.mrd m) s = .next (interlock (sendMsg
    { s with hl := { s.hl with gvNP := s.hl.gvNP - 1, rtNP := s.hl.rtNP + 1 } } (msgHeader 3 0 m.tag.toNat
    m.length.toNat 0 0 0 ++ winRead s m)))) ∧
  (∀ (s : State) (c : CplMsg) (d : Dmrd), held s = false → s.hl.trained = true → s.hl.waiting = [] → s.hl.nakDue =
    false → cplReserved c = false → c.length ≠ 0 → c.length.toNat ≤ 256 → c.status = 0 → c.attr.getLsbD 0 = false →
    s.hl.dmrds.find? (·.tag == c.tag.toNat) = some d → pieceOk d c = true → d.got.length + c.data.length ≠ d.len →
    exec (.dcpld c) s = .next (interlock
    { s with hl := { s.hl with dmrds := s.hl.dmrds.map fun x => if x = d then { d with got := d.got ++ c.data } else x } }))
    ∧
  (∀ (s : State) (c : CplMsg) (d : Dmrd) (q idx : Nat), held s = false → s.hl.trained = true → s.hl.waiting = [] →
    cplReserved c = false → c.length = 0 → clsOf s 49 ≤ 1 → s.hl.dmrds.find? (·.tag == c.tag.toNat) = some d → d.use =
    .txDesc q idx → (que s q).enable = true → ∃ t, exec (.dcpl c) s = .next t ∧ (que t q).stopped = true) ∧
  (∀ (s : State) (tag : BitVec 10) (d : Dmrd) (q idx : Nat), held s = false → clsOf s 50 ≤ 1 → s.hl.dmrds.find? (·.tag
    == tag.toNat) = some d → d.use = .rxDesc q idx → (que s (64 + q)).enable = true → ∃ t, exec (.dmrdTimeout tag) s =
    .next t ∧ (que t (64 + q)).stopped = true) ∧
  (∀ s : State, held s = false → s.hl.trained = true → s.hl.leaving = false → s.hl.state = lsActive ∨ s.hl.state =
    lsQuiescing → ∃ t, exec .hostQuiesce s = .next t ∧ t.hl.state = lsQuiescing) ∧
  (∀ (s : State) (v : BitVec 32), held s = false → s.hl.state ≠ lsDetached → s.hl.waiting = [] → s.hl.nakDue = false →
    exec (.hlCtrlWrite v) s = .next (interlock { s with hl := { s.hl with ctrl := v &&& 0x3C007 } })) ∧
  (∀ (s : State) (v : BitVec 32), held s = false → v.toNat / 128 % 32 ≠ 0 → ∃ t, exec (.hlStatusClear v) s = .next t ∧
    (∀ k < 5, t.hl.flags.getLsbD k = (s.hl.flags.getLsbD k && !v.getLsbD (7 + k)))) ∧
  (∀ (s : State) (w : Fin 4) (v : BitVec 32), held s = false → ∃ t, exec (.evMaskWrite w v) s = .next t ∧ ∀ i < 128, i
    / 32 = w.val → t.hl.evMask.getLsbD i = v.getLsbD (i % 32)) ∧
  (∀ (s : State) (w : Fin 4) (v : BitVec 32), held s = false → s.hl.evAgain = 0 → ∃ t, exec (.evPendClear w v) s =
    .next t ∧ ∀ i < 128, t.hl.evPend.getLsbD i = (s.hl.evPend.getLsbD i && !(i / 32 == w.val && v.getLsbD (i % 32))))
    ∧
  (∀ (s : State) (vec : Fin 128), held s = false → s.hl.evWait.getLsbD vec.val = true → ∃ t, exec (.evHoldoffExpiry
    vec) s = .next t ∧ t.hl.evWait.getLsbD vec.val = false) ∧
  (∀ (s : State) (q : Fin 64) (v : BitVec 32), held s = false → queuesOpen s = true → (que s q.val).enable = false ∨
    v.toNat % 4096 < (que s q.val).size.toNat → exec (.txqTailWrite q v) s = .next (interlock (modQue s q.val fun u =>
    { u with tail := BitVec.ofNat 12 v.toNat }))) ∧
  (∀ (s : State) (q : Fin 64) (v : BitVec 32), held s = false → queuesOpen s = true → (que s (64 + q.val)).enable =
    false ∨ v.toNat % 4096 < (que s (64 + q.val)).size.toNat → exec (.rxqTailWrite q v) s = .next (interlock (modQue s
    (64 + q.val) fun u => { u with tail := BitVec.ofNat 12 v.toNat }))) ∧
  (∀ (s : State) (d : Dir) (q : Fin 64) (v : BitVec 32), held s = false → queuesOpen s = true → (que s (queIx d
    q.val)).enable = false → (que s (queIx d q.val)).stamped = false → v.getLsbD 31 = true → v.getLsbD 30 = false →
    (que s (queIx d q.val)).base.toNat % 4096 = 0 → (que s (queIx d q.val)).size.toNat ∈ [16, 32, 64, 128, 256, 512,
    1024, 2048, 4096] → (que s (queIx d q.val)).tail.toNat < (que s (queIx d q.val)).size.toNat → ∃ t, exec
    (.queueEnable d q v) s = .next t ∧ (que t (queIx d q.val)).enable = true) ∧
  (∀ (s : State) (d : Dir) (q : Fin 64) (v : BitVec 32), held s = false → queuesOpen s = true → (que s (queIx d
    q.val)).enable = true → v.getLsbD 31 = false → ∃ t, exec (.queueDisable d q v) s = .next t ∧ (que t (queIx d
    q.val)).closing = true) ∧
  (∀ (s : State) (d : Dir) (q : Fin 64), held s = false → (que s (queIx d q.val)).closing = true → reads s (queIx d
    q.val) = false → anyStarted s (queIx d q.val) = false → (que s (queIx d q.val)).recs = [] → (que s (queIx d
    q.val)).wbs = [] → ∃ t, exec (.queueDisableComplete d q) s = .next t ∧ (que t (queIx d q.val)).enable = false) ∧
  (∀ (s : State) (d : Dir) (q : Fin 64) (v : BitVec 32), held s = false → queuesOpen s = true → (que s (queIx d
    q.val)).enable = false → (que s (queIx d q.val)).stamped = false → v.getLsbD 31 = false → v.getLsbD 30 = true →
    stampedCount s (64 ≤ queIx d q.val) < 8 → ∃ t, exec (.stampedWrite d q v) s = .next t ∧ (que t (queIx d
    q.val)).stamped = true) ∧
  (∀ (s : State) (q : Fin 64) (tag : Nat), held s = false → fetches s q.val = true → findTag s 1024 s.hl.nextTag =
    some tag → ∃ t d, exec (.txDescriptorFetch q) s = .next t ∧ t.hl.dmrds = s.hl.dmrds ++ [d]) ∧
  (∀ (s : State) (q : Fin 64) (r : TxRec) (p : Fin 6) (n tag : Nat), held s = false → dmaOk s = true → s.hl.state =
    lsActive → s.fs.f4 = false → (que s q.val).enable = true → (que s q.val).stopped = false → (que s q.val).closing =
    false → (que s q.val).recs = [r] → r.phase = .read → r.dest = none → ones r.todo = [p.val] → downFor s p.val =
    false → descLaunch r.desc = false → cellsFit s r [p.val] = true → pieces (maxRead s) (le r.desc 0 8) (descLen
    r.desc) = [(0, n)] → 4 ≤ n → findTag s 1024 s.hl.nextTag = some tag → ∃ t d, exec (.txFrameFetch q) s = .next t ∧
    t.hl.dmrds = s.hl.dmrds ++ [d]) ∧
  (∀ (s : State) (q : Fin 64) (tag : Nat), held s = false → fetches s (64 + q.val) = true → findTag s 1024
    s.hl.nextTag = some tag → ∃ t d, exec (.rxDescriptorFetch q) s = .next t ∧ t.hl.dmrds = s.hl.dmrds ++ [d]) ∧
  (∀ (s : State) (q : Fin 64) (r : TxRec) (l : List TxRec) (v : BitVec 8), held s = false → dmaOk s = true → postedOk
    s = true → (que s q.val).recs = r :: l → r.phase = .done v → (que s q.val).stamped = false → ∃ t, exec
    (.txWriteBack q) s = .next t ∧ (que t q.val).recs = l) ∧
  (∀ (s : State) (q : Fin 64) (w : RxWb) (l : List RxWb), held s = false → dmaOk s = true → postedOk s = true →
    s.fs.f4 = false → (que s (64 + q.val)).wbs = w :: l → ∃ t, exec (.rxWriteBack q) s = .next t ∧ (que t (64 +
    q.val)).wbs = l) ∧
  (∀ (s : State) (v : Via) (r : Request), Admitted s v 0xC0 r → checkOnly r = false → r.length = 0 → s.hl.state =
    lsActive → exec (.detach v) s = .next (interlock (setLinkState ((onTaken s r).modHl fun l =>
    { l with detachVia := some r.via }) lsQuiescing))) ∧
  (∀ s : State, held s = false → s.hl.state = lsQuiescing → s.hl.dmrds = [] → s.hl.leaving = false → s.hl.trained =
    true → (∀ x ∈ s.hl.waiting, dmaHeld s.hl x.msg = true ∧ x.cls ≠ .linkMgmt) → s.hl.nakDue = false → 1 ≤ s.hl.crLM →
    s.hl.replay.length < 64 → s.hl.quiesce = true ∨ (s.hl.detachVia = none ∧ s.hl.evMask.getLsbD 126 = true ∧ ∀ i <
    128, (que s i).recs = [] ∧ (que s i).wbs = []) → ∃ t, exec .detachDrainComplete s = .next t ∧ t.hl.state =
    lsDetached) ∧
  (∀ (s : State) (v : Via) (r : Request), Admitted s v 0xC1 r → checkOnly r = false → r.length = 0 → s.hl.state =
    lsDetached → s.hl.trained = true → ∃ t, exec (.attach v) s = .next t ∧ t.hl.state = lsActive) ∧
  (∀ s : State, held s = false → s.hl.state = lsDetached → s.hl.detach.toNat / 65536 ≠ 0 → exec .holdLimitExpiry s =
    .next (interlock { s with hl := { s.hl with holdOver := true } })) ∧
  (∀ (s : State) (n : Fin 4), held s = false → (mbox s n.val).state = 1 ∨ (mbox s n.val).state = 4 → exec (.post n) s
    = .next (interlock (modMbox s n.val fun c => { c with state := 2, at_ := recvTime s }))) ∧
  (∀ (s : State) (n : Fin 4), held s = false → (mbox s n.val).state = 4 → exec (.ack n) s = .next (interlock (modMbox
    s n.val fun c => { c with state := 1 }))) ∧
  (∀ (s : State) (n : Fin 4), held s = false → (mbox s n.val).state = 2 → exec (.abandon n) s = .next (interlock
    (modMbox s n.val fun c => { c with state := 1 }))) ∧
  (∀ s : State, held s = false → (mbox s 0).state = 2 → exec .requestTake s = .next (interlock (takeReq (count
    (modMbox s 0 fun c => { c with state := 3 }) cDev 9) (parseReq (.mb 0) (mread win0Reset s.win0 (reqBuf 0) 4096)
    (mbox s 0).at_ false)))) ∧
  (∀ s : State, held s = false → clsOf s 57 = 1 → ∃ t, exec .mailboxServiceLimitMissed s = .next t ∧ (srcOf t
    57).sticky = true) ∧
  (∀ (s : State) (v : Via) (r : Request), Admitted s v 0x01 r → checkOnly r = false → r.length ≤ 64 → exec (.ping v) s
    = .next (okWith (onTaken s r) r r.payload)) ∧
  (∀ (s : State) (v : Via) (r : Request), Admitted s v 0x02 r → checkOnly r = false → r.length = 0 → s.se.hostLoad =
    false → ∃ p, exec (.getInfo v) s = .next (okWith (onTaken s r) r p) ∧ p.length = 24) ∧
  (∀ (s : State) (v : Via) (r : Request) (d : Desc), Admitted s v 0x10 r → checkOnly r = false → descOf r.oid.toNat =
    some d → r.oid.toNat % 16 ≠ 15 → r.length = 4 → by_ r.payload 0 ≤ 1 → by_ r.payload 1 = 0 → by_ r.payload 2 = 0 →
    by_ r.payload 3 = 0 → needsMet s r.oid.toNat d 0 1 = true → exec (.attrGet v) s = .next (okWith (onTaken s r) r
    (groupImage (onTaken s r) (if by_ r.payload 0 = 1 then allOrders s else []) r.oid.toNat d))) ∧
  (∀ (s : State) (v : Via) (r : Request) (d : Desc), Admitted s v 0x11 r → checkOnly r = false → descOf r.oid.toNat =
    some d → d.kind = .immediate → r.oid.toNat / 0x10000 = 0x0300 → 8 ≤ r.length → r.length ≤ 132 → wordsOutside d
    r.payload = false → needsMet s r.oid.toNat d 0 1 = true → imageIllegal r.oid.toNat d r.payload (mergeImage d
    r.payload (objRead s (physOid s r.oid.toNat) 0 d.size)) = none → ∃ t, exec (.attrSet v) s = .next (okWith t r [])
    ∧ t.objs = (objWrite s (physOid s r.oid.toNat) 0 (mergeImage d r.payload (objRead s (physOid s r.oid.toNat) 0
    d.size))).objs) ∧
  (∀ (s : State) (v : Via) (r : Request) (d : Desc), Admitted s v 0x20 r → checkOnly r = false → descOf r.oid.toNat =
    some d → d.kind = .immediate → r.oid.toNat / 0x10000 ≠ 0x0803 → le r.payload 0 4 + le r.payload 4 2 ≤ d.entries →
    0 < le r.payload 4 2 → le r.payload 6 2 = d.size → r.length = 8 + le r.payload 4 2 * d.size → entriesIllegal
    (onTaken s r) r.oid.toNat d ((List.range (le r.payload 4 2)).map fun k => sub r.payload (8 + k * d.size) d.size) =
    none → needsMet s r.oid.toNat d (le r.payload 0 4) (le r.payload 4 2) = true → tableRefusal (onTaken s r) (acted
    r) r.oid.toNat (le r.payload 0 4) ((List.range (le r.payload 4 2)).map fun k => sub r.payload (8 + k * d.size)
    d.size) false = none → exec (.tableWrite v) s = .next (okWith (writeEntries (onTaken s r) r.oid.toNat d (le
    r.payload 0 4) ((List.range (le r.payload 4 2)).map fun k => sub r.payload (8 + k * d.size) d.size)) r (toLe 4 (le
    r.payload 4 2)))) ∧
  (∀ (s : State) (v : Via) (r : Request) (d : Desc), Admitted s v 0x21 r → checkOnly r = false → descOf r.oid.toNat =
    some d → r.length = 8 → le r.payload 0 4 < d.entries → by_ r.payload 6 ≤ 1 → by_ r.payload 7 = 0 → needsMet s
    r.oid.toNat d (le r.payload 0 4) (min (le r.payload 4 2) (min (d.entries - le r.payload 0 4) (4076 / d.size))) =
    true → exec (.tableRead v) s = .next (okWith (onTaken s r) r (toLe 2 (min (le r.payload 4 2) (min (d.entries - le
    r.payload 0 4) (4076 / d.size))) ++ toLe 2 d.size ++ (List.range (min (le r.payload 4 2) (min (d.entries - le
    r.payload 0 4) (4076 / d.size)))).flatMap fun k => entryImage (onTaken s r) (if by_ r.payload 6 = 1 then allOrders
    s else []) r.oid.toNat d (le r.payload 0 4 + k)))) ∧
  (∀ (s : State) (v : Via) (r : Request) (d : Desc), Admitted s v 0x22 r → checkOnly r = false → descOf r.oid.toNat =
    some d → d.kind = .immediate → r.oid.toNat / 0x10000 ≠ 0x0803 → r.length = 8 → le r.payload 0 4 < d.entries → le
    r.payload 4 4 = 0 → needsMet s r.oid.toNat d (le r.payload 0 4) (d.entries - le r.payload 0 4) = true →
    tableRefusal (onTaken s r) (acted r) r.oid.toNat (le r.payload 0 4) (List.replicate (d.entries - le r.payload 0 4)
    d.reset) true = none → exec (.tableClear v) s = .next (okWith (writeEntries (onTaken s r) r.oid.toNat d (le
    r.payload 0 4) (List.replicate (d.entries - le r.payload 0 4) d.reset)) r (toLe 4 (d.entries - le r.payload 0
    4)))) ∧
  (∀ (s : State) (v : Via) (r : Request), Admitted s v 0x30 r → checkOnly r = false → r.length = 4 → by_ r.payload 0 ≤
    7 → by_ r.payload 1 = 0 → by_ r.payload 2 = 0 → by_ r.payload 3 = 0 → modeFail (onTaken s r) [] (by_ r.payload 0)
    true = none → s.mb.stage = [] → s.mb.frozen = [] → s.sk.config = 0 → ∃ t o, exec (.stageMode v) s = .next
    (stagedWith t r []) ∧ t.mb.stage = [o]) ∧
  (∀ (s : State) (v : Via) (r : Request) (b : Nat), Admitted s v 0x31 r → checkOnly r = false → r.length = 8 →
    s.mb.boundary = none → timeOk s = true → chooseBoundary s r.via (le r.payload 0 8) = some b → periodFits s
    s.mb.stage (commitPeriod s) = true → s.sk.config = 0 → modeOf s.mb.stage = none → freezeBad s s.mb.stage = false →
    freezeDomains s s.mb.stage = [] → ∃ t, exec (.commit v) s = .next t ∧ t.mb.boundary = some b) ∧
  (∀ (s : State) (v : Via) (r : Request), Admitted s v 0x32 r → checkOnly r = false → r.length = 8 → by_ r.payload 0 ≤
    2 → by_ r.payload 1 = 0 → by_ r.payload 2 = 0 → by_ r.payload 3 = 0 → (s.mb.stage.filter (abortSel r)) ≠ [] → exec
    (.abortStage v) s = .next (okWith (underCeil ((onTaken s r).modMb fun m =>
    { m with stage := m.stage.filter fun o => !abortSel r o })) r (toLe 2 (s.mb.stage.filter (abortSel r)).length))) ∧
  (∀ (s : State) (v : Via) (r : Request), Admitted s v 0x38 r → checkOnly r = false → r.length = 0 → on s 62 = true →
    s.rx.draining = none → shadowComplete s = true → exec (.epochSwap v) s = .next (okWith (drainCheck (swapEpoch
    (onTaken s r))) r (toLe 2 s.rx.shadow.toNat ++ toLe 2 s.rx.epoch.toNat))) ∧
  (∀ (s : State) (v : Via) (r : Request), Admitted s v 0x39 r → checkOnly r = false → r.length = 0 → exec
    (.epochStatus v) s = .next (okWith (onTaken s r) r (toLe 2 s.rx.epoch.toNat ++ toLe 2 (shadowField s) ++ toLe 2
    (drainField s) ++ [0, 0] ++ toLe 4 (drainCount s)))) ∧
  (∀ (s : State) (v : Via) (r : Request) (d : Nat), Admitted s v 0x40 r → v ≠ .boot → checkOnly r = false → r.length =
    4 → by_ r.payload 0 = d → by_ r.payload 1 = 0 → by_ r.payload 2 = 0 → by_ r.payload 3 = 0 → d ≤ 77 → enabled s d =
    false → s.ld.moving = none → depsMet (enabled s) d = true → pinConflict s d = none → s.ld.exceeds = false → cost d
    ≤ headroom s → exec (.domainEnable v) s = .next (interlock ((setDom (onTaken s r) d
    { state := 1, agent := BitVec.ofNat 8 (agentOf r.via), rank := rankOf r.via }).modLd fun l =>
    { l with moving := some (d, .order r.via) }))) ∧
  (∀ (s : State) (d : Fin 78) (v : Via), held s = false → s.ld.moving = some (d.val, .order v) → (dom s d.val).state =
    1 → ∀ u, u = gain ((setDom s d.val { dom s d.val with state := 2 }).modLd fun l => { l with moving := none })
    d.val → exec (.domainEnableComplete d) s = .next (interlock (lateAgree (advance (answerMove u (.order v) 0x40 stOk
    (toLe 4 (chargedTotal u) ++ toLe 4 (ceiling u))))))) ∧
  (∀ (s : State) (d : Fin 78) (v : Via), held s = false → s.ld.moving = some (d.val, .order v) → (dom s d.val).state =
    1 → s.ld.plan = [] → s.mb.taken = [] → clsOf s 64 = 1 → clsOf s 65 = 1 → ∃ t, exec (.domainEnableFailed d) s =
    .next t ∧ dom t d.val = {}) ∧
  (∀ (s : State) (v : Via) (r : Request) (d : Nat), Admitted s v 0x41 r → checkOnly r = false → r.length = 4 → by_
    r.payload 0 = d → by_ r.payload 1 = 0 → by_ r.payload 2 = 0 → by_ r.payload 3 = 0 → d ≤ 77 → d < 65 ∨ 68 < d →
    (dom s d).state ≠ 0 → neverOff d = false → rankOf r.via ≤ (dom s d).rank → s.ld.moving = none → needed s d = false
    → disableConflict s d = none → exec (.domainDisable v) s = .next (interlock ((setDom (onTaken s r) d
    { dom s d with state := 3 }).modLd fun l => { l with moving := some (d, .order r.via) }))) ∧
  (∀ (s : State) (d : Fin 78) (v : Via), held s = false → s.ld.moving = some (d.val, .order v) → (dom s d.val).state =
    3 → ∀ x u, x = (setDom s d.val {}).modLd (fun l => { l with moving := none, isolated := l.isolated.erase d.val })
    → u = checkOver (lose (if 50 ≤ d.val ∧ d.val < 58 then bankGone x else x) d.val) → exec (.domainDisableComplete d)
    s = .next (interlock (lateAgree (advance (answerMove u (.order v) 0x41 stOk (toLe 4 (chargedTotal u) ++ toLe 4
    (ceiling u))))))) ∧
  (∀ (s : State) (v : Via) (r : Request), Admitted s v 0x42 r → checkOnly r = false → r.length = 0 → ∃ p, exec
    (.ledgerQuery v) s = .next (okWith (onTaken s r) r p) ∧ p.length = 32) ∧
  (∀ s : State, held s = false → clsOf s 65 = 1 → hottest s ≤ 1050 → ∃ t, exec .tjReading s = .next t ∧ t.ld.tj =
    hottest s) ∧
  (∀ (s : State) (d : Nat), held s = false → s.ld.moving = none → s.ld.exceeds = true → (srcOf s 65).cond = true →
    ceiling s < chargedTotal s → shedNext s = some d → exec .ledgerShed s = .next (interlock (startDisable (logLedger
    s d 0) d .shed))) ∧
  (∀ (s : State) (i : Fin 16) (u : Fin 32), held s = false → u.val = 16 + i.val → (doz s u.val).status = 0 → (dom s
    (30 + i.val)).state = 2 → s.ld.moving = none → s.ld.plan = [] → ∃ t, exec (.dozeEntry u) s = .next t ∧ (doz t
    u.val).status = 1) ∧
  (∀ (s : State) (u : Fin 32), held s = false → dozeUnit u.val = true → (doz s u.val).status = 2 → s.fs.f4 = false →
    exec (.dozeExit u) s = .next (interlock (wakeUp (objWrite s (oidOf 0x0103 u.val 0) 0 [0]) u.val))) ∧
  (∀ (s : State) (p : Fin 6), held s = false → (doz s p.val).status = 2 → on s (18 + p.val) = true → exec
    (.wakePatternMatch p) s = .next (interlock (wakeUp s p.val))) ∧
  (∀ (s : State) (i : Fin 16), held s = false → (doz s (16 + i.val)).status = 2 → exec (.energyDetect i) s = .next
    (interlock (wakeUp s (16 + i.val)))) ∧
  (∀ (s : State) (v : Via) (r : Request), Admitted s v 0x50 r → checkOnly r = false → r.length = 0 → timeOk s = true →
    exec (.timeRead v) s = .next (okWith (onTaken s r) r (toLe 6 (now80 s / 65536 / 1000000000) ++ toLe 4 (now80 s /
    65536 % 1000000000) ++ toLe 2 (now80 s % 65536) ++ toLe 1 s.tm.state ++ [0, 0, 0] ++ toLe 8 (rawNow s / 65536) ++
    toLe 2 (rawNow s % 65536) ++ [0, 0, 0, 0, 0, 0]))) ∧
  (∀ (s : State) (v : Via) (r : Request), Admitted s v 0x51 r → checkOnly r = false → r.length = 24 → by_ r.payload 0
    = 1 → (∀ o ∈ [1, 2, 3, 18, 19, 20, 21, 22, 23], by_ r.payload o = 0) → mayAdjust s r.via = true → on s 68 = true →
    s.tm.pending = none → (sgn 32 (le r.payload 4 4) - rateNow s).natAbs ≤ rateStepLimit s → exec (.timeAdjust v) s =
    .next (interlock ((onTaken s r).modTm fun t =>
    { t with pending := some { rate := some (BitVec.ofInt 32 (sgn 32 (le r.payload 4 4))), step := none, permit := false, via := some r.via, servo := true, at_ := rawNow s / 65536 } })))
    ∧
  (∀ (s : State) (a : Adjust), held s = false → s.tm.pending = some a → timeOk s = true → atPoint s a = true →
    a.permit = false → a.step = none → ∃ t, exec .adjustmentPoint s = .next t ∧ t.tm.pending = none) ∧
  (∀ (s : State) (v : Via), held s = false → on s 68 = true → opAllowed s v 0x11 = true → rankOf v ≤ 3 → exec
    (.permitArm v) s = .next (interlock
    { s with tm := { s.tm with permit := 1, permitAgent := BitVec.ofNat 8 (agentOf v), permitEnd := s.clock + 10000000000 } }))
    ∧
  (∀ s : State, held s = false → s.tm.permit = 1 → exec .permitExpiry s = .next (interlock
    { s with tm := { s.tm with permit := 0, permitAgent := 0, permitEnd := 0 } })) ∧
  (∀ (s : State) (ch : Fin 3) (vals : BitVec 8), held s = false → timeOk s = true → (voters s).length = 3 → clsOf s
    (32 + ch.val) = 2 → (chan s ch.val).times = [] → ∃ t, exec (.channelOutvoted ch vals) s = .next t ∧ (chan t
    ch.val).inVote = false) ∧
  (∀ s : State, held s = false → on s 68 = true → s.tm.lostVote = false → clsOf s 35 = 4 → ∃ t, exec .voteFailed s =
    .next t ∧ t.tm.lostVote = true) ∧
  (∀ (s : State) (p : Fin 3) (o : BitVec 80), held s = false → timeOk s = true → servoRuns s = false → (plane s
    p.val).settle = 0 → ∃ t, exec (.servoUpdate p o) s = .next t ∧ (plane t p.val).off = o.toInt) ∧
  (∀ (s : State) (p : Fin 3) (id : BitVec 64), held s = false → on s 68 = true → (plane s p.val).gm ≠ id → clsOf s 38
    ≤ 1 → clsOf s 41 ≤ 1 → clsOf s 42 ≤ 1 → ∃ t, exec (.grandmasterChange p id) s = .next t ∧ (plane t p.val).gm = id)
    ∧
  (∀ (s : State) (p : Fin 3), held s = false → on s 68 = true → clsOf s 38 ≤ 1 → clsOf s 42 ≤ 1 → ∃ t, exec
    (.announceTimeout p) s = .next t ∧ (plane t p.val).state = 0) ∧
  (∀ s : State, held s = false → timeOk s = true → s.tm.state = 0 → servoOwner s = 1 → ∃ t, exec .holdoverEntry s =
    .next t ∧ t.tm.state = 1) ∧
  (∀ s : State, held s = false → timeOk s = true → s.tm.state = 1 → clsOf s 43 ≤ 1 → ∃ t, exec .holdoverMax s = .next
    t ∧ t.tm.state = 2) ∧
  (∀ (s : State) (v : Via) (r : Request) (n : Nat), Admitted s v 0x52 r → checkOnly r = false → r.length = 24 → by_
    r.payload 0 = n → n ≤ 7 → by_ r.payload 1 = 1 → by_ r.payload 2 ≤ 1 → (∀ o ∈ [3, 14, 15], by_ r.payload o = 0) →
    100 ≤ le r.payload 16 4 → le r.payload 16 4 ≤ 1000000000 → 4 ≤ le r.payload 20 4 → le r.payload 20 4 ≤ 1000000000
    → on s 68 = true → on s 72 = true → now80 s + 10000 * 65536 ≤ le r.payload 4 10 → compRefusal (onTaken s r) (oTout
    n) 1 = none → s.fs.f4 = false → ∃ t, exec (.timedOutSet v) s = .next (okWith t r []) ∧ (tout t n).mode = 1) ∧
  (∀ (s : State) (n : Fin 8), held s = false → on s 72 = true → timeOk s = true → s.fs.f4 = false → (tout s
    n.val).mode = 2 → (tout s n.val).state ≠ 3 → (tout s n.val).last = 0 → ∃ t, exec (.timedOutputEdge n) s = .next t
    ∧ (tout t n.val).edge = (tout s n.val).edge + 1) ∧
  (∀ (s : State) (v : Via) (n : Fin 4), held s = false → on s 68 = true → on s 72 = true → opAllowed s v 0x11 = true →
    ∃ t, exec (.timedCapWrite v n ([1, 3] ++ List.replicate 18 0 ++ toLe 4 100)) s = .next t ∧ (cap t n.val).shut =
    false) ∧
  (∀ (s : State) (n : Fin 4) (rising : Bool) (sub : BitVec 7), held s = false → on s 72 = true → timeOk s = true →
    capOn s n.val = true → (cap s n.val).shut = false → bitN (cfg s (oTcap n.val) 1 1) (if rising then 0 else 1) =
    true → capWindowed s n.val = false → (cap s n.val).last = 0 → (cap s n.val).stamps.length < 16 → ∃ t x, exec
    (.capture n rising sub) s = .next t ∧ (cap t n.val).stamps = (cap s n.val).stamps ++ [x]) ∧
  (∀ (s : State) (n : Fin 4), held s = false → on s 72 = true → capOn s n.val = true → capWindowed s n.val = true →
    exec (.captureWindowClose n) s = .next (interlock (modCap s n.val fun c => { c with shut := true }))) ∧
  (∀ (s : State) (v : Via) (r : Request) (n : Nat), Admitted s v 0x53 r → checkOnly r = false → r.length = 4 → by_
    r.payload 0 = n → n ≤ 3 → by_ r.payload 1 = 0 → by_ r.payload 2 = 0 → by_ r.payload 3 = 0 → on s 68 = true → on s
    72 = true → capOn s n = true → exec (.captureRead v) s = .next (interlock (respondWith (modCap (onTaken s r) n fun
    c => { c with stamps := [], lost := 0 }) (acted r) (if (cap s n).lost = 0 then stOk else stPartial) false
    (capPayload (cap s n))))) ∧
  (∀ (s : State) (v : Via) (r : Request) (d : Nat), Admitted s v 0x58 r → checkOnly r = false → r.length = 4 →
    calDomain (by_ r.payload 0) = some d → (∀ o ∈ [1, 2, 3], by_ r.payload o = 0) → on s d = true → exec (.calStatus
    v) s = .next (okWith (onTaken s r) r (calPayload s (by_ r.payload 0)))) ∧
  (∀ (s : State) (v : Via) (r : Request) (d : Nat), Admitted s v 0x59 r → checkOnly r = false → r.length = 4 →
    calDomain (by_ r.payload 0) = some d → on s d = true → by_ r.payload 1 ≤ 2 → 5 ≤ by_ r.payload 2 → by_ r.payload 2
    ≤ 100 → by_ r.payload 3 = 0 → by_ r.payload 0 < 32 → (by_ r.payload 1 = 1 → ∀ pt ∈ ptsOf (by_ r.payload 0), (calPt
    s pt).due.getLsbD 1 = false) → exec (.calPolicy v) s = .next (okWith (policy (onTaken s r) (by_ r.payload 0) (by_
    r.payload 1) (by_ r.payload 2)) r [])) ∧
  (∀ (s : State) (conv : Fin 8) (ok : Bool), held s = false → on s 70 = true → exec (.codeDensityTest conv ok) s =
    .next (interlock (trefFault (s.modCal fun c => { c with convBad := setBit c.convBad conv.val (!ok) })))) ∧
  (∀ (s : State) (pt : Fin 49), held s = false → on s 70 = true → on s (ptDomain pt.val) = true → (calPt s
    pt.val).running = false → (ptDue s pt.val).isSome = true → pt.val = 48 ∨ (calPort s (calInst pt.val)).suspended =
    false → aheadOf s pt.val < freeConv s → exec (.calibrationPassStart pt) s = .next (interlock (modCalPt s pt.val
    fun x => { x with running := true, start := s.clock, waits := none }))) ∧
  (∀ (s : State) (pt : Fin 49) (xs : List Int), held s = false → (calPt s pt.val).running = true → xs.length = 64 →
    (central xs).getLastD 0 - (central xs).headD 0 ≤ 40 → (calPt s pt.val).held = none → (calPt s pt.val).delay = none
    → 16 ≤ pt.val → pt.val ≠ 48 → ∃ t, exec (.calibrationPassEnd pt xs) s = .next t ∧ (calPt t pt.val).delay = some
    (sumI (central xs) / (central xs).length)) ∧
  (∀ (s : State) (p : Fin 6) (gbps : Nat), held s = false → on s p.val = true → on s (6 + p.val) = true →
    s.pw.testMode = false → cfg s (oMerge p.val) 0 1 = 0 → ∃ t, exec (.laneRelock ⟨p.val, by omega⟩ gbps) s = .next t
    ∧ (prt t p.val).up = true) ∧
  (∀ (s : State) (pt : Fin 49), held s = false → ptUp s pt.val = true → (calPt s pt.val).stale = false → ptOld s
    pt.val = true → pt.val < 12 → ∃ t, exec (.calStale pt) s = .next t ∧ (calPt t pt.val).stale = true) ∧
  (∀ (s : State) (p : Fin 6), held s = false → cfg s (oidOf 0x0300 p.val 0) 0 1 ≠ 0 → (calPort s p.val).suspended =
    false → on s (6 + p.val) = true → noBrim s p.val = false → probeFits s p.val = true → probeRests s p.val = false →
    (∀ b ∈ (calPort s p.val).out, b.told = true ∨ s.clock ≤ b.at_ + 1000000) → (calPort s p.val).probes < 64 → secOn s
    p.val = false → ∃ t, exec (.probeSend p) s = .next t ∧ (calPort t p.val).seq = (calPort s p.val).seq + 1) ∧
  (∀ (s : State) (p : Fin 6) (f : Bytes), held s = false → on s (6 + p.val) = true → (prt s p.val).up = true → isKin f
    0x10 = true → secRx s p.val = false → ∃ t, exec (.probeReceive p f) s = .next t ∧ (calPort t p.val) =
    { (calPort s p.val) with echo := some (f, (rxStamp s p.val f.length).1.at48, (rxStamp s p.val f.length).1.mark) })
    ∧
  (∀ (s : State) (p : Fin 6) (f : Bytes) (t2 : BitVec 48) (at_ : Nat), held s = false → (calPort s p.val).echo = some
    (f, t2, at_) → s.clock ≤ at_ + 1000000 → echoFits s p.val = true → secOn s p.val = false → ∃ t, exec (.echoSend p)
    s = .next t ∧ (calPort t p.val).echo = none) ∧
  (∀ (s : State) (p : Fin 6) (f : Bytes) (b : Probe), held s = false → on s (6 + p.val) = true → (prt s p.val).up =
    true → isKin f 0x11 = true → secRx s p.val = false → (calPort s p.val).suspended = false → ((calPort s
    p.val).out.find? fun b => be f 16 2 == b.seq.toNat && BitVec.ofNat 48 (be f 20 6) == b.t1) = some b → b.locked =
    true → bitN (by_ f 18) 7 = true → bitN (by_ f 18) 4 = false → steppedSince s b.at_ = false → (BitVec.ofNat 48 (be
    f 32 6) - BitVec.ofNat 48 (be f 26 6)).toNat ≤ 65536000000 → (calPort s p.val).pairs.length < 15 → ∃ t, exec
    (.echoReceive p f) s = .next t ∧ (calPort t p.val).pairs.length = (calPort s p.val).pairs.length + 1) ∧
  (∀ (s : State) (p : Fin 6) (f : EgFrame), held s = false → (prt s p.val).line = none → portSilent s p.val = false →
    (prt s p.val).up = true → on s (6 + p.val) = true → (prt s p.val).smds = [] → secOn s p.val = false → pick
    (keepBack (cbsUpdate s p.val) p.val) p.val (nowPs s) = .new f → ∃ t, exec (.frameTransmitStart p) s = .next t ∧
    (prt t p.val).line.map (fun l => (l.frame.id, l.gone, l.ct)) = some (f.id, 0, !f.whole)) ∧
  (∀ (s : State) (p : Fin 6) (l : OnLine), held s = false → (prt s p.val).line = some l → l.frame.whole = true →
    l.stomp = false → l.frame.bad = false → l.short = false → ∃ t, exec (.transmissionEnd p) s = .next t ∧ (prt t
    p.val).line = none) ∧
  (∀ (s : State) (p : Fin 6) (sent n : Nat) (l : OnLine), held s = false → (prt s p.val).line = some l → l.lvl ≠ 0 →
    cutPoint (cbsUpdate s p.val) p.val l sent = some n → l.stomp = false → ∃ t c, exec (.preemption p sent) s = .next
    t ∧ (prt t p.val).line = none ∧ (prt t p.val).susp =
    { l with gone := l.gone + n, frag := l.frag + 1, stamp := { l.stamp with cls := c } } :: (prt s p.val).susp) ∧
  (∀ (s : State) (p : Fin 6) (sent n : Nat) (l : OnLine), held s = false → (prt s p.val).line = some l → l.lvl ≠ 0 →
    firstLegal l sent = some n → l.stomp = false → ∃ t, exec (.gateOverrun p sent) s = .next t ∧ (prt t p.val).line =
    none ∧ (prt t p.val).overruns = min (2 ^ 32 - 1) ((prt s p.val).overruns + 1)) ∧
  (∀ (s : State) (p : Fin 6) (k : Nat), held s = false → on s (6 + p.val) = true → timeOk s = true → gates s p.val ≠
    [] → mergeOn s p.val = true → (entryAt (gates s p.val) (cyclePos s (nowPs s))).1 = k → ((gates s p.val).getD k ⟨0,
    0, 0⟩).op = 1 → ∃ t, exec (.gateEntryStart p true) s = .next t ∧ (prt t p.val).hold = true) ∧
  (∀ (s : State) (p : Fin 6), held s = false → on s (6 + p.val) = true → mergeOn s p.val = true → timeOk s = true →
    holdNear s p.val = true → exec (.hold p) s = .next (interlock (modPrt s p.val fun x => { x with hold := true })))
    ∧
  (∀ (s : State) (q : Fin 64) (idx : BitVec 12) (p : Fin 6) (a i : Nat) (r : TxRec), held s = false → whichRec s q.val
    idx.toNat = some (a, i) → recOf s a i = some r → r.todo.getLsbD p.val = true → r.phase = .staged → r.withheld =
    false → (∀ f ∈ (prt s p.val).eg, mine a i f = false) → started s a i p.val = false → behind s a i p.val r = false
    → (∀ x ∈ (que s a).recs, x.ripe.getLsbD p.val = false) → standsBy s = false → (s.hl.state == lsDetached &&
    beyondOverlap s r) = false → downFor s p.val = false → r.cellsOn.getLsbD p.val = true → f3Holds s (p.val / 2) =
    false → r.late.getLsbD p.val = false → neverFits s p.val
    { id := 0, tc := descTc r.desc, data := parison r, src := .host a i } = false → ∃ t, exec (.parisonReady q idx p)
    s = .next t ∧ (prt t p.val).eg = (prt s p.val).eg ++
    [{ id := s.tx.nextId + 1, tc := descTc r.desc, data := parison r, src := .host a i }]) ∧
  (∀ (s : State) (q : Fin 64) (idx : BitVec 12) (p : Fin 6) (a i : Nat) (r : TxRec), held s = false → whichRec s q.val
    idx.toNat = some (a, i) → recOf s a i = some r → descLaunch r.desc = true → r.todo.getLsbD p.val = true →
    r.late.getLsbD p.val = false → started s a i p.val = false → r.withheld = false → standsBy s = false → (∀ x ∈ (que
    s a).recs, x.ripe.getLsbD p.val = false) → latePolicy s a i r.desc ≠ 2 → latePolicy s a i r.desc ≠ 3 → ∃ t, exec
    (.parisonLate q idx p) s = .next t ∧ (prt t p.val).lates = min (2 ^ 32 - 1) ((prt s p.val).lates + 1)) ∧
  (∀ (s : State) (m : Nat), held s = false → undecided s = some m → s.tx.phase = 1 → planesMissing s = 0 →
    stackMissing s = 0 → s.mb.selfBad = false → segsMissing s m = 0 → ∃ t, exec .commitDecide s = .next t ∧ t.tx.phase
    = 2) ∧
  (∀ s : State, held s = false → s.tx.phase = 1 → exec .agreeRepeat s = .next (interlock (sendPlanes s 0x20 ((ones
    s.tx.agree.planes).filter fun pl => !planeReplied s pl)))) ∧
  (∀ (s : State) (b : Nat), held s = false → undecided s = none → s.mb.boundary = some b → s.mb.held = false →
    s.mb.selfBad = false → planned s .commit = false → agreementGap s b = none → ∃ t, exec .preparedSetHold s = .next
    t ∧ t.mb = { s.mb with held := true }) ∧
  (∀ (s : State) (b : Nat), held s = false → timeOk s = true → s.mb.boundary = some b → s.mb.held = true → b * 65536 ≤
    now80 s → ∃ t, exec .commitBoundary s = .next t ∧ t.mb.boundary = none) ∧
  (∀ (s : State) (p : Fin 6) (f : Bytes), held s = false → on s (6 + p.val) = true → (prt s p.val).up = true → isKin f
    0x20 = true → on s 49 = true → portSilent s p.val = false → ∃ t g, exec (.proposeReceive p f) s = .next t ∧ (prt t
    p.val).eg = (prt s p.val).eg ++ [g]) ∧
  (∀ (s : State) (p : Fin 6) (f : Bytes) (e : Nat) (req : Bool), held s = false → on s (6 + p.val) = true → (prt s
    p.val).up = true → isKin f 0x21 = true → on s 49 = true → s.tx.phase = 1 → s.tx.agree.result ≠ 0 →
    s.tx.agree.planes.getLsbD (p.val / 2) = true → be f 16 2 = s.tx.agree.id.toNat → sub f 18 6 = portAddr s (2 *
    (p.val / 2)) → participant s (p.val / 2) (sub f 6 6) = some (e, req) → by_ f 38 = 0 → by_ f 24 = p.val / 2 → by_ f
    25 = s.tx.agree.mode → be f 26 8 = s.tx.agree.boundary → be f 34 4 = s.tx.agree.tag.toNat → exec (.replyReceive p
    f) s = .next (interlock (s.modTx fun t =>
    { t with agree := { t.agree with acc := tset (fun _ => 0) t.agree.acc (p.val / 2) (tget (fun _ => 0) t.agree.acc (p.val / 2) ||| BitVec.ofNat 32 (2 ^ e)) } })))
    ∧
  (∀ (s : State) (p : Fin 6) (f : Bytes), held s = false → on s (6 + p.val) = true → (prt s p.val).up = true → isKin f
    0x22 = true → on s 49 = true → ourProposal s p.val f = true → s.tx.follow.cancelled = false → nowNs s + 1000000 <
    s.tx.follow.boundary → exec (.confirmReceive p f) s = .next (interlock (s.modTx fun t =>
    { t with follow := { t.follow with state := 2 } }))) ∧
  (∀ (s : State) (p : Fin 6) (f : Bytes), held s = false → on s (6 + p.val) = true → (prt s p.val).up = true → isKin f
    0x23 = true → on s 49 = true → ourProposal s p.val f = true → s.mb.held = false → exec (.cancelReceive p f) s =
    .next (interlock (s.modTx fun t => { t with follow := { t.follow with state := 3, cancelled := true } }))) ∧
  (∀ (s : State) (p : Fin 6), held s = false → on s (6 + p.val) = true → (prt s p.val).up = true → cfg s (oMerge
    p.val) 0 1 = 1 → exec (.smdVReceive p) s = .next (interlock (modPrt s p.val fun x =>
    { x with smds := x.smds ++ [false] }))) ∧
  (∀ (s : State) (p : Fin 6) (a : Fin 4), held s = false → on s (6 + p.val) = true → (prt s p.val).up = true → cfg s
    (oMerge p.val) 0 1 = 1 → (prt s p.val).merge = 1 → cfg s (oMerge p.val) 4 1 ≠ 1 → ∃ t, exec (.smdRReceive p a) s =
    .next t ∧ (prt t p.val) =
    { (prt s p.val) with merge := 2, partnerFrag := a.val, frag := max (cfg s (oMerge p.val) 3 1) a.val }) ∧
  (∀ (s : State) (p : Fin 6), held s = false → (prt s p.val).merge = 1 → (prt s p.val).tries < 3 → exec
    (.verifyTimeout p) s = .next (interlock (modPrt s p.val fun x =>
    { x with tries := x.tries + 1, smds := x.smds ++ [true] }))) ∧
  (∀ (s u : State) (p : Fin 6) (smd cnt : BitVec 8) (d : Bytes) (c : Nat) (st : Stamp), held s = false → receives s
    p.val = true → cfg s (oMerge p.val) 0 1 = 1 → (prt s p.val).ctxs = [] → codeOf smdS smd.toNat = some c → 64 * (1 +
    cfg s (oMerge p.val) 3 1) ≤ d.length + 4 → rxStamp s p.val (d.length + 4) = (st, u) → exec (.fragmentReceive p smd
    cnt d true true) s = .next (interlock (fragCopy (modPrt u p.val fun x => { x with ctxs := [⟨c, 0, d, st⟩] }) p.val
    d))) ∧
  (∀ (s : State) (p : Fin 6) (f : Bytes), held s = false → on s (6 + p.val) = true → (prt s p.val).up = true → isKin f
    0x30 = true → portSilent s p.val = false → ∃ t, exec (.spOfferReceive p f) s = .next t ∧ (prt t p.val).spRx = (cfg
    s (oMerge p.val) 4 1 == 1)) ∧
  (∀ (s : State) (p : Fin 6) (f : Bytes), held s = false → on s (6 + p.val) = true → (prt s p.val).up = true → isKin f
    0x31 = true → (prt s p.val).sp = 1 → be f 16 2 = (prt s p.val).nonce.toNat → by_ f 18 = 3 → (prt s p.val).susp =
    [] → (prt s p.val).line = none → ∃ t, exec (.spAnswerReceive p f) s = .next t ∧ (prt t p.val).sp = 2) ∧
  (∀ (s : State) (p : Fin 6), held s = false → (prt s p.val).sp = 1 → (prt s p.val).spTries < cfg s (oMerge p.val) 5 1
    → exec (.spOfferRepeat p) s = .next (interlock (sendOffer (modPrt s p.val fun x =>
    { x with spTries := x.spTries + 1 }) p.val))) ∧
  (∀ (s : State) (p : Fin 6) (f : Bytes) (q : Nat), held s = false → on s (6 + p.val) = true → (prt s p.val).up = true
    → fcsOk f = true → be f 12 2 = 0x8808 → be f 14 2 = 0x0001 → be f 16 2 ≠ 0 → q < 8 → ∃ t, exec (.pauseReceive p f)
    s = .next t ∧ tget (fun _ => 0) (prt t p.val).pause q = if fcMask s p.val q then s.clock * 1000 + be f 16 2 * 64 *
    psPerByte (prt s p.val).gbps else tget (fun _ => 0) (prt s p.val).pause q) ∧
  (∀ (s : State) (p : Fin 6) (tc : Fin 8), held s = false → ∃ t, exec (.pauseExpiry p tc) s = .next t ∧ paused t p.val
    tc.val = false) ∧
  (∀ (s u w : State) (p : Fin 6) (f : Bytes) (v : Verdict) (st : Stamp), held s = false → receives s p.val = true →
    (prt s p.val).early = [] → openHeads s p.val = [] → macFail s p.val f false = none → s.fs.f4 = false → be (f.take
    (f.length - 4)) 12 2 ≠ 0x8808 → ownFrame s p.val (sub (f.take (f.length - 4)) 6 6) = false → on s 62 = true →
    secRx s p.val = false → rxStamp s p.val f.length = (st, u) → classify (countN (count u (cPort p.val 0) 0) (cPort
    p.val 0) 1 f.length) p.val s.rx.active (f.take (f.length - 4)) none none = (v, w) → v.drop = false → v.meter =
    none → v.handle = none → v.fwd = false → v.servo = false → v.device = 0 → v.dest = some none → exec (.frameReceive
    p f false) s = .next (interlock ((emit (count w (cPort p.val 2) 28) (.gaffer p.val (f.take (f.length - 4))
    [st])).modRx fun x => { x with gaffer := x.gaffer + 1 }))) ∧
  (∀ (s w : State) (h : LoopHead) (rest : List LoopHead) (v : Verdict), held s = false → s.rx.loop = h :: rest →
    s.fs.f4 = false → classify (s.modRx fun r => { r with loop := rest }) h.port h.view h.plain (some ⟨h.tci, h.sci⟩)
    none = (v, w) → h.whole = true → exec .secondPass s = .next (interlock (drainCheck (conclude w devTake h.port v
    h.plain h.len h.stamp h.epoch none)))) ∧
  (∀ (s : State) (h : LoopHead) (rest : List LoopHead), held s = false → s.rx.loop = h :: rest → ∃ t, exec
    .loopWaitExpiry s = .next t ∧ t.rx.loop = rest) ∧
  (∀ (s : State) (h : Fin 16384) (seq : BitVec 16) (x : Slot) (d : BitVec 64), held s = false → (slotsOf s h.val
    seq).find? (!·.inHold) = some x → x.phase = 0 → winner x.votes = some d → exec (.voteWindowExpiry h seq) s = .next
    (interlock (decideSlot s x 2 (some d) true true))) ∧
  (∀ (s : State) (h : Fin 16384) (seq : BitVec 16) (x : Slot), held s = false → (slotsOf s h.val seq).find? (·.inHold)
    = some x → x.phase = 1 → exec (.lateHoldExpiry h seq) s = .next (interlock (decideShort s x true))) ∧
  (∀ (s : State) (h : Fin 16384), held s = false → on s 49 = true → on s 69 = true → cfg s (oListen h.val) 0 1 = 1 →
    (recovOf s h.val).takeAny = false → ∃ t, exec (.recoveryReset h) s = .next t ∧ recovOf t h.val =
    { (recovOf s h.val) with takeAny := true }) ∧
  (∀ (s : State) (i : Fin 16), held s = false → segOn s i.val = true → (sgm s i.val).calReq = none → (sgm s
    i.val).runs = false → (sgm s i.val).head = 0 → (sgm s i.val).listened < (sgm s i.val).listen → segCycleNs s i.val
    ≠ 0 → nowNs s ≤ segCycleAt s i.val + 2 → ∃ t, exec (.segmentCycleStart i) s = .next t ∧ (sgm t i.val).cycle = 0) ∧
  (∀ (s : State) (i : Fin 16) (e : Fin 64) (x : SlotEntry), held s = false → segOn s i.val = true → (sgm s i.val).runs
    = true → (sgm s i.val).stopped = false → (segTable s i.val)[e.val]? = some x → x.owner = segOwn s i.val → x.kind =
    1 → (sgm s i.val).sends = true → ((sgm s i.val).head = 1 ∨ (sgm s i.val).head = 2) → fencedSeg s i.val = false →
    f3Holds s (16 + i.val) = false → (sgm s i.val).ran.contains e.val = false → (sgm s i.val).calReq = none →
    gauntOpen s i.val (riseOf s i.val x) = true → ∃ t, exec (.ownSlotStart i e) s = .next t ∧ (sgm t i.val).sending =
    some e.val) ∧
  (∀ (s : State) (i : Fin 16) (e : Nat), held s = false → (sgm s i.val).sending = some e → (sgm s i.val).head ≠ 1 →
    (sgm s i.val).head ≠ 2 → ∃ t, exec (.collision i) s = .next t ∧ (sgm t i.val).sending = none) ∧
  (∀ (s : State) (i : Fin 16) (l : List Bool) (f : Bytes) (m : Int) (o : Bool) (k : Nat) (x : SlotEntry), held s =
    false → ktbRead l = some f → segOn s i.val = true → (sgm s i.val).runs = true → fcsOk f = true → 64 ≤ f.length →
    f.length ≤ 300 → ktbIgnored s i.val f = false → by_ f 15 = 3 → entryOf s i.val m = some (k, x) → x.kind = 3 → (sgm
    s i.val).got = none → exec (.ktbFrameReceive i l m false o) s = .next (interlock (modSgm s i.val fun g =>
    { g with got := some (m, o, f) }))) ∧
  (∀ (s : State) (i : Fin 16) (e : Fin 64) (x : SlotEntry), held s = false → segOn s i.val = true → (sgm s i.val).runs
    = true → (sgm s i.val).stopped = false → (segTable s i.val)[e.val]? = some x → x.kind = 3 → (sgm s
    i.val).ran.contains e.val = false → (sgm s i.val).got = none → nodeFlag (sgm s i.val) x.owner 0 = true → nodeFlag
    (sgm s i.val) x.owner 3 = false → (node (sgm s i.val) x.owner).integrated = false → ∃ t, exec (.nodeSlotEnd i e) s
    = .next t ∧ (sgm t i.val).ran = e.val :: (sgm s i.val).ran) ∧
  (∀ (s : State) (i : Fin 16), held s = false → segOn s i.val = true → (sgm s i.val).runs = true → (segTable s
    i.val).isEmpty = false → cfg s (oSeg i.val) 9 1 ≠ 1 → exec (.statusBlockWrite i) s = .next (interlock (seqWrite s
    (0x4000 * i.val + 0x2000) [(4, toLe 2 (sgm s i.val).cycle.toNat ++ toLe 1 (sgm s i.val).mode ++ toLe 1 (sgm s
    i.val).head ++ toLe 4 (maskOf 32 fun n => (node (sgm s i.val) n).integrated) ++ toLe 6 ((sgm s i.val).start *
    65536) ++ toLe 1 (b1 (sgm s i.val).held + 2 * b1 (sgm s i.val).safe))]))) ∧
  (∀ (s : State) (x d : Int), held s = false → on s 71 = true → s.pw.guardRuns = true → timeOk s = true → gauntDelta s
    x = d → d.natAbs ≤ 1000 * 65536 → s.sg.goodSince = none → exec (.gauntletMarker x) s = .next (interlock (driveSegs
    (condOff ((gauntTurn (gauntCorrect s x)).modSg fun y =>
    { y with delta := d.tdiv 65536, deltaMax := max y.deltaMax (d.tdiv 65536).natAbs, markerLost := false, goodSince := some s.clock })
    141)))) ∧
  (∀ s : State, held s = false → on s 71 = true → s.pw.guardRuns = true → ∃ t, exec .markerLost s = .next t ∧
    t.sg.markerLost = true) ∧
  (∀ (s : State) (i : Fin 16), held s = false → segOn s i.val = true → (sgm s i.val).runs = true → (sgm s
    i.val).blocked = true → exec (.gauntletBlock i) s = .next (interlock (segDrive (modSgm ((count s (cSeg i.val)
    11).modSg fun x => { x with blocks := min (2 ^ 32 - 1) (x.blocks + 1) }) i.val fun g =>
    { g with sending := none }) i.val))) ∧
  (∀ s : State, held s = false → kRuns s 0 = true → kRuns s 1 = false → exec .discoverSend s = .next (interlock (kSend
    s 0 0x01 0xFF (discoverBody s 0)))) ∧
  (∀ (s u : State) (k : Fin 2) (f : Bytes) (far : List DeepRange), held s = false → kTake s k.val 0x01 f = (true, u) →
    clsOf u 131 = 1 → clsOf u 132 = 1 → ∃ t, exec (.discover k ⟨f, far⟩) s = .next t ∧ (klink t k.val) =
    { (klink u k.val) with discovers := (klink u k.val).discovers + 1, nbr := some (sub f 16 56), far := far, up := (klink u k.val).up || decide (1 ≤ (klink u k.val).discovers) })
    ∧
  (∀ s : State, held s = false → (on s 26 || on s 27) = true → isRing s = true → exec .discoveryComplete s = .next
    (interlock (stackEvent s (s.modSk fun x =>
    { x with complete := true, master := ((positions s).find? fun p => !dupAt s p).getD 0xFF })))) ∧
  (∀ (s : State) (k : Fin 2), held s = false → kRuns s k.val = true → exec (.cascadeAckDue k) s = .next (interlock
    (kSend s k.val 0x05 0xFF []))) ∧
  (∀ (s : State) (k : Fin 2) (f : Bytes) (i : Nat) (x : KFrame), held s = false → kRuns s k.val = true → s.fs.f4 =
    false → 64 ≤ f.length → f.length ≤ 9728 → fcsOk f = true → by_ f 0 = 1 → by_ f 1 = 0x05 → bitN (by_ f 5) 1 = true
    → findIx (fun x : KFrame => x.seq == BitVec.ofNat 16 (be f 8 2)) (klink s k.val).held = some (i, x) → (klink s
    k.val).queue = [] → ∃ t, exec (.ackReceive k f) s = .next t ∧ (klink t k.val) =
    { (klink s k.val) with held := (klink s k.val).held.drop (i + 1), resends := 0 }) ∧
  (∀ (s : State) (k : Fin 2), held s = false → (klink s k.val).up = true → (klink s k.val).held ≠ [] → (klink s
    k.val).resends < 16 → ∃ t, exec (.cascadeResend k) s = .next t ∧ (klink t k.val) =
    { (klink s k.val) with resends := (klink s k.val).resends + 1, rounds := min (2 ^ 32 - 1) ((klink s k.val).rounds + 1) })
    ∧
  (∀ (s : State) (k : Fin 2), held s = false → (klink s k.val).up = true → exec (.cascadeLinkLost k) s = .next
    (interlock (kLost s k.val))) ∧
  (∀ s : State, held s = false → s.sk.complete = true → s.sk.master ≠ pos s → s.sk.master < 8 → s.fs.f4 = false →
    kRuns s (linkTo s s.sk.master) = true → (klink s (linkTo s s.sk.master)).up = true → ∃ t, exec .timeReqSend s =
    .next t ∧ t.sk.timeSeq = s.sk.timeSeq + 1) ∧
  (∀ (s u v w : State) (k : Fin 2) (f : Bytes) (t2 t3 : Stamp), held s = false → kTake s k.val 0x02 f = (true, u) →
    rxStampAt u (6 + k.val) f.length (fun _ => 0) = (t2, v) → txStamp v (6 + k.val) = (t3, w) → exec (.timeReq k f) s
    = .next (interlock (kSend w k.val 0x03 (by_ f 2 % 8) (timeBody (be (kBody f) 0 2) (BitVec.ofNat 48 (be (kBody f) 2
    6)) t2.at48 t3.at48 (kTimeFlags w k.val))))) ∧
  (∀ (s u v : State) (k : Fin 2) (f : Bytes) (t4 : Stamp) (q : Probe), held s = false → kTake s k.val 0x03 f = (true,
    u) → rxStampAt u (6 + k.val) f.length (fun _ => 0) = (t4, v) → v.sk.timeReq = some (k.val, q) → be (kBody f) 0 2 =
    q.seq.toNat → be (kBody f) 2 6 = q.t1.toNat → exec (.timeResp k f) s = .next (interlock (syncDone (takePair
    (v.modSk fun x => { x with timeReq := none }) k.val q (kBody f) t4.at48)))) ∧
  (∀ (s u : State) (k : Fin 2) (f : Bytes) (v : Via), held s = false → kTake s k.val 0x10 f = (true, u) → kAgent u
    ⟨by_ f 2 % 8, Nat.mod_lt _ (by decide)⟩ = some v → u.hl.fwReady = true → ∃ t r, exec (.command k f) s = .next t ∧
    t.mb.remote = u.mb.remote ++ [r]) ∧
  (∀ (s u : State) (k : Fin 2) (f : Bytes), held s = false → kTake s k.val 0x11 f = (true, u) → (relay u (by_ f 2 %
    8)).state = 1 → le (kBody f) 2 2 = (relay u (by_ f 2 % 8)).tag.toNat → exec (.response k f) s = .next (interlock
    (modRelay u (by_ f 2 % 8) fun r => { r with state := 2, resp := kBody f }))) ∧
  (∀ (s : State) (v : Via) (p : Fin 8) (d : Bytes), held s = false → opAllowed s v 0x20 = true → rankOf v ≤ 3 →
    isMaster s = true → (members s).contains p.val = true → (relay s p.val).state = 0 → (∃ x, descOf (oidOf 0x0803
    p.val 0) = some x ∧ needsMet s (oidOf 0x0803 p.val 0) x 0 1 = true) → 16 ≤ d.length → d.length ≤ 4096 → d.length =
    16 + le d 4 2 → exec (.stackRelayWrite v p 0 d) s = .next (interlock (relaySend s p.val false d))) ∧
  (∀ (s : State) (p : Fin 8), held s = false → (relay s p.val).state = 1 → exec (.relayUnreachable p) s = .next
    (interlock (raiseEvent (count (modRelay s p.val fun r => { r with state := 3 }) cTwin 13) 127))) ∧
  (∀ (s u : State) (k : Fin 2) (f : Bytes), held s = false → kTake s k.val 0x12 f = (true, u) → on u 49 = true → by_
    (kBody f) 0 = 0 → isMember u = true → u.sk.master = by_ f 2 % 8 → exec (.stackAgree k f) s = .next (interlock
    (memberReply (u.modTx fun t => { t with member := followOf (kBody f) (by_ f 2 % 8) 1 })))) ∧
  (∀ s : State, held s = false → isMember s = true → s.tx.member.state = 1 → nowNs s < s.tx.member.decide → exec
    .stackAgreeReplyRepeat s = .next (interlock (memberReply s))) ∧
  (∀ (s u : State) (k : Fin 2) (f : Bytes) (q : Fin 64), held s = false → kTake s k.val 0x30 f = (true, u) → isMaster
    u = true → (u.sk.config = 1 ∨ u.sk.config = 2) → 32 + le (kBody f) 8 2 ≤ (kBody f).length → exec (.trafficUp k ⟨f,
    q⟩) s = .next (interlock (upInto u q.val k.val (sub (kBody f) 0 32) (sub (kBody f) 32 (le (kBody f) 8 2))))) ∧
  (∀ (s u : State) (k : Fin 2) (f : Bytes), held s = false → kTake s k.val 0x31 f = (true, u) → u.sk.complete = true →
    u.sk.master = by_ f 2 % 8 → (u.sk.config = 1 ∨ u.sk.config = 2) → exec (.trafficDown k f) s = .next (interlock
    (downInto u k.val (by_ (kBody f) 0 % 64 * 4096 + be (kBody f) 2 2 % 4096) (sub (kBody f) 4 32) (sub (kBody f) 36
    (descLen (sub (kBody f) 4 32)))))) ∧
  (∀ (s u : State) (k : Fin 2) (f : Bytes) (r : TxRec), held s = false → kTake s k.val 0x32 f = (true, u) → by_ (kBody
    f) 0 < 64 → recOf u (by_ (kBody f) 0) (be (kBody f) 2 2) = some r → r.phase = .away → exec (.txDone k f) s = .next
    (interlock (modRec u (by_ (kBody f) 0) (be (kBody f) 2 2) fun r =>
    { r with phase := .done (BitVec.ofNat 8 (by_ (sub (kBody f) 4 32) 15)), todo := 0, member := some (sub (kBody f) 4 32) })))
    ∧
  (∀ s : State, held s = false → twinRuns s = true → s.tw.role ≠ 0 → silent s = false → kShut s 0x04 s.tw.partner =
    false → (∀ i < 4, hbPath s i = true → tget (fun _ => 0) s.tw.gaps i < s.tw.missed) → (∀ pl < 3, cfgBit s oTwinPol
    12 pl = false) → ∃ t, exec .heartbeatSend s = .next t ∧ t.tw.hbSeq = s.tw.hbSeq + 1) ∧
  (∀ (s : State) (p : Fin 3) (b : Bytes), held s = false → twinRuns s = true → hbHeard s b = true → s.tw.takeT = none
    → s.tw.yieldT = none → s.tw.role = 2 → s.hl.state ≠ lsActive → ∃ t, exec (.heartbeat (.plane p) b) s = .next t ∧
    t.tw.pRole = by_ b 4) ∧
  (∀ s : State, held s = false → twinRuns s = true → s.tw.lost = false → s.tw.role = 1 → clsOf s 133 = 1 → ∃ t, exec
    .partnerLost s = .next t ∧ t.tw.lost = true) ∧
  (∀ (s : State) (b : Nat), held s = false → twinRuns s = true → s.tw.takeT = some b → (s.tw.role = 2 ∨ s.tw.role = 3)
    → ∃ t, exec .takeover s = .next t ∧ t.tw.takeT = none) ∧
  (∀ (s : State) (r : Request), held s = false → s.tw.yieldReq = some r → exec .yieldTimeout s = .next (interlock
    (respondWith (s.modTw fun t => { t with yieldT := none, yieldReq := none }) r stState false []))) ∧
  (∀ (s u : State) (k : Fin 2) (f : Bytes), held s = false → fromPartner s k.val 0x20 f = (true, u) → standsBy u =
    true → ownTalker u (be (kBody f) 0 2) (be (kBody f) 4 6) = none → exec (.assign k f) s = .next (interlock (u.modTw
    fun t =>
    { t with assigns := t.assigns ++ [(be (kBody f) 0 2, BitVec.ofNat 48 (be (kBody f) 4 6), BitVec.ofNat 16 (be (kBody f) 2 2), BitVec.ofNat 64 (be (kBody f) 12 8))] })))
    ∧
  (∀ (s u : State) (k : Fin 2) (f : Bytes), held s = false → fromPartner s k.val 0x21 f = (true, u) → standsBy u =
    true → by_ (kBody f) 0 = 2 → exec (.mirror k f) s = .next (interlock (syncDone (u.modTw fun t =>
    { t with sched := sub (kBody f) 4 42, item2 := u.clock + 1 })))) ∧
  (∀ s : State, held s = false → leads s = true → exec .mirrorSend s = .next (interlock (sendItems s))) ∧
  (∀ (s : State) (n : Fin 8) (d : Bytes) (a : BitVec 32), held s = false → leads s = true → (region s n.val).on = true
    → dmaOk s = true → d.length = (region s n.val).size → le d 0 4 % 2 = 0 → le d 0 4 = a.toNat → exec (.regionRead n
    d a) s = .next (interlock (sendRegion s n.val (le d 0 4) 0 (chunks 8192 d)))) ∧
  (∀ (s u : State) (k : Fin 2) (f : Bytes), held s = false → fromPartner s k.val 0x22 f = (true, u) → standsBy u =
    true → by_ (kBody f) 0 < 8 → (region u (by_ (kBody f) 0)).on = true → be (kBody f) 4 4 = 0 → by_ (kBody f) 1 % 2 =
    0 → exec (.region k f) s = .next (interlock (modRegion u (by_ (kBody f) 0) fun _ =>
    { (region u (by_ (kBody f) 0)) with part := (kBody f).drop 12, partSeq := BitVec.ofNat 32 (be (kBody f) 8 4) })))
    ∧
  (∀ (s u : State) (v : Via) (r : Request) (p : Bytes), Admitted s v 0x80 r → checkOnly r = false → r.length = 12 →
    by_ r.payload 0 ≤ 1 → by_ r.payload 1 ≤ 7 → by_ r.payload 2 ≤ 1 → by_ r.payload 3 = 0 → 10 ≤ le r.payload 4 2 → le
    r.payload 4 2 ≤ 1000 → 2 ≤ by_ r.payload 6 → by_ r.payload 6 ≤ 16 → by_ r.payload 7 = 0 → twinConfigured s = true
    → stageOrder (onTaken s r) (acted r) [24 + by_ r.payload 2, 26 + by_ r.payload 2] none [] = .staged u p → exec
    (.twinConfig v) s = .next (stagedWith u r p)) ∧
  (∀ (s : State) (v : Via) (r : Request), Admitted s v 0x81 r → checkOnly r = false → r.length = 0 → exec (.twinStatus
    v) s = .next (okWith (onTaken s r) r (twinPayload s))) ∧
  (∀ (s : State) (v : Via) (r : Request), Admitted s v 0x82 r → checkOnly r = false → r.length = 0 → s.tw.on = true →
    s.tw.role = 1 → s.tw.lost = false → s.tw.pRole = 2 → s.tw.pFlags.getLsbD 1 = true → s.tw.yieldT = none → exec
    (.twinYield v) s = .next (interlock ((onTaken s r).modTw fun t =>
    { t with yieldT := some (twinBoundary s), yieldReq := some (acted r), yieldAcked := false }))) ∧
  (∀ (s u : State) (v : Via) (r : Request) (p : Bytes), Admitted s v 0x83 r → checkOnly r = false → r.length = 16 →
    by_ r.payload 0 ≤ 7 → by_ r.payload 1 = 1 → by_ r.payload 2 = 0 → by_ r.payload 3 = 0 → le r.payload 12 4 % 64 = 0
    → ((List.range 8).filter (· != by_ r.payload 0)).foldl (fun a k => a + regionSize s k) 0 + le r.payload 12 4 ≤
    65536 → twinConfigured s = true → stageOrder (onTaken s r) (acted r) [] none [] = .staged u p → exec
    (.mirrorDeclare v) s = .next (stagedWith u r p)) ∧
  (∀ (s : State) (v : Via) (r : Request), Admitted s v 0x88 r → checkOnly r = false → r.length = 0 → exec
    (.stackStatus v) s = .next (okWith (onTaken s r) r (toLe 1 (pos s) ++ toLe 1 s.sk.master ++ toLe 1 (presentMask s)
    ++ toLe 1 s.sk.config ++ toLe 1 s.sk.dup.toNat ++ [0, 0, 0]))) ∧
  (∀ (s u : State) (v : Via) (r : Request) (p : Bytes), Admitted s v 0x89 r → checkOnly r = false → r.length = 8 → by_
    r.payload 0 ≤ 2 → (∀ o ∈ [1, 2, 3], by_ r.payload o = 0) → (by_ r.payload 0 = 2 → le r.payload 4 2 + le r.payload
    6 2 ≤ 16384) → s.sk.complete = true → stageOrder (onTaken s r) (acted r) [] none [] = .staged u p → exec
    (.stackConfig v) s = .next (stagedWith u r p)) ∧
  (∀ (s : State) (n : Fin 192) (ip : Bool) (e : Nat), held s = false → (srcInfo n.val).isSome = true → (srcOf s
    n.val).cond = false → ∃ t, exec (.faultSourceAssert n ip e) s = .next t ∧ (srcOf t n.val).sticky = true) ∧
  (∀ (s : State) (n : Fin 192), held s = false → absentLong s n.val = true → exec (.presentBitExpiry n) s = .next
    (interlock (f3Exit (modSrc s n.val fun x => { x with present := false })))) ∧
  (∀ (s : State) (v : Via) (r : Request), Admitted s v 0x60 r → checkOnly r = false → r.length = 0 → exec (.faultRead
    v) s = .next (okWith (onTaken s r) r (faultPayload s))) ∧
  (∀ (s : State) (v : Via) (r : Request), Admitted s v 0x61 r → checkOnly r = false → r.length = 4 → (srcInfo (le
    r.payload 0 2)).isSome = true → by_ r.payload 2 = 1 → by_ r.payload 3 = 0 → (srcOf s (le r.payload 0 2)).present =
    false → exec (.faultClear ⟨v, true⟩) s = .next (okWith (f3Exit (modSrc (onTaken s r) (le r.payload 0 2) fun x =>
    { x with sticky := false, onlyInj := false })) r [])) ∧
  (∀ (s : State) (v : Via) (r : Request), Admitted s v 0x62 r → checkOnly r = false → r.length = 4 → (srcInfo (le
    r.payload 0 2)).isSome = true → by_ r.payload 2 = 0 → by_ r.payload 3 = 0 → exec (.faultInject ⟨v, true⟩) s =
    .next (okWith (injectEnd (injectOnce (onTaken s r) (le r.payload 0 2)) (le r.payload 0 2)) r [])) ∧
  (∀ (s u : State) (v : Via) (r : Request) (p : Bytes) (l : Bool) (d : Nat) (cs : List Nat), Admitted s v 0x63 r →
    checkOnly r = false → r.length = 4 → srcInfo (le r.payload 0 2) = some (l, d, cs) → cs.contains (by_ r.payload 2)
    = true → by_ r.payload 3 = 0 → stageOrder (onTaken s r) (acted r) [] none [] = .staged u p → exec (.faultConfig
    ⟨v, true⟩) s = .next (stagedWith u r p)) ∧
  (∀ (s : State) (v : Via), held s = false → rankOf v ≤ 3 → opAllowed s v 0x11 = true → safeMay s = true → s.fs.f4 =
    false → s.pw.testMode = false → ∃ t, exec (.safeNRelease ⟨v, true⟩) s = .next t ∧ t.fs.released = true) ∧
  (∀ (s : State) (v : Via), held s = false → rankOf v ≤ 3 → opAllowed s v 0x11 = true → ∃ t, exec (.safeNWithdraw ⟨v,
    true⟩) s = .next t ∧ t.fs.released = false) ∧
  (∀ s : State, held s = false → ∃ t, exec (.safeNReadback s.pads.safeN) s = .next t ∧ (srcOf t 25).cond = false) ∧
  (∀ s : State, held s = false → (s.se.phase = 2 ∨ s.se.phase = 3) → clsOf s 56 = 2 → ∃ t, exec .gafferWatchdog s =
    .next t ∧ t.se.phase = 1) ∧
  (∀ (s : State) (hz : Nat), held s = false → s.pw.sysPll = true → 30400000 ≤ hz → hz ≤ 33600000 → exec (.ci09Check
    hz) s = .next (interlock (condOff s 14))) ∧
  (∀ (s : State) (k : Nat) (rest : List Nat), held s = false → s.se.phase = 1 → s.se.hostLoad = false → s.se.svcLoad =
    false → s.se.tries = k :: rest → s.se.locked = false → ∃ t, exec (.imageLoaded true) s = .next t ∧ (rejectSlot s k
    none = 0 → t.se.phase = 2 ∧ t.se.slot = BitVec.ofNat 8 k) ∧ (rejectSlot s k none ≠ 0 → t.se.reject = BitVec.ofNat
    8 (rejectSlot s k none) ∧ t.se.tries = rest)) ∧
  (∀ s : State, held s = false → s.se.svcLoad = true → s.se.image ≠ [] → clsOf s 27 = 1 → ∃ t, exec .bootSourceTimeout
    s = .next t ∧ t.se.image = []) ∧
  (∀ s : State, held s = false → s.se.svcLoad = true → s.se.bootSeen = false → exec .bootReq s = .next (interlock
    (svcSend (draw s).2 (toBe 6 (draw s).1) 0x58 (toBe 8 Config.dieSerial.toNat)))) ∧
  (∀ (s u : State) (f : Bytes), held s = false → svcTake s f 0x59 4 = (true, u) → u.se.svcLoad = true → be f 18 4 =
    u.se.image.length → be f 16 2 ≤ 1028 → 4 ≤ be f 16 2 → imageCovered (u.se.image ++ sub f 22 (be f 16 2 - 4)) =
    false → ∃ t, exec (.bootData f) s = .next t ∧ t.se.image = u.se.image ++ sub f 22 (be f 16 2 - 4)) ∧
  (∀ (s : State) (b : Bytes), held s = false → s.se.phase = 2 → s.se.locked = false → protLegal (sub b 0 64) = true →
    protTighter (secProt s) (sub b 0 64) = true → exec (.secProtWrite b) s = .next (interlock (objWrite s 0x0A000001 0
    (sub b 0 64)))) ∧
  (∀ s : State, held s = false → s.se.phase = 2 → s.se.locked = false → lockBurns s = [] → ∃ t, exec .secLock s =
    .next t ∧ t.se.locked = true) ∧
  (∀ s : State, held s = false → s.se.phase = 2 → s.se.locked = false → lockBurns s = [] → ∃ t, exec .lockTimeout s =
    .next t ∧ t.se.locked = true) ∧
  (∀ (s : State) (v : Via) (r : Request), Admitted s v 0x90 r → checkOnly r = false → r.length = 64 → keyLoadRange
    r.payload = none → by_ r.payload 3 = 0 → keyLoadRefused s r.via (le r.payload 0 2) false = none → keyAt s (le
    r.payload 0 2) = none → ∃ t u, exec (.keyLoad v) s = .next (okWith t r (keyCheck (le r.payload 0 2) u)) ∧ u = sub
    (sub r.payload 24 (if by_ r.payload 2 = 1 then 32 else 16)) 0 (if by_ r.payload 2 = 1 then 32 else 16)) ∧
  (∀ (s : State) (v : Via) (r : Request), Admitted s v 0x91 r → checkOnly r = false → r.length = 4 → keySlotOk (le
    r.payload 0 2) = true → by_ r.payload 2 = 0 → by_ r.payload 3 = 0 → le r.payload 0 2 ≠ 0xFFFF → exec (.keyErase v)
    s = .next (okWith (eraseKeys (onTaken s r) fun j => j == le r.payload 0 2) r [])) ∧
  (∀ (s : State) (a : Fin 9), s.pw.aoRuns = true → alarmMay s a.val = true → ∃ t, exec (.alarm a) s = .next t ∧
    t.se.present.getLsbD a.val = true) ∧
  (∀ (s : State) (v : Via) (r : Request), Admitted s v 0x92 r → checkOnly r = false → r.length = 0 → exec
    (.alarmStatus v) s = .next (okWith (onTaken s r) r (toLe 4 s.se.present.toNat ++ toLe 4 s.se.sticky.toNat ++ toLe
    1 (b1 s.se.zeroised) ++ zz 7))) ∧
  (∀ (s u : State) (f : Bytes) (key : Key), held s = false → svcTake s f 0x50 17 = (true, u) → by_ f 18 < 8 → protFlag
    u 5 = true → (sess u (by_ f 18)).state < 2 → keyAt u (0x200 + by_ f 18) = some key → ∃ t, exec (.sHello f) s =
    .next t ∧ (sess t (by_ f 18)).state = 1) ∧
  (∀ (s u : State) (f : Bytes) (k : Nat), held s = false → svcTake s f 0x52 34 = (true, u) → sessById u 1 (be f 18 2)
    = some k → sub f 20 32 = proofTag (sess u k).sk 0x52 (sess u k).id → ∃ t, exec (.sProof f) s = .next t ∧ (sess t
    k).state = 2) ∧
  (∀ (s : State) (k : Fin 8), held s = false → (sess s k.val).state = 1 → exec (.proofTimeout k) s = .next (interlock
    (sessClose s k.val none))) ∧
  (∀ (s u : State) (f : Bytes) (k : Nat), held s = false → svcTake s f 0x54 38 = (true, u) → sessById u 2 (be f 18 2)
    = some k → be f 20 4 = (sess u k).rxSeq → 54 ≤ be f 16 2 → be f 16 2 ≤ 4134 → sub f (be f 16 2 - 14) 32 = sub
    (hmacSha256 (sess u k).sk (sub f 14 (be f 16 2 - 28))) 0 32 → u.hl.fwReady = true → ∃ t, exec (.sMsg f) s = .next
    t ∧ (sess t k).rxSeq = (sess u k).rxSeq + 1) ∧
  (∀ (s u : State) (f : Bytes) (k : Nat), held s = false → svcTake s f 0x55 35 = (true, u) → sessById u 2 (be f 18 2)
    = some k → sub f 21 32 = sub (hmacSha256 (sess u k).sk (sub f 14 7)) 0 32 → exec (.sClose f) s = .next (interlock
    (sessClose u k none))) ∧
  (∀ (s : State) (k : Fin 8), held s = false → (sess s k.val).state = 2 → exec (.sessionIdle k) s = .next (interlock
    (sessClose s k.val (some 1)))) ∧
  (∀ (s : State) (temps : List (Option Int)) (volts : List Int), held s = false → temps.length = 8 → volts.length = 7
    → ∃ t, exec (.sensorSample temps volts) s = .next t ∧ (∀ (i : Nat) (x : Option Int), temps[i]? = some x → (sensor
    t i).excluded = excludedBy temps x)) ∧
  (∀ (s : State) (shifts : List Int), held s = false → shifts.length = 4 → ∃ t, exec (.wearSample shifts) s = .next t
    ∧ (∀ (j : Nat) (v : Int), shifts[j]? = some v → (sensor t (16 + j)).reading = v ∧ (sensor t (16 + j)).valid =
    true)) ∧
  (∀ (s : State) (tj : Int), held s = false → on s 76 = true → hotSensor s = some tj → ∃ t, exec .lifeAccumulate s =
    .next t ∧ t.mg.powered = s.mg.powered + max 1 ((s.clock - s.mg.lifeAt) / 1000000000)) ∧
  (∀ s : State, held s = false → on s 76 = true → ∃ t, exec (.wearRecordWrite true) s = .next t ∧ t.flash =
    (writeRecord s wearBase wearMagic (wearBody s)).flash) ∧
  (∀ s : State, held s = false → s.mg.logLost = s.mg.lostTold → ∃ t, exec (.logFlush true) s = .next t ∧
    t.mg.unflushed = 0) ∧
  (∀ (s : State) (v : Via) (r : Request), Admitted s v 0xB1 r → checkOnly r = false → r.length = 4 → sensorOk (by_
    r.payload 0) = true → by_ r.payload 1 = 0 → by_ r.payload 2 = 0 → by_ r.payload 3 = 0 → exec (.sensorRead v) s =
    .next (okWith (onTaken s r) r (sensorRecord (onTaken s r) (by_ r.payload 0)))) ∧
  (∀ (s : State) (v : Via) (r : Request) (b : Bytes), Admitted s v 0xB0 r → checkOnly r = false → r.length = 8 → by_
    r.payload 6 = 0 → by_ r.payload 7 = 0 → le r.payload 0 4 < s.mg.nextRec → s.mg.oldest ≤ le r.payload 0 4 → le
    r.payload 4 2 = 1 → logRecordAt s (le r.payload 0 4) = some b → exec (.logRead v) s = .next (okWith (onTaken s r)
    r (toLe 4 (le r.payload 0 4) ++ toLe 2 1 ++ zz 2 ++ b))) ∧
  (∀ (s : State) (v : Via) (r : Request) (n : Nat) (ds : List Nat), Admitted s v 0x70 r → checkOnly r = false →
    r.length = 0 → sameAgent (BitVec.ofNat 8 (cfg s 0x0B100000 0 1)) v = true → counterBlock r.oid.toNat = some (n,
    ds) → blockOn s r.oid.toNat = true → exec (.countersRead v) s = .next (okWith ((onTaken s r).setCnt (s.cnt.filter
    fun c => c.1 / 64 != r.oid.toNat)) r (countersPayload s r.oid.toNat n))) ∧
  (∀ (s : State) (v : Via) (r : Request) (n : Nat) (ds : List Nat), Admitted s v 0x71 r → checkOnly r = false →
    r.length = 0 → counterBlock r.oid.toNat = some (n, ds) → blockOn s r.oid.toNat = true → exec (.countersPeek v) s =
    .next (okWith (onTaken s r) r (countersPayload s r.oid.toNat n))) ∧
  (∀ (s : State) (v : Via) (r : Request), Admitted s v 0xA0 r → checkOnly r = false → r.length = 8 → le r.payload 0 4
    ≤ 492032 → s.se.hostLoad = false → by_ r.payload 4 ≤ 1 → by_ r.payload 5 = 0 → by_ r.payload 6 = 0 → by_ r.payload
    7 = 0 → isActive s (by_ r.payload 4) = false → s.mg.update = none → exec (.fwBegin ⟨v, true⟩) s = .next (okWith
    (logFw (setVerified ((onTaken s r).modMg fun m =>
    { m with update := some ⟨BitVec.ofNat 8 (agentOf v), by_ r.payload 4, le r.payload 0 4, false, 0, [], false⟩ })
    (by_ r.payload 4) false none) 0xA0 (by_ r.payload 4) stOk 0) r [])) ∧
  (∀ (s : State) (u : Update), held s = false → s.mg.update = some u → u.erased = false → ∃ t, exec
    (.slotEraseComplete true) s = .next t ∧ t.flash = (flashErase s (slotAddr u.slot + 4096 * u.sectors) (4096 * (128
    - u.sectors))).flash) ∧
  (∀ (s : State) (v : Via) (r : Request) (u : Update), Admitted s v 0xA1 r → checkOnly r = false → 4 ≤ r.length →
    s.mg.update = some u → sameAgent u.agent v = true → le r.payload 0 4 + (r.payload.drop 4).length ≤ u.size →
    u.erased = true → u.sectors = 128 → le r.payload 0 4 + (r.payload.drop 4).length ≤ 524288 → s.se.hostLoad = false
    → ∃ t, exec (.fwChunk ⟨v, true⟩) s = .next (okWith t r []) ∧ t.flash = (flashWrite s (slotAddr u.slot + le
    r.payload 0 4) (r.payload.drop 4)).flash) ∧
  (∀ (s : State) (v : Via) (r : Request) (u : Update), Admitted s v 0xA2 r → checkOnly r = false → r.length = 0 →
    s.mg.update = some u → sameAgent u.agent v = true → covered u = true → u.failed = false → s.se.hostLoad = false →
    ∃ t, exec (.fwFinish ⟨v, true⟩) s = .next t ∧ t.mg.update = none) ∧
  (∀ (s : State) (v : Via) (r : Request), Admitted s v 0xA3 r → checkOnly r = false → r.length = 4 → by_ r.payload 0 ≤
    1 → by_ r.payload 1 = 0 → by_ r.payload 2 = 0 → by_ r.payload 3 = 0 → slotVerified s (by_ r.payload 0) = true → ∃
    t, exec (.fwActivate ⟨v, true⟩) s = .next (okWith t r []) ∧ t.flash = (slotRecWrite s
    { (slotRec s).getD ⟨0, 0, 0, 0⟩ with active := by_ r.payload 0 }).flash) ∧
  (∀ (s : State) (v : Via) (r : Request), Admitted s v 0xC2 r → checkOnly r = false → r.length = 4 → by_ r.payload 0 =
    0 → by_ r.payload 1 ≤ 3 → by_ r.payload 2 ≤ (if by_ r.payload 1 = 1 then 5 else if by_ r.payload 1 = 2 then 2 else
    if by_ r.payload 1 = 3 then 15 else 255) → by_ r.payload 3 = 0 → fenceHeld s (by_ r.payload 1) (by_ r.payload 2) =
    false → ∃ t, exec (.fence v) s = .next (okWith t r []) ∧ t.fences = setFence s.fences (by_ r.payload 1) (by_
    r.payload 2) false) ∧
  (∀ s : State, ∃ t, exec .vddAoLoss s = .next t ∧ t.pw.aoRuns = false ∧ t.hl = {} ∧ t.objs = [] ∧ t.pads.ioDriven =
    false) ∧
  (∀ (s : State) (n : Fin 192), held s = false → isLevel n.val = true → (srcOf s n.val).cond = true → exec
    (.faultSourceDeassert n) s = .next (interlock (modSrc s n.val fun x =>
    { x with cond := false, present := x.hold || (clsOf s n.val == 3 && x.present) }))) ∧
  (∀ (s : State) (p : Fin 6), held s = false → (prt s p.val).up = true → ∃ t, exec (.linkDown ⟨p.val, by omega⟩) s =
    .next t ∧ (prt t p.val).up = false) ∧
  (∀ (s u w : State) (p : Fin 6) (f : Bytes) (e : Bool) (v : Verdict) (st : Stamp) (n : Nat), held s = false →
    receives s p.val = true → on s 62 = true → s.fs.f4 = false → be f 12 2 ≠ 0x8808 → ownFrame s p.val (sub f 6 6) =
    false → secRx s p.val = false → rxStamp s p.val f.length = (st, u) → n = (lenEarly u f.length).1 → classify
    (lenEarly u f.length).2 p.val s.rx.active f none (some n) = (v, w) → v.fwd = false → exec (.decidingPassComplete p
    f e) s = .next (interlock (keepEarly w p.val
    { pfx := f, sec := false, verdict := v, copy := none, set := passSet s p.val, stamp := st, epoch := s.rx.epoch })))
    ∧
  (∀ s : State, held s = false → s.se.phase = 2 → s.se.burns ≠ [] → ∃ t, exec .fuseBurnComplete s = .next t ∧
    t.se.burns = []) ∧
  (∀ (s : State) (v : BitVec 32), held s = false → s.se.locked = false → 1000 ≤ v.toNat % 8192 → v.toNat % 8192 ≤ 7200
    → v.toNat % 8192 % 10 = 0 → exec (.ledgerCeilWrite v) s = .next (interlock (checkOver
    { s with ld := { s.ld with bootCeil := v.toNat % 8192 } }))) ∧
  (∀ (s : State) (k : Fin 8), held s = false → (sess s k.val).state = 3 → ∃ t, exec (.serviceKeyLockoutEnd k) s =
    .next t ∧ sess t k.val = {}) ∧
  (∀ (s : State) (a : Fin 9), (a.val ≠ 8 ∨ s.pw.testMode = false) → exec (.alarmConditionEnd a) s = .next (interlock
    (s.modSe fun x => { x with present := setBit x.present a.val false }))) ∧
  (∀ (s : State) (h : Fin 4096) (l : BitVec 48) (a : Nat × BitVec 48 × BitVec 16 × BitVec 64), held s = false →
    s.tw.assigns.find? (fun a => a.1 == h.val && a.2.1 == l) = some a → ∃ t, exec (.missingLocal h l) s = .next t ∧
    t.tw.assigns = s.tw.assigns.erase a)
end

