-- ==== Sys2Proof/Laws/Bits.lean ====
section
/-! SUPPORT. What setting one bit of a register leaves in each bit. -/

namespace Sys2Proof.Machine

theorem setBit_get {w : Nat} (x : BitVec w) (i j : Nat) (v : Bool) :
    (setBit x i v).getLsbD j = if j = i ∧ j < w then v else x.getLsbD j := by
  have e : (BitVec.ofNat w (2 ^ i)).getLsbD j = (decide (j < w) && decide (i = j)) := by
    rw [BitVec.getLsbD_ofNat, Nat.testBit_two_pow]
  cases v
  · rw [setBit, if_neg (by decide), BitVec.getLsbD_and, BitVec.getLsbD_not, e]
    by_cases h : j < w
    · by_cases k : j = i
      · subst k; simp [h]
      · simp [h, k, Ne.symm k]
    · rw [if_neg (fun c => h c.2), BitVec.getLsbD_of_ge x j (by omega)]; rfl
  · rw [setBit, if_pos rfl, BitVec.getLsbD_or, e]
    by_cases h : j < w
    · by_cases k : j = i
      · subst k; simp [h]
      · simp [k, Ne.symm k]
    · rw [if_neg (fun c => h c.2)]; simp [h]

theorem setBit_same {w : Nat} (x : BitVec w) (i : Nat) (v : Bool) (h : i < w) : (setBit x i v).getLsbD i = v := by
  simp only [setBit_get, h, and_self, if_true]

theorem setBit_other {w : Nat} (x : BitVec w) {i j : Nat} (v : Bool) (h : j ≠ i) :
    (setBit x i v).getLsbD j = x.getLsbD j := by simp [setBit_get, h]

end Sys2Proof.Machine
end

