-- ==== Sys2Proof/Laws/State.lean ====
section
/-! SUPPORT. What each update of the state leaves in each field: one lemma per field and update. -/

namespace Sys2Proof.Machine

variable (s : State)

section modPads
variable (f : Pads → Pads)
@[simp] theorem State.modPads_pads : (s.modPads f).pads = f s.pads := rfl
@[simp] theorem State.modPads_pw : (s.modPads f).pw = s.pw := rfl
@[simp] theorem State.modPads_hl : (s.modPads f).hl = s.hl := rfl
@[simp] theorem State.modPads_qs : (s.modPads f).qs = s.qs := rfl
@[simp] theorem State.modPads_mb : (s.modPads f).mb = s.mb := rfl
@[simp] theorem State.modPads_ld : (s.modPads f).ld = s.ld := rfl
@[simp] theorem State.modPads_tm : (s.modPads f).tm = s.tm := rfl
@[simp] theorem State.modPads_cal : (s.modPads f).cal = s.cal := rfl
@[simp] theorem State.modPads_tx : (s.modPads f).tx = s.tx := rfl
@[simp] theorem State.modPads_rx : (s.modPads f).rx = s.rx := rfl
@[simp] theorem State.modPads_str : (s.modPads f).str = s.str := rfl
@[simp] theorem State.modPads_sg : (s.modPads f).sg = s.sg := rfl
@[simp] theorem State.modPads_sk : (s.modPads f).sk = s.sk := rfl
@[simp] theorem State.modPads_tw : (s.modPads f).tw = s.tw := rfl
@[simp] theorem State.modPads_fs : (s.modPads f).fs = s.fs := rfl
@[simp] theorem State.modPads_se : (s.modPads f).se = s.se := rfl
@[simp] theorem State.modPads_fuses : (s.modPads f).fuses = s.fuses := rfl
@[simp] theorem State.modPads_mg : (s.modPads f).mg = s.mg := rfl
@[simp] theorem State.modPads_fences : (s.modPads f).fences = s.fences := rfl
@[simp] theorem State.modPads_objs : (s.modPads f).objs = s.objs := rfl
@[simp] theorem State.modPads_win0 : (s.modPads f).win0 = s.win0 := rfl
@[simp] theorem State.modPads_win1 : (s.modPads f).win1 = s.win1 := rfl
@[simp] theorem State.modPads_flash : (s.modPads f).flash = s.flash := rfl
@[simp] theorem State.modPads_cnt : (s.modPads f).cnt = s.cnt := rfl
@[simp] theorem State.modPads_clock : (s.modPads f).clock = s.clock := rfl
@[simp] theorem State.modPads_freeIx : (s.modPads f).freeIx = s.freeIx := rfl
@[simp] theorem State.modPads_outs : (s.modPads f).outs = s.outs := rfl
@[simp] theorem State.modPads_pending : (s.modPads f).pending = s.pending := rfl
end modPads

section modPw
variable (f : Power → Power)
@[simp] theorem State.modPw_pads : (s.modPw f).pads = s.pads := rfl
@[simp] theorem State.modPw_pw : (s.modPw f).pw = f s.pw := rfl
@[simp] theorem State.modPw_hl : (s.modPw f).hl = s.hl := rfl
@[simp] theorem State.modPw_qs : (s.modPw f).qs = s.qs := rfl
@[simp] theorem State.modPw_mb : (s.modPw f).mb = s.mb := rfl
@[simp] theorem State.modPw_ld : (s.modPw f).ld = s.ld := rfl
@[simp] theorem State.modPw_tm : (s.modPw f).tm = s.tm := rfl
@[simp] theorem State.modPw_cal : (s.modPw f).cal = s.cal := rfl
@[simp] theorem State.modPw_tx : (s.modPw f).tx = s.tx := rfl
@[simp] theorem State.modPw_rx : (s.modPw f).rx = s.rx := rfl
@[simp] theorem State.modPw_str : (s.modPw f).str = s.str := rfl
@[simp] theorem State.modPw_sg : (s.modPw f).sg = s.sg := rfl
@[simp] theorem State.modPw_sk : (s.modPw f).sk = s.sk := rfl
@[simp] theorem State.modPw_tw : (s.modPw f).tw = s.tw := rfl
@[simp] theorem State.modPw_fs : (s.modPw f).fs = s.fs := rfl
@[simp] theorem State.modPw_se : (s.modPw f).se = s.se := rfl
@[simp] theorem State.modPw_fuses : (s.modPw f).fuses = s.fuses := rfl
@[simp] theorem State.modPw_mg : (s.modPw f).mg = s.mg := rfl
@[simp] theorem State.modPw_fences : (s.modPw f).fences = s.fences := rfl
@[simp] theorem State.modPw_objs : (s.modPw f).objs = s.objs := rfl
@[simp] theorem State.modPw_win0 : (s.modPw f).win0 = s.win0 := rfl
@[simp] theorem State.modPw_win1 : (s.modPw f).win1 = s.win1 := rfl
@[simp] theorem State.modPw_flash : (s.modPw f).flash = s.flash := rfl
@[simp] theorem State.modPw_cnt : (s.modPw f).cnt = s.cnt := rfl
@[simp] theorem State.modPw_clock : (s.modPw f).clock = s.clock := rfl
@[simp] theorem State.modPw_freeIx : (s.modPw f).freeIx = s.freeIx := rfl
@[simp] theorem State.modPw_outs : (s.modPw f).outs = s.outs := rfl
@[simp] theorem State.modPw_pending : (s.modPw f).pending = s.pending := rfl
end modPw

section modHl
variable (f : Link → Link)
@[simp] theorem State.modHl_pads : (s.modHl f).pads = s.pads := rfl
@[simp] theorem State.modHl_pw : (s.modHl f).pw = s.pw := rfl
@[simp] theorem State.modHl_hl : (s.modHl f).hl = f s.hl := rfl
@[simp] theorem State.modHl_qs : (s.modHl f).qs = s.qs := rfl
@[simp] theorem State.modHl_mb : (s.modHl f).mb = s.mb := rfl
@[simp] theorem State.modHl_ld : (s.modHl f).ld = s.ld := rfl
@[simp] theorem State.modHl_tm : (s.modHl f).tm = s.tm := rfl
@[simp] theorem State.modHl_cal : (s.modHl f).cal = s.cal := rfl
@[simp] theorem State.modHl_tx : (s.modHl f).tx = s.tx := rfl
@[simp] theorem State.modHl_rx : (s.modHl f).rx = s.rx := rfl
@[simp] theorem State.modHl_str : (s.modHl f).str = s.str := rfl
@[simp] theorem State.modHl_sg : (s.modHl f).sg = s.sg := rfl
@[simp] theorem State.modHl_sk : (s.modHl f).sk = s.sk := rfl
@[simp] theorem State.modHl_tw : (s.modHl f).tw = s.tw := rfl
@[simp] theorem State.modHl_fs : (s.modHl f).fs = s.fs := rfl
@[simp] theorem State.modHl_se : (s.modHl f).se = s.se := rfl
@[simp] theorem State.modHl_fuses : (s.modHl f).fuses = s.fuses := rfl
@[simp] theorem State.modHl_mg : (s.modHl f).mg = s.mg := rfl
@[simp] theorem State.modHl_fences : (s.modHl f).fences = s.fences := rfl
@[simp] theorem State.modHl_objs : (s.modHl f).objs = s.objs := rfl
@[simp] theorem State.modHl_win0 : (s.modHl f).win0 = s.win0 := rfl
@[simp] theorem State.modHl_win1 : (s.modHl f).win1 = s.win1 := rfl
@[simp] theorem State.modHl_flash : (s.modHl f).flash = s.flash := rfl
@[simp] theorem State.modHl_cnt : (s.modHl f).cnt = s.cnt := rfl
@[simp] theorem State.modHl_clock : (s.modHl f).clock = s.clock := rfl
@[simp] theorem State.modHl_freeIx : (s.modHl f).freeIx = s.freeIx := rfl
@[simp] theorem State.modHl_outs : (s.modHl f).outs = s.outs := rfl
@[simp] theorem State.modHl_pending : (s.modHl f).pending = s.pending := rfl
end modHl

section modMb
variable (f : Mail → Mail)
@[simp] theorem State.modMb_pads : (s.modMb f).pads = s.pads := rfl
@[simp] theorem State.modMb_pw : (s.modMb f).pw = s.pw := rfl
@[simp] theorem State.modMb_hl : (s.modMb f).hl = s.hl := rfl
@[simp] theorem State.modMb_qs : (s.modMb f).qs = s.qs := rfl
@[simp] theorem State.modMb_mb : (s.modMb f).mb = f s.mb := rfl
@[simp] theorem State.modMb_ld : (s.modMb f).ld = s.ld := rfl
@[simp] theorem State.modMb_tm : (s.modMb f).tm = s.tm := rfl
@[simp] theorem State.modMb_cal : (s.modMb f).cal = s.cal := rfl
@[simp] theorem State.modMb_tx : (s.modMb f).tx = s.tx := rfl
@[simp] theorem State.modMb_rx : (s.modMb f).rx = s.rx := rfl
@[simp] theorem State.modMb_str : (s.modMb f).str = s.str := rfl
@[simp] theorem State.modMb_sg : (s.modMb f).sg = s.sg := rfl
@[simp] theorem State.modMb_sk : (s.modMb f).sk = s.sk := rfl
@[simp] theorem State.modMb_tw : (s.modMb f).tw = s.tw := rfl
@[simp] theorem State.modMb_fs : (s.modMb f).fs = s.fs := rfl
@[simp] theorem State.modMb_se : (s.modMb f).se = s.se := rfl
@[simp] theorem State.modMb_fuses : (s.modMb f).fuses = s.fuses := rfl
@[simp] theorem State.modMb_mg : (s.modMb f).mg = s.mg := rfl
@[simp] theorem State.modMb_fences : (s.modMb f).fences = s.fences := rfl
@[simp] theorem State.modMb_objs : (s.modMb f).objs = s.objs := rfl
@[simp] theorem State.modMb_win0 : (s.modMb f).win0 = s.win0 := rfl
@[simp] theorem State.modMb_win1 : (s.modMb f).win1 = s.win1 := rfl
@[simp] theorem State.modMb_flash : (s.modMb f).flash = s.flash := rfl
@[simp] theorem State.modMb_cnt : (s.modMb f).cnt = s.cnt := rfl
@[simp] theorem State.modMb_clock : (s.modMb f).clock = s.clock := rfl
@[simp] theorem State.modMb_freeIx : (s.modMb f).freeIx = s.freeIx := rfl
@[simp] theorem State.modMb_outs : (s.modMb f).outs = s.outs := rfl
@[simp] theorem State.modMb_pending : (s.modMb f).pending = s.pending := rfl
end modMb

section modLd
variable (f : Ledger → Ledger)
@[simp] theorem State.modLd_pads : (s.modLd f).pads = s.pads := rfl
@[simp] theorem State.modLd_pw : (s.modLd f).pw = s.pw := rfl
@[simp] theorem State.modLd_hl : (s.modLd f).hl = s.hl := rfl
@[simp] theorem State.modLd_qs : (s.modLd f).qs = s.qs := rfl
@[simp] theorem State.modLd_mb : (s.modLd f).mb = s.mb := rfl
@[simp] theorem State.modLd_ld : (s.modLd f).ld = f s.ld := rfl
@[simp] theorem State.modLd_tm : (s.modLd f).tm = s.tm := rfl
@[simp] theorem State.modLd_cal : (s.modLd f).cal = s.cal := rfl
@[simp] theorem State.modLd_tx : (s.modLd f).tx = s.tx := rfl
@[simp] theorem State.modLd_rx : (s.modLd f).rx = s.rx := rfl
@[simp] theorem State.modLd_str : (s.modLd f).str = s.str := rfl
@[simp] theorem State.modLd_sg : (s.modLd f).sg = s.sg := rfl
@[simp] theorem State.modLd_sk : (s.modLd f).sk = s.sk := rfl
@[simp] theorem State.modLd_tw : (s.modLd f).tw = s.tw := rfl
@[simp] theorem State.modLd_fs : (s.modLd f).fs = s.fs := rfl
@[simp] theorem State.modLd_se : (s.modLd f).se = s.se := rfl
@[simp] theorem State.modLd_fuses : (s.modLd f).fuses = s.fuses := rfl
@[simp] theorem State.modLd_mg : (s.modLd f).mg = s.mg := rfl
@[simp] theorem State.modLd_fences : (s.modLd f).fences = s.fences := rfl
@[simp] theorem State.modLd_objs : (s.modLd f).objs = s.objs := rfl
@[simp] theorem State.modLd_win0 : (s.modLd f).win0 = s.win0 := rfl
@[simp] theorem State.modLd_win1 : (s.modLd f).win1 = s.win1 := rfl
@[simp] theorem State.modLd_flash : (s.modLd f).flash = s.flash := rfl
@[simp] theorem State.modLd_cnt : (s.modLd f).cnt = s.cnt := rfl
@[simp] theorem State.modLd_clock : (s.modLd f).clock = s.clock := rfl
@[simp] theorem State.modLd_freeIx : (s.modLd f).freeIx = s.freeIx := rfl
@[simp] theorem State.modLd_outs : (s.modLd f).outs = s.outs := rfl
@[simp] theorem State.modLd_pending : (s.modLd f).pending = s.pending := rfl
end modLd

section modTm
variable (f : Time → Time)
@[simp] theorem State.modTm_pads : (s.modTm f).pads = s.pads := rfl
@[simp] theorem State.modTm_pw : (s.modTm f).pw = s.pw := rfl
@[simp] theorem State.modTm_hl : (s.modTm f).hl = s.hl := rfl
@[simp] theorem State.modTm_qs : (s.modTm f).qs = s.qs := rfl
@[simp] theorem State.modTm_mb : (s.modTm f).mb = s.mb := rfl
@[simp] theorem State.modTm_ld : (s.modTm f).ld = s.ld := rfl
@[simp] theorem State.modTm_tm : (s.modTm f).tm = f s.tm := rfl
@[simp] theorem State.modTm_cal : (s.modTm f).cal = s.cal := rfl
@[simp] theorem State.modTm_tx : (s.modTm f).tx = s.tx := rfl
@[simp] theorem State.modTm_rx : (s.modTm f).rx = s.rx := rfl
@[simp] theorem State.modTm_str : (s.modTm f).str = s.str := rfl
@[simp] theorem State.modTm_sg : (s.modTm f).sg = s.sg := rfl
@[simp] theorem State.modTm_sk : (s.modTm f).sk = s.sk := rfl
@[simp] theorem State.modTm_tw : (s.modTm f).tw = s.tw := rfl
@[simp] theorem State.modTm_fs : (s.modTm f).fs = s.fs := rfl
@[simp] theorem State.modTm_se : (s.modTm f).se = s.se := rfl
@[simp] theorem State.modTm_fuses : (s.modTm f).fuses = s.fuses := rfl
@[simp] theorem State.modTm_mg : (s.modTm f).mg = s.mg := rfl
@[simp] theorem State.modTm_fences : (s.modTm f).fences = s.fences := rfl
@[simp] theorem State.modTm_objs : (s.modTm f).objs = s.objs := rfl
@[simp] theorem State.modTm_win0 : (s.modTm f).win0 = s.win0 := rfl
@[simp] theorem State.modTm_win1 : (s.modTm f).win1 = s.win1 := rfl
@[simp] theorem State.modTm_flash : (s.modTm f).flash = s.flash := rfl
@[simp] theorem State.modTm_cnt : (s.modTm f).cnt = s.cnt := rfl
@[simp] theorem State.modTm_clock : (s.modTm f).clock = s.clock := rfl
@[simp] theorem State.modTm_freeIx : (s.modTm f).freeIx = s.freeIx := rfl
@[simp] theorem State.modTm_outs : (s.modTm f).outs = s.outs := rfl
@[simp] theorem State.modTm_pending : (s.modTm f).pending = s.pending := rfl
end modTm

section modCal
variable (f : Cal → Cal)
@[simp] theorem State.modCal_pads : (s.modCal f).pads = s.pads := rfl
@[simp] theorem State.modCal_pw : (s.modCal f).pw = s.pw := rfl
@[simp] theorem State.modCal_hl : (s.modCal f).hl = s.hl := rfl
@[simp] theorem State.modCal_qs : (s.modCal f).qs = s.qs := rfl
@[simp] theorem State.modCal_mb : (s.modCal f).mb = s.mb := rfl
@[simp] theorem State.modCal_ld : (s.modCal f).ld = s.ld := rfl
@[simp] theorem State.modCal_tm : (s.modCal f).tm = s.tm := rfl
@[simp] theorem State.modCal_cal : (s.modCal f).cal = f s.cal := rfl
@[simp] theorem State.modCal_tx : (s.modCal f).tx = s.tx := rfl
@[simp] theorem State.modCal_rx : (s.modCal f).rx = s.rx := rfl
@[simp] theorem State.modCal_str : (s.modCal f).str = s.str := rfl
@[simp] theorem State.modCal_sg : (s.modCal f).sg = s.sg := rfl
@[simp] theorem State.modCal_sk : (s.modCal f).sk = s.sk := rfl
@[simp] theorem State.modCal_tw : (s.modCal f).tw = s.tw := rfl
@[simp] theorem State.modCal_fs : (s.modCal f).fs = s.fs := rfl
@[simp] theorem State.modCal_se : (s.modCal f).se = s.se := rfl
@[simp] theorem State.modCal_fuses : (s.modCal f).fuses = s.fuses := rfl
@[simp] theorem State.modCal_mg : (s.modCal f).mg = s.mg := rfl
@[simp] theorem State.modCal_fences : (s.modCal f).fences = s.fences := rfl
@[simp] theorem State.modCal_objs : (s.modCal f).objs = s.objs := rfl
@[simp] theorem State.modCal_win0 : (s.modCal f).win0 = s.win0 := rfl
@[simp] theorem State.modCal_win1 : (s.modCal f).win1 = s.win1 := rfl
@[simp] theorem State.modCal_flash : (s.modCal f).flash = s.flash := rfl
@[simp] theorem State.modCal_cnt : (s.modCal f).cnt = s.cnt := rfl
@[simp] theorem State.modCal_clock : (s.modCal f).clock = s.clock := rfl
@[simp] theorem State.modCal_freeIx : (s.modCal f).freeIx = s.freeIx := rfl
@[simp] theorem State.modCal_outs : (s.modCal f).outs = s.outs := rfl
@[simp] theorem State.modCal_pending : (s.modCal f).pending = s.pending := rfl
end modCal

section modTx
variable (f : Tx → Tx)
@[simp] theorem State.modTx_pads : (s.modTx f).pads = s.pads := rfl
@[simp] theorem State.modTx_pw : (s.modTx f).pw = s.pw := rfl
@[simp] theorem State.modTx_hl : (s.modTx f).hl = s.hl := rfl
@[simp] theorem State.modTx_qs : (s.modTx f).qs = s.qs := rfl
@[simp] theorem State.modTx_mb : (s.modTx f).mb = s.mb := rfl
@[simp] theorem State.modTx_ld : (s.modTx f).ld = s.ld := rfl
@[simp] theorem State.modTx_tm : (s.modTx f).tm = s.tm := rfl
@[simp] theorem State.modTx_cal : (s.modTx f).cal = s.cal := rfl
@[simp] theorem State.modTx_tx : (s.modTx f).tx = f s.tx := rfl
@[simp] theorem State.modTx_rx : (s.modTx f).rx = s.rx := rfl
@[simp] theorem State.modTx_str : (s.modTx f).str = s.str := rfl
@[simp] theorem State.modTx_sg : (s.modTx f).sg = s.sg := rfl
@[simp] theorem State.modTx_sk : (s.modTx f).sk = s.sk := rfl
@[simp] theorem State.modTx_tw : (s.modTx f).tw = s.tw := rfl
@[simp] theorem State.modTx_fs : (s.modTx f).fs = s.fs := rfl
@[simp] theorem State.modTx_se : (s.modTx f).se = s.se := rfl
@[simp] theorem State.modTx_fuses : (s.modTx f).fuses = s.fuses := rfl
@[simp] theorem State.modTx_mg : (s.modTx f).mg = s.mg := rfl
@[simp] theorem State.modTx_fences : (s.modTx f).fences = s.fences := rfl
@[simp] theorem State.modTx_objs : (s.modTx f).objs = s.objs := rfl
@[simp] theorem State.modTx_win0 : (s.modTx f).win0 = s.win0 := rfl
@[simp] theorem State.modTx_win1 : (s.modTx f).win1 = s.win1 := rfl
@[simp] theorem State.modTx_flash : (s.modTx f).flash = s.flash := rfl
@[simp] theorem State.modTx_cnt : (s.modTx f).cnt = s.cnt := rfl
@[simp] theorem State.modTx_clock : (s.modTx f).clock = s.clock := rfl
@[simp] theorem State.modTx_freeIx : (s.modTx f).freeIx = s.freeIx := rfl
@[simp] theorem State.modTx_outs : (s.modTx f).outs = s.outs := rfl
@[simp] theorem State.modTx_pending : (s.modTx f).pending = s.pending := rfl
end modTx

section modRx
variable (f : Rx → Rx)
@[simp] theorem State.modRx_pads : (s.modRx f).pads = s.pads := rfl
@[simp] theorem State.modRx_pw : (s.modRx f).pw = s.pw := rfl
@[simp] theorem State.modRx_hl : (s.modRx f).hl = s.hl := rfl
@[simp] theorem State.modRx_qs : (s.modRx f).qs = s.qs := rfl
@[simp] theorem State.modRx_mb : (s.modRx f).mb = s.mb := rfl
@[simp] theorem State.modRx_ld : (s.modRx f).ld = s.ld := rfl
@[simp] theorem State.modRx_tm : (s.modRx f).tm = s.tm := rfl
@[simp] theorem State.modRx_cal : (s.modRx f).cal = s.cal := rfl
@[simp] theorem State.modRx_tx : (s.modRx f).tx = s.tx := rfl
@[simp] theorem State.modRx_rx : (s.modRx f).rx = f s.rx := rfl
@[simp] theorem State.modRx_str : (s.modRx f).str = s.str := rfl
@[simp] theorem State.modRx_sg : (s.modRx f).sg = s.sg := rfl
@[simp] theorem State.modRx_sk : (s.modRx f).sk = s.sk := rfl
@[simp] theorem State.modRx_tw : (s.modRx f).tw = s.tw := rfl
@[simp] theorem State.modRx_fs : (s.modRx f).fs = s.fs := rfl
@[simp] theorem State.modRx_se : (s.modRx f).se = s.se := rfl
@[simp] theorem State.modRx_fuses : (s.modRx f).fuses = s.fuses := rfl
@[simp] theorem State.modRx_mg : (s.modRx f).mg = s.mg := rfl
@[simp] theorem State.modRx_fences : (s.modRx f).fences = s.fences := rfl
@[simp] theorem State.modRx_objs : (s.modRx f).objs = s.objs := rfl
@[simp] theorem State.modRx_win0 : (s.modRx f).win0 = s.win0 := rfl
@[simp] theorem State.modRx_win1 : (s.modRx f).win1 = s.win1 := rfl
@[simp] theorem State.modRx_flash : (s.modRx f).flash = s.flash := rfl
@[simp] theorem State.modRx_cnt : (s.modRx f).cnt = s.cnt := rfl
@[simp] theorem State.modRx_clock : (s.modRx f).clock = s.clock := rfl
@[simp] theorem State.modRx_freeIx : (s.modRx f).freeIx = s.freeIx := rfl
@[simp] theorem State.modRx_outs : (s.modRx f).outs = s.outs := rfl
@[simp] theorem State.modRx_pending : (s.modRx f).pending = s.pending := rfl
end modRx

section modStr
variable (f : Str → Str)
@[simp] theorem State.modStr_pads : (s.modStr f).pads = s.pads := rfl
@[simp] theorem State.modStr_pw : (s.modStr f).pw = s.pw := rfl
@[simp] theorem State.modStr_hl : (s.modStr f).hl = s.hl := rfl
@[simp] theorem State.modStr_qs : (s.modStr f).qs = s.qs := rfl
@[simp] theorem State.modStr_mb : (s.modStr f).mb = s.mb := rfl
@[simp] theorem State.modStr_ld : (s.modStr f).ld = s.ld := rfl
@[simp] theorem State.modStr_tm : (s.modStr f).tm = s.tm := rfl
@[simp] theorem State.modStr_cal : (s.modStr f).cal = s.cal := rfl
@[simp] theorem State.modStr_tx : (s.modStr f).tx = s.tx := rfl
@[simp] theorem State.modStr_rx : (s.modStr f).rx = s.rx := rfl
@[simp] theorem State.modStr_str : (s.modStr f).str = f s.str := rfl
@[simp] theorem State.modStr_sg : (s.modStr f).sg = s.sg := rfl
@[simp] theorem State.modStr_sk : (s.modStr f).sk = s.sk := rfl
@[simp] theorem State.modStr_tw : (s.modStr f).tw = s.tw := rfl
@[simp] theorem State.modStr_fs : (s.modStr f).fs = s.fs := rfl
@[simp] theorem State.modStr_se : (s.modStr f).se = s.se := rfl
@[simp] theorem State.modStr_fuses : (s.modStr f).fuses = s.fuses := rfl
@[simp] theorem State.modStr_mg : (s.modStr f).mg = s.mg := rfl
@[simp] theorem State.modStr_fences : (s.modStr f).fences = s.fences := rfl
@[simp] theorem State.modStr_objs : (s.modStr f).objs = s.objs := rfl
@[simp] theorem State.modStr_win0 : (s.modStr f).win0 = s.win0 := rfl
@[simp] theorem State.modStr_win1 : (s.modStr f).win1 = s.win1 := rfl
@[simp] theorem State.modStr_flash : (s.modStr f).flash = s.flash := rfl
@[simp] theorem State.modStr_cnt : (s.modStr f).cnt = s.cnt := rfl
@[simp] theorem State.modStr_clock : (s.modStr f).clock = s.clock := rfl
@[simp] theorem State.modStr_freeIx : (s.modStr f).freeIx = s.freeIx := rfl
@[simp] theorem State.modStr_outs : (s.modStr f).outs = s.outs := rfl
@[simp] theorem State.modStr_pending : (s.modStr f).pending = s.pending := rfl
end modStr

section modSg
variable (f : SegAll → SegAll)
@[simp] theorem State.modSg_pads : (s.modSg f).pads = s.pads := rfl
@[simp] theorem State.modSg_pw : (s.modSg f).pw = s.pw := rfl
@[simp] theorem State.modSg_hl : (s.modSg f).hl = s.hl := rfl
@[simp] theorem State.modSg_qs : (s.modSg f).qs = s.qs := rfl
@[simp] theorem State.modSg_mb : (s.modSg f).mb = s.mb := rfl
@[simp] theorem State.modSg_ld : (s.modSg f).ld = s.ld := rfl
@[simp] theorem State.modSg_tm : (s.modSg f).tm = s.tm := rfl
@[simp] theorem State.modSg_cal : (s.modSg f).cal = s.cal := rfl
@[simp] theorem State.modSg_tx : (s.modSg f).tx = s.tx := rfl
@[simp] theorem State.modSg_rx : (s.modSg f).rx = s.rx := rfl
@[simp] theorem State.modSg_str : (s.modSg f).str = s.str := rfl
@[simp] theorem State.modSg_sg : (s.modSg f).sg = f s.sg := rfl
@[simp] theorem State.modSg_sk : (s.modSg f).sk = s.sk := rfl
@[simp] theorem State.modSg_tw : (s.modSg f).tw = s.tw := rfl
@[simp] theorem State.modSg_fs : (s.modSg f).fs = s.fs := rfl
@[simp] theorem State.modSg_se : (s.modSg f).se = s.se := rfl
@[simp] theorem State.modSg_fuses : (s.modSg f).fuses = s.fuses := rfl
@[simp] theorem State.modSg_mg : (s.modSg f).mg = s.mg := rfl
@[simp] theorem State.modSg_fences : (s.modSg f).fences = s.fences := rfl
@[simp] theorem State.modSg_objs : (s.modSg f).objs = s.objs := rfl
@[simp] theorem State.modSg_win0 : (s.modSg f).win0 = s.win0 := rfl
@[simp] theorem State.modSg_win1 : (s.modSg f).win1 = s.win1 := rfl
@[simp] theorem State.modSg_flash : (s.modSg f).flash = s.flash := rfl
@[simp] theorem State.modSg_cnt : (s.modSg f).cnt = s.cnt := rfl
@[simp] theorem State.modSg_clock : (s.modSg f).clock = s.clock := rfl
@[simp] theorem State.modSg_freeIx : (s.modSg f).freeIx = s.freeIx := rfl
@[simp] theorem State.modSg_outs : (s.modSg f).outs = s.outs := rfl
@[simp] theorem State.modSg_pending : (s.modSg f).pending = s.pending := rfl
end modSg

section modSk
variable (f : Stack → Stack)
@[simp] theorem State.modSk_pads : (s.modSk f).pads = s.pads := rfl
@[simp] theorem State.modSk_pw : (s.modSk f).pw = s.pw := rfl
@[simp] theorem State.modSk_hl : (s.modSk f).hl = s.hl := rfl
@[simp] theorem State.modSk_qs : (s.modSk f).qs = s.qs := rfl
@[simp] theorem State.modSk_mb : (s.modSk f).mb = s.mb := rfl
@[simp] theorem State.modSk_ld : (s.modSk f).ld = s.ld := rfl
@[simp] theorem State.modSk_tm : (s.modSk f).tm = s.tm := rfl
@[simp] theorem State.modSk_cal : (s.modSk f).cal = s.cal := rfl
@[simp] theorem State.modSk_tx : (s.modSk f).tx = s.tx := rfl
@[simp] theorem State.modSk_rx : (s.modSk f).rx = s.rx := rfl
@[simp] theorem State.modSk_str : (s.modSk f).str = s.str := rfl
@[simp] theorem State.modSk_sg : (s.modSk f).sg = s.sg := rfl
@[simp] theorem State.modSk_sk : (s.modSk f).sk = f s.sk := rfl
@[simp] theorem State.modSk_tw : (s.modSk f).tw = s.tw := rfl
@[simp] theorem State.modSk_fs : (s.modSk f).fs = s.fs := rfl
@[simp] theorem State.modSk_se : (s.modSk f).se = s.se := rfl
@[simp] theorem State.modSk_fuses : (s.modSk f).fuses = s.fuses := rfl
@[simp] theorem State.modSk_mg : (s.modSk f).mg = s.mg := rfl
@[simp] theorem State.modSk_fences : (s.modSk f).fences = s.fences := rfl
@[simp] theorem State.modSk_objs : (s.modSk f).objs = s.objs := rfl
@[simp] theorem State.modSk_win0 : (s.modSk f).win0 = s.win0 := rfl
@[simp] theorem State.modSk_win1 : (s.modSk f).win1 = s.win1 := rfl
@[simp] theorem State.modSk_flash : (s.modSk f).flash = s.flash := rfl
@[simp] theorem State.modSk_cnt : (s.modSk f).cnt = s.cnt := rfl
@[simp] theorem State.modSk_clock : (s.modSk f).clock = s.clock := rfl
@[simp] theorem State.modSk_freeIx : (s.modSk f).freeIx = s.freeIx := rfl
@[simp] theorem State.modSk_outs : (s.modSk f).outs = s.outs := rfl
@[simp] theorem State.modSk_pending : (s.modSk f).pending = s.pending := rfl
end modSk

section modTw
variable (f : Twin → Twin)
@[simp] theorem State.modTw_pads : (s.modTw f).pads = s.pads := rfl
@[simp] theorem State.modTw_pw : (s.modTw f).pw = s.pw := rfl
@[simp] theorem State.modTw_hl : (s.modTw f).hl = s.hl := rfl
@[simp] theorem State.modTw_qs : (s.modTw f).qs = s.qs := rfl
@[simp] theorem State.modTw_mb : (s.modTw f).mb = s.mb := rfl
@[simp] theorem State.modTw_ld : (s.modTw f).ld = s.ld := rfl
@[simp] theorem State.modTw_tm : (s.modTw f).tm = s.tm := rfl
@[simp] theorem State.modTw_cal : (s.modTw f).cal = s.cal := rfl
@[simp] theorem State.modTw_tx : (s.modTw f).tx = s.tx := rfl
@[simp] theorem State.modTw_rx : (s.modTw f).rx = s.rx := rfl
@[simp] theorem State.modTw_str : (s.modTw f).str = s.str := rfl
@[simp] theorem State.modTw_sg : (s.modTw f).sg = s.sg := rfl
@[simp] theorem State.modTw_sk : (s.modTw f).sk = s.sk := rfl
@[simp] theorem State.modTw_tw : (s.modTw f).tw = f s.tw := rfl
@[simp] theorem State.modTw_fs : (s.modTw f).fs = s.fs := rfl
@[simp] theorem State.modTw_se : (s.modTw f).se = s.se := rfl
@[simp] theorem State.modTw_fuses : (s.modTw f).fuses = s.fuses := rfl
@[simp] theorem State.modTw_mg : (s.modTw f).mg = s.mg := rfl
@[simp] theorem State.modTw_fences : (s.modTw f).fences = s.fences := rfl
@[simp] theorem State.modTw_objs : (s.modTw f).objs = s.objs := rfl
@[simp] theorem State.modTw_win0 : (s.modTw f).win0 = s.win0 := rfl
@[simp] theorem State.modTw_win1 : (s.modTw f).win1 = s.win1 := rfl
@[simp] theorem State.modTw_flash : (s.modTw f).flash = s.flash := rfl
@[simp] theorem State.modTw_cnt : (s.modTw f).cnt = s.cnt := rfl
@[simp] theorem State.modTw_clock : (s.modTw f).clock = s.clock := rfl
@[simp] theorem State.modTw_freeIx : (s.modTw f).freeIx = s.freeIx := rfl
@[simp] theorem State.modTw_outs : (s.modTw f).outs = s.outs := rfl
@[simp] theorem State.modTw_pending : (s.modTw f).pending = s.pending := rfl
end modTw

section modFs
variable (f : Faults → Faults)
@[simp] theorem State.modFs_pads : (s.modFs f).pads = s.pads := rfl
@[simp] theorem State.modFs_pw : (s.modFs f).pw = s.pw := rfl
@[simp] theorem State.modFs_hl : (s.modFs f).hl = s.hl := rfl
@[simp] theorem State.modFs_qs : (s.modFs f).qs = s.qs := rfl
@[simp] theorem State.modFs_mb : (s.modFs f).mb = s.mb := rfl
@[simp] theorem State.modFs_ld : (s.modFs f).ld = s.ld := rfl
@[simp] theorem State.modFs_tm : (s.modFs f).tm = s.tm := rfl
@[simp] theorem State.modFs_cal : (s.modFs f).cal = s.cal := rfl
@[simp] theorem State.modFs_tx : (s.modFs f).tx = s.tx := rfl
@[simp] theorem State.modFs_rx : (s.modFs f).rx = s.rx := rfl
@[simp] theorem State.modFs_str : (s.modFs f).str = s.str := rfl
@[simp] theorem State.modFs_sg : (s.modFs f).sg = s.sg := rfl
@[simp] theorem State.modFs_sk : (s.modFs f).sk = s.sk := rfl
@[simp] theorem State.modFs_tw : (s.modFs f).tw = s.tw := rfl
@[simp] theorem State.modFs_fs : (s.modFs f).fs = (f s.fs).paired := rfl
@[simp] theorem State.modFs_se : (s.modFs f).se = s.se := rfl
@[simp] theorem State.modFs_fuses : (s.modFs f).fuses = s.fuses := rfl
@[simp] theorem State.modFs_mg : (s.modFs f).mg = s.mg := rfl
@[simp] theorem State.modFs_fences : (s.modFs f).fences = s.fences := rfl
@[simp] theorem State.modFs_objs : (s.modFs f).objs = s.objs := rfl
@[simp] theorem State.modFs_win0 : (s.modFs f).win0 = s.win0 := rfl
@[simp] theorem State.modFs_win1 : (s.modFs f).win1 = s.win1 := rfl
@[simp] theorem State.modFs_flash : (s.modFs f).flash = s.flash := rfl
@[simp] theorem State.modFs_cnt : (s.modFs f).cnt = s.cnt := rfl
@[simp] theorem State.modFs_clock : (s.modFs f).clock = s.clock := rfl
@[simp] theorem State.modFs_freeIx : (s.modFs f).freeIx = s.freeIx := rfl
@[simp] theorem State.modFs_outs : (s.modFs f).outs = s.outs := rfl
@[simp] theorem State.modFs_pending : (s.modFs f).pending = s.pending := rfl
end modFs

section modSe
variable (f : Sec → Sec)
@[simp] theorem State.modSe_pads : (s.modSe f).pads = s.pads := rfl
@[simp] theorem State.modSe_pw : (s.modSe f).pw = s.pw := rfl
@[simp] theorem State.modSe_hl : (s.modSe f).hl = s.hl := rfl
@[simp] theorem State.modSe_qs : (s.modSe f).qs = s.qs := rfl
@[simp] theorem State.modSe_mb : (s.modSe f).mb = s.mb := rfl
@[simp] theorem State.modSe_ld : (s.modSe f).ld = s.ld := rfl
@[simp] theorem State.modSe_tm : (s.modSe f).tm = s.tm := rfl
@[simp] theorem State.modSe_cal : (s.modSe f).cal = s.cal := rfl
@[simp] theorem State.modSe_tx : (s.modSe f).tx = s.tx := rfl
@[simp] theorem State.modSe_rx : (s.modSe f).rx = s.rx := rfl
@[simp] theorem State.modSe_str : (s.modSe f).str = s.str := rfl
@[simp] theorem State.modSe_sg : (s.modSe f).sg = s.sg := rfl
@[simp] theorem State.modSe_sk : (s.modSe f).sk = s.sk := rfl
@[simp] theorem State.modSe_tw : (s.modSe f).tw = s.tw := rfl
@[simp] theorem State.modSe_fs : (s.modSe f).fs = s.fs := rfl
@[simp] theorem State.modSe_se : (s.modSe f).se = f s.se := rfl
@[simp] theorem State.modSe_fuses : (s.modSe f).fuses = s.fuses := rfl
@[simp] theorem State.modSe_mg : (s.modSe f).mg = s.mg := rfl
@[simp] theorem State.modSe_fences : (s.modSe f).fences = s.fences := rfl
@[simp] theorem State.modSe_objs : (s.modSe f).objs = s.objs := rfl
@[simp] theorem State.modSe_win0 : (s.modSe f).win0 = s.win0 := rfl
@[simp] theorem State.modSe_win1 : (s.modSe f).win1 = s.win1 := rfl
@[simp] theorem State.modSe_flash : (s.modSe f).flash = s.flash := rfl
@[simp] theorem State.modSe_cnt : (s.modSe f).cnt = s.cnt := rfl
@[simp] theorem State.modSe_clock : (s.modSe f).clock = s.clock := rfl
@[simp] theorem State.modSe_freeIx : (s.modSe f).freeIx = s.freeIx := rfl
@[simp] theorem State.modSe_outs : (s.modSe f).outs = s.outs := rfl
@[simp] theorem State.modSe_pending : (s.modSe f).pending = s.pending := rfl
end modSe

section modMg
variable (f : Mgmt → Mgmt)
@[simp] theorem State.modMg_pads : (s.modMg f).pads = s.pads := rfl
@[simp] theorem State.modMg_pw : (s.modMg f).pw = s.pw := rfl
@[simp] theorem State.modMg_hl : (s.modMg f).hl = s.hl := rfl
@[simp] theorem State.modMg_qs : (s.modMg f).qs = s.qs := rfl
@[simp] theorem State.modMg_mb : (s.modMg f).mb = s.mb := rfl
@[simp] theorem State.modMg_ld : (s.modMg f).ld = s.ld := rfl
@[simp] theorem State.modMg_tm : (s.modMg f).tm = s.tm := rfl
@[simp] theorem State.modMg_cal : (s.modMg f).cal = s.cal := rfl
@[simp] theorem State.modMg_tx : (s.modMg f).tx = s.tx := rfl
@[simp] theorem State.modMg_rx : (s.modMg f).rx = s.rx := rfl
@[simp] theorem State.modMg_str : (s.modMg f).str = s.str := rfl
@[simp] theorem State.modMg_sg : (s.modMg f).sg = s.sg := rfl
@[simp] theorem State.modMg_sk : (s.modMg f).sk = s.sk := rfl
@[simp] theorem State.modMg_tw : (s.modMg f).tw = s.tw := rfl
@[simp] theorem State.modMg_fs : (s.modMg f).fs = s.fs := rfl
@[simp] theorem State.modMg_se : (s.modMg f).se = s.se := rfl
@[simp] theorem State.modMg_fuses : (s.modMg f).fuses = s.fuses := rfl
@[simp] theorem State.modMg_mg : (s.modMg f).mg = f s.mg := rfl
@[simp] theorem State.modMg_fences : (s.modMg f).fences = s.fences := rfl
@[simp] theorem State.modMg_objs : (s.modMg f).objs = s.objs := rfl
@[simp] theorem State.modMg_win0 : (s.modMg f).win0 = s.win0 := rfl
@[simp] theorem State.modMg_win1 : (s.modMg f).win1 = s.win1 := rfl
@[simp] theorem State.modMg_flash : (s.modMg f).flash = s.flash := rfl
@[simp] theorem State.modMg_cnt : (s.modMg f).cnt = s.cnt := rfl
@[simp] theorem State.modMg_clock : (s.modMg f).clock = s.clock := rfl
@[simp] theorem State.modMg_freeIx : (s.modMg f).freeIx = s.freeIx := rfl
@[simp] theorem State.modMg_outs : (s.modMg f).outs = s.outs := rfl
@[simp] theorem State.modMg_pending : (s.modMg f).pending = s.pending := rfl
end modMg

section modFences
variable (f : Fences → Fences)
@[simp] theorem State.modFences_pads : (s.modFences f).pads = s.pads := rfl
@[simp] theorem State.modFences_pw : (s.modFences f).pw = s.pw := rfl
@[simp] theorem State.modFences_hl : (s.modFences f).hl = s.hl := rfl
@[simp] theorem State.modFences_qs : (s.modFences f).qs = s.qs := rfl
@[simp] theorem State.modFences_mb : (s.modFences f).mb = s.mb := rfl
@[simp] theorem State.modFences_ld : (s.modFences f).ld = s.ld := rfl
@[simp] theorem State.modFences_tm : (s.modFences f).tm = s.tm := rfl
@[simp] theorem State.modFences_cal : (s.modFences f).cal = s.cal := rfl
@[simp] theorem State.modFences_tx : (s.modFences f).tx = s.tx := rfl
@[simp] theorem State.modFences_rx : (s.modFences f).rx = s.rx := rfl
@[simp] theorem State.modFences_str : (s.modFences f).str = s.str := rfl
@[simp] theorem State.modFences_sg : (s.modFences f).sg = s.sg := rfl
@[simp] theorem State.modFences_sk : (s.modFences f).sk = s.sk := rfl
@[simp] theorem State.modFences_tw : (s.modFences f).tw = s.tw := rfl
@[simp] theorem State.modFences_fs : (s.modFences f).fs = s.fs := rfl
@[simp] theorem State.modFences_se : (s.modFences f).se = s.se := rfl
@[simp] theorem State.modFences_fuses : (s.modFences f).fuses = s.fuses := rfl
@[simp] theorem State.modFences_mg : (s.modFences f).mg = s.mg := rfl
@[simp] theorem State.modFences_fences : (s.modFences f).fences = f s.fences := rfl
@[simp] theorem State.modFences_objs : (s.modFences f).objs = s.objs := rfl
@[simp] theorem State.modFences_win0 : (s.modFences f).win0 = s.win0 := rfl
@[simp] theorem State.modFences_win1 : (s.modFences f).win1 = s.win1 := rfl
@[simp] theorem State.modFences_flash : (s.modFences f).flash = s.flash := rfl
@[simp] theorem State.modFences_cnt : (s.modFences f).cnt = s.cnt := rfl
@[simp] theorem State.modFences_clock : (s.modFences f).clock = s.clock := rfl
@[simp] theorem State.modFences_freeIx : (s.modFences f).freeIx = s.freeIx := rfl
@[simp] theorem State.modFences_outs : (s.modFences f).outs = s.outs := rfl
@[simp] theorem State.modFences_pending : (s.modFences f).pending = s.pending := rfl
end modFences

section setQs
variable (v : Sparse Queue)
@[simp] theorem State.setQs_pads : (s.setQs v).pads = s.pads := rfl
@[simp] theorem State.setQs_pw : (s.setQs v).pw = s.pw := rfl
@[simp] theorem State.setQs_hl : (s.setQs v).hl = s.hl := rfl
@[simp] theorem State.setQs_qs : (s.setQs v).qs = v := rfl
@[simp] theorem State.setQs_mb : (s.setQs v).mb = s.mb := rfl
@[simp] theorem State.setQs_ld : (s.setQs v).ld = s.ld := rfl
@[simp] theorem State.setQs_tm : (s.setQs v).tm = s.tm := rfl
@[simp] theorem State.setQs_cal : (s.setQs v).cal = s.cal := rfl
@[simp] theorem State.setQs_tx : (s.setQs v).tx = s.tx := rfl
@[simp] theorem State.setQs_rx : (s.setQs v).rx = s.rx := rfl
@[simp] theorem State.setQs_str : (s.setQs v).str = s.str := rfl
@[simp] theorem State.setQs_sg : (s.setQs v).sg = s.sg := rfl
@[simp] theorem State.setQs_sk : (s.setQs v).sk = s.sk := rfl
@[simp] theorem State.setQs_tw : (s.setQs v).tw = s.tw := rfl
@[simp] theorem State.setQs_fs : (s.setQs v).fs = s.fs := rfl
@[simp] theorem State.setQs_se : (s.setQs v).se = s.se := rfl
@[simp] theorem State.setQs_fuses : (s.setQs v).fuses = s.fuses := rfl
@[simp] theorem State.setQs_mg : (s.setQs v).mg = s.mg := rfl
@[simp] theorem State.setQs_fences : (s.setQs v).fences = s.fences := rfl
@[simp] theorem State.setQs_objs : (s.setQs v).objs = s.objs := rfl
@[simp] theorem State.setQs_win0 : (s.setQs v).win0 = s.win0 := rfl
@[simp] theorem State.setQs_win1 : (s.setQs v).win1 = s.win1 := rfl
@[simp] theorem State.setQs_flash : (s.setQs v).flash = s.flash := rfl
@[simp] theorem State.setQs_cnt : (s.setQs v).cnt = s.cnt := rfl
@[simp] theorem State.setQs_clock : (s.setQs v).clock = s.clock := rfl
@[simp] theorem State.setQs_freeIx : (s.setQs v).freeIx = s.freeIx := rfl
@[simp] theorem State.setQs_outs : (s.setQs v).outs = s.outs := rfl
@[simp] theorem State.setQs_pending : (s.setQs v).pending = s.pending := rfl
end setQs

section setObjs
variable (v : List Host.Cell)
@[simp] theorem State.setObjs_pads : (s.setObjs v).pads = s.pads := rfl
@[simp] theorem State.setObjs_pw : (s.setObjs v).pw = s.pw := rfl
@[simp] theorem State.setObjs_hl : (s.setObjs v).hl = s.hl := rfl
@[simp] theorem State.setObjs_qs : (s.setObjs v).qs = s.qs := rfl
@[simp] theorem State.setObjs_mb : (s.setObjs v).mb = s.mb := rfl
@[simp] theorem State.setObjs_ld : (s.setObjs v).ld = s.ld := rfl
@[simp] theorem State.setObjs_tm : (s.setObjs v).tm = s.tm := rfl
@[simp] theorem State.setObjs_cal : (s.setObjs v).cal = s.cal := rfl
@[simp] theorem State.setObjs_tx : (s.setObjs v).tx = s.tx := rfl
@[simp] theorem State.setObjs_rx : (s.setObjs v).rx = s.rx := rfl
@[simp] theorem State.setObjs_str : (s.setObjs v).str = s.str := rfl
@[simp] theorem State.setObjs_sg : (s.setObjs v).sg = s.sg := rfl
@[simp] theorem State.setObjs_sk : (s.setObjs v).sk = s.sk := rfl
@[simp] theorem State.setObjs_tw : (s.setObjs v).tw = s.tw := rfl
@[simp] theorem State.setObjs_fs : (s.setObjs v).fs = s.fs := rfl
@[simp] theorem State.setObjs_se : (s.setObjs v).se = s.se := rfl
@[simp] theorem State.setObjs_fuses : (s.setObjs v).fuses = s.fuses := rfl
@[simp] theorem State.setObjs_mg : (s.setObjs v).mg = s.mg := rfl
@[simp] theorem State.setObjs_fences : (s.setObjs v).fences = s.fences := rfl
@[simp] theorem State.setObjs_objs : (s.setObjs v).objs = v := rfl
@[simp] theorem State.setObjs_win0 : (s.setObjs v).win0 = s.win0 := rfl
@[simp] theorem State.setObjs_win1 : (s.setObjs v).win1 = s.win1 := rfl
@[simp] theorem State.setObjs_flash : (s.setObjs v).flash = s.flash := rfl
@[simp] theorem State.setObjs_cnt : (s.setObjs v).cnt = s.cnt := rfl
@[simp] theorem State.setObjs_clock : (s.setObjs v).clock = s.clock := rfl
@[simp] theorem State.setObjs_freeIx : (s.setObjs v).freeIx = s.freeIx := rfl
@[simp] theorem State.setObjs_outs : (s.setObjs v).outs = s.outs := rfl
@[simp] theorem State.setObjs_pending : (s.setObjs v).pending = s.pending := rfl
end setObjs

section setWin0
variable (v : List Host.Cell)
@[simp] theorem State.setWin0_pads : (s.setWin0 v).pads = s.pads := rfl
@[simp] theorem State.setWin0_pw : (s.setWin0 v).pw = s.pw := rfl
@[simp] theorem State.setWin0_hl : (s.setWin0 v).hl = s.hl := rfl
@[simp] theorem State.setWin0_qs : (s.setWin0 v).qs = s.qs := rfl
@[simp] theorem State.setWin0_mb : (s.setWin0 v).mb = s.mb := rfl
@[simp] theorem State.setWin0_ld : (s.setWin0 v).ld = s.ld := rfl
@[simp] theorem State.setWin0_tm : (s.setWin0 v).tm = s.tm := rfl
@[simp] theorem State.setWin0_cal : (s.setWin0 v).cal = s.cal := rfl
@[simp] theorem State.setWin0_tx : (s.setWin0 v).tx = s.tx := rfl
@[simp] theorem State.setWin0_rx : (s.setWin0 v).rx = s.rx := rfl
@[simp] theorem State.setWin0_str : (s.setWin0 v).str = s.str := rfl
@[simp] theorem State.setWin0_sg : (s.setWin0 v).sg = s.sg := rfl
@[simp] theorem State.setWin0_sk : (s.setWin0 v).sk = s.sk := rfl
@[simp] theorem State.setWin0_tw : (s.setWin0 v).tw = s.tw := rfl
@[simp] theorem State.setWin0_fs : (s.setWin0 v).fs = s.fs := rfl
@[simp] theorem State.setWin0_se : (s.setWin0 v).se = s.se := rfl
@[simp] theorem State.setWin0_fuses : (s.setWin0 v).fuses = s.fuses := rfl
@[simp] theorem State.setWin0_mg : (s.setWin0 v).mg = s.mg := rfl
@[simp] theorem State.setWin0_fences : (s.setWin0 v).fences = s.fences := rfl
@[simp] theorem State.setWin0_objs : (s.setWin0 v).objs = s.objs := rfl
@[simp] theorem State.setWin0_win0 : (s.setWin0 v).win0 = v := rfl
@[simp] theorem State.setWin0_win1 : (s.setWin0 v).win1 = s.win1 := rfl
@[simp] theorem State.setWin0_flash : (s.setWin0 v).flash = s.flash := rfl
@[simp] theorem State.setWin0_cnt : (s.setWin0 v).cnt = s.cnt := rfl
@[simp] theorem State.setWin0_clock : (s.setWin0 v).clock = s.clock := rfl
@[simp] theorem State.setWin0_freeIx : (s.setWin0 v).freeIx = s.freeIx := rfl
@[simp] theorem State.setWin0_outs : (s.setWin0 v).outs = s.outs := rfl
@[simp] theorem State.setWin0_pending : (s.setWin0 v).pending = s.pending := rfl
end setWin0

section setWin1
variable (v : List Host.Cell)
@[simp] theorem State.setWin1_pads : (s.setWin1 v).pads = s.pads := rfl
@[simp] theorem State.setWin1_pw : (s.setWin1 v).pw = s.pw := rfl
@[simp] theorem State.setWin1_hl : (s.setWin1 v).hl = s.hl := rfl
@[simp] theorem State.setWin1_qs : (s.setWin1 v).qs = s.qs := rfl
@[simp] theorem State.setWin1_mb : (s.setWin1 v).mb = s.mb := rfl
@[simp] theorem State.setWin1_ld : (s.setWin1 v).ld = s.ld := rfl
@[simp] theorem State.setWin1_tm : (s.setWin1 v).tm = s.tm := rfl
@[simp] theorem State.setWin1_cal : (s.setWin1 v).cal = s.cal := rfl
@[simp] theorem State.setWin1_tx : (s.setWin1 v).tx = s.tx := rfl
@[simp] theorem State.setWin1_rx : (s.setWin1 v).rx = s.rx := rfl
@[simp] theorem State.setWin1_str : (s.setWin1 v).str = s.str := rfl
@[simp] theorem State.setWin1_sg : (s.setWin1 v).sg = s.sg := rfl
@[simp] theorem State.setWin1_sk : (s.setWin1 v).sk = s.sk := rfl
@[simp] theorem State.setWin1_tw : (s.setWin1 v).tw = s.tw := rfl
@[simp] theorem State.setWin1_fs : (s.setWin1 v).fs = s.fs := rfl
@[simp] theorem State.setWin1_se : (s.setWin1 v).se = s.se := rfl
@[simp] theorem State.setWin1_fuses : (s.setWin1 v).fuses = s.fuses := rfl
@[simp] theorem State.setWin1_mg : (s.setWin1 v).mg = s.mg := rfl
@[simp] theorem State.setWin1_fences : (s.setWin1 v).fences = s.fences := rfl
@[simp] theorem State.setWin1_objs : (s.setWin1 v).objs = s.objs := rfl
@[simp] theorem State.setWin1_win0 : (s.setWin1 v).win0 = s.win0 := rfl
@[simp] theorem State.setWin1_win1 : (s.setWin1 v).win1 = v := rfl
@[simp] theorem State.setWin1_flash : (s.setWin1 v).flash = s.flash := rfl
@[simp] theorem State.setWin1_cnt : (s.setWin1 v).cnt = s.cnt := rfl
@[simp] theorem State.setWin1_clock : (s.setWin1 v).clock = s.clock := rfl
@[simp] theorem State.setWin1_freeIx : (s.setWin1 v).freeIx = s.freeIx := rfl
@[simp] theorem State.setWin1_outs : (s.setWin1 v).outs = s.outs := rfl
@[simp] theorem State.setWin1_pending : (s.setWin1 v).pending = s.pending := rfl
end setWin1

section setFlash
variable (v : List Host.Cell)
@[simp] theorem State.setFlash_pads : (s.setFlash v).pads = s.pads := rfl
@[simp] theorem State.setFlash_pw : (s.setFlash v).pw = s.pw := rfl
@[simp] theorem State.setFlash_hl : (s.setFlash v).hl = s.hl := rfl
@[simp] theorem State.setFlash_qs : (s.setFlash v).qs = s.qs := rfl
@[simp] theorem State.setFlash_mb : (s.setFlash v).mb = s.mb := rfl
@[simp] theorem State.setFlash_ld : (s.setFlash v).ld = s.ld := rfl
@[simp] theorem State.setFlash_tm : (s.setFlash v).tm = s.tm := rfl
@[simp] theorem State.setFlash_cal : (s.setFlash v).cal = s.cal := rfl
@[simp] theorem State.setFlash_tx : (s.setFlash v).tx = s.tx := rfl
@[simp] theorem State.setFlash_rx : (s.setFlash v).rx = s.rx := rfl
@[simp] theorem State.setFlash_str : (s.setFlash v).str = s.str := rfl
@[simp] theorem State.setFlash_sg : (s.setFlash v).sg = s.sg := rfl
@[simp] theorem State.setFlash_sk : (s.setFlash v).sk = s.sk := rfl
@[simp] theorem State.setFlash_tw : (s.setFlash v).tw = s.tw := rfl
@[simp] theorem State.setFlash_fs : (s.setFlash v).fs = s.fs := rfl
@[simp] theorem State.setFlash_se : (s.setFlash v).se = s.se := rfl
@[simp] theorem State.setFlash_fuses : (s.setFlash v).fuses = s.fuses := rfl
@[simp] theorem State.setFlash_mg : (s.setFlash v).mg = s.mg := rfl
@[simp] theorem State.setFlash_fences : (s.setFlash v).fences = s.fences := rfl
@[simp] theorem State.setFlash_objs : (s.setFlash v).objs = s.objs := rfl
@[simp] theorem State.setFlash_win0 : (s.setFlash v).win0 = s.win0 := rfl
@[simp] theorem State.setFlash_win1 : (s.setFlash v).win1 = s.win1 := rfl
@[simp] theorem State.setFlash_flash : (s.setFlash v).flash = v := rfl
@[simp] theorem State.setFlash_cnt : (s.setFlash v).cnt = s.cnt := rfl
@[simp] theorem State.setFlash_clock : (s.setFlash v).clock = s.clock := rfl
@[simp] theorem State.setFlash_freeIx : (s.setFlash v).freeIx = s.freeIx := rfl
@[simp] theorem State.setFlash_outs : (s.setFlash v).outs = s.outs := rfl
@[simp] theorem State.setFlash_pending : (s.setFlash v).pending = s.pending := rfl
end setFlash

section setCnt
variable (v : Sparse (BitVec 64))
@[simp] theorem State.setCnt_pads : (s.setCnt v).pads = s.pads := rfl
@[simp] theorem State.setCnt_pw : (s.setCnt v).pw = s.pw := rfl
@[simp] theorem State.setCnt_hl : (s.setCnt v).hl = s.hl := rfl
@[simp] theorem State.setCnt_qs : (s.setCnt v).qs = s.qs := rfl
@[simp] theorem State.setCnt_mb : (s.setCnt v).mb = s.mb := rfl
@[simp] theorem State.setCnt_ld : (s.setCnt v).ld = s.ld := rfl
@[simp] theorem State.setCnt_tm : (s.setCnt v).tm = s.tm := rfl
@[simp] theorem State.setCnt_cal : (s.setCnt v).cal = s.cal := rfl
@[simp] theorem State.setCnt_tx : (s.setCnt v).tx = s.tx := rfl
@[simp] theorem State.setCnt_rx : (s.setCnt v).rx = s.rx := rfl
@[simp] theorem State.setCnt_str : (s.setCnt v).str = s.str := rfl
@[simp] theorem State.setCnt_sg : (s.setCnt v).sg = s.sg := rfl
@[simp] theorem State.setCnt_sk : (s.setCnt v).sk = s.sk := rfl
@[simp] theorem State.setCnt_tw : (s.setCnt v).tw = s.tw := rfl
@[simp] theorem State.setCnt_fs : (s.setCnt v).fs = s.fs := rfl
@[simp] theorem State.setCnt_se : (s.setCnt v).se = s.se := rfl
@[simp] theorem State.setCnt_fuses : (s.setCnt v).fuses = s.fuses := rfl
@[simp] theorem State.setCnt_mg : (s.setCnt v).mg = s.mg := rfl
@[simp] theorem State.setCnt_fences : (s.setCnt v).fences = s.fences := rfl
@[simp] theorem State.setCnt_objs : (s.setCnt v).objs = s.objs := rfl
@[simp] theorem State.setCnt_win0 : (s.setCnt v).win0 = s.win0 := rfl
@[simp] theorem State.setCnt_win1 : (s.setCnt v).win1 = s.win1 := rfl
@[simp] theorem State.setCnt_flash : (s.setCnt v).flash = s.flash := rfl
@[simp] theorem State.setCnt_cnt : (s.setCnt v).cnt = v := rfl
@[simp] theorem State.setCnt_clock : (s.setCnt v).clock = s.clock := rfl
@[simp] theorem State.setCnt_freeIx : (s.setCnt v).freeIx = s.freeIx := rfl
@[simp] theorem State.setCnt_outs : (s.setCnt v).outs = s.outs := rfl
@[simp] theorem State.setCnt_pending : (s.setCnt v).pending = s.pending := rfl
end setCnt

section setFuses
variable (v : Fuses)
@[simp] theorem State.setFuses_pads : (s.setFuses v).pads = s.pads := rfl
@[simp] theorem State.setFuses_pw : (s.setFuses v).pw = s.pw := rfl
@[simp] theorem State.setFuses_hl : (s.setFuses v).hl = s.hl := rfl
@[simp] theorem State.setFuses_qs : (s.setFuses v).qs = s.qs := rfl
@[simp] theorem State.setFuses_mb : (s.setFuses v).mb = s.mb := rfl
@[simp] theorem State.setFuses_ld : (s.setFuses v).ld = s.ld := rfl
@[simp] theorem State.setFuses_tm : (s.setFuses v).tm = s.tm := rfl
@[simp] theorem State.setFuses_cal : (s.setFuses v).cal = s.cal := rfl
@[simp] theorem State.setFuses_tx : (s.setFuses v).tx = s.tx := rfl
@[simp] theorem State.setFuses_rx : (s.setFuses v).rx = s.rx := rfl
@[simp] theorem State.setFuses_str : (s.setFuses v).str = s.str := rfl
@[simp] theorem State.setFuses_sg : (s.setFuses v).sg = s.sg := rfl
@[simp] theorem State.setFuses_sk : (s.setFuses v).sk = s.sk := rfl
@[simp] theorem State.setFuses_tw : (s.setFuses v).tw = s.tw := rfl
@[simp] theorem State.setFuses_fs : (s.setFuses v).fs = s.fs := rfl
@[simp] theorem State.setFuses_se : (s.setFuses v).se = s.se := rfl
@[simp] theorem State.setFuses_fuses : (s.setFuses v).fuses = v := rfl
@[simp] theorem State.setFuses_mg : (s.setFuses v).mg = s.mg := rfl
@[simp] theorem State.setFuses_fences : (s.setFuses v).fences = s.fences := rfl
@[simp] theorem State.setFuses_objs : (s.setFuses v).objs = s.objs := rfl
@[simp] theorem State.setFuses_win0 : (s.setFuses v).win0 = s.win0 := rfl
@[simp] theorem State.setFuses_win1 : (s.setFuses v).win1 = s.win1 := rfl
@[simp] theorem State.setFuses_flash : (s.setFuses v).flash = s.flash := rfl
@[simp] theorem State.setFuses_cnt : (s.setFuses v).cnt = s.cnt := rfl
@[simp] theorem State.setFuses_clock : (s.setFuses v).clock = s.clock := rfl
@[simp] theorem State.setFuses_freeIx : (s.setFuses v).freeIx = s.freeIx := rfl
@[simp] theorem State.setFuses_outs : (s.setFuses v).outs = s.outs := rfl
@[simp] theorem State.setFuses_pending : (s.setFuses v).pending = s.pending := rfl
end setFuses

section setClock
variable (v : Nat)
@[simp] theorem State.setClock_pads : (s.setClock v).pads = s.pads := rfl
@[simp] theorem State.setClock_pw : (s.setClock v).pw = s.pw := rfl
@[simp] theorem State.setClock_hl : (s.setClock v).hl = s.hl := rfl
@[simp] theorem State.setClock_qs : (s.setClock v).qs = s.qs := rfl
@[simp] theorem State.setClock_mb : (s.setClock v).mb = s.mb := rfl
@[simp] theorem State.setClock_ld : (s.setClock v).ld = s.ld := rfl
@[simp] theorem State.setClock_tm : (s.setClock v).tm = s.tm := rfl
@[simp] theorem State.setClock_cal : (s.setClock v).cal = s.cal := rfl
@[simp] theorem State.setClock_tx : (s.setClock v).tx = s.tx := rfl
@[simp] theorem State.setClock_rx : (s.setClock v).rx = s.rx := rfl
@[simp] theorem State.setClock_str : (s.setClock v).str = s.str := rfl
@[simp] theorem State.setClock_sg : (s.setClock v).sg = s.sg := rfl
@[simp] theorem State.setClock_sk : (s.setClock v).sk = s.sk := rfl
@[simp] theorem State.setClock_tw : (s.setClock v).tw = s.tw := rfl
@[simp] theorem State.setClock_fs : (s.setClock v).fs = s.fs := rfl
@[simp] theorem State.setClock_se : (s.setClock v).se = s.se := rfl
@[simp] theorem State.setClock_fuses : (s.setClock v).fuses = s.fuses := rfl
@[simp] theorem State.setClock_mg : (s.setClock v).mg = s.mg := rfl
@[simp] theorem State.setClock_fences : (s.setClock v).fences = s.fences := rfl
@[simp] theorem State.setClock_objs : (s.setClock v).objs = s.objs := rfl
@[simp] theorem State.setClock_win0 : (s.setClock v).win0 = s.win0 := rfl
@[simp] theorem State.setClock_win1 : (s.setClock v).win1 = s.win1 := rfl
@[simp] theorem State.setClock_flash : (s.setClock v).flash = s.flash := rfl
@[simp] theorem State.setClock_cnt : (s.setClock v).cnt = s.cnt := rfl
@[simp] theorem State.setClock_clock : (s.setClock v).clock = v := rfl
@[simp] theorem State.setClock_freeIx : (s.setClock v).freeIx = s.freeIx := rfl
@[simp] theorem State.setClock_outs : (s.setClock v).outs = s.outs := rfl
@[simp] theorem State.setClock_pending : (s.setClock v).pending = s.pending := rfl
end setClock

section setFreeIx
variable (v : Nat)
@[simp] theorem State.setFreeIx_pads : (s.setFreeIx v).pads = s.pads := rfl
@[simp] theorem State.setFreeIx_pw : (s.setFreeIx v).pw = s.pw := rfl
@[simp] theorem State.setFreeIx_hl : (s.setFreeIx v).hl = s.hl := rfl
@[simp] theorem State.setFreeIx_qs : (s.setFreeIx v).qs = s.qs := rfl
@[simp] theorem State.setFreeIx_mb : (s.setFreeIx v).mb = s.mb := rfl
@[simp] theorem State.setFreeIx_ld : (s.setFreeIx v).ld = s.ld := rfl
@[simp] theorem State.setFreeIx_tm : (s.setFreeIx v).tm = s.tm := rfl
@[simp] theorem State.setFreeIx_cal : (s.setFreeIx v).cal = s.cal := rfl
@[simp] theorem State.setFreeIx_tx : (s.setFreeIx v).tx = s.tx := rfl
@[simp] theorem State.setFreeIx_rx : (s.setFreeIx v).rx = s.rx := rfl
@[simp] theorem State.setFreeIx_str : (s.setFreeIx v).str = s.str := rfl
@[simp] theorem State.setFreeIx_sg : (s.setFreeIx v).sg = s.sg := rfl
@[simp] theorem State.setFreeIx_sk : (s.setFreeIx v).sk = s.sk := rfl
@[simp] theorem State.setFreeIx_tw : (s.setFreeIx v).tw = s.tw := rfl
@[simp] theorem State.setFreeIx_fs : (s.setFreeIx v).fs = s.fs := rfl
@[simp] theorem State.setFreeIx_se : (s.setFreeIx v).se = s.se := rfl
@[simp] theorem State.setFreeIx_fuses : (s.setFreeIx v).fuses = s.fuses := rfl
@[simp] theorem State.setFreeIx_mg : (s.setFreeIx v).mg = s.mg := rfl
@[simp] theorem State.setFreeIx_fences : (s.setFreeIx v).fences = s.fences := rfl
@[simp] theorem State.setFreeIx_objs : (s.setFreeIx v).objs = s.objs := rfl
@[simp] theorem State.setFreeIx_win0 : (s.setFreeIx v).win0 = s.win0 := rfl
@[simp] theorem State.setFreeIx_win1 : (s.setFreeIx v).win1 = s.win1 := rfl
@[simp] theorem State.setFreeIx_flash : (s.setFreeIx v).flash = s.flash := rfl
@[simp] theorem State.setFreeIx_cnt : (s.setFreeIx v).cnt = s.cnt := rfl
@[simp] theorem State.setFreeIx_clock : (s.setFreeIx v).clock = s.clock := rfl
@[simp] theorem State.setFreeIx_freeIx : (s.setFreeIx v).freeIx = v := rfl
@[simp] theorem State.setFreeIx_outs : (s.setFreeIx v).outs = s.outs := rfl
@[simp] theorem State.setFreeIx_pending : (s.setFreeIx v).pending = s.pending := rfl
end setFreeIx

section setOuts
variable (v : List Out)
@[simp] theorem State.setOuts_pads : (s.setOuts v).pads = s.pads := rfl
@[simp] theorem State.setOuts_pw : (s.setOuts v).pw = s.pw := rfl
@[simp] theorem State.setOuts_hl : (s.setOuts v).hl = s.hl := rfl
@[simp] theorem State.setOuts_qs : (s.setOuts v).qs = s.qs := rfl
@[simp] theorem State.setOuts_mb : (s.setOuts v).mb = s.mb := rfl
@[simp] theorem State.setOuts_ld : (s.setOuts v).ld = s.ld := rfl
@[simp] theorem State.setOuts_tm : (s.setOuts v).tm = s.tm := rfl
@[simp] theorem State.setOuts_cal : (s.setOuts v).cal = s.cal := rfl
@[simp] theorem State.setOuts_tx : (s.setOuts v).tx = s.tx := rfl
@[simp] theorem State.setOuts_rx : (s.setOuts v).rx = s.rx := rfl
@[simp] theorem State.setOuts_str : (s.setOuts v).str = s.str := rfl
@[simp] theorem State.setOuts_sg : (s.setOuts v).sg = s.sg := rfl
@[simp] theorem State.setOuts_sk : (s.setOuts v).sk = s.sk := rfl
@[simp] theorem State.setOuts_tw : (s.setOuts v).tw = s.tw := rfl
@[simp] theorem State.setOuts_fs : (s.setOuts v).fs = s.fs := rfl
@[simp] theorem State.setOuts_se : (s.setOuts v).se = s.se := rfl
@[simp] theorem State.setOuts_fuses : (s.setOuts v).fuses = s.fuses := rfl
@[simp] theorem State.setOuts_mg : (s.setOuts v).mg = s.mg := rfl
@[simp] theorem State.setOuts_fences : (s.setOuts v).fences = s.fences := rfl
@[simp] theorem State.setOuts_objs : (s.setOuts v).objs = s.objs := rfl
@[simp] theorem State.setOuts_win0 : (s.setOuts v).win0 = s.win0 := rfl
@[simp] theorem State.setOuts_win1 : (s.setOuts v).win1 = s.win1 := rfl
@[simp] theorem State.setOuts_flash : (s.setOuts v).flash = s.flash := rfl
@[simp] theorem State.setOuts_cnt : (s.setOuts v).cnt = s.cnt := rfl
@[simp] theorem State.setOuts_clock : (s.setOuts v).clock = s.clock := rfl
@[simp] theorem State.setOuts_freeIx : (s.setOuts v).freeIx = s.freeIx := rfl
@[simp] theorem State.setOuts_outs : (s.setOuts v).outs = v := rfl
@[simp] theorem State.setOuts_pending : (s.setOuts v).pending = s.pending := rfl
end setOuts

section setPending
variable (v : List Instr)
@[simp] theorem State.setPending_pads : (s.setPending v).pads = s.pads := rfl
@[simp] theorem State.setPending_pw : (s.setPending v).pw = s.pw := rfl
@[simp] theorem State.setPending_hl : (s.setPending v).hl = s.hl := rfl
@[simp] theorem State.setPending_qs : (s.setPending v).qs = s.qs := rfl
@[simp] theorem State.setPending_mb : (s.setPending v).mb = s.mb := rfl
@[simp] theorem State.setPending_ld : (s.setPending v).ld = s.ld := rfl
@[simp] theorem State.setPending_tm : (s.setPending v).tm = s.tm := rfl
@[simp] theorem State.setPending_cal : (s.setPending v).cal = s.cal := rfl
@[simp] theorem State.setPending_tx : (s.setPending v).tx = s.tx := rfl
@[simp] theorem State.setPending_rx : (s.setPending v).rx = s.rx := rfl
@[simp] theorem State.setPending_str : (s.setPending v).str = s.str := rfl
@[simp] theorem State.setPending_sg : (s.setPending v).sg = s.sg := rfl
@[simp] theorem State.setPending_sk : (s.setPending v).sk = s.sk := rfl
@[simp] theorem State.setPending_tw : (s.setPending v).tw = s.tw := rfl
@[simp] theorem State.setPending_fs : (s.setPending v).fs = s.fs := rfl
@[simp] theorem State.setPending_se : (s.setPending v).se = s.se := rfl
@[simp] theorem State.setPending_fuses : (s.setPending v).fuses = s.fuses := rfl
@[simp] theorem State.setPending_mg : (s.setPending v).mg = s.mg := rfl
@[simp] theorem State.setPending_fences : (s.setPending v).fences = s.fences := rfl
@[simp] theorem State.setPending_objs : (s.setPending v).objs = s.objs := rfl
@[simp] theorem State.setPending_win0 : (s.setPending v).win0 = s.win0 := rfl
@[simp] theorem State.setPending_win1 : (s.setPending v).win1 = s.win1 := rfl
@[simp] theorem State.setPending_flash : (s.setPending v).flash = s.flash := rfl
@[simp] theorem State.setPending_cnt : (s.setPending v).cnt = s.cnt := rfl
@[simp] theorem State.setPending_clock : (s.setPending v).clock = s.clock := rfl
@[simp] theorem State.setPending_freeIx : (s.setPending v).freeIx = s.freeIx := rfl
@[simp] theorem State.setPending_outs : (s.setPending v).outs = s.outs := rfl
@[simp] theorem State.setPending_pending : (s.setPending v).pending = v := rfl
end setPending

/-! Writing the second copy of the collector's state leaves the first as it is. -/

section paired
variable (f : Faults)
@[simp] theorem Faults.paired_srcs : f.paired.srcs = f.srcs := rfl
@[simp] theorem Faults.paired_recSrc : f.paired.recSrc = f.recSrc := rfl
@[simp] theorem Faults.paired_recCls : f.paired.recCls = f.recCls := rfl
@[simp] theorem Faults.paired_recRaw : f.paired.recRaw = f.recRaw := rfl
@[simp] theorem Faults.paired_recValid : f.paired.recValid = f.recValid := rfl
@[simp] theorem Faults.paired_recOver : f.paired.recOver = f.recOver := rfl
@[simp] theorem Faults.paired_recInj : f.paired.recInj = f.recInj := rfl
@[simp] theorem Faults.paired_recCyc : f.paired.recCyc = f.recCyc := rfl
@[simp] theorem Faults.paired_ring : f.paired.ring = f.ring := rfl
@[simp] theorem Faults.paired_ringAt : f.paired.ringAt = f.ringAt := rfl
@[simp] theorem Faults.paired_ringLost : f.paired.ringLost = f.ringLost := rfl
@[simp] theorem Faults.paired_f4 : f.paired.f4 = f.f4 := rfl
@[simp] theorem Faults.paired_f3 : f.paired.f3 = f.f3 := rfl
@[simp] theorem Faults.paired_released : f.paired.released = f.released := rfl
@[simp] theorem Faults.paired_hot : f.paired.hot = f.hot := rfl
@[simp] theorem Faults.paired_aoRaw : f.paired.aoRaw = f.aoRaw := rfl
@[simp] theorem Faults.paired_second : f.paired.second = f.inverted := rfl
@[simp] theorem Faults.paired_inverted : f.paired.inverted = f.inverted := rfl
@[simp] theorem Faults.paired_paired : f.paired.paired = f.paired := rfl
end paired

end Sys2Proof.Machine
end

