-- ==== Sys2Proof/Laws/Interlock.lean ====
section
/-! SUPPORT. The interlock of AO-safety, and what the two ways of running a command come to. -/

namespace Sys2Proof.Machine

section Interlock
variable (s : State)

@[simp] theorem interlock_pw : (interlock s).pw = s.pw := rfl
@[simp] theorem interlock_hl : (interlock s).hl = s.hl := rfl
@[simp] theorem interlock_qs : (interlock s).qs = s.qs := rfl
@[simp] theorem interlock_mb : (interlock s).mb = s.mb := rfl
@[simp] theorem interlock_ld : (interlock s).ld = s.ld := rfl
@[simp] theorem interlock_tm : (interlock s).tm = s.tm := rfl
@[simp] theorem interlock_cal : (interlock s).cal = s.cal := rfl
@[simp] theorem interlock_tx : (interlock s).tx = s.tx := rfl
@[simp] theorem interlock_rx : (interlock s).rx = s.rx := rfl
@[simp] theorem interlock_str : (interlock s).str = s.str := rfl
@[simp] theorem interlock_sg : (interlock s).sg = s.sg := rfl
@[simp] theorem interlock_sk : (interlock s).sk = s.sk := rfl
@[simp] theorem interlock_tw : (interlock s).tw = s.tw := rfl
@[simp] theorem interlock_fs : (interlock s).fs = s.fs := rfl
@[simp] theorem interlock_se : (interlock s).se = s.se := rfl
@[simp] theorem interlock_fuses : (interlock s).fuses = s.fuses := rfl
@[simp] theorem interlock_mg : (interlock s).mg = s.mg := rfl
@[simp] theorem interlock_fences : (interlock s).fences = s.fences := rfl
@[simp] theorem interlock_objs : (interlock s).objs = s.objs := rfl
@[simp] theorem interlock_win0 : (interlock s).win0 = s.win0 := rfl
@[simp] theorem interlock_win1 : (interlock s).win1 = s.win1 := rfl
@[simp] theorem interlock_flash : (interlock s).flash = s.flash := rfl
@[simp] theorem interlock_cnt : (interlock s).cnt = s.cnt := rfl
@[simp] theorem interlock_clock : (interlock s).clock = s.clock := rfl
@[simp] theorem interlock_freeIx : (interlock s).freeIx = s.freeIx := rfl
@[simp] theorem interlock_outs : (interlock s).outs = s.outs := rfl
@[simp] theorem interlock_pending : (interlock s).pending = s.pending := rfl

/-- With an F4 latched SAFE_N is driven low. -/
theorem interlock_safeN_f4 (h : s.fs.f4 = true) : (interlock s).pads.safeN = 0 := by
  simp [interlock, h]

/-- With no F4, no test mode and SAFE_N released, the interlock changes nothing. -/
theorem interlock_free (h4 : s.fs.f4 = false) (ht : s.pw.testMode = false) (hr : s.fs.released = true) :
    interlock s = s := by
  simp [interlock, State.modPads, h4, ht, hr]

/-- After the interlock a state is fail-safe. -/
theorem interlock_failSafe : FailSafe (interlock s) := by
  cases h4 : s.fs.f4 <;> cases ht : s.pw.testMode <;> cases hr : s.fs.released <;>
    simp [FailSafe, interlock, h4, ht, hr]

/-- A fail-safe state is left as it is. -/
theorem interlock_id (h : FailSafe s) : interlock s = s := by
  obtain ⟨h1, h2, h3⟩ := h
  have hp : (interlock s).pads = s.pads := by
    cases hp : s.pads
    cases h4 : s.fs.f4 <;> cases ht : s.pw.testMode <;> cases hr : s.fs.released <;>
      simp_all [interlock]
  calc interlock s = { s with pads := (interlock s).pads } := rfl
    _ = s := by rw [hp]

/-- Fail-safety depends on the bumps and on the conditions of the interlock alone. -/
theorem failSafe_of_same {s t : State} (h : SameSafety s t) (hs : FailSafe s) : FailSafe t := by
  obtain ⟨hp, h4, hr, ht⟩ := h
  simpa only [FailSafe, hp, h4, hr, ht] using hs

end Interlock

/-- A core command with the core running. -/
theorem run_up {s : State} (f : State → State) (h : held s = false) : run s f = .next (interlock (f s)) := by
  simp [run, h]

/-- A core command with the core held in reset. -/
theorem run_held {s : State} (f : State → State) (h : held s = true) : run s f = .next s := by
  simp [run, h]

/-- Whatever a core command does, a fail-safe state is followed by one. -/
theorem run_failSafe {s t : State} (f : State → State) (hs : FailSafe s) (h : run s f = .next t) : FailSafe t := by
  unfold run at h
  injection h with h
  subst h
  split
  · exact hs
  · exact interlock_failSafe _

theorem always_failSafe {s t : State} (f : State → State) (h : always s f = .next t) : FailSafe t := by
  unfold always at h
  injection h with h
  subst h
  exact interlock_failSafe _

end Sys2Proof.Machine
end

