-- ==== Sys2Proof/Laws/Tables.lean ====
section
/-! SUPPORT. Sparse tables and memories: reading after a write, and the canonical form that every
operation on them keeps. -/

namespace Sys2Proof.Machine

section Tables
variable {α : Type} (d : Nat → α)

@[simp] theorem tget_nil (k : Nat) : tget d [] k = d k := rfl

theorem tget_cons (i : Nat) (w : α) (t : Sparse α) (j : Nat) :
    tget d ((i, w) :: t) j = if i = j then w else tget d t j := rfl

theorem tget_tput (t : Sparse α) (k j : Nat) (v : α) :
    tget d (tput k v t) j = if j = k then v else tget d t j := by
  induction t with
  | nil =>
    by_cases h : j = k
    · simp [tput, tget, h]
    · simp [tput, tget, h, Ne.symm h]
  | cons x t ih =>
    obtain ⟨i, w⟩ := x
    by_cases h : j = k
    · subst h
      simp only [tput]
      split
      · simp [tget_cons]
      · split
        · simp [tget_cons]
        next hne => simp [tget_cons, ih, Ne.symm hne]
    · simp only [tput, h, if_false]
      split
      · simp [tget_cons, Ne.symm h]
      · split
        next he => subst he; simp [tget_cons, Ne.symm h]
        · simp [tget_cons, ih, h]

theorem tget_tdel (t : Sparse α) (k j : Nat) :
    tget d (tdel k t) j = if j = k then d k else tget d t j := by
  induction t with
  | nil => by_cases h : j = k <;> simp [tdel, tget, h]
  | cons x t ih =>
    obtain ⟨i, w⟩ := x
    simp only [tdel]
    split
    next he =>
      subst he
      rw [ih]
      by_cases h : j = i
      · simp [h]
      · simp [h, tget_cons, Ne.symm h]
    next hne =>
      by_cases h : j = k
      · subst h; simp [tget_cons, ih, hne]
      · simp [tget_cons, ih, h]

/-- A written entry reads as it was written; every other entry reads as before. -/
theorem tget_tset [DecidableEq α] (t : Sparse α) (k j : Nat) (v : α) :
    tget d (tset d t k v) j = if j = k then v else tget d t j := by
  unfold tset
  split
  · rw [tget_tdel]; simp_all
  · exact tget_tput d t k j v

@[simp] theorem tget_tset_same [DecidableEq α] (t : Sparse α) (k : Nat) (v : α) : tget d (tset d t k v) k = v := by
  simp [tget_tset]

theorem tget_tset_ne [DecidableEq α] (t : Sparse α) {k j : Nat} (v : α) (h : j ≠ k) :
    tget d (tset d t k v) j = tget d t j := by
  simp [tget_tset, h]

@[simp] theorem tget_tmod_same [DecidableEq α] (t : Sparse α) (k : Nat) (f : α → α) :
    tget d (tmod d t k f) k = f (tget d t k) := by
  simp [tmod]

theorem tget_tmod_ne [DecidableEq α] (t : Sparse α) {k j : Nat} (f : α → α) (h : j ≠ k) :
    tget d (tmod d t k f) j = tget d t j := by
  simp [tmod, tget_tset, h]

/-- All numbers of a table lie above a bound. -/
theorem tput_all (n : Nat) (t : Sparse α) (k : Nat) (v : α) (hk : n < k)
    (h : t.all (fun x => decide (n < x.1)) = true) : (tput k v t).all (fun x => decide (n < x.1)) = true := by
  induction t with
  | nil => simp [tput, hk]
  | cons x t ih =>
    obtain ⟨i, w⟩ := x
    simp only [List.all_cons, Bool.and_eq_true, decide_eq_true_eq] at h
    simp only [tput]
    split
    · simp only [List.all_cons, Bool.and_eq_true, decide_eq_true_eq]; exact ⟨hk, h.1, h.2⟩
    · split
      · simp only [List.all_cons, Bool.and_eq_true, decide_eq_true_eq]; exact ⟨hk, h.2⟩
      · simp only [List.all_cons, Bool.and_eq_true, decide_eq_true_eq]; exact ⟨h.1, ih h.2⟩

theorem tdel_all (n : Nat) (t : Sparse α) (k : Nat)
    (h : t.all (fun x => decide (n < x.1)) = true) : (tdel k t).all (fun x => decide (n < x.1)) = true := by
  induction t with
  | nil => simp [tdel]
  | cons x t ih =>
    obtain ⟨i, w⟩ := x
    simp only [List.all_cons, Bool.and_eq_true, decide_eq_true_eq] at h
    simp only [tdel]
    split
    · exact ih h.2
    · simp only [List.all_cons, Bool.and_eq_true, decide_eq_true_eq]; exact ⟨h.1, ih h.2⟩

theorem all_lt_mono (m n : Nat) (t : Sparse α) (hmn : m < n)
    (h : t.all (fun x => decide (n < x.1)) = true) : t.all (fun x => decide (m < x.1)) = true := by
  simp only [List.all_eq_true, decide_eq_true_eq] at h ⊢
  intro x hx
  exact Nat.lt_trans hmn (h x hx)

@[simp] theorem twf_nil [DecidableEq α] : twf d [] = true := rfl

theorem twf_tput [DecidableEq α] (t : Sparse α) (k : Nat) (v : α) (hv : v ≠ d k) (h : twf d t = true) :
    twf d (tput k v t) = true := by
  induction t with
  | nil => simp [tput, twf, hv]
  | cons x t ih =>
    obtain ⟨i, w⟩ := x
    simp only [twf, Bool.and_eq_true, decide_eq_true_eq] at h
    obtain ⟨⟨hw, ha⟩, ht⟩ := h
    simp only [tput]
    split
    next hlt =>
      simp only [twf, List.all_cons, Bool.and_eq_true, decide_eq_true_eq]
      exact ⟨⟨hv, hlt, all_lt_mono k i t hlt ha⟩, ⟨hw, ha⟩, ht⟩
    next hnlt =>
      split
      next heq => subst heq; simp only [twf, Bool.and_eq_true, decide_eq_true_eq]; exact ⟨⟨hv, ha⟩, ht⟩
      next hne =>
        simp only [twf, Bool.and_eq_true, decide_eq_true_eq]
        exact ⟨⟨hw, tput_all i t k v (by omega) ha⟩, ih ht⟩

theorem twf_tdel [DecidableEq α] (t : Sparse α) (k : Nat) (h : twf d t = true) : twf d (tdel k t) = true := by
  induction t with
  | nil => rfl
  | cons x t ih =>
    obtain ⟨i, w⟩ := x
    simp only [twf, Bool.and_eq_true, decide_eq_true_eq] at h
    obtain ⟨⟨hw, ha⟩, ht⟩ := h
    simp only [tdel]
    split
    · exact ih ht
    · simp only [twf, Bool.and_eq_true, decide_eq_true_eq]
      exact ⟨⟨hw, tdel_all i t k ha⟩, ih ht⟩

/-- A write keeps the canonical form of a table. -/
theorem twf_tset [DecidableEq α] (t : Sparse α) (k : Nat) (v : α) (h : twf d t = true) : twf d (tset d t k v) = true := by
  unfold tset
  split
  · exact twf_tdel d t k h
  next hv => exact twf_tput d t k v hv h

theorem twf_tmod [DecidableEq α] (t : Sparse α) (k : Nat) (f : α → α) (h : twf d t = true) :
    twf d (tmod d t k f) = true := twf_tset d t k _ h

theorem all_filter (p q : Nat × α → Bool) (t : Sparse α) (h : t.all p = true) : (t.filter q).all p = true := by
  simp only [List.all_eq_true, List.mem_filter] at h ⊢
  exact fun x hx => h x hx.1

/-- Dropping entries keeps the canonical form. -/
theorem twf_filter [DecidableEq α] (q : Nat × α → Bool) (t : Sparse α) (h : twf d t = true) :
    twf d (t.filter q) = true := by
  induction t with
  | nil => rfl
  | cons x t ih =>
    obtain ⟨i, w⟩ := x
    simp only [twf, Bool.and_eq_true, decide_eq_true_eq] at h
    obtain ⟨⟨hw, ha⟩, ht⟩ := h
    rw [List.filter_cons]
    split
    · simp only [twf, Bool.and_eq_true, decide_eq_true_eq]
      exact ⟨⟨hw, all_filter _ _ _ ha⟩, ih ht⟩
    · exact ih ht

end Tables

section Memory
variable (d : Nat → Byte)

@[simp] theorem mread_length (m : List Host.Cell) (a n : Nat) : (mread d m a n).length = n := by
  induction n generalizing a with
  | zero => rfl
  | succ n ih => simp [mread, ih]

theorem mread_getElem? (m : List Host.Cell) (a n i : Nat) (h : i < n) :
    (mread d m a n)[i]? = some (tget d m (a + i)) := by
  induction n generalizing a i with
  | zero => omega
  | succ n ih =>
    cases i with
    | zero => simp [mread]
    | succ i => simp only [mread, List.getElem?_cons_succ, ih (a + 1) i (by omega)]; congr 2; omega

/-- A byte outside the written bytes reads as before. -/
theorem tget_mwrite_out (m : List Host.Cell) (a : Nat) (bs : Bytes) (x : Nat)
    (h : x < a ∨ a + bs.length ≤ x) : tget d (mwrite d m a bs) x = tget d m x := by
  induction bs generalizing m a with
  | nil => rfl
  | cons b bs ih =>
    simp only [List.length_cons] at h
    rw [mwrite, ih _ _ (by omega), tget_tset_ne]
    omega

/-- A written byte reads as it was written. -/
theorem tget_mwrite_in (m : List Host.Cell) (a : Nat) (bs : Bytes) (i : Nat) (b : Byte)
    (h : bs[i]? = some b) : tget d (mwrite d m a bs) (a + i) = b := by
  induction bs generalizing m a i with
  | nil => simp at h
  | cons c bs ih =>
    cases i with
    | zero =>
      simp only [List.getElem?_cons_zero, Option.some.injEq] at h
      subst h
      rw [mwrite, tget_mwrite_out _ _ _ _ _ (by omega), Nat.add_zero, tget_tset_same]
    | succ i =>
      simp only [List.getElem?_cons_succ] at h
      have := ih (tset d m a c) (a + 1) i h
      rw [mwrite, ← this]; congr 1; omega

/-- What has just been written is read back. -/
theorem mread_mwrite_same (m : List Host.Cell) (a : Nat) (bs : Bytes) :
    mread d (mwrite d m a bs) a bs.length = bs := by
  apply List.ext_getElem?
  intro i
  by_cases h : i < bs.length
  · rw [mread_getElem? d _ a _ i h, tget_mwrite_in d m a bs i bs[i] (by simp [h])]
    simp [h]
  · rw [List.getElem?_eq_none (by simp; omega), List.getElem?_eq_none (by omega)]

/-- A range apart from the written bytes reads as before. -/
theorem mread_mwrite_out (m : List Host.Cell) (a : Nat) (bs : Bytes) (x n : Nat)
    (h : x + n ≤ a ∨ a + bs.length ≤ x) : mread d (mwrite d m a bs) x n = mread d m x n := by
  induction n generalizing x with
  | zero => rfl
  | succ n ih => rw [mread, mread, ih (x + 1) (by omega), tget_mwrite_out d m a bs x (by omega)]

/-- A write keeps the canonical form of a memory. -/
theorem wf_mwrite (m : List Host.Cell) (a : Nat) (bs : Bytes) (h : Memory.wf d m) : Memory.wf d (mwrite d m a bs) := by
  induction bs generalizing m a with
  | nil => exact h
  | cons b bs ih => exact ih _ _ (twf_tset d m a b h)

end Memory

end Sys2Proof.Machine
end

