-- ==== Sys2Proof/Laws/Frames.lean ====
section
/-! SUPPORT. What an operation leaves as it was: its footprint in groups of the state, the latches it
keeps and the canonical form of the memories. One lemma per operation, `<name>_fr`, is built from these. -/

namespace Sys2Proof.Machine

/-- An operation that led from `s` to `t` touched the groups of `l` at most, released no latch and kept
every memory canonical. -/
structure Fr (l : List Grp) (s t : State) : Prop where
  only : Only l s t
  latched : Latched s t
  mem : CanonicalMem s → CanonicalMem t

/-- Every group of a list is in another. -/
def within (a b : List Grp) : Bool := a.all b.contains

theorem Only.mono {a b : List Grp} {s t : State} (h : Only a s t) (hab : within a b = true) : Only b s t := by
  intro g hg
  apply h g
  cases hc : a.contains g with
  | false => rfl
  | true =>
    simp only [within, List.all_eq_true] at hab
    have := hab g (by simpa using hc)
    rw [hg] at this
    exact absurd this (by decide)

theorem SameIn.trans {g : Grp} {s t u : State} (h1 : SameIn g s t) (h2 : SameIn g t u) : SameIn g s u := by
  cases g <;> exact Eq.trans h2 h1

theorem SameIn.refl (g : Grp) (s : State) : SameIn g s s := by cases g <;> rfl

theorem Latched.refl (s : State) : Latched s s :=
  ⟨id, id, fun _ h => h, id, Nat.le_refl _, fun _ h => h⟩

theorem Latched.trans {s t u : State} (h : Latched s t) (k : Latched t u) : Latched s u :=
  ⟨fun x => k.1 (h.1 x), fun x => k.2.1 (h.2.1 x), fun a x => k.2.2.1 a (h.2.2.1 a x), fun x => k.2.2.2.1 (h.2.2.2.1 x),
    Nat.le_trans h.2.2.2.2.1 k.2.2.2.2.1, fun a x => k.2.2.2.2.2 a (h.2.2.2.2.2 a x)⟩

theorem Fr.refl (l : List Grp) (s : State) : Fr l s s :=
  ⟨fun g _ => SameIn.refl g s, Latched.refl s, id⟩

/-- One more operation. -/
theorem Fr.step {a b : List Grp} {s t u : State} (h : Fr b s t) (k : Fr a t u) (hab : within a b = true) : Fr b s u :=
  ⟨fun g hg => SameIn.trans (h.only g hg) (Only.mono k.only hab g hg), Latched.trans h.latched k.latched, fun m => k.mem (h.mem m)⟩

theorem Fr.mono {a b : List Grp} {s t : State} (h : Fr a s t) (hab : within a b = true) : Fr b s t :=
  ⟨Only.mono h.only hab, h.latched, h.mem⟩

/-- Two states that differ in groups that hold no latch and no memory. -/
theorem Fr.of_only {l : List Grp} {s t : State} (h : Only l s t)
    (hl : l.contains .fs = false ∧ l.contains .pw = false ∧ l.contains .se = false ∧ l.contains .fuses = false)
    (hm : l.contains .objs = false ∧ l.contains .win0 = false ∧ l.contains .win1 = false ∧ l.contains .flash = false) :
    Fr l s t := by
  have e1 : t.fs = s.fs := h .fs hl.1
  have e2 : t.pw = s.pw := h .pw hl.2.1
  have e3 : t.se = s.se := h .se hl.2.2.1
  have e4 : t.fuses = s.fuses := h .fuses hl.2.2.2
  have m1 : t.objs = s.objs := h .objs hm.1
  have m2 : t.win0 = s.win0 := h .win0 hm.2.1
  have m3 : t.win1 = s.win1 := h .win1 hm.2.2.1
  have m4 : t.flash = s.flash := h .flash hm.2.2.2
  refine ⟨h, ?_, ?_⟩
  · have r := Latched.refl s
    unfold Latched at r ⊢
    rw [e1, e2, e3, e4]; exact r
  · unfold CanonicalMem; rw [m1, m2, m3, m4]; exact id

section Updates
variable (s : State)

theorem modPads_fr (f : Pads → Pads) : Fr [.pads] s (s.modPads f) :=
  Fr.of_only (by intro g hg; cases g <;> first | rfl | exact absurd hg (by decide)) (by decide) (by decide)

theorem modHl_fr (f : Link → Link) : Fr [.hl] s (s.modHl f) :=
  Fr.of_only (by intro g hg; cases g <;> first | rfl | exact absurd hg (by decide)) (by decide) (by decide)

theorem modMb_fr (f : Mail → Mail) : Fr [.mb] s (s.modMb f) :=
  Fr.of_only (by intro g hg; cases g <;> first | rfl | exact absurd hg (by decide)) (by decide) (by decide)

theorem modLd_fr (f : Ledger → Ledger) : Fr [.ld] s (s.modLd f) :=
  Fr.of_only (by intro g hg; cases g <;> first | rfl | exact absurd hg (by decide)) (by decide) (by decide)

theorem modTm_fr (f : Time → Time) : Fr [.tm] s (s.modTm f) :=
  Fr.of_only (by intro g hg; cases g <;> first | rfl | exact absurd hg (by decide)) (by decide) (by decide)

theorem modCal_fr (f : Cal → Cal) : Fr [.cal] s (s.modCal f) :=
  Fr.of_only (by intro g hg; cases g <;> first | rfl | exact absurd hg (by decide)) (by decide) (by decide)

theorem modTx_fr (f : Tx → Tx) : Fr [.tx] s (s.modTx f) :=
  Fr.of_only (by intro g hg; cases g <;> first | rfl | exact absurd hg (by decide)) (by decide) (by decide)

theorem modRx_fr (f : Rx → Rx) : Fr [.rx] s (s.modRx f) :=
  Fr.of_only (by intro g hg; cases g <;> first | rfl | exact absurd hg (by decide)) (by decide) (by decide)

theorem modStr_fr (f : Str → Str) : Fr [.str] s (s.modStr f) :=
  Fr.of_only (by intro g hg; cases g <;> first | rfl | exact absurd hg (by decide)) (by decide) (by decide)

theorem modSg_fr (f : SegAll → SegAll) : Fr [.sg] s (s.modSg f) :=
  Fr.of_only (by intro g hg; cases g <;> first | rfl | exact absurd hg (by decide)) (by decide) (by decide)

theorem modSk_fr (f : Stack → Stack) : Fr [.sk] s (s.modSk f) :=
  Fr.of_only (by intro g hg; cases g <;> first | rfl | exact absurd hg (by decide)) (by decide) (by decide)

theorem modTw_fr (f : Twin → Twin) : Fr [.tw] s (s.modTw f) :=
  Fr.of_only (by intro g hg; cases g <;> first | rfl | exact absurd hg (by decide)) (by decide) (by decide)

theorem modMg_fr (f : Mgmt → Mgmt) : Fr [.mg] s (s.modMg f) :=
  Fr.of_only (by intro g hg; cases g <;> first | rfl | exact absurd hg (by decide)) (by decide) (by decide)

theorem modFences_fr (f : Fences → Fences) : Fr [.fences] s (s.modFences f) :=
  Fr.of_only (by intro g hg; cases g <;> first | rfl | exact absurd hg (by decide)) (by decide) (by decide)

theorem setQs_fr (v : Sparse Queue) : Fr [.qs] s (s.setQs v) :=
  Fr.of_only (by intro g hg; cases g <;> first | rfl | exact absurd hg (by decide)) (by decide) (by decide)

theorem setCnt_fr (v : Sparse (BitVec 64)) : Fr [.cnt] s (s.setCnt v) :=
  Fr.of_only (by intro g hg; cases g <;> first | rfl | exact absurd hg (by decide)) (by decide) (by decide)

theorem setClock_fr (v : Nat) : Fr [.clock] s (s.setClock v) :=
  Fr.of_only (by intro g hg; cases g <;> first | rfl | exact absurd hg (by decide)) (by decide) (by decide)

theorem setFreeIx_fr (v : Nat) : Fr [.freeIx] s (s.setFreeIx v) :=
  Fr.of_only (by intro g hg; cases g <;> first | rfl | exact absurd hg (by decide)) (by decide) (by decide)

theorem setOuts_fr (v : List Out) : Fr [.outs] s (s.setOuts v) :=
  Fr.of_only (by intro g hg; cases g <;> first | rfl | exact absurd hg (by decide)) (by decide) (by decide)

theorem setPending_fr (v : List Instr) : Fr [.pending] s (s.setPending v) :=
  Fr.of_only (by intro g hg; cases g <;> first | rfl | exact absurd hg (by decide)) (by decide) (by decide)

theorem modFs_fr (f : Faults → Faults) (h : s.fs.f4 = true → (f s.fs).f4 = true) : Fr [.fs] s (s.modFs f) :=
  ⟨by intro g hg; cases g <;> first | rfl | exact absurd hg (by decide),
    ⟨h, id, fun _ h => h, id, Nat.le_refl _, fun _ h => h⟩, id⟩

theorem modPw_fr (f : Power → Power) (h : s.pw.testMode = true → (f s.pw).testMode = true) : Fr [.pw] s (s.modPw f) :=
  ⟨by intro g hg; cases g <;> first | rfl | exact absurd hg (by decide),
    ⟨id, h, fun _ h => h, id, Nat.le_refl _, fun _ h => h⟩, id⟩

theorem modSe_fr (f : Sec → Sec) (h : ∀ a, s.se.sticky.getLsbD a = true → (f s.se).sticky.getLsbD a = true)
    (hz : s.se.zeroised = true → (f s.se).zeroised = true) : Fr [.se] s (s.modSe f) :=
  ⟨by intro g hg; cases g <;> first | rfl | exact absurd hg (by decide),
    ⟨id, id, h, hz, Nat.le_refl _, fun _ h => h⟩, id⟩

theorem setFuses_fr (v : Fuses) (h : Latched.FusesRise s.fuses v) : Fr [.fuses] s (s.setFuses v) :=
  ⟨by intro g hg; cases g <;> first | rfl | exact absurd hg (by decide), ⟨id, id, fun _ h => h, id, h⟩, id⟩

theorem setObjs_fr (v : List Host.Cell) (h : Memory.wf objReset s.objs → Memory.wf objReset v) :
    Fr [.objs] s (s.setObjs v) :=
  ⟨by intro g hg; cases g <;> first | rfl | exact absurd hg (by decide), Latched.refl s, fun m => ⟨h m.1, m.2⟩⟩

theorem setWin0_fr (v : List Host.Cell) (h : Memory.wf win0Reset s.win0 → Memory.wf win0Reset v) :
    Fr [.win0] s (s.setWin0 v) :=
  ⟨by intro g hg; cases g <;> first | rfl | exact absurd hg (by decide), Latched.refl s,
    fun m => ⟨m.1, h m.2.1, m.2.2⟩⟩

theorem setWin1_fr (v : List Host.Cell) (h : Memory.wf win1Reset s.win1 → Memory.wf win1Reset v) :
    Fr [.win1] s (s.setWin1 v) :=
  ⟨by intro g hg; cases g <;> first | rfl | exact absurd hg (by decide), Latched.refl s,
    fun m => ⟨m.1, m.2.1, h m.2.2.1, m.2.2.2⟩⟩

theorem setFlash_fr (v : List Host.Cell) (h : Memory.wf flashReset s.flash → Memory.wf flashReset v) :
    Fr [.flash] s (s.setFlash v) :=
  ⟨by intro g hg; cases g <;> first | rfl | exact absurd hg (by decide), Latched.refl s,
    fun m => ⟨m.1, m.2.1, m.2.2.1, h m.2.2.2⟩⟩

end Updates

/-- An operation repeated over a list. -/
theorem Fr.foldl {α : Type} {l : List Grp} {s₀ s : State} {f : State → α → State} {xs : List α}
    (h : Fr l s₀ s) (hf : ∀ s x, Fr l s (f s x)) : Fr l s₀ (xs.foldl f s) := by
  induction xs generalizing s with
  | nil => exact h
  | cons x xs ih => exact ih ⟨fun g hg => SameIn.trans (h.only g hg) ((hf s x).only g hg), Latched.trans h.latched (hf s x).latched, fun m => (hf s x).mem (h.mem m)⟩

/-- The interlock works on the bumps alone. -/
theorem interlock_fr (s : State) : Fr [.pads] s (interlock s) := by unfold interlock; exact modPads_fr s _

/-- What an answer leaves as it was. -/
structure AFr (l : List Grp) (s : State) (a : Answer) : Prop where
  at_ : match a with
    | .ok t _ => Fr l s t
    | .staged t _ => Fr l s t
    | .no _ _ => True
    | .done t _ _ => Fr l s t
    | .later t => Fr l s t

/-- What a command that answers a next state leaves as it was. -/
def OFr (l : List Grp) (s : State) (o : Host.Outcome State Fault Refusal) : Prop := ∀ t, o = .next t → Fr l s t

theorem Fr.snd1 {α : Type} {a b : List Grp} {s₀ s t : State} {p : α × State} {x : α} (h : Fr b s₀ s) (k : Fr a s p.2)
    (e : p = (x, t)) (hab : within a b = true) : Fr b s₀ t := by subst e; exact Fr.step h k hab
theorem Fr.snd2 {α β : Type} {a b : List Grp} {s₀ s t : State} {p : α × β × State} {x : α} {y : β} (h : Fr b s₀ s)
    (k : Fr a s p.2.2) (e : p = (x, y, t)) (hab : within a b = true) : Fr b s₀ t := by subst e; exact Fr.step h k hab
theorem Fr.snd3 {α β γ : Type} {a b : List Grp} {s₀ s t : State} {p : α × β × γ × State} {x : α} {y : β} {z : γ}
    (h : Fr b s₀ s) (k : Fr a s p.2.2.2) (e : p = (x, y, z, t)) (hab : within a b = true) : Fr b s₀ t := by
  subst e; exact Fr.step h k hab
theorem AFr.ok {l : List Grp} {s t : State} {p : Bytes} (h : Fr l s t) : AFr l s (.ok t p) := ⟨h⟩
theorem AFr.staged {l : List Grp} {s t : State} {p : Bytes} (h : Fr l s t) : AFr l s (.staged t p) := ⟨h⟩
theorem AFr.done {l : List Grp} {s t : State} {n : Nat} {p : Bytes} (h : Fr l s t) : AFr l s (.done t n p) := ⟨h⟩
theorem AFr.later {l : List Grp} {s t : State} (h : Fr l s t) : AFr l s (.later t) := ⟨h⟩
theorem AFr.no (l : List Grp) (s : State) (n : Nat) (p : Bytes) : AFr l s (.no n p) := ⟨trivial⟩
theorem AFr.step {a b : List Grp} {s₀ s : State} {x : Answer} (h : Fr b s₀ s) (k : AFr a s x) (hab : within a b = true) :
    AFr b s₀ x := by
  cases x <;> first | exact ⟨trivial⟩ | exact ⟨Fr.step h k.at_ hab⟩
theorem badRange_fr (l : List Grp) (s : State) (n : Nat) : AFr l s (badRange n) := ⟨trivial⟩
theorem sized_fr {l : List Grp} {s : State} {a : Answer} (r : Request) (n : Nat) (h : AFr l s a) : AFr l s (sized r n a) := by
  unfold sized; split
  · exact h
  · exact badRange_fr ..
theorem reserved_fr {l : List Grp} {s : State} {a : Answer} (r : Request) (o : List Nat) (h : AFr l s a) :
    AFr l s (reserved r o a) := by
  unfold reserved; split
  · exact badRange_fr ..
  · exact h
theorem run_fr {l : List Grp} {s : State} {f : State → State} (hp : within [.pads] l = true) (h : Fr l s (f s)) :
    OFr l s (run s f) := by
  intro t e
  unfold run at e
  injection e with e
  subst e
  split
  · exact Fr.refl _ _
  · exact Fr.step h (interlock_fr _) hp
theorem atExit_fr {l : List Grp} {s : State} {f : State → State} (hp : within [.pads] l = true) (h : Fr l s (f s)) :
    OFr l s (atExit s f) := by
  intro t e
  unfold atExit at e
  injection e with e
  subst e
  split
  · exact Fr.refl _ _
  · exact Fr.step h (interlock_fr _) hp
theorem aoRun_fr {l : List Grp} {s : State} {f : State → State} (hp : within [.pads] l = true) (h : Fr l s (f s)) :
    OFr l s (aoRun s f) := by
  intro t e
  unfold aoRun at e
  injection e with e
  subst e
  split
  · exact Fr.step h (interlock_fr _) hp
  · exact Fr.refl _ _
theorem always_fr {l : List Grp} {s : State} {f : State → State} (hp : within [.pads] l = true) (h : Fr l s (f s)) :
    OFr l s (always s f) := by
  intro t e
  unfold always at e
  injection e with e
  subst e
  exact Fr.step h (interlock_fr _) hp
theorem Fr.ite {l : List Grp} {s a b : State} {c : Prop} [Decidable c] (h : Fr l s a) (k : Fr l s b) :
    Fr l s (if c then a else b) := by
  split
  · exact h
  · exact k
theorem AFr.ite {l : List Grp} {s : State} {a b : Answer} {c : Prop} [Decidable c] (h : AFr l s a) (k : AFr l s b) :
    AFr l s (if c then a else b) := by
  split
  · exact h
  · exact k
theorem Fr.step' {a b : List Grp} {s t u : State} (h : Fr a s t) (k : Fr b t u) (hab : within a b = true) : Fr b s u :=
  ⟨fun g hg => SameIn.trans (Only.mono h.only hab g hg) (k.only g hg), Latched.trans h.latched k.latched,
    fun m => k.mem (h.mem m)⟩
/-- What an optional next state leaves as it was. -/
structure OptFr (l : List Grp) (s : State) (o : Option State) : Prop where
  at_ : ∀ t, o = some t → Fr l s t
theorem OptFr.some {l : List Grp} {s t : State} (h : Fr l s t) : OptFr l s (some t) := ⟨fun _ e => by cases e; exact h⟩
theorem OptFr.none (l : List Grp) (s : State) : OptFr l s none := ⟨fun _ e => by cases e⟩
theorem OptFr.get {l : List Grp} {s t : State} {o : Option State} (h : OptFr l s o) (e : o = .some t) : Fr l s t :=
  h.at_ _ e
theorem OptFr.ite {l : List Grp} {s : State} {a b : Option State} {c : Prop} [Decidable c] (h : OptFr l s a) (k : OptFr l s b) :
    OptFr l s (if c then a else b) := by
  split
  · exact h
  · exact k
theorem OptFr.step {a b : List Grp} {s₀ s : State} {x : Option State} (h : Fr b s₀ s) (k : OptFr a s x) (hab : within a b = true) :
    OptFr b s₀ x := by
  exact ⟨fun t e => Fr.step h (k.at_ t e) hab⟩
/-- What a state or a refusal leaves as it was. -/
structure ExcFr (l : List Grp) (s : State) (o : Except Nat State) : Prop where
  at_ : ∀ t, o = .ok t → Fr l s t
theorem ExcFr.ok {l : List Grp} {s t : State} (h : Fr l s t) : ExcFr l s (.ok t) := ⟨fun _ e => by cases e; exact h⟩
theorem ExcFr.error (l : List Grp) (s : State) (n : Nat) : ExcFr l s (.error n) := ⟨fun _ e => by cases e⟩
theorem ExcFr.get {l : List Grp} {s t : State} {o : Except Nat State} (h : ExcFr l s o) (e : o = .ok t) : Fr l s t :=
  h.at_ _ e
theorem ExcFr.ite {l : List Grp} {s : State} {a b : Except Nat State} {c : Prop} [Decidable c] (h : ExcFr l s a)
    (k : ExcFr l s b) : ExcFr l s (if c then a else b) := by
  split
  · exact h
  · exact k
/-- What an optional result with its state leaves as it was. -/
structure OptPFr {α : Type} (l : List Grp) (s : State) (o : Option (α × State)) : Prop where
  at_ : ∀ x t, o = some (x, t) → Fr l s t
theorem OptPFr.some {α : Type} {l : List Grp} {s t : State} {x : α} (h : Fr l s t) : OptPFr l s (some (x, t)) := ⟨fun _ _ e => by cases e; exact h⟩
theorem OptPFr.none {α : Type} (l : List Grp) (s : State) : OptPFr l s (none : Option (α × State)) := ⟨fun _ _ e => by cases e⟩
theorem OptPFr.get {α : Type} {l : List Grp} {s t : State} {x : α} {o : Option (α × State)} (h : OptPFr l s o)
    (e : o = .some (x, t)) : Fr l s t :=
  h.at_ _ _ e
theorem OptPFr.ite {α : Type} {l : List Grp} {s : State} {a b : Option (α × State)} {c : Prop} [Decidable c]
    (h : OptPFr l s a) (k : OptPFr l s b) : OptPFr l s (if c then a else b) := by
  split
  · exact h
  · exact k
/-- What an optional refusal leaves as it was. -/
structure OptAFr (l : List Grp) (s : State) (o : Option Answer) : Prop where
  at_ : ∀ a, o = some a → AFr l s a
theorem OptAFr.some {l : List Grp} {s : State} {a : Answer} (h : AFr l s a) : OptAFr l s (some a) := ⟨fun _ e => by cases e; exact h⟩
theorem OptAFr.none (l : List Grp) (s : State) : OptAFr l s none := ⟨fun _ e => by cases e⟩
theorem OptAFr.get {l : List Grp} {s : State} {a : Answer} {o : Option Answer} (h : OptAFr l s o) (e : o = .some a) :
    AFr l s a :=
  h.at_ _ e
theorem OptAFr.ite {l : List Grp} {s : State} {a b : Option Answer} {c : Prop} [Decidable c] (h : OptAFr l s a)
    (k : OptAFr l s b) : OptAFr l s (if c then a else b) := by
  split
  · exact h
  · exact k
theorem OptAFr.map {α : Type} {l : List Grp} {s : State} {o : Option α} {f : α → Answer} (h : ∀ x, AFr l s (f x)) :
    OptAFr l s (o.map f) := by
  cases o with
  | none => exact OptAFr.none _ _
  | some x => exact OptAFr.some (h x)
theorem AFr.get_ok {l : List Grp} {s t : State} {p : Bytes} {a : Answer} (h : AFr l s a) (e : a = .ok t p) : Fr l s t := by
  subst e; exact h.at_
theorem AFr.get_staged {l : List Grp} {s t : State} {p : Bytes} {a : Answer} (h : AFr l s a) (e : a = .staged t p) :
    Fr l s t := by
  subst e; exact h.at_
theorem namesSource_fr {l : List Grp} {s : State} {r : Request} {f : Nat → Answer} (h : ∀ n, AFr l s (f n)) :
    AFr l s (namesSource r f) := by
  unfold namesSource
  dsimp only
  repeat'
    first
    | with_reducible apply AFr.ite
    | with_reducible apply h
    | with_reducible apply AFr.no
    | with_reducible apply badRange_fr
    | with_reducible apply sized_fr
    | split
theorem wf_foldl {α : Type} {d : Nat → Byte} {f : List Host.Cell → α → List Host.Cell} (l : List α) (w : List Host.Cell)
    (hf : ∀ w x, Memory.wf d w → Memory.wf d (f w x)) (h : Memory.wf d w) : Memory.wf d (l.foldl f w) := by
  induction l generalizing w with
  | nil => exact h
  | cons x l ih => exact ih _ (hf w x h)
theorem recordFault_f4 (f : Faults) (n c : Nat) (i : Bool) (r : BitVec 80) (k : Nat) : (recordFault f n c i r k).f4 = f.f4 := by
  unfold recordFault
  split
  · rfl
  · split <;> rfl
theorem ringAdd_f4 (f : Faults) (e : RingEntry) : (ringAdd f e).f4 = f.f4 := by
  unfold ringAdd
  split <;> rfl
theorem setBit_keeps {w : Nat} (x : BitVec w) (i j : Nat) (h : x.getLsbD j = true) : (setBit x i true).getLsbD j = true := by
  simp [setBit, h]
theorem FusesRise.rollback {f : Fuses} (n : Nat) (h : f.rollback ≤ n) : Latched.FusesRise f { f with rollback := n } :=
  ⟨h, fun _ h => h⟩
theorem FusesRise.revoked {f : Fuses} (v : BitVec 4) : Latched.FusesRise f { f with revoked := f.revoked ||| v } :=
  ⟨Nat.le_refl _, fun _ h => by simp [h]⟩
theorem FusesRise.owner {f : Fuses} (v : Bytes) : Latched.FusesRise f { f with owner := v } :=
  ⟨Nat.le_refl _, fun _ h => h⟩
theorem wf_outWrite (n : Nat) (l : List (Nat × Byte)) (w : List Host.Cell) (h : Memory.wf win1Reset w) :
    Memory.wf win1Reset (l.foldl (fun w x => if outByte (n + x.1) then tset win1Reset w (n + x.1) x.2 else w) w) := by
  refine wf_foldl l w (fun w x h => ?_) h
  split
  · exact twf_tset _ _ _ _ h
  · exact h

end Sys2Proof.Machine
end

