-- ==== Sys2Proof/Laws/FootprintMail.lean ====
section
/-! SUPPORT. The footprint of every operation: the state operations, the host link, the mailboxes and the commands of a mailbox. -/

namespace Sys2Proof.Machine

set_option linter.all false
set_option simprocs false

theorem emit_fr (s : State) (o : Out) :
    Fr [.outs] s (emit s o) := by
  unfold emit
  try dsimp only
  repeat'
    first
    | with_reducible exact Fr.refl _ _
    | with_reducible apply Fr.step ?_ (setOuts_fr ..) ?_
    | exact rfl

theorem draw_fr (s : State) :
    Fr [.freeIx] s (draw s).2 := by
  unfold draw
  try dsimp only
  repeat'
    first
    | with_reducible exact Fr.refl _ _
    | with_reducible apply Fr.step ?_ (setFreeIx_fr ..) ?_
    | exact rfl

theorem setDom_fr (s : State) (d : Nat) (v : Domain) :
    Fr [.ld] s (setDom s d v) := by
  unfold setDom
  try dsimp only
  repeat'
    first
    | with_reducible exact Fr.refl _ _
    | with_reducible apply Fr.step ?_ (modLd_fr ..) ?_
    | exact rfl

theorem modQue_fr (s : State) (q : Nat) (f : Queue → Queue) :
    Fr [.qs] s (modQue s q f) := by
  unfold modQue
  try dsimp only
  repeat'
    first
    | with_reducible exact Fr.refl _ _
    | with_reducible apply Fr.step ?_ (setQs_fr ..) ?_
    | exact rfl

theorem countN_fr (s : State) (block : Nat) (i : Nat) (n : Nat) :
    Fr [.cnt] s (countN s block i n) := by
  unfold countN
  try dsimp only
  repeat'
    first
    | with_reducible exact Fr.refl _ _
    | with_reducible apply Fr.ite
    | with_reducible apply Fr.step ?_ (setCnt_fr ..) ?_
    | exact rfl

theorem count_fr (s : State) (block : Nat) (i : Nat) :
    Fr [.cnt] s (count s block i) := by
  unfold count
  try dsimp only
  repeat'
    first
    | with_reducible exact Fr.refl _ _
    | with_reducible apply Fr.step ?_ (countN_fr ..) ?_
    | exact rfl

theorem objWrite_fr (s : State) (oid : Nat) (off : Nat) (b : Bytes) :
    Fr [.objs] s (objWrite s oid off b) := by
  unfold objWrite
  try dsimp only
  repeat'
    first
    | with_reducible exact Fr.refl _ _
    | with_reducible apply Fr.step ?_ (setObjs_fr _ _ ?_) ?_
    | exact rfl
    | exact fun hw => wf_mwrite _ _ _ _ hw

theorem clearHome_fr (s : State) (d : Nat) :
    Fr [.objs, .cnt] s (clearHome s d) := by
  unfold clearHome
  try dsimp only
  repeat'
    first
    | with_reducible exact Fr.refl _ _
    | with_reducible apply Fr.step ?_ (setObjs_fr _ _ ?_) ?_
    | with_reducible apply Fr.step ?_ (setCnt_fr ..) ?_
    | split
    | exact rfl
    | exact fun hw => twf_filter _ _ _ hw

theorem modChan_fr (s : State) (i : Nat) (f : Chan → Chan) :
    Fr [.tm] s (modChan s i f) := by
  unfold modChan
  try dsimp only
  repeat'
    first
    | with_reducible exact Fr.refl _ _
    | with_reducible apply Fr.step ?_ (modTm_fr ..) ?_
    | exact rfl

theorem sendNumbered_fr (s : State) (ty : Nat) (first : Nat) (area : Bytes) (ack : Nat) (valid : Bool) :
    Fr [.hl, .outs] s (sendNumbered s ty first area ack valid) := by
  unfold sendNumbered
  try dsimp only
  repeat'
    first
    | with_reducible exact Fr.refl _ _
    | with_reducible apply Fr.step ?_ (modHl_fr ..) ?_
    | with_reducible apply Fr.step ?_ (emit_fr ..) ?_
    | exact rfl

theorem sendNull_fr (s : State) :
    Fr [.hl, .outs] s (sendNull s) := by
  unfold sendNull
  try dsimp only
  repeat'
    first
    | with_reducible exact Fr.refl _ _
    | with_reducible apply Fr.step ?_ (modHl_fr ..) ?_
    | with_reducible apply Fr.step ?_ (emit_fr ..) ?_
    | exact rfl

theorem sendNak_fr (s : State) :
    Fr [.hl, .cnt, .outs] s (sendNak s) := by
  unfold sendNak
  try dsimp only
  repeat'
    first
    | with_reducible exact Fr.refl _ _
    | with_reducible apply Fr.ite
    | with_reducible apply Fr.step ?_ (count_fr ..) ?_
    | with_reducible apply Fr.step ?_ (sendNumbered_fr ..) ?_
    | with_reducible apply Fr.step ?_ (modHl_fr ..) ?_
    | exact rfl

theorem evtLeft_fr (s : State) (m : Bytes) :
    Fr [.hl] s (evtLeft s m) := by
  unfold evtLeft
  try dsimp only
  repeat'
    first
    | with_reducible exact Fr.refl _ _
    | with_reducible apply Fr.ite
    | with_reducible apply Fr.step ?_ (modHl_fr ..) ?_
    | split
    | exact rfl

theorem sendFlits_fr (s : State) (first : Nat) (x2 : List Bytes) :
    Fr [.hl, .outs] s (sendFlits s first x2) := by
  induction x2 generalizing s first with
  | nil => exact Fr.refl _ _
  | cons w ws ih =>
    unfold sendFlits
    try dsimp only
    repeat'
      first
      | with_reducible exact Fr.refl _ _
      | with_reducible apply Fr.step ?_ (sendNumbered_fr ..) ?_
      | with_reducible apply Fr.step ?_ (ih ..) ?_
      | exact rfl

theorem queueMsg_fr (s : State) (m : Bytes) (vec : Option Nat) :
    Fr [.hl] s (queueMsg s m vec) := by
  unfold queueMsg
  try dsimp only
  repeat'
    first
    | with_reducible exact Fr.refl _ _
    | with_reducible apply Fr.ite
    | with_reducible apply Fr.step ?_ (modHl_fr ..) ?_
    | split
    | exact rfl

theorem evtFree_fr (s : State) (v : Nat) :
    Fr [.hl] s (evtFree s v) := by
  unfold evtFree
  try dsimp only
  repeat'
    first
    | with_reducible exact Fr.refl _ _
    | with_reducible apply Fr.step ?_ (modHl_fr ..) ?_
    | split
    | exact rfl

theorem evtQueue_fr (s : State) (v : Nat) :
    Fr [.hl] s (evtQueue s v) := by
  unfold evtQueue
  try dsimp only
  repeat'
    first
    | with_reducible exact Fr.refl _ _
    | with_reducible apply Fr.ite
    | with_reducible apply Fr.step ?_ (evtFree_fr ..) ?_
    | with_reducible apply Fr.step ?_ (queueMsg_fr ..) ?_
    | split
    | exact rfl

theorem evtTryBy_fr {go : State → Nat → State} {l : List Grp} (hl : within [.hl] l = true)
    (hg : ∀ s v, Fr l s (go s v)) (s : State) (v : Nat) :
    Fr l s (evtTryBy go s v) := by
  unfold evtTryBy
  try dsimp only
  repeat'
    first
    | with_reducible exact Fr.refl _ _
    | with_reducible apply Fr.ite
    | with_reducible exact hg ..
    | with_reducible apply Fr.step ?_ (hg ..) rfl
    | with_reducible apply Fr.step ?_ (modHl_fr ..) hl
    | split
    | exact rfl
    | exact hl
    | simp [within]

theorem raiseBy_fr {go : State → Nat → State} {l : List Grp} (hl : within [.hl] l = true)
    (hg : ∀ s v, Fr l s (go s v)) (s : State) (v : Nat) :
    Fr l s (raiseBy go s v) := by
  unfold raiseBy
  try dsimp only
  repeat'
    first
    | with_reducible exact Fr.refl _ _
    | with_reducible apply Fr.ite
    | with_reducible exact hg ..
    | with_reducible apply Fr.step ?_ (hg ..) rfl
    | with_reducible apply Fr.step ?_ (evtTryBy_fr hl hg ..) ?_
    | with_reducible apply Fr.step ?_ (modHl_fr ..) hl
    | split
    | exact rfl
    | exact hl
    | simp [within]

theorem msgLeft_fr (s : State) (w : Waiting) :
    Fr [.hl] s (msgLeft s w) := by
  unfold msgLeft
  try dsimp only
  repeat'
    first
    | with_reducible exact Fr.refl _ _
    | with_reducible apply Fr.step ?_ (raiseBy_fr rfl evtQueue_fr ..) ?_
    | with_reducible apply Fr.step ?_ (raiseBy_fr rfl evtNow_fr ..) ?_
    | with_reducible apply Fr.step ?_ (evtQueue_fr ..) ?_
    | with_reducible apply Fr.step ?_ (evtLeft_fr ..) ?_
    | split
    | exact rfl

theorem pumpFuel_fr (x0 : Nat) (s : State) :
    Fr [.hl, .outs] s (pumpFuel x0 s) := by
  induction x0 generalizing s with
  | zero => exact Fr.refl _ _
  | succ k ih =>
    unfold pumpFuel
    try dsimp only
    repeat'
      first
      | with_reducible exact Fr.refl _ _
      | with_reducible apply Fr.ite
      | with_reducible apply Fr.step ?_ (sendFlits_fr ..) ?_
      | with_reducible apply Fr.step ?_ (modHl_fr ..) ?_
      | with_reducible apply Fr.step ?_ (msgLeft_fr ..) ?_
      | with_reducible apply Fr.step ?_ (ih ..) ?_
      | split
      | exact rfl

theorem pump_fr (s : State) :
    Fr [.hl, .cnt, .outs] s (pump s) := by
  unfold pump
  try dsimp only
  repeat'
    first
    | with_reducible exact Fr.refl _ _
    | with_reducible apply Fr.ite
    | with_reducible apply Fr.step ?_ (pumpFuel_fr ..) ?_
    | with_reducible apply Fr.step ?_ (sendNak_fr ..) ?_
    | exact rfl

theorem sendVec_fr (s : State) (m : Bytes) (vec : Option Nat) :
    Fr [.hl, .cnt, .outs] s (sendVec s m vec) := by
  unfold sendVec
  try dsimp only
  repeat'
    first
    | with_reducible exact Fr.refl _ _
    | with_reducible apply Fr.ite
    | with_reducible apply Fr.step ?_ (pump_fr ..) ?_
    | with_reducible apply Fr.step ?_ (queueMsg_fr ..) ?_
    | split
    | exact rfl

theorem sendMsg_fr (s : State) (m : Bytes) :
    Fr [.hl, .cnt, .outs] s (sendMsg s m) := by
  unfold sendMsg
  try dsimp only
  repeat'
    first
    | with_reducible exact Fr.refl _ _
    | with_reducible apply Fr.step ?_ (sendVec_fr ..) ?_
    | with_reducible apply Fr.ite
    | exact rfl

theorem sendLm_fr (s : State) (code : Nat) (arg : Nat) :
    Fr [.hl, .cnt, .outs] s (sendLm s code arg) := by
  unfold sendLm
  try dsimp only
  repeat'
    first
    | with_reducible exact Fr.refl _ _
    | with_reducible apply Fr.step ?_ (sendMsg_fr ..) ?_
    | exact rfl

theorem evtNow_fr (s : State) (v : Nat) :
    Fr [.hl, .cnt, .outs] s (evtNow s v) := by
  unfold evtNow
  try dsimp only
  repeat'
    first
    | with_reducible exact Fr.refl _ _
    | with_reducible apply Fr.ite
    | with_reducible apply Fr.step ?_ (sendMsg_fr ..) ?_
    | with_reducible apply Fr.step ?_ (evtFree_fr ..) ?_
    | exact rfl

theorem evtTry_fr (s : State) (v : Nat) :
    Fr [.hl, .cnt, .outs] s (evtTry s v) := by
  unfold evtTry
  try dsimp only
  repeat'
    first
    | with_reducible exact Fr.refl _ _
    | with_reducible apply Fr.ite
    | with_reducible apply Fr.step ?_ (evtNow_fr ..) ?_
    | with_reducible apply Fr.step ?_ (evtTryBy_fr rfl evtNow_fr ..) ?_
    | with_reducible apply Fr.step ?_ (evtTryBy_fr rfl evtQueue_fr ..) ?_
    | exact rfl

theorem raiseEvent_fr (s : State) (v : Nat) :
    Fr [.hl, .cnt, .outs] s (raiseEvent s v) := by
  unfold raiseEvent
  try dsimp only
  repeat'
    first
    | with_reducible exact Fr.refl _ _
    | with_reducible apply Fr.step ?_ (raiseBy_fr rfl evtNow_fr ..) ?_
    | with_reducible apply Fr.step ?_ (raiseBy_fr rfl evtQueue_fr ..) ?_
    | with_reducible apply Fr.step ?_ (evtNow_fr ..) ?_
    | with_reducible apply Fr.ite
    | exact rfl

theorem setFlag_fr (s : State) (bit : Nat) :
    Fr [.hl, .cnt, .outs] s (setFlag s bit) := by
  unfold setFlag
  try dsimp only
  repeat'
    first
    | with_reducible exact Fr.refl _ _
    | with_reducible apply Fr.ite
    | with_reducible apply Fr.step ?_ (raiseEvent_fr ..) ?_
    | with_reducible apply Fr.step ?_ (modHl_fr ..) ?_
    | exact rfl

theorem setLinkState_fr (s : State) (v : BitVec 4) :
    Fr [.hl, .cnt, .outs] s (setLinkState s v) := by
  unfold setLinkState
  try dsimp only
  repeat'
    first
    | with_reducible exact Fr.refl _ _
    | with_reducible apply Fr.ite
    | with_reducible apply Fr.step ?_ (raiseEvent_fr ..) ?_
    | with_reducible apply Fr.step ?_ (modHl_fr ..) ?_
    | exact rfl

theorem modMbox_fr (s : State) (n : Nat) (f : Channel → Channel) :
    Fr [.mb] s (modMbox s n f) := by
  unfold modMbox
  try dsimp only
  repeat'
    first
    | with_reducible exact Fr.refl _ _
    | with_reducible apply Fr.step ?_ (modMb_fr ..) ?_
    | exact rfl

theorem setFwReady_fr (s : State) (v : Bool) :
    Fr [.hl, .mb, .cnt, .outs] s (setFwReady s v) := by
  unfold setFwReady
  try dsimp only
  repeat'
    first
    | with_reducible exact Fr.refl _ _
    | with_reducible apply Fr.ite
    | with_reducible apply Fr.step ?_ (modMbox_fr ..) ?_
    | with_reducible apply Fr.step ?_ (raiseEvent_fr ..) ?_
    | with_reducible apply Fr.step ?_ (modHl_fr ..) ?_
    | with_reducible apply Fr.step ?_ (modMb_fr ..) ?_
    | with_reducible apply Fr.foldl ?_ (fun _ _ => ?_)
    | exact rfl

theorem noteErr_fr (s : State) (hdr : Bytes) :
    Fr [.hl] s (noteErr s hdr) := by
  unfold noteErr
  try dsimp only
  repeat'
    first
    | with_reducible exact Fr.refl _ _
    | with_reducible apply Fr.ite
    | with_reducible apply Fr.step ?_ (modHl_fr ..) ?_
    | exact rfl

theorem modKlink_fr (s : State) (k : Nat) (f : KLink → KLink) :
    Fr [.sk] s (modKlink s k f) := by
  unfold modKlink
  try dsimp only
  repeat'
    first
    | with_reducible exact Fr.refl _ _
    | with_reducible apply Fr.step ?_ (modSk_fr ..) ?_
    | exact rfl

theorem kEmit_fr (s : State) (k : Nat) (f : Bytes) :
    Fr [.cnt, .outs] s (kEmit s k f) := by
  unfold kEmit
  try dsimp only
  repeat'
    first
    | with_reducible exact Fr.refl _ _
    | with_reducible apply Fr.ite
    | with_reducible apply Fr.step ?_ (count_fr ..) ?_
    | with_reducible apply Fr.step ?_ (emit_fr ..) ?_
    | exact rfl

theorem kHold_fr (s : State) (k : Nat) (f : Bytes) :
    Fr [.sk, .cnt, .outs] s (kHold s k f) := by
  unfold kHold
  try dsimp only
  repeat'
    first
    | with_reducible exact Fr.refl _ _
    | with_reducible apply Fr.step ?_ (kEmit_fr ..) ?_
    | with_reducible apply Fr.step ?_ (modKlink_fr ..) ?_
    | exact rfl

theorem kPumpFuel_fr (x0 : Nat) (s : State) (x2 : Nat) :
    Fr [.sk, .cnt, .outs] s (kPumpFuel x0 s x2) := by
  induction x0 generalizing s x2 with
  | zero => exact Fr.refl _ _
  | succ k ih =>
    unfold kPumpFuel
    try dsimp only
    repeat'
      first
      | with_reducible exact Fr.refl _ _
      | with_reducible apply Fr.ite
      | with_reducible apply Fr.step ?_ (kHold_fr ..) ?_
      | with_reducible apply Fr.step ?_ (modKlink_fr ..) ?_
      | with_reducible apply Fr.step ?_ (ih ..) ?_
      | split
      | exact rfl

theorem kPump_fr (s : State) (k : Nat) :
    Fr [.sk, .cnt, .outs] s (kPump s k) := by
  unfold kPump
  try dsimp only
  repeat'
    first
    | with_reducible exact Fr.refl _ _
    | with_reducible apply Fr.step ?_ (kPumpFuel_fr ..) ?_
    | exact rfl

theorem kOut_fr (s : State) (k : Nat) (f : Bytes) :
    Fr [.sk, .cnt, .outs] s (kOut s k f) := by
  unfold kOut
  try dsimp only
  repeat'
    first
    | with_reducible exact Fr.refl _ _
    | with_reducible apply Fr.ite
    | with_reducible apply Fr.step ?_ (kPump_fr ..) ?_
    | with_reducible apply Fr.step ?_ (modKlink_fr ..) ?_
    | with_reducible apply Fr.step ?_ (kEmit_fr ..) ?_
    | exact rfl

theorem kSend_fr (s : State) (k : Nat) (kind : Nat) (dst : Nat) (body : Bytes) :
    Fr [.sk, .cnt, .outs] s (kSend s k kind dst body) := by
  unfold kSend
  try dsimp only
  repeat'
    first
    | with_reducible exact Fr.refl _ _
    | with_reducible apply Fr.ite
    | with_reducible apply Fr.step ?_ (kOut_fr ..) ?_
    | exact rfl

theorem stackEvent_fr (was : State) (s : State) :
    Fr [.hl, .cnt, .outs] s (stackEvent was s) := by
  unfold stackEvent
  try dsimp only
  repeat'
    first
    | with_reducible exact Fr.refl _ _
    | with_reducible apply Fr.ite
    | with_reducible apply Fr.step ?_ (raiseEvent_fr ..) ?_
    | split
    | exact rfl

theorem svcSend_fr (s : State) (dst : Bytes) (subtype : Nat) (body : Bytes) :
    Fr [.outs] s (svcSend s dst subtype body) := by
  unfold svcSend
  try dsimp only
  repeat'
    first
    | with_reducible exact Fr.refl _ _
    | with_reducible apply Fr.ite
    | with_reducible apply Fr.step ?_ (emit_fr ..) ?_
    | exact rfl

theorem modSess_fr (s : State) (k : Nat) (f : Session → Session) :
    Fr [.se] s (modSess s k f) := by
  unfold modSess
  try dsimp only
  repeat'
    first
    | with_reducible exact Fr.refl _ _
    | with_reducible apply Fr.step ?_ (modSe_fr _ _ ?_ ?_) ?_
    | exact rfl
    | with_reducible exact id
    | with_reducible exact fun _ h => h

theorem svcMsg_fr (s : State) (k : Nat) (msg : Bytes) :
    Fr [.se, .outs] s (svcMsg s k msg) := by
  unfold svcMsg
  try dsimp only
  repeat'
    first
    | with_reducible exact Fr.refl _ _
    | with_reducible apply Fr.ite
    | with_reducible apply Fr.step ?_ (svcSend_fr ..) ?_
    | with_reducible apply Fr.step ?_ (modSess_fr ..) ?_
    | exact rfl

theorem dropUpdate_fr (s : State) (agent : Nat) :
    Fr [.mg] s (dropUpdate s agent) := by
  unfold dropUpdate
  try dsimp only
  repeat'
    first
    | with_reducible exact Fr.refl _ _
    | with_reducible apply Fr.step ?_ (modMg_fr ..) ?_
    | exact rfl

theorem sessClose_fr (s : State) (k : Nat) (reason : Option Nat) :
    Fr [.se, .mg, .outs] s (sessClose s k reason) := by
  unfold sessClose
  try dsimp only
  repeat'
    first
    | with_reducible exact Fr.refl _ _
    | with_reducible apply Fr.ite
    | with_reducible apply Fr.step ?_ (svcSend_fr ..) ?_
    | with_reducible apply Fr.step ?_ (dropUpdate_fr ..) ?_
    | with_reducible apply Fr.step ?_ (modSess_fr ..) ?_
    | split
    | exact rfl

theorem deliver_fr (s : State) (r : Request) (status : Nat) (msg : Bytes) :
    Fr [.hl, .mb, .sk, .se, .win0, .cnt, .outs] s (deliver s r status msg) := by
  unfold deliver
  try dsimp only
  repeat'
    first
    | with_reducible exact Fr.refl _ _
    | with_reducible apply Fr.ite
    | with_reducible apply Fr.step ?_ (setWin0_fr _ _ ?_) ?_
    | with_reducible apply Fr.step ?_ (modMbox_fr ..) ?_
    | with_reducible apply Fr.step ?_ (raiseEvent_fr ..) ?_
    | with_reducible apply Fr.step ?_ (kSend_fr ..) ?_
    | with_reducible apply Fr.step ?_ (svcMsg_fr ..) ?_
    | split
    | exact rfl
    | exact fun hw => wf_mwrite _ _ _ _ hw

theorem respondWith_fr (s : State) (r : Request) (status : Nat) (staged : Bool) (payload : Bytes) :
    Fr [.hl, .mb, .sk, .se, .win0, .cnt, .outs] s (respondWith s r status staged payload) := by
  unfold respondWith
  try dsimp only
  repeat'
    first
    | with_reducible exact Fr.refl _ _
    | with_reducible apply Fr.ite
    | with_reducible apply Fr.step ?_ (count_fr ..) ?_
    | with_reducible apply Fr.step ?_ (modMb_fr ..) ?_
    | with_reducible apply Fr.step ?_ (deliver_fr ..) ?_
    | exact rfl

theorem modPrt_fr (s : State) (p : Nat) (f : Port → Port) :
    Fr [.tx] s (modPrt s p f) := by
  unfold modPrt
  try dsimp only
  repeat'
    first
    | with_reducible exact Fr.refl _ _
    | with_reducible apply Fr.step ?_ (modTx_fr ..) ?_
    | exact rfl

theorem modDoz_fr (s : State) (u : Nat) (f : Doze → Doze) :
    Fr [.ld] s (modDoz s u f) := by
  unfold modDoz
  try dsimp only
  repeat'
    first
    | with_reducible exact Fr.refl _ _
    | with_reducible apply Fr.step ?_ (modLd_fr ..) ?_
    | exact rfl

theorem modSgm_fr (s : State) (i : Nat) (f : Seg → Seg) :
    Fr [.sg] s (modSgm s i f) := by
  unfold modSgm
  try dsimp only
  repeat'
    first
    | with_reducible exact Fr.refl _ _
    | with_reducible apply Fr.step ?_ (modSg_fr ..) ?_
    | exact rfl

theorem modRec_fr (s : State) (q : Nat) (idx : Nat) (f : TxRec → TxRec) :
    Fr [.qs] s (modRec s q idx f) := by
  unfold modRec
  try dsimp only
  repeat'
    first
    | with_reducible exact Fr.refl _ _
    | with_reducible apply Fr.ite
    | with_reducible apply Fr.step ?_ (modQue_fr ..) ?_
    | exact rfl

theorem finalStatus_fr (s : State) (r : TxRec) :
    Fr [.freeIx] s (finalStatus s r).2 := by
  unfold finalStatus
  try dsimp only
  repeat'
    first
    | with_reducible exact Fr.refl _ _
    | with_reducible apply Fr.ite
    | with_reducible apply Fr.step ?_ (draw_fr ..) ?_
    | split
    | exact rfl

theorem freeCells_fr (s : State) (p : Nat) (r : TxRec) :
    Fr [.tx] s (freeCells s p r) := by
  unfold freeCells
  try dsimp only
  repeat'
    first
    | with_reducible exact Fr.refl _ _
    | with_reducible apply Fr.ite
    | with_reducible apply Fr.step ?_ (modPrt_fr ..) ?_
    | exact rfl

theorem settle_fr (s : State) (q : Nat) (idx : Nat) (p : Nat) (e : PortEnd) :
    Fr [.qs, .tx, .freeIx] s (settle s q idx p e) := by
  unfold settle
  try dsimp only
  repeat'
    first
    | with_reducible exact Fr.refl _ _
    | with_reducible apply Fr.ite
    | with_reducible apply Fr.step ?_ (freeCells_fr ..) ?_
    | with_reducible apply Fr.step ?_ (finalStatus_fr ..) ?_
    | with_reducible apply Fr.step ?_ (modQue_fr ..) ?_
    | with_reducible apply Fr.step ?_ (modRec_fr ..) ?_
    | split
    | exact rfl

theorem endRec_fr (s : State) (q : Nat) (idx : Nat) (status : BitVec 8) :
    Fr [.qs, .tx] s (endRec s q idx status) := by
  unfold endRec
  try dsimp only
  repeat'
    first
    | with_reducible exact Fr.refl _ _
    | with_reducible apply Fr.step ?_ (freeCells_fr ..) ?_
    | with_reducible apply Fr.step ?_ (modRec_fr ..) ?_
    | with_reducible apply Fr.step ?_ (modQue_fr ..) ?_
    | with_reducible apply Fr.foldl ?_ (fun _ _ => ?_)
    | split
    | exact rfl

theorem stampRec_fr (s : State) (q : Nat) (idx : Nat) (st : Stamp) :
    Fr [.qs, .tx] s (stampRec s q idx st) := by
  unfold stampRec
  try dsimp only
  repeat'
    first
    | with_reducible exact Fr.refl _ _
    | with_reducible apply Fr.ite
    | with_reducible apply Fr.step ?_ (modRec_fr ..) ?_
    | with_reducible apply Fr.step ?_ (modPrt_fr ..) ?_
    | exact rfl

theorem withhold_fr (s : State) (p : Nat) (f : EgFrame) (e : PortEnd) :
    Fr [.qs, .tx, .cnt, .freeIx] s (withhold s p f e) := by
  unfold withhold
  try dsimp only
  repeat'
    first
    | with_reducible exact Fr.refl _ _
    | with_reducible apply Fr.ite
    | with_reducible apply Fr.step ?_ (count_fr ..) ?_
    | with_reducible apply Fr.step ?_ (settle_fr ..) ?_
    | with_reducible apply Fr.step ?_ (modPrt_fr ..) ?_
    | split
    | exact rfl

theorem settleLevels_fr (s : State) (p : Nat) :
    Fr [.tx] s (settleLevels s p) := by
  unfold settleLevels
  try dsimp only
  repeat'
    first
    | with_reducible exact Fr.refl _ _
    | with_reducible apply Fr.ite
    | with_reducible apply Fr.step ?_ (modPrt_fr ..) ?_
    | split
    | exact rfl

theorem abortLine_fr (s : State) (p : Nat) (e : PortEnd) :
    Fr [.qs, .tx, .cnt, .freeIx, .outs] s (abortLine s p e) := by
  unfold abortLine
  try dsimp only
  repeat'
    first
    | with_reducible exact Fr.refl _ _
    | with_reducible apply Fr.ite
    | with_reducible apply Fr.step ?_ (withhold_fr ..) ?_
    | with_reducible apply Fr.step ?_ (emit_fr ..) ?_
    | with_reducible apply Fr.step ?_ (modPrt_fr ..) ?_
    | with_reducible apply Fr.step ?_ (settleLevels_fr ..) ?_
    | with_reducible apply Fr.foldl ?_ (fun _ _ => ?_)
    | split
    | exact rfl

theorem silencePort_fr (s : State) (p : Nat) (e : PortEnd) :
    Fr [.qs, .tx, .cnt, .freeIx, .outs] s (silencePort s p e) := by
  unfold silencePort
  try dsimp only
  repeat'
    first
    | with_reducible exact Fr.refl _ _
    | with_reducible apply Fr.step ?_ (abortLine_fr ..) ?_
    | with_reducible apply Fr.step ?_ (withhold_fr ..) ?_
    | with_reducible apply Fr.step ?_ (modPrt_fr ..) ?_
    | with_reducible apply Fr.foldl ?_ (fun _ _ => ?_)
    | exact rfl

theorem stompCopy_fr (s : State) (eg : Nat) (id : Nat) :
    Fr [.tx, .cnt] s (stompCopy s eg id) := by
  unfold stompCopy
  try dsimp only
  repeat'
    first
    | with_reducible exact Fr.refl _ _
    | with_reducible apply Fr.ite
    | with_reducible apply Fr.step ?_ (count_fr ..) ?_
    | with_reducible apply Fr.step ?_ (modPrt_fr ..) ?_
    | split
    | exact rfl

theorem drainCheck_fr (s : State) :
    Fr [.rx] s (drainCheck s) := by
  unfold drainCheck
  try dsimp only
  repeat'
    first
    | with_reducible exact Fr.refl _ _
    | with_reducible apply Fr.ite
    | with_reducible apply Fr.step ?_ (modRx_fr ..) ?_
    | split
    | exact rfl

theorem dropHeads_fr (s : State) (l : List LoopHead) :
    Fr [.rx] s (dropHeads s l) := by
  unfold dropHeads
  try dsimp only
  repeat'
    first
    | with_reducible exact Fr.refl _ _
    | with_reducible apply Fr.step ?_ (drainCheck_fr ..) ?_
    | with_reducible apply Fr.step ?_ (modRx_fr ..) ?_
    | split
    | exact rfl

theorem dropEarly_fr (s : State) (p : Nat) (l : List Early) :
    Fr [.tx, .cnt] s (dropEarly s p l) := by
  unfold dropEarly
  try dsimp only
  repeat'
    first
    | with_reducible exact Fr.refl _ _
    | with_reducible apply Fr.ite
    | with_reducible apply Fr.step ?_ (stompCopy_fr ..) ?_
    | with_reducible apply Fr.step ?_ (modPrt_fr ..) ?_
    | with_reducible apply Fr.foldl ?_ (fun _ _ => ?_)
    | split
    | exact rfl

theorem segQuiet_fr (s : State) (i : Nat) :
    Fr [.pads, .sg, .outs] s (segQuiet s i) := by
  unfold segQuiet
  try dsimp only
  repeat'
    first
    | with_reducible exact Fr.refl _ _
    | with_reducible apply Fr.ite
    | with_reducible apply Fr.step ?_ (emit_fr ..) ?_
    | with_reducible apply Fr.step ?_ (modPads_fr ..) ?_
    | with_reducible apply Fr.step ?_ (modSgm_fr ..) ?_
    | exact rfl

theorem logPut_fr (s : State) (type : Nat) (flags : Nat) (data : Bytes) :
    Fr [.mg, .cnt] s (logPut s type flags data) := by
  unfold logPut
  try dsimp only
  repeat'
    first
    | with_reducible exact Fr.refl _ _
    | with_reducible apply Fr.ite
    | with_reducible apply Fr.step ?_ (count_fr ..) ?_
    | with_reducible apply Fr.step ?_ (modMg_fr ..) ?_
    | split
    | exact rfl

theorem logLoss_fr (s : State) :
    Fr [.mg, .cnt] s (logLoss s) := by
  unfold logLoss
  try dsimp only
  repeat'
    first
    | with_reducible exact Fr.refl _ _
    | with_reducible apply Fr.step ?_ (logPut_fr ..) ?_
    | with_reducible apply Fr.step ?_ (modMg_fr ..) ?_
    | split
    | exact rfl

theorem logAdd_fr (s : State) (type : Nat) (flags : Nat) (data : Bytes) :
    Fr [.mg, .cnt] s (logAdd s type flags data) := by
  unfold logAdd
  try dsimp only
  repeat'
    first
    | with_reducible exact Fr.refl _ _
    | with_reducible apply Fr.step ?_ (logPut_fr ..) ?_
    | with_reducible apply Fr.step ?_ (logLoss_fr ..) ?_
    | with_reducible apply Fr.ite
    | exact rfl

theorem logFault_fr (s : State) (src : Nat) (cls : Nat) (injected : Bool) :
    Fr [.mg, .cnt] s (logFault s src cls injected) := by
  unfold logFault
  try dsimp only
  repeat'
    first
    | with_reducible exact Fr.refl _ _
    | with_reducible apply Fr.ite
    | with_reducible apply Fr.step ?_ (logAdd_fr ..) ?_
    | with_reducible apply Fr.step ?_ (modMg_fr ..) ?_
    | exact rfl

theorem logSummaries_fr (s : State) (cls : Nat → Nat) :
    Fr [.mg, .cnt] s (logSummaries s cls) := by
  unfold logSummaries
  try dsimp only
  repeat'
    first
    | with_reducible exact Fr.refl _ _
    | with_reducible apply Fr.ite
    | with_reducible apply Fr.step ?_ (logAdd_fr ..) ?_
    | with_reducible apply Fr.step ?_ (modMg_fr ..) ?_
    | with_reducible apply Fr.foldl ?_ (fun _ _ => ?_)
    | exact rfl

theorem endCommit_fr (s : State) (result : Nat) (planes : Nat) (stack : Nat) (segs : Nat) (applied : Nat) :
    Fr [.hl, .mb, .sk, .se, .mg, .win0, .cnt, .outs] s (endCommit s result planes stack segs applied) := by
  unfold endCommit
  try dsimp only
  repeat'
    first
    | with_reducible exact Fr.refl _ _
    | with_reducible apply Fr.ite
    | with_reducible apply Fr.step ?_ (modMb_fr ..) ?_
    | with_reducible apply Fr.step ?_ (count_fr ..) ?_
    | with_reducible apply Fr.step ?_ (logAdd_fr ..) ?_
    | with_reducible apply Fr.step ?_ (respondWith_fr ..) ?_
    | split
    | exact rfl

theorem modSrc_fr (s : State) (n : Nat) (f : Source → Source) :
    Fr [.fs] s (modSrc s n f) := by
  unfold modSrc
  try dsimp only
  repeat'
    first
    | with_reducible exact Fr.refl _ _
    | with_reducible apply Fr.step ?_ (modFs_fr _ _ ?_) ?_
    | exact rfl
    | with_reducible exact id

theorem setSafeN_fr (s : State) (high : Bool) :
    Fr [.pads, .fs] s (setSafeN s high) := by
  unfold setSafeN
  try dsimp only
  repeat'
    first
    | with_reducible exact Fr.refl _ _
    | with_reducible apply Fr.ite
    | with_reducible apply Fr.step ?_ (modPads_fr ..) ?_
    | with_reducible apply Fr.step ?_ (modFs_fr _ _ ?_) ?_
    | exact rfl
    | with_reducible exact id

theorem f3Silence_fr (s : State) (t : Nat) :
    Fr [.pads, .qs, .tx, .sg, .cnt, .freeIx, .outs] s (f3Silence s t) := by
  unfold f3Silence
  try dsimp only
  repeat'
    first
    | with_reducible exact Fr.refl _ _
    | with_reducible apply Fr.ite
    | with_reducible apply Fr.step ?_ (silencePort_fr ..) ?_
    | with_reducible apply Fr.step ?_ (segQuiet_fr ..) ?_
    | with_reducible apply Fr.step ?_ (modSgm_fr ..) ?_
    | exact rfl

theorem reactF3_fr (s : State) (n : Nat) :
    Fr [.pads, .qs, .tx, .sg, .fs, .cnt, .freeIx, .outs] s (reactF3 s n) := by
  unfold reactF3
  try dsimp only
  repeat'
    first
    | with_reducible exact Fr.refl _ _
    | with_reducible apply Fr.ite
    | with_reducible apply Fr.step ?_ (modFs_fr _ _ ?_) ?_
    | with_reducible apply Fr.step ?_ (f3Silence_fr ..) ?_
    | with_reducible apply Fr.foldl ?_ (fun _ _ => ?_)
    | exact rfl
    | with_reducible exact id

theorem condOff_fr (s : State) (n : Nat) :
    Fr [.fs] s (condOff s n) := by
  unfold condOff
  try dsimp only
  repeat'
    first
    | with_reducible exact Fr.refl _ _
    | with_reducible apply Fr.step ?_ (modSrc_fr ..) ?_
    | exact rfl

theorem overEnds_fr (s : State) :
    Fr [.ld, .fs] s (overEnds s) := by
  unfold overEnds
  try dsimp only
  repeat'
    first
    | with_reducible exact Fr.refl _ _
    | with_reducible apply Fr.step ?_ (condOff_fr ..) ?_
    | with_reducible apply Fr.step ?_ (modLd_fr ..) ?_
    | split
    | exact rfl

theorem underCeil_fr (s : State) :
    Fr [.ld, .fs] s (underCeil s) := by
  unfold underCeil
  try dsimp only
  repeat'
    first
    | with_reducible exact Fr.refl _ _
    | with_reducible apply Fr.ite
    | with_reducible apply Fr.step ?_ (overEnds_fr ..) ?_
    | split
    | exact rfl

theorem undoMoves_fr (s : State) :
    Fr [.ld] s (undoMoves s) := by
  unfold undoMoves
  try dsimp only
  repeat'
    first
    | with_reducible exact Fr.refl _ _
    | with_reducible apply Fr.ite
    | with_reducible apply Fr.step ?_ (modLd_fr ..) ?_
    | with_reducible apply Fr.step ?_ (setDom_fr ..) ?_
    | split
    | exact rfl

theorem reactF4_fr (s : State) :
    Fr [.pads, .hl, .qs, .mb, .ld, .tx, .sg, .sk, .tw, .fs, .se, .mg, .win0, .cnt, .freeIx, .outs] s (reactF4 s) := by
  unfold reactF4
  try dsimp only
  repeat'
    first
    | with_reducible exact Fr.refl _ _
    | with_reducible apply Fr.ite
    | with_reducible apply Fr.step ?_ (modFs_fr _ _ ?_) ?_
    | with_reducible apply Fr.step ?_ (silencePort_fr ..) ?_
    | with_reducible apply Fr.step ?_ (emit_fr ..) ?_
    | with_reducible apply Fr.step ?_ (segQuiet_fr ..) ?_
    | with_reducible apply Fr.step ?_ (modSgm_fr ..) ?_
    | with_reducible apply Fr.step ?_ (setSafeN_fr ..) ?_
    | with_reducible apply Fr.step ?_ (modPads_fr ..) ?_
    | with_reducible apply Fr.step ?_ (modQue_fr ..) ?_
    | with_reducible apply Fr.step ?_ (modTw_fr ..) ?_
    | with_reducible apply Fr.step ?_ (raiseEvent_fr ..) ?_
    | with_reducible apply Fr.step ?_ (endCommit_fr ..) ?_
    | with_reducible apply Fr.step ?_ (undoMoves_fr ..) ?_
    | with_reducible apply Fr.step ?_ (modMb_fr ..) ?_
    | with_reducible apply Fr.foldl ?_ (fun _ _ => ?_)
    | exact rfl
    | exact fun _ => rfl

theorem loseStage_fr (s : State) :
    Fr [.mb, .ld, .tx, .fs] s (loseStage s) := by
  unfold loseStage
  try dsimp only
  repeat'
    first
    | with_reducible exact Fr.refl _ _
    | with_reducible apply Fr.ite
    | with_reducible apply Fr.step ?_ (modTx_fr ..) ?_
    | with_reducible apply Fr.step ?_ (undoMoves_fr ..) ?_
    | with_reducible apply Fr.step ?_ (modMb_fr ..) ?_
    | with_reducible apply Fr.step ?_ (underCeil_fr ..) ?_
    | exact rfl

theorem gafferReset_fr (s : State) :
    Fr [.hl, .mb, .ld, .tx, .fs, .se, .mg, .cnt, .outs] s (gafferReset s) := by
  unfold gafferReset
  try dsimp only
  repeat'
    first
    | with_reducible exact Fr.refl _ _
    | with_reducible apply Fr.ite
    | with_reducible apply Fr.step ?_ (loseStage_fr ..) ?_
    | with_reducible apply Fr.step ?_ (setFwReady_fr ..) ?_
    | with_reducible apply Fr.step ?_ (modMb_fr ..) ?_
    | with_reducible apply Fr.step ?_ (modMg_fr ..) ?_
    | with_reducible apply Fr.step ?_ (modSe_fr _ _ ?_ ?_) ?_
    | split
    | exact rfl
    | with_reducible exact id
    | with_reducible exact fun _ h => h

theorem dropEntry_fr (s : State) (n : Nat) (ipTable : Bool) (entry : Nat) :
    Fr [.objs] s (dropEntry s n ipTable entry) := by
  unfold dropEntry
  try dsimp only
  repeat'
    first
    | with_reducible exact Fr.refl _ _
    | with_reducible apply Fr.ite
    | with_reducible apply Fr.step ?_ (objWrite_fr ..) ?_
    | exact rfl

theorem reactF2_fr (s : State) (n : Nat) (ipTable : Bool) (entry : Nat) :
    Fr [.hl, .mb, .ld, .tm, .tx, .fs, .se, .mg, .objs, .cnt, .outs] s (reactF2 s n ipTable entry) := by
  unfold reactF2
  try dsimp only
  repeat'
    first
    | with_reducible exact Fr.refl _ _
    | with_reducible apply Fr.ite
    | with_reducible apply Fr.step ?_ (modChan_fr ..) ?_
    | with_reducible apply Fr.step ?_ (gafferReset_fr ..) ?_
    | with_reducible apply Fr.step ?_ (dropEntry_fr ..) ?_
    | with_reducible apply Fr.step ?_ (modPrt_fr ..) ?_
    | exact rfl

theorem latchFault_fr (s : State) (n : Nat) (cls : Nat) (inj : Bool) :
    Fr [.fs] s (latchFault s n cls inj) := by
  unfold latchFault
  try dsimp only
  repeat'
    first
    | with_reducible exact Fr.refl _ _
    | with_reducible apply Fr.ite
    | with_reducible apply Fr.step ?_ (modFs_fr _ _ ?_) ?_
    | with_reducible apply Fr.step ?_ (modSrc_fr ..) ?_
    | exact fun h => (ringAdd_f4 _ _).trans ((recordFault_f4 _ _ _ _ _ _).trans h)
    | split
    | exact rfl

theorem assertWith_fr (s : State) (n : Nat) (inj : Bool) (ipTable : Bool) (entry : Nat) :
    Fr [.pads, .hl, .qs, .mb, .ld, .tm, .tx, .sg, .sk, .tw, .fs, .se, .mg, .objs, .win0, .cnt, .freeIx, .outs] s (assertWith s n inj ipTable entry) := by
  unfold assertWith
  try dsimp only
  repeat'
    first
    | with_reducible exact Fr.refl _ _
    | with_reducible apply Fr.ite
    | with_reducible apply Fr.step ?_ (latchFault_fr ..) ?_
    | with_reducible apply Fr.step ?_ (logFault_fr ..) ?_
    | with_reducible apply Fr.step ?_ (raiseEvent_fr ..) ?_
    | with_reducible apply Fr.step ?_ (reactF2_fr ..) ?_
    | with_reducible apply Fr.step ?_ (reactF3_fr ..) ?_
    | with_reducible apply Fr.step ?_ (reactF4_fr ..) ?_
    | exact rfl

theorem fault_fr (s : State) (n : Nat) :
    Fr [.pads, .hl, .qs, .mb, .ld, .tm, .tx, .sg, .sk, .tw, .fs, .se, .mg, .objs, .win0, .cnt, .freeIx, .outs] s (fault s n) := by
  unfold fault
  try dsimp only
  repeat'
    first
    | with_reducible exact Fr.refl _ _
    | with_reducible apply Fr.step ?_ (assertWith_fr ..) ?_
    | exact rfl

theorem condOn_fr (s : State) (n : Nat) :
    Fr [.pads, .hl, .qs, .mb, .ld, .tm, .tx, .sg, .sk, .tw, .fs, .se, .mg, .objs, .win0, .cnt, .freeIx, .outs] s (condOn s n) := by
  unfold condOn
  try dsimp only
  repeat'
    first
    | with_reducible exact Fr.refl _ _
    | with_reducible apply Fr.ite
    | with_reducible apply Fr.step ?_ (fault_fr ..) ?_
    | with_reducible apply Fr.step ?_ (modSrc_fr ..) ?_
    | exact rfl

theorem latchHeld_fr (s : State) (n : Nat) :
    Fr [.pads, .fs] s (latchHeld s n) := by
  unfold latchHeld
  try dsimp only
  repeat'
    first
    | with_reducible exact Fr.refl _ _
    | with_reducible apply Fr.ite
    | with_reducible apply Fr.step ?_ (latchFault_fr ..) ?_
    | with_reducible apply Fr.step ?_ (setSafeN_fr ..) ?_
    | with_reducible apply Fr.step ?_ (modFs_fr _ _ ?_) ?_
    | exact fun _ => rfl
    | exact fun h => h
    | with_reducible apply Fr.foldl ?_ (fun _ _ => ?_)
    | split
    | exact rfl
    | with_reducible exact id
    | with_reducible exact fun _ h => h

theorem aoFault_fr (s : State) (n : Nat) :
    Fr [.pads, .hl, .qs, .mb, .ld, .tm, .tx, .sg, .sk, .tw, .fs, .se, .mg, .objs, .win0, .cnt, .freeIx, .outs] s (aoFault s n) := by
  unfold aoFault
  try dsimp only
  repeat'
    first
    | with_reducible exact Fr.refl _ _
    | with_reducible apply Fr.ite
    | with_reducible apply Fr.step ?_ (latchHeld_fr ..) ?_
    | with_reducible apply Fr.step ?_ (fault_fr ..) ?_
    | split
    | exact rfl

theorem aoOn_fr (s : State) (n : Nat) :
    Fr [.pads, .hl, .qs, .mb, .ld, .tm, .tx, .sg, .sk, .tw, .fs, .se, .mg, .objs, .win0, .cnt, .freeIx, .outs] s (aoOn s n) := by
  unfold aoOn
  try dsimp only
  repeat'
    first
    | with_reducible exact Fr.refl _ _
    | with_reducible apply Fr.ite
    | with_reducible apply Fr.step ?_ (aoFault_fr ..) ?_
    | with_reducible apply Fr.step ?_ (modSrc_fr ..) ?_
    | split
    | exact rfl

theorem checkRanges_fr (s : State) :
    Fr [.pads, .hl, .qs, .mb, .ld, .tm, .tx, .sg, .sk, .tw, .fs, .se, .mg, .objs, .win0, .cnt, .freeIx, .outs] s (checkRanges s) := by
  unfold checkRanges
  try dsimp only
  repeat'
    first
    | with_reducible exact Fr.refl _ _
    | with_reducible apply Fr.ite
    | with_reducible apply Fr.step ?_ (modSk_fr ..) ?_
    | with_reducible apply Fr.step ?_ (condOn_fr ..) ?_
    | with_reducible apply Fr.step ?_ (condOff_fr ..) ?_
    | exact rfl

theorem eachQue_fr (s : State) (f : Nat → Queue → Queue) :
    Fr [.qs] s (eachQue s f) := by
  unfold eachQue
  try dsimp only
  repeat'
    first
    | with_reducible exact Fr.refl _ _
    | with_reducible apply Fr.step ?_ (modQue_fr ..) ?_
    | with_reducible apply Fr.foldl ?_ (fun _ _ => ?_)
    | exact rfl

theorem keepPort_fr (s : State) (p : Nat) :
    Fr [.tx] s (keepPort s p) := by
  unfold keepPort
  try dsimp only
  repeat'
    first
    | with_reducible exact Fr.refl _ _
    | with_reducible apply Fr.step ?_ (modPrt_fr ..) ?_
    | exact rfl

theorem dropUnstarted_fr (s : State) (q : Nat) (r : TxRec) :
    Fr [.qs, .tx, .freeIx] s (dropUnstarted s q r) := by
  unfold dropUnstarted
  try dsimp only
  repeat'
    first
    | with_reducible exact Fr.refl _ _
    | with_reducible apply Fr.ite
    | with_reducible apply Fr.step ?_ (settle_fr ..) ?_
    | with_reducible apply Fr.step ?_ (modPrt_fr ..) ?_
    | with_reducible apply Fr.foldl ?_ (fun _ _ => ?_)
    | exact rfl

theorem keepParisons_fr (s : State) (q : Nat) :
    Fr [.qs, .tx, .freeIx] s (keepParisons s q) := by
  unfold keepParisons
  try dsimp only
  repeat'
    first
    | with_reducible exact Fr.refl _ _
    | with_reducible apply Fr.ite
    | with_reducible apply Fr.step ?_ (dropUnstarted_fr ..) ?_
    | with_reducible apply Fr.step ?_ (endRec_fr ..) ?_
    | with_reducible apply Fr.step ?_ (modQue_fr ..) ?_
    | with_reducible apply Fr.foldl ?_ (fun _ _ => ?_)
    | split
    | exact rfl

theorem stopAll_fr (s : State) :
    Fr [.hl, .qs, .cnt, .outs] s (stopAll s) := by
  unfold stopAll
  try dsimp only
  repeat'
    first
    | with_reducible exact Fr.refl _ _
    | with_reducible apply Fr.step ?_ (raiseEvent_fr ..) ?_
    | with_reducible apply Fr.step ?_ (eachQue_fr ..) ?_
    | exact rfl

theorem freeStamps_fr (s : State) (ports : Nat) :
    Fr [.tx] s (freeStamps s ports) := by
  unfold freeStamps
  try dsimp only
  repeat'
    first
    | with_reducible exact Fr.refl _ _
    | with_reducible apply Fr.step ?_ (modPrt_fr ..) ?_
    | with_reducible apply Fr.foldl ?_ (fun _ _ => ?_)
    | exact rfl

theorem dropStamps_fr (s : State) (i : Nat) :
    Fr [.tx] s (dropStamps s i) := by
  unfold dropStamps
  try dsimp only
  repeat'
    first
    | with_reducible exact Fr.refl _ _
    | with_reducible apply Fr.ite
    | with_reducible apply Fr.step ?_ (freeStamps_fr ..) ?_
    | with_reducible apply Fr.foldl ?_ (fun _ _ => ?_)
    | split
    | exact rfl

theorem enterDetached_fr (s : State) :
    Fr [.hl, .qs, .tx, .cnt, .freeIx, .outs] s (enterDetached s) := by
  unfold enterDetached
  try dsimp only
  repeat'
    first
    | with_reducible exact Fr.refl _ _
    | with_reducible apply Fr.ite
    | with_reducible apply Fr.step ?_ (keepParisons_fr ..) ?_
    | with_reducible apply Fr.step ?_ (keepPort_fr ..) ?_
    | with_reducible apply Fr.step ?_ (eachQue_fr ..) ?_
    | with_reducible apply Fr.step ?_ (modHl_fr ..) ?_
    | with_reducible apply Fr.step ?_ (setLinkState_fr ..) ?_
    | with_reducible apply Fr.step ?_ (dropStamps_fr ..) ?_
    | with_reducible apply Fr.foldl ?_ (fun _ _ => ?_)
    | exact rfl

theorem timedOut_fr (s : State) (d : Dmrd) :
    Fr [.pads, .hl, .qs, .mb, .ld, .tm, .tx, .sg, .sk, .tw, .fs, .se, .mg, .objs, .win0, .cnt, .freeIx, .outs] s (timedOut s d) := by
  unfold timedOut
  try dsimp only
  repeat'
    first
    | with_reducible exact Fr.refl _ _
    | with_reducible apply Fr.step ?_ (fault_fr ..) ?_
    | with_reducible apply Fr.step ?_ (setFlag_fr ..) ?_
    | with_reducible apply Fr.step ?_ (noteErr_fr ..) ?_
    | with_reducible apply Fr.step ?_ (modHl_fr ..) ?_
    | split
    | exact rfl

theorem killDmrds_fr (s : State) :
    Fr [.pads, .hl, .qs, .mb, .ld, .tm, .tx, .sg, .sk, .tw, .fs, .se, .mg, .objs, .win0, .cnt, .freeIx, .outs] s (killDmrds s) := by
  unfold killDmrds
  try dsimp only
  repeat'
    first
    | with_reducible exact Fr.refl _ _
    | with_reducible apply Fr.step ?_ (modHl_fr ..) ?_
    | with_reducible apply Fr.step ?_ (timedOut_fr ..) ?_
    | with_reducible apply Fr.foldl ?_ (fun _ _ => ?_)
    | exact rfl

theorem linkFresh_fr (s : State) :
    Fr [.pads, .hl] s (linkFresh s) := by
  unfold linkFresh
  try dsimp only
  repeat'
    first
    | with_reducible exact Fr.refl _ _
    | with_reducible apply Fr.step ?_ (modHl_fr ..) ?_
    | with_reducible apply Fr.step ?_ (modPads_fr ..) ?_
    | exact rfl

theorem declareLost_fr (s : State) :
    Fr [.pads, .hl, .qs, .mb, .ld, .tm, .tx, .sg, .sk, .tw, .fs, .se, .mg, .objs, .win0, .cnt, .freeIx, .outs] s (declareLost s) := by
  unfold declareLost
  try dsimp only
  repeat'
    first
    | with_reducible exact Fr.refl _ _
    | with_reducible apply Fr.ite
    | with_reducible apply Fr.step ?_ (modHl_fr ..) ?_
    | with_reducible apply Fr.step ?_ (count_fr ..) ?_
    | with_reducible apply Fr.step ?_ (killDmrds_fr ..) ?_
    | with_reducible apply Fr.step ?_ (respondWith_fr ..) ?_
    | with_reducible apply Fr.step ?_ (enterDetached_fr ..) ?_
    | with_reducible apply Fr.step ?_ (stopAll_fr ..) ?_
    | with_reducible apply Fr.step ?_ (raiseEvent_fr ..) ?_
    | with_reducible apply Fr.step ?_ (condOn_fr ..) ?_
    | with_reducible apply Fr.step ?_ (linkFresh_fr ..) ?_
    | split
    | exact rfl

theorem execUciePhyReady_fr (s : State) :
    OFr [.pads, .pw] s (execUciePhyReady s) := by
  unfold execUciePhyReady
  refine run_fr rfl ?_
  try dsimp only
  repeat'
    first
    | with_reducible exact Fr.refl _ _
    | with_reducible apply Fr.step ?_ (modPw_fr _ _ ?_) ?_
    | exact rfl
    | with_reducible exact id

theorem execLinkTrainingStart_fr (s : State) :
    OFr [.pads, .hl, .cnt, .outs] s (execLinkTrainingStart s) := by
  unfold execLinkTrainingStart
  refine run_fr rfl ?_
  try dsimp only
  repeat'
    first
    | with_reducible exact Fr.refl _ _
    | with_reducible apply Fr.ite
    | with_reducible apply Fr.step ?_ (modHl_fr ..) ?_
    | with_reducible apply Fr.step ?_ (setLinkState_fr ..) ?_
    | with_reducible apply Fr.step ?_ (modPads_fr ..) ?_
    | exact rfl

theorem leave_fr (s : State) :
    Fr [.pads, .hl, .qs, .tx, .cnt, .freeIx, .outs] s (leave s) := by
  unfold leave
  try dsimp only
  repeat'
    first
    | with_reducible exact Fr.refl _ _
    | with_reducible apply Fr.ite
    | with_reducible apply Fr.step ?_ (emit_fr ..) ?_
    | with_reducible apply Fr.step ?_ (linkFresh_fr ..) ?_
    | with_reducible apply Fr.step ?_ (enterDetached_fr ..) ?_
    | split
    | exact rfl

theorem execLinkTrainingComplete_fr (rate : Fin 4) (half : Fin 3) (s : State) :
    OFr [.pads, .hl, .qs, .tx, .cnt, .freeIx, .outs] s (execLinkTrainingComplete rate half s) := by
  unfold execLinkTrainingComplete
  refine run_fr rfl ?_
  try dsimp only
  repeat'
    first
    | with_reducible exact Fr.refl _ _
    | with_reducible apply Fr.ite
    | with_reducible apply Fr.step ?_ (modHl_fr ..) ?_
    | with_reducible apply Fr.step ?_ (setLinkState_fr ..) ?_
    | with_reducible apply Fr.step ?_ (sendLm_fr ..) ?_
    | with_reducible apply Fr.step ?_ (pump_fr ..) ?_
    | with_reducible apply Fr.step ?_ (modPads_fr ..) ?_
    | with_reducible apply Fr.step ?_ (leave_fr ..) ?_
    | exact rfl

theorem ackReplay_fr (s : State) (seq : BitVec 12) :
    Fr [.hl] s (ackReplay s seq) := by
  unfold ackReplay
  try dsimp only
  repeat'
    first
    | with_reducible exact Fr.refl _ _
    | with_reducible apply Fr.step ?_ (modHl_fr ..) ?_
    | split
    | exact rfl

theorem takeNak_fr (s : State) (seq : BitVec 12) :
    Fr [.pads, .hl, .qs, .mb, .ld, .tm, .tx, .sg, .sk, .tw, .fs, .se, .mg, .objs, .win0, .cnt, .freeIx, .outs] s (takeNak s seq) := by
  unfold takeNak
  try dsimp only
  repeat'
    first
    | with_reducible exact Fr.refl _ _
    | with_reducible apply Fr.ite
    | with_reducible apply Fr.step ?_ (ackReplay_fr ..) ?_
    | with_reducible apply Fr.step ?_ (emit_fr ..) ?_
    | with_reducible apply Fr.step ?_ (count_fr ..) ?_
    | with_reducible apply Fr.step ?_ (modHl_fr ..) ?_
    | with_reducible apply Fr.step ?_ (fault_fr ..) ?_
    | with_reducible apply Fr.step ?_ (setFlag_fr ..) ?_
    | with_reducible apply Fr.foldl ?_ (fun _ _ => ?_)
    | exact rfl

theorem execNakReceive_fr (seq : BitVec 12) (s : State) :
    OFr [.pads, .hl, .qs, .mb, .ld, .tm, .tx, .sg, .sk, .tw, .fs, .se, .mg, .objs, .win0, .cnt, .freeIx, .outs] s (execNakReceive seq s) := by
  unfold execNakReceive
  refine run_fr rfl ?_
  try dsimp only
  repeat'
    first
    | with_reducible exact Fr.refl _ _
    | with_reducible apply Fr.ite
    | with_reducible apply Fr.step ?_ (pump_fr ..) ?_
    | with_reducible apply Fr.step ?_ (takeNak_fr ..) ?_
    | with_reducible apply Fr.step ?_ (leave_fr ..) ?_
    | exact rfl

theorem execRetrainTimeout_fr (s : State) :
    OFr [.pads, .hl, .qs, .mb, .ld, .tm, .tx, .sg, .sk, .tw, .fs, .se, .mg, .objs, .win0, .cnt, .freeIx, .outs] s (execRetrainTimeout s) := by
  unfold execRetrainTimeout
  refine run_fr rfl ?_
  try dsimp only
  repeat'
    first
    | with_reducible exact Fr.refl _ _
    | with_reducible apply Fr.ite
    | with_reducible apply Fr.step ?_ (declareLost_fr ..) ?_
    | exact rfl

theorem execNullFlitSend_fr (s : State) :
    OFr [.pads, .hl, .outs] s (execNullFlitSend s) := by
  unfold execNullFlitSend
  refine run_fr rfl ?_
  try dsimp only
  repeat'
    first
    | with_reducible exact Fr.refl _ _
    | with_reducible apply Fr.ite
    | with_reducible apply Fr.step ?_ (sendNull_fr ..) ?_
    | exact rfl

theorem execFlitReceiveTimeout_fr (s : State) :
    OFr [.pads, .hl, .qs, .mb, .ld, .tm, .tx, .sg, .sk, .tw, .fs, .se, .mg, .objs, .win0, .cnt, .freeIx, .outs] s (execFlitReceiveTimeout s) := by
  unfold execFlitReceiveTimeout
  refine run_fr rfl ?_
  try dsimp only
  repeat'
    first
    | with_reducible exact Fr.refl _ _
    | with_reducible apply Fr.ite
    | with_reducible apply Fr.step ?_ (declareLost_fr ..) ?_
    | exact rfl

theorem execAdapterLinkDown_fr (s : State) :
    OFr [.pads, .hl, .qs, .mb, .ld, .tm, .tx, .sg, .sk, .tw, .fs, .se, .mg, .objs, .win0, .cnt, .freeIx, .outs] s (execAdapterLinkDown s) := by
  unfold execAdapterLinkDown
  refine run_fr rfl ?_
  try dsimp only
  repeat'
    first
    | with_reducible exact Fr.refl _ _
    | with_reducible apply Fr.ite
    | with_reducible apply Fr.step ?_ (declareLost_fr ..) ?_
    | exact rfl

theorem malformed_fr (s : State) (hdr : Bytes) :
    Fr [.pads, .hl, .qs, .mb, .ld, .tm, .tx, .sg, .sk, .tw, .fs, .se, .mg, .objs, .win0, .cnt, .freeIx, .outs] s (malformed s hdr) := by
  unfold malformed
  try dsimp only
  repeat'
    first
    | with_reducible exact Fr.refl _ _
    | with_reducible apply Fr.step ?_ (fault_fr ..) ?_
    | with_reducible apply Fr.step ?_ (setFlag_fr ..) ?_
    | with_reducible apply Fr.step ?_ (noteErr_fr ..) ?_
    | with_reducible apply Fr.step ?_ (count_fr ..) ?_
    | exact rfl

theorem readFailed_fr (s : State) :
    Fr [.pads, .hl, .qs, .mb, .ld, .tm, .tx, .sg, .sk, .tw, .fs, .se, .mg, .objs, .win0, .cnt, .freeIx, .outs] s (readFailed s) := by
  unfold readFailed
  try dsimp only
  repeat'
    first
    | with_reducible exact Fr.refl _ _
    | with_reducible apply Fr.step ?_ (fault_fr ..) ?_
    | with_reducible apply Fr.step ?_ (setFlag_fr ..) ?_
    | split
    | exact rfl

theorem poisonSeen_fr (s : State) (hdr : Bytes) :
    Fr [.pads, .hl, .qs, .mb, .ld, .tm, .tx, .sg, .sk, .tw, .fs, .se, .mg, .objs, .win0, .cnt, .freeIx, .outs] s (poisonSeen s hdr) := by
  unfold poisonSeen
  try dsimp only
  repeat'
    first
    | with_reducible exact Fr.refl _ _
    | with_reducible apply Fr.step ?_ (noteErr_fr ..) ?_
    | with_reducible apply Fr.step ?_ (readFailed_fr ..) ?_
    | exact rfl

theorem queueStart_fr (s : State) (i : Nat) :
    Fr [.qs] s (queueStart s i) := by
  unfold queueStart
  try dsimp only
  repeat'
    first
    | with_reducible exact Fr.refl _ _
    | with_reducible apply Fr.ite
    | with_reducible apply Fr.step ?_ (modQue_fr ..) ?_
    | exact rfl

theorem stampSet_fr (s : State) (i : Nat) (want : Bool) :
    Fr [.hl, .qs, .cnt, .outs] s (stampSet s i want) := by
  unfold stampSet
  try dsimp only
  repeat'
    first
    | with_reducible exact Fr.refl _ _
    | with_reducible apply Fr.ite
    | with_reducible apply Fr.step ?_ (setFlag_fr ..) ?_
    | with_reducible apply Fr.step ?_ (modQue_fr ..) ?_
    | exact rfl

theorem ctrlWrite_fr (s : State) (i : Nat) (v : Nat) :
    Fr [.hl, .qs, .cnt, .outs] s (ctrlWrite s i v) := by
  unfold ctrlWrite
  try dsimp only
  repeat'
    first
    | with_reducible exact Fr.refl _ _
    | with_reducible apply Fr.ite
    | with_reducible apply Fr.step ?_ (modQue_fr ..) ?_
    | with_reducible apply Fr.step ?_ (stampSet_fr ..) ?_
    | with_reducible apply Fr.step ?_ (queueStart_fr ..) ?_
    | exact rfl

theorem stopQueue_fr (s : State) (i : Nat) (err : BitVec 4) :
    Fr [.hl, .qs, .cnt, .outs] s (stopQueue s i err) := by
  unfold stopQueue
  try dsimp only
  repeat'
    first
    | with_reducible exact Fr.refl _ _
    | with_reducible apply Fr.ite
    | with_reducible apply Fr.step ?_ (raiseEvent_fr ..) ?_
    | with_reducible apply Fr.step ?_ (modQue_fr ..) ?_
    | exact rfl

theorem tailWrite_fr (s : State) (i : Nat) (v : Nat) :
    Fr [.hl, .qs, .cnt, .outs] s (tailWrite s i v) := by
  unfold tailWrite
  try dsimp only
  repeat'
    first
    | with_reducible exact Fr.refl _ _
    | with_reducible apply Fr.ite
    | with_reducible apply Fr.step ?_ (modQue_fr ..) ?_
    | with_reducible apply Fr.step ?_ (stopQueue_fr ..) ?_
    | exact rfl

theorem queWrite_fr (s : State) (i : Nat) (o : Nat) (v : Nat) :
    Fr [.hl, .qs, .cnt, .outs] s (queWrite s i o v) := by
  unfold queWrite
  try dsimp only
  repeat'
    first
    | with_reducible exact Fr.refl _ _
    | with_reducible apply Fr.ite
    | with_reducible apply Fr.step ?_ (modQue_fr ..) ?_
    | with_reducible apply Fr.step ?_ (ctrlWrite_fr ..) ?_
    | exact rfl

theorem hlCtrlSet_fr (s : State) (v : Nat) :
    Fr [.hl, .cnt, .outs] s (hlCtrlSet s v) := by
  unfold hlCtrlSet
  try dsimp only
  repeat'
    first
    | with_reducible exact Fr.refl _ _
    | with_reducible apply Fr.ite
    | with_reducible apply Fr.step ?_ (modHl_fr ..) ?_
    | with_reducible apply Fr.step ?_ (pump_fr ..) ?_
    | exact rfl

theorem hlStatusW1c_fr (s : State) (v : Nat) :
    Fr [.hl] s (hlStatusW1c s v) := by
  unfold hlStatusW1c
  try dsimp only
  repeat'
    first
    | with_reducible exact Fr.refl _ _
    | with_reducible apply Fr.ite
    | with_reducible apply Fr.step ?_ (modHl_fr ..) ?_
    | exact rfl

theorem evMaskSet_fr (s : State) (w : Nat) (v : Nat) :
    Fr [.hl, .cnt, .outs] s (evMaskSet s w v) := by
  unfold evMaskSet
  try dsimp only
  repeat'
    first
    | with_reducible exact Fr.refl _ _
    | with_reducible apply Fr.ite
    | with_reducible apply Fr.step ?_ (modHl_fr ..) ?_
    | with_reducible apply Fr.step ?_ (evtTry_fr ..) ?_
    | with_reducible apply Fr.foldl ?_ (fun _ _ => ?_)
    | exact rfl

theorem evPendW1c_fr (s : State) (w : Nat) (v : Nat) :
    Fr [.hl, .cnt, .outs] s (evPendW1c s w v) := by
  unfold evPendW1c
  try dsimp only
  repeat'
    first
    | with_reducible exact Fr.refl _ _
    | with_reducible apply Fr.ite
    | with_reducible apply Fr.step ?_ (modHl_fr ..) ?_
    | with_reducible apply Fr.step ?_ (raiseEvent_fr ..) ?_
    | with_reducible apply Fr.foldl ?_ (fun _ _ => ?_)
    | exact rfl

theorem post_fr (s : State) (n : Nat) :
    Fr [.mb] s (post s n) := by
  unfold post
  try dsimp only
  repeat'
    first
    | with_reducible exact Fr.refl _ _
    | with_reducible apply Fr.ite
    | with_reducible apply Fr.step ?_ (modMbox_fr ..) ?_
    | exact rfl

theorem ack_fr (s : State) (n : Nat) :
    Fr [.mb] s (ack s n) := by
  unfold ack
  try dsimp only
  repeat'
    first
    | with_reducible exact Fr.refl _ _
    | with_reducible apply Fr.ite
    | with_reducible apply Fr.step ?_ (modMbox_fr ..) ?_
    | exact rfl

theorem abandon_fr (s : State) (n : Nat) :
    Fr [.mb] s (abandon s n) := by
  unfold abandon
  try dsimp only
  repeat'
    first
    | with_reducible exact Fr.refl _ _
    | with_reducible apply Fr.ite
    | with_reducible apply Fr.step ?_ (modMbox_fr ..) ?_
    | exact rfl

theorem doorbell_fr (s : State) (n : Nat) (v : Nat) :
    Fr [.mb] s (doorbell s n v) := by
  unfold doorbell
  try dsimp only
  repeat'
    first
    | with_reducible exact Fr.refl _ _
    | with_reducible apply Fr.ite
    | with_reducible apply Fr.step ?_ (abandon_fr ..) ?_
    | with_reducible apply Fr.step ?_ (ack_fr ..) ?_
    | with_reducible apply Fr.step ?_ (post_fr ..) ?_
    | exact rfl

theorem reg0Write_fr (s : State) (o : Nat) (v : Nat) :
    Fr [.hl, .qs, .mb, .cnt, .outs] s (reg0Write s o v) := by
  unfold reg0Write
  try dsimp only
  repeat'
    first
    | with_reducible exact Fr.refl _ _
    | with_reducible apply Fr.ite
    | with_reducible apply Fr.step ?_ (hlStatusW1c_fr ..) ?_
    | with_reducible apply Fr.step ?_ (hlCtrlSet_fr ..) ?_
    | with_reducible apply Fr.step ?_ (modHl_fr ..) ?_
    | with_reducible apply Fr.step ?_ (evMaskSet_fr ..) ?_
    | with_reducible apply Fr.step ?_ (evPendW1c_fr ..) ?_
    | with_reducible apply Fr.step ?_ (doorbell_fr ..) ?_
    | with_reducible apply Fr.step ?_ (modMbox_fr ..) ?_
    | with_reducible apply Fr.step ?_ (tailWrite_fr ..) ?_
    | with_reducible apply Fr.step ?_ (queWrite_fr ..) ?_
    | exact rfl

theorem bufWrite_fr (s : State) (o : Nat) (x2 : Bytes) :
    Fr [.mb, .win0] s (bufWrite s o x2) := by
  induction x2 generalizing s o with
  | nil => exact Fr.refl _ _
  | cons w ws ih =>
    unfold bufWrite
    try dsimp only
    repeat'
      first
      | with_reducible exact Fr.refl _ _
      | with_reducible apply Fr.ite
      | with_reducible apply Fr.step ?_ (modMbox_fr ..) ?_
      | with_reducible apply Fr.step ?_ (setWin0_fr _ _ ?_) ?_
      | with_reducible apply Fr.step ?_ (ih ..) ?_
      | exact rfl
      | exact fun hw => twf_tset _ _ _ _ hw

theorem regsWrite_fr (s : State) (o : Nat) (x2 : List Bytes) :
    Fr [.hl, .qs, .mb, .cnt, .outs] s (regsWrite s o x2) := by
  induction x2 generalizing s o with
  | nil => exact Fr.refl _ _
  | cons w ws ih =>
    unfold regsWrite
    try dsimp only
    repeat'
      first
      | with_reducible exact Fr.refl _ _
      | with_reducible apply Fr.step ?_ (reg0Write_fr ..) ?_
      | with_reducible apply Fr.step ?_ (ih ..) ?_
      | exact rfl

theorem winWrite_fr (s : State) (m : WinMsg) :
    Fr [.hl, .qs, .mb, .win0, .win1, .cnt, .outs] s (winWrite s m) := by
  unfold winWrite
  try dsimp only
  repeat'
    first
    | with_reducible exact Fr.refl _ _
    | with_reducible apply Fr.ite
    | with_reducible apply Fr.step ?_ (bufWrite_fr ..) ?_
    | with_reducible apply Fr.step ?_ (regsWrite_fr ..) ?_
    | with_reducible apply Fr.step ?_ (setWin1_fr _ _ ?_) ?_
    | exact fun hw => wf_outWrite _ _ _ hw
    | with_reducible apply Fr.foldl ?_ (fun _ _ => ?_)
    | exact rfl

theorem takeMwr_fr (s : State) (m : WinMsg) :
    Fr [.pads, .hl, .qs, .mb, .ld, .tm, .tx, .sg, .sk, .tw, .fs, .se, .mg, .objs, .win0, .win1, .cnt, .freeIx, .outs] s (takeMwr s m) := by
  unfold takeMwr
  try dsimp only
  repeat'
    first
    | with_reducible exact Fr.refl _ _
    | with_reducible apply Fr.ite
    | with_reducible apply Fr.step ?_ (modHl_fr ..) ?_
    | with_reducible apply Fr.step ?_ (malformed_fr ..) ?_
    | with_reducible apply Fr.step ?_ (poisonSeen_fr ..) ?_
    | with_reducible apply Fr.step ?_ (winWrite_fr ..) ?_
    | exact rfl

theorem execMwr_fr (m : WinMsg) (s : State) :
    OFr [.pads, .hl, .qs, .mb, .ld, .tm, .tx, .sg, .sk, .tw, .fs, .se, .mg, .objs, .win0, .win1, .cnt, .freeIx, .outs] s (execMwr m s) := by
  unfold execMwr
  refine run_fr rfl ?_
  try dsimp only
  repeat'
    first
    | with_reducible exact Fr.refl _ _
    | with_reducible apply Fr.ite
    | with_reducible apply Fr.step ?_ (takeMwr_fr ..) ?_
    | exact rfl

theorem takeMrd_fr (s : State) (m : WinMsg) :
    Fr [.pads, .hl, .qs, .mb, .ld, .tm, .tx, .sg, .sk, .tw, .fs, .se, .mg, .objs, .win0, .cnt, .freeIx, .outs] s (takeMrd s m) := by
  unfold takeMrd
  try dsimp only
  repeat'
    first
    | with_reducible exact Fr.refl _ _
    | with_reducible apply Fr.ite
    | with_reducible apply Fr.step ?_ (modHl_fr ..) ?_
    | with_reducible apply Fr.step ?_ (malformed_fr ..) ?_
    | with_reducible apply Fr.step ?_ (poisonSeen_fr ..) ?_
    | with_reducible apply Fr.step ?_ (sendMsg_fr ..) ?_
    | exact rfl

theorem execMrd_fr (m : WinMsg) (s : State) :
    OFr [.pads, .hl, .qs, .mb, .ld, .tm, .tx, .sg, .sk, .tw, .fs, .se, .mg, .objs, .win0, .cnt, .freeIx, .outs] s (execMrd m s) := by
  unfold execMrd
  refine run_fr rfl ?_
  try dsimp only
  repeat'
    first
    | with_reducible exact Fr.refl _ _
    | with_reducible apply Fr.ite
    | with_reducible apply Fr.step ?_ (takeMrd_fr ..) ?_
    | exact rfl

theorem lmCredit_fr (s : State) :
    Fr [.hl] s (lmCredit s) := by
  unfold lmCredit
  try dsimp only
  repeat'
    first
    | with_reducible exact Fr.refl _ _
    | with_reducible apply Fr.step ?_ (modHl_fr ..) ?_
    | split
    | exact rfl

theorem takeQuiesce_fr (s : State) :
    Fr [.hl, .cnt, .outs] s (takeQuiesce s) := by
  unfold takeQuiesce
  try dsimp only
  repeat'
    first
    | with_reducible exact Fr.refl _ _
    | with_reducible apply Fr.ite
    | with_reducible apply Fr.step ?_ (modHl_fr ..) ?_
    | with_reducible apply Fr.step ?_ (setLinkState_fr ..) ?_
    | exact rfl

theorem execHostQuiesce_fr (s : State) :
    OFr [.pads, .hl, .qs, .tx, .cnt, .freeIx, .outs] s (execHostQuiesce s) := by
  unfold execHostQuiesce
  refine run_fr rfl ?_
  try dsimp only
  repeat'
    first
    | with_reducible exact Fr.refl _ _
    | with_reducible apply Fr.ite
    | with_reducible apply Fr.step ?_ (takeQuiesce_fr ..) ?_
    | with_reducible apply Fr.step ?_ (leave_fr ..) ?_
    | with_reducible apply Fr.step ?_ (pump_fr ..) ?_
    | with_reducible apply Fr.step ?_ (lmCredit_fr ..) ?_
    | exact rfl

theorem execHlCtrlWrite_fr (v : BitVec 32) (s : State) :
    OFr [.pads, .hl, .cnt, .outs] s (execHlCtrlWrite v s) := by
  unfold execHlCtrlWrite
  refine run_fr rfl ?_
  try dsimp only
  repeat'
    first
    | with_reducible exact Fr.refl _ _
    | with_reducible apply Fr.step ?_ (hlCtrlSet_fr ..) ?_
    | exact rfl

theorem execHlStatusClear_fr (v : BitVec 32) (s : State) :
    OFr [.pads, .hl] s (execHlStatusClear v s) := by
  unfold execHlStatusClear
  refine run_fr rfl ?_
  try dsimp only
  repeat'
    first
    | with_reducible exact Fr.refl _ _
    | with_reducible apply Fr.step ?_ (hlStatusW1c_fr ..) ?_
    | exact rfl

theorem execEvMaskWrite_fr (word : Fin 4) (v : BitVec 32) (s : State) :
    OFr [.pads, .hl, .cnt, .outs] s (execEvMaskWrite word v s) := by
  unfold execEvMaskWrite
  refine run_fr rfl ?_
  try dsimp only
  repeat'
    first
    | with_reducible exact Fr.refl _ _
    | with_reducible apply Fr.step ?_ (evMaskSet_fr ..) ?_
    | exact rfl

theorem execEvPendClear_fr (word : Fin 4) (v : BitVec 32) (s : State) :
    OFr [.pads, .hl, .cnt, .outs] s (execEvPendClear word v s) := by
  unfold execEvPendClear
  refine run_fr rfl ?_
  try dsimp only
  repeat'
    first
    | with_reducible exact Fr.refl _ _
    | with_reducible apply Fr.step ?_ (evPendW1c_fr ..) ?_
    | exact rfl

theorem execEvHoldoffExpiry_fr (vec : Fin 128) (s : State) :
    OFr [.pads, .hl, .cnt, .outs] s (execEvHoldoffExpiry vec s) := by
  unfold execEvHoldoffExpiry
  refine run_fr rfl ?_
  try dsimp only
  repeat'
    first
    | with_reducible exact Fr.refl _ _
    | with_reducible apply Fr.ite
    | with_reducible apply Fr.step ?_ (evtNow_fr ..) ?_
    | with_reducible apply Fr.step ?_ (modHl_fr ..) ?_
    | exact rfl

theorem execTxqTailWrite_fr (q : Fin 64) (v : BitVec 32) (s : State) :
    OFr [.pads, .hl, .qs, .cnt, .outs] s (execTxqTailWrite q v s) := by
  unfold execTxqTailWrite
  refine run_fr rfl ?_
  try dsimp only
  repeat'
    first
    | with_reducible exact Fr.refl _ _
    | with_reducible apply Fr.ite
    | with_reducible apply Fr.step ?_ (tailWrite_fr ..) ?_
    | exact rfl

theorem execRxqTailWrite_fr (q : Fin 64) (v : BitVec 32) (s : State) :
    OFr [.pads, .hl, .qs, .cnt, .outs] s (execRxqTailWrite q v s) := by
  unfold execRxqTailWrite
  refine run_fr rfl ?_
  try dsimp only
  repeat'
    first
    | with_reducible exact Fr.refl _ _
    | with_reducible apply Fr.ite
    | with_reducible apply Fr.step ?_ (tailWrite_fr ..) ?_
    | exact rfl

theorem execQueueEnable_fr (d : Dir) (q : Fin 64) (v : BitVec 32) (s : State) :
    OFr [.pads, .hl, .qs, .cnt, .outs] s (execQueueEnable d q v s) := by
  unfold execQueueEnable
  refine run_fr rfl ?_
  try dsimp only
  repeat'
    first
    | with_reducible exact Fr.refl _ _
    | with_reducible apply Fr.ite
    | with_reducible apply Fr.step ?_ (ctrlWrite_fr ..) ?_
    | exact rfl

theorem execQueueDisable_fr (d : Dir) (q : Fin 64) (v : BitVec 32) (s : State) :
    OFr [.pads, .hl, .qs, .cnt, .outs] s (execQueueDisable d q v s) := by
  unfold execQueueDisable
  refine run_fr rfl ?_
  try dsimp only
  repeat'
    first
    | with_reducible exact Fr.refl _ _
    | with_reducible apply Fr.ite
    | with_reducible apply Fr.step ?_ (ctrlWrite_fr ..) ?_
    | exact rfl

theorem execStampedWrite_fr (d : Dir) (q : Fin 64) (v : BitVec 32) (s : State) :
    OFr [.pads, .hl, .qs, .cnt, .outs] s (execStampedWrite d q v s) := by
  unfold execStampedWrite
  refine run_fr rfl ?_
  try dsimp only
  repeat'
    first
    | with_reducible exact Fr.refl _ _
    | with_reducible apply Fr.ite
    | with_reducible apply Fr.step ?_ (ctrlWrite_fr ..) ?_
    | exact rfl

theorem execHoldLimitExpiry_fr (s : State) :
    OFr [.pads, .hl] s (execHoldLimitExpiry s) := by
  unfold execHoldLimitExpiry
  refine run_fr rfl ?_
  try dsimp only
  repeat'
    first
    | with_reducible exact Fr.refl _ _
    | with_reducible apply Fr.ite
    | with_reducible apply Fr.step ?_ (modHl_fr ..) ?_
    | exact rfl

theorem execPost_fr (n : Fin 4) (s : State) :
    OFr [.pads, .mb] s (execPost n s) := by
  unfold execPost
  refine run_fr rfl ?_
  try dsimp only
  repeat'
    first
    | with_reducible exact Fr.refl _ _
    | with_reducible apply Fr.step ?_ (post_fr ..) ?_
    | exact rfl

theorem execAck_fr (n : Fin 4) (s : State) :
    OFr [.pads, .mb] s (execAck n s) := by
  unfold execAck
  refine run_fr rfl ?_
  try dsimp only
  repeat'
    first
    | with_reducible exact Fr.refl _ _
    | with_reducible apply Fr.step ?_ (ack_fr ..) ?_
    | exact rfl

theorem execAbandon_fr (n : Fin 4) (s : State) :
    OFr [.pads, .mb] s (execAbandon n s) := by
  unfold execAbandon
  refine run_fr rfl ?_
  try dsimp only
  repeat'
    first
    | with_reducible exact Fr.refl _ _
    | with_reducible apply Fr.step ?_ (abandon_fr ..) ?_
    | exact rfl

theorem takeReq_fr (s : State) (r : Request) :
    Fr [.hl, .mb, .sk, .se, .win0, .cnt, .outs] s (takeReq s r) := by
  unfold takeReq
  try dsimp only
  repeat'
    first
    | with_reducible exact Fr.refl _ _
    | with_reducible apply Fr.step ?_ (modMb_fr ..) ?_
    | with_reducible apply Fr.step ?_ (respondWith_fr ..) ?_
    | split
    | exact rfl

theorem arrive_fr (s : State) (v : Via) (b : Bytes) :
    Fr [.mb] s (arrive s v b) := by
  unfold arrive
  try dsimp only
  repeat'
    first
    | with_reducible exact Fr.refl _ _
    | with_reducible apply Fr.ite
    | with_reducible apply Fr.step ?_ (modMb_fr ..) ?_
    | exact rfl

theorem execRequestTake_fr (s : State) :
    OFr [.pads, .hl, .mb, .sk, .se, .win0, .cnt, .outs] s (execRequestTake s) := by
  unfold execRequestTake
  refine run_fr rfl ?_
  try dsimp only
  repeat'
    first
    | with_reducible exact Fr.refl _ _
    | with_reducible apply Fr.ite
    | with_reducible apply Fr.step ?_ (takeReq_fr ..) ?_
    | with_reducible apply Fr.step ?_ (count_fr ..) ?_
    | with_reducible apply Fr.step ?_ (modMbox_fr ..) ?_
    | with_reducible apply Fr.step ?_ (modMb_fr ..) ?_
    | with_reducible apply Fr.foldl ?_ (fun _ _ => ?_)
    | split
    | exact rfl

theorem execMailboxServiceLimitMissed_fr (s : State) :
    OFr [.pads, .hl, .qs, .mb, .ld, .tm, .tx, .sg, .sk, .tw, .fs, .se, .mg, .objs, .win0, .cnt, .freeIx, .outs] s (execMailboxServiceLimitMissed s) := by
  unfold execMailboxServiceLimitMissed
  refine run_fr rfl ?_
  try dsimp only
  repeat'
    first
    | with_reducible exact Fr.refl _ _
    | with_reducible apply Fr.step ?_ (fault_fr ..) ?_
    | exact rfl

theorem settleAnswer_fr {l : List Grp} {s : State} {r : Request} {a : Answer} (hl : within [.hl, .mb, .sk, .se, .win0, .cnt, .outs] l = true)
    (h : AFr l s a) : Fr l s (settleAnswer s r a) := by
  have k (st : Nat) (g : Bool) (p : Bytes) : Fr l s (respondWith s r st g p) := Fr.mono (respondWith_fr ..) hl
  unfold settleAnswer
  split
  · cases a <;> exact k ..
  · cases a with
    | ok t p => exact Fr.step (h.at_) (respondWith_fr ..) hl
    | staged t p => exact Fr.step (h.at_) (respondWith_fr ..) hl
    | no st p => exact k ..
    | done t st p => exact Fr.step (h.at_) (respondWith_fr ..) hl
    | later t => exact h.at_

theorem serve_fr {l : List Grp} {s : State} {r : Request} {f : State → Request → Answer} (hl : within [.hl, .mb, .sk, .se, .win0, .cnt, .outs] l = true)
    (h : AFr l s (f s r)) : Fr l s (serve s r f) := by
  have k (st : Nat) (g : Bool) (p : Bytes) : Fr l s (respondWith s r st g p) := Fr.mono (respondWith_fr ..) hl
  unfold serve
  dsimp only
  split
  · split <;> exact k ..
  · split
    · exact k ..
    · split
      · exact k ..
      · exact settleAnswer_fr hl h

theorem markServed_fr (s : State) (r : Request) :
    Fr [.mb] s (markServed s r) := by
  unfold markServed
  try dsimp only
  repeat'
    first
    | with_reducible exact Fr.refl _ _
    | with_reducible apply Fr.ite
    | with_reducible apply Fr.step ?_ (modMb_fr ..) ?_
    | exact rfl

theorem runCmd_fr {l : List Grp} {v : Via} {op : Nat} {f : State → Request → Answer} {s : State}
    (hl : within [.pads, .hl, .mb, .sk, .se, .win0, .cnt, .outs] l = true) (h : ∀ s r, AFr l s (f s r)) : OFr l s (runCmd v op f s) := by
  have sub (a : List Grp) (ha : within a [.pads, .hl, .mb, .sk, .se, .win0, .cnt, .outs] = true) : within a l = true := by
    simp only [within, List.all_eq_true] at ha hl ⊢
    intro g hg
    exact hl g (by simpa using ha g hg)
  unfold runCmd
  refine run_fr (sub _ rfl) ?_
  split
  · exact Fr.step' (markServed_fr ..) (serve_fr (sub _ rfl) (h _ _)) (sub _ rfl)
  · exact Fr.refl _ _

theorem execPing_fr (via : Via) (s : State) :
    OFr [.pads, .hl, .mb, .sk, .se, .win0, .cnt, .outs] s (execPing via s) := by
  unfold execPing
  refine runCmd_fr rfl (fun s r => ?_)
  try dsimp only
  repeat'
    first
    | with_reducible exact Fr.refl _ _
    | with_reducible apply Fr.ite
    | with_reducible apply AFr.ite
    | with_reducible apply AFr.ok
    | with_reducible apply badRange_fr

theorem execGetInfo_fr (via : Via) (s : State) :
    OFr [.pads, .hl, .mb, .sk, .se, .win0, .cnt, .outs] s (execGetInfo via s) := by
  unfold execGetInfo
  refine runCmd_fr rfl (fun s r => ?_)
  try dsimp only
  repeat'
    first
    | with_reducible exact Fr.refl _ _
    | with_reducible apply Fr.ite
    | with_reducible apply AFr.ok
    | with_reducible apply sized_fr

theorem execDetach_fr (via : Via) (s : State) :
    OFr [.pads, .hl, .mb, .sk, .se, .win0, .cnt, .outs] s (execDetach via s) := by
  unfold execDetach
  refine runCmd_fr rfl (fun s r => ?_)
  try dsimp only
  repeat'
    first
    | with_reducible exact Fr.refl _ _
    | with_reducible apply Fr.ite
    | with_reducible apply AFr.ite
    | with_reducible apply AFr.no
    | with_reducible apply AFr.later
    | with_reducible apply sized_fr
    | with_reducible apply Fr.step ?_ (setLinkState_fr ..) ?_
    | with_reducible apply Fr.step ?_ (modHl_fr ..) ?_
    | exact rfl

theorem attach_fr (s : State) :
    Fr [.hl, .qs, .fs, .cnt, .outs] s (attach s) := by
  unfold attach
  try dsimp only
  repeat'
    first
    | with_reducible exact Fr.refl _ _
    | with_reducible apply Fr.step ?_ (modHl_fr ..) ?_
    | with_reducible apply Fr.step ?_ (condOff_fr ..) ?_
    | with_reducible apply Fr.step ?_ (eachQue_fr ..) ?_
    | with_reducible apply Fr.step ?_ (sendLm_fr ..) ?_
    | with_reducible apply Fr.step ?_ (evtTry_fr ..) ?_
    | with_reducible apply Fr.step ?_ (setLinkState_fr ..) ?_
    | with_reducible apply Fr.foldl ?_ (fun _ _ => ?_)
    | exact rfl

theorem execAttach_fr (via : Via) (s : State) :
    OFr [.pads, .hl, .qs, .mb, .sk, .fs, .se, .win0, .cnt, .outs] s (execAttach via s) := by
  unfold execAttach
  refine runCmd_fr rfl (fun s r => ?_)
  try dsimp only
  repeat'
    first
    | with_reducible exact Fr.refl _ _
    | with_reducible apply Fr.ite
    | with_reducible apply AFr.ite
    | with_reducible apply AFr.no
    | with_reducible apply AFr.ok
    | with_reducible apply sized_fr
    | with_reducible apply Fr.step ?_ (attach_fr ..) ?_
    | exact rfl

end Sys2Proof.Machine
end

