-- ==== Sys2Proof/Laws/FootprintLedger.lean ====
section
/-! SUPPORT. The footprint of every operation: the power ledger, time and the shared transmit and twin operations. -/

namespace Sys2Proof.Machine

set_option linter.all false
set_option simprocs false

theorem fwdEvict_fr (s : State) (p : Nat) (id : Nat) :
    Fr [.tx, .cnt] s (fwdEvict s p id) := by
  unfold fwdEvict
  try dsimp only
  repeat'
    first
    | with_reducible exact Fr.refl _ _
    | with_reducible apply Fr.step ?_ (count_fr ..) ?_
    | with_reducible apply Fr.step ?_ (modPrt_fr ..) ?_
    | with_reducible apply Fr.step ?_ (stompCopy_fr ..) ?_
    | split
    | exact rfl

theorem fwdShrink_fr (x0 : Nat) (s : State) :
    Fr [.tx, .cnt, .freeIx] s (fwdShrink x0 s) := by
  induction x0 generalizing s with
  | zero => exact Fr.refl _ _
  | succ k ih =>
    unfold fwdShrink
    try dsimp only
    repeat'
      first
      | with_reducible exact Fr.refl _ _
      | with_reducible apply Fr.ite
      | with_reducible apply Fr.step ?_ (draw_fr ..) ?_
      | with_reducible apply Fr.step ?_ (fwdEvict_fr ..) ?_
      | with_reducible apply Fr.step ?_ (ih ..) ?_
      | split
      | exact rfl

theorem bankGone_fr (s : State) :
    Fr [.tx, .cnt, .freeIx] s (bankGone s) := by
  unfold bankGone
  try dsimp only
  repeat'
    first
    | with_reducible exact Fr.refl _ _
    | with_reducible apply Fr.step ?_ (fwdShrink_fr ..) ?_
    | with_reducible apply Fr.foldl ?_ (fun _ _ => ?_)
    | split
    | exact rfl

theorem linkFault_fr (s : State) (n : Nat) :
    Fr [.pads, .hl, .qs, .mb, .ld, .tm, .tx, .sg, .sk, .tw, .fs, .se, .mg, .objs, .win0, .cnt, .freeIx, .outs] s (linkFault s n) := by
  unfold linkFault
  try dsimp only
  repeat'
    first
    | with_reducible exact Fr.refl _ _
    | with_reducible apply Fr.ite
    | with_reducible apply Fr.step ?_ (condOn_fr ..) ?_
    | with_reducible apply Fr.step ?_ (condOff_fr ..) ?_
    | exact rfl

theorem laneIdle_fr (s : State) (lane : Nat) (idle : Bool) :
    Fr [.pads] s (laneIdle s lane idle) := by
  unfold laneIdle
  try dsimp only
  repeat'
    first
    | with_reducible exact Fr.refl _ _
    | with_reducible apply Fr.ite
    | with_reducible apply Fr.step ?_ (modPads_fr ..) ?_
    | exact rfl

theorem gauntTurn_fr (s : State) :
    Fr [.sg] s (gauntTurn s) := by
  unfold gauntTurn
  try dsimp only
  repeat'
    first
    | with_reducible exact Fr.refl _ _
    | with_reducible apply Fr.ite
    | with_reducible apply Fr.step ?_ (modSg_fr ..) ?_
    | with_reducible apply Fr.foldl ?_ (fun _ _ => ?_)
    | split
    | exact rfl

theorem gauntletLoad_fr (s : State) (i : Nat) :
    Fr [.sg] s (gauntletLoad s i) := by
  unfold gauntletLoad
  try dsimp only
  repeat'
    first
    | with_reducible exact Fr.refl _ _
    | with_reducible apply Fr.step ?_ (gauntTurn_fr ..) ?_
    | with_reducible apply Fr.step ?_ (modSg_fr ..) ?_
    | with_reducible apply Fr.ite
    | exact rfl

theorem segListen_fr (s : State) (i : Nat) (l : Nat) :
    Fr [.sg] s (segListen s i l) := by
  unfold segListen
  try dsimp only
  repeat'
    first
    | with_reducible exact Fr.refl _ _
    | with_reducible apply Fr.step ?_ (modSgm_fr ..) ?_
    | exact rfl

theorem segStart_fr (s : State) (i : Nat) :
    Fr [.sg] s (segStart s i) := by
  unfold segStart
  try dsimp only
  repeat'
    first
    | with_reducible exact Fr.refl _ _
    | with_reducible apply Fr.ite
    | with_reducible apply Fr.step ?_ (segListen_fr ..) ?_
    | with_reducible apply Fr.step ?_ (modSgm_fr ..) ?_
    | with_reducible apply Fr.step ?_ (gauntletLoad_fr ..) ?_
    | exact rfl

theorem voterStart_fr (s : State) :
    Fr [.mb, .tm] s (voterStart s) := by
  unfold voterStart
  try dsimp only
  repeat'
    first
    | with_reducible exact Fr.refl _ _
    | with_reducible apply Fr.ite
    | with_reducible apply Fr.step ?_ (modChan_fr ..) ?_
    | with_reducible apply Fr.step ?_ (modMb_fr ..) ?_
    | with_reducible apply Fr.step ?_ (modTm_fr ..) ?_
    | with_reducible apply Fr.foldl ?_ (fun _ _ => ?_)
    | exact rfl

theorem keepPast_fr (s : State) :
    Fr [.cal] s (keepPast s) := by
  unfold keepPast
  try dsimp only
  repeat'
    first
    | with_reducible exact Fr.refl _ _
    | with_reducible apply Fr.ite
    | with_reducible apply Fr.step ?_ (modCal_fr ..) ?_
    | split
    | exact rfl

theorem freshPts_fr (s : State) (d : Nat) :
    Fr [.cal] s (freshPts s d) := by
  unfold freshPts
  try dsimp only
  repeat'
    first
    | with_reducible exact Fr.refl _ _
    | with_reducible apply Fr.ite
    | with_reducible apply Fr.step ?_ (modCal_fr ..) ?_
    | with_reducible apply Fr.step ?_ (keepPast_fr ..) ?_
    | with_reducible apply Fr.foldl ?_ (fun _ _ => ?_)
    | split
    | exact rfl

theorem gain_fr (s : State) (d : Nat) :
    Fr [.pads, .hl, .qs, .mb, .ld, .tm, .cal, .tx, .sg, .sk, .tw, .fs, .se, .mg, .objs, .win0, .cnt, .freeIx, .outs] s (gain s d) := by
  unfold gain
  try dsimp only
  repeat'
    first
    | with_reducible exact Fr.refl _ _
    | with_reducible apply Fr.ite
    | with_reducible apply Fr.step ?_ (laneIdle_fr ..) ?_
    | with_reducible apply Fr.step ?_ (linkFault_fr ..) ?_
    | with_reducible apply Fr.step ?_ (segStart_fr ..) ?_
    | with_reducible apply Fr.step ?_ (modChan_fr ..) ?_
    | with_reducible apply Fr.step ?_ (voterStart_fr ..) ?_
    | with_reducible apply Fr.step ?_ (freshPts_fr ..) ?_
    | with_reducible apply Fr.step ?_ (modMg_fr ..) ?_
    | exact rfl

theorem portGone_fr (s : State) (p : Nat) :
    Fr [.qs, .tx, .rx, .cnt, .freeIx, .outs] s (portGone s p) := by
  unfold portGone
  try dsimp only
  repeat'
    first
    | with_reducible exact Fr.refl _ _
    | with_reducible apply Fr.step ?_ (dropEarly_fr ..) ?_
    | with_reducible apply Fr.step ?_ (silencePort_fr ..) ?_
    | with_reducible apply Fr.step ?_ (modPrt_fr ..) ?_
    | with_reducible apply Fr.step ?_ (dropHeads_fr ..) ?_
    | exact rfl

theorem segWipe_fr (s : State) (i : Nat) :
    Fr [.pads, .cal, .sg, .win1, .outs] s (segWipe s i) := by
  unfold segWipe
  try dsimp only
  repeat'
    first
    | with_reducible exact Fr.refl _ _
    | with_reducible apply Fr.step ?_ (segQuiet_fr ..) ?_
    | with_reducible apply Fr.step ?_ (modSg_fr ..) ?_
    | with_reducible apply Fr.step ?_ (modCal_fr ..) ?_
    | with_reducible apply Fr.step ?_ (setWin1_fr _ _ ?_) ?_
    | exact rfl
    | exact fun hw => twf_filter _ _ _ hw

theorem dmaWipe_fr (s : State) :
    Fr [.hl, .qs, .tx, .win1] s (dmaWipe s) := by
  unfold dmaWipe
  try dsimp only
  repeat'
    first
    | with_reducible exact Fr.refl _ _
    | with_reducible apply Fr.step ?_ (modHl_fr ..) ?_
    | with_reducible apply Fr.step ?_ (modPrt_fr ..) ?_
    | with_reducible apply Fr.step ?_ (setWin1_fr _ _ ?_) ?_
    | with_reducible apply Fr.step ?_ (setQs_fr ..) ?_
    | with_reducible apply Fr.foldl ?_ (fun _ _ => ?_)
    | split
    | exact rfl
    | exact fun hw => wf_mwrite _ _ _ _ hw
    | exact fun hw => twf_filter _ _ _ hw

theorem kPointsGone_fr (s : State) (k : Nat) :
    Fr [.cal, .fs] s (kPointsGone s k) := by
  unfold kPointsGone
  try dsimp only
  repeat'
    first
    | with_reducible exact Fr.refl _ _
    | with_reducible apply Fr.ite
    | with_reducible apply Fr.step ?_ (modCal_fr ..) ?_
    | with_reducible apply Fr.step ?_ (condOff_fr ..) ?_
    | split
    | exact rfl

theorem lose_fr (s : State) (d : Nat) :
    Fr [.pads, .hl, .qs, .mb, .ld, .tm, .cal, .tx, .rx, .str, .sg, .sk, .tw, .fs, .se, .mg, .objs, .win0, .win1, .cnt, .freeIx, .outs] s (lose s d) := by
  unfold lose
  try dsimp only
  repeat'
    first
    | with_reducible exact Fr.refl _ _
    | with_reducible apply Fr.ite
    | with_reducible apply Fr.step ?_ (clearHome_fr ..) ?_
    | with_reducible apply Fr.step ?_ (laneIdle_fr ..) ?_
    | with_reducible apply Fr.step ?_ (linkFault_fr ..) ?_
    | with_reducible apply Fr.step ?_ (portGone_fr ..) ?_
    | with_reducible apply Fr.step ?_ (modTx_fr ..) ?_
    | with_reducible apply Fr.step ?_ (modCal_fr ..) ?_
    | with_reducible apply Fr.step ?_ (modLd_fr ..) ?_
    | with_reducible apply Fr.step ?_ (condOff_fr ..) ?_
    | with_reducible apply Fr.step ?_ (modPrt_fr ..) ?_
    | with_reducible apply Fr.step ?_ (modRx_fr ..) ?_
    | with_reducible apply Fr.step ?_ (modSk_fr ..) ?_
    | with_reducible apply Fr.step ?_ (dropUpdate_fr ..) ?_
    | with_reducible apply Fr.step ?_ (modSe_fr _ _ ?_ ?_) ?_
    | with_reducible apply Fr.step ?_ (segWipe_fr ..) ?_
    | with_reducible apply Fr.step ?_ (modStr_fr ..) ?_
    | with_reducible apply Fr.step ?_ (modTw_fr ..) ?_
    | with_reducible apply Fr.step ?_ (modMb_fr ..) ?_
    | with_reducible apply Fr.step ?_ (modChan_fr ..) ?_
    | with_reducible apply Fr.step ?_ (modTm_fr ..) ?_
    | with_reducible apply Fr.step ?_ (modSg_fr ..) ?_
    | with_reducible apply Fr.step ?_ (modPads_fr ..) ?_
    | with_reducible apply Fr.step ?_ (modMg_fr ..) ?_
    | with_reducible apply Fr.step ?_ (checkRanges_fr ..) ?_
    | with_reducible apply Fr.step ?_ (dmaWipe_fr ..) ?_
    | with_reducible apply Fr.step ?_ (drainCheck_fr ..) ?_
    | with_reducible apply Fr.step ?_ (kPointsGone_fr ..) ?_
    | with_reducible apply Fr.step ?_ (stackEvent_fr ..) ?_
    | with_reducible apply Fr.foldl ?_ (fun _ _ => ?_)
    | exact rfl
    | with_reducible exact id
    | with_reducible exact fun _ h => h

theorem checkOver_fr (s : State) :
    Fr [.pads, .hl, .qs, .mb, .ld, .tm, .tx, .sg, .sk, .tw, .fs, .se, .mg, .objs, .win0, .cnt, .freeIx, .outs] s (checkOver s) := by
  unfold checkOver
  try dsimp only
  repeat'
    first
    | with_reducible exact Fr.refl _ _
    | with_reducible apply Fr.ite
    | with_reducible apply Fr.step ?_ (condOn_fr ..) ?_
    | with_reducible apply Fr.step ?_ (modLd_fr ..) ?_
    | with_reducible apply Fr.step ?_ (overEnds_fr ..) ?_
    | exact rfl

theorem settleMove_fr (s : State) (m : Move) :
    Fr [.pads, .hl, .qs, .mb, .ld, .tm, .tx, .sg, .sk, .tw, .fs, .se, .mg, .objs, .win0, .cnt, .freeIx, .outs] s (settleMove s m) := by
  unfold settleMove
  try dsimp only
  repeat'
    first
    | with_reducible exact Fr.refl _ _
    | with_reducible apply Fr.ite
    | with_reducible apply Fr.step ?_ (modDoz_fr ..) ?_
    | with_reducible apply Fr.step ?_ (objWrite_fr ..) ?_
    | with_reducible apply Fr.step ?_ (linkFault_fr ..) ?_
    | split
    | exact rfl

theorem dropAdjust_fr (s : State) :
    Fr [.hl, .mb, .tm, .sk, .se, .win0, .cnt, .outs] s (dropAdjust s) := by
  unfold dropAdjust
  try dsimp only
  repeat'
    first
    | with_reducible exact Fr.refl _ _
    | with_reducible apply Fr.step ?_ (modTm_fr ..) ?_
    | with_reducible apply Fr.step ?_ (respondWith_fr ..) ?_
    | split
    | exact rfl

theorem startEnable_fr (s : State) (d : Nat) (agent : BitVec 8) (rank : Nat) (m : Move) :
    Fr [.ld] s (startEnable s d agent rank m) := by
  unfold startEnable
  try dsimp only
  repeat'
    first
    | with_reducible exact Fr.refl _ _
    | with_reducible apply Fr.step ?_ (modLd_fr ..) ?_
    | with_reducible apply Fr.step ?_ (setDom_fr ..) ?_
    | exact rfl

theorem startDisable_fr (s : State) (d : Nat) (m : Move) :
    Fr [.hl, .mb, .ld, .tm, .sk, .se, .win0, .cnt, .outs] s (startDisable s d m) := by
  unfold startDisable
  try dsimp only
  repeat'
    first
    | with_reducible exact Fr.refl _ _
    | with_reducible apply Fr.ite
    | with_reducible apply Fr.step ?_ (setDom_fr ..) ?_
    | with_reducible apply Fr.step ?_ (modLd_fr ..) ?_
    | with_reducible apply Fr.step ?_ (dropAdjust_fr ..) ?_
    | with_reducible apply Fr.step ?_ (modChan_fr ..) ?_
    | exact rfl

theorem advanceFuel_fr (x0 : Nat) (s : State) :
    Fr [.pads, .hl, .qs, .mb, .ld, .tm, .tx, .sg, .sk, .tw, .fs, .se, .mg, .objs, .win0, .cnt, .freeIx, .outs] s (advanceFuel x0 s) := by
  induction x0 generalizing s with
  | zero => exact Fr.refl _ _
  | succ k ih =>
    unfold advanceFuel
    try dsimp only
    repeat'
      first
      | with_reducible exact Fr.refl _ _
      | with_reducible apply Fr.ite
      | with_reducible apply Fr.step ?_ (startEnable_fr ..) ?_
      | with_reducible apply Fr.step ?_ (settleMove_fr ..) ?_
      | with_reducible apply Fr.step ?_ (startDisable_fr ..) ?_
      | with_reducible apply Fr.step ?_ (modLd_fr ..) ?_
      | with_reducible apply Fr.step ?_ (ih ..) ?_
      | split
      | exact rfl

theorem advance_fr (s : State) :
    Fr [.pads, .hl, .qs, .mb, .ld, .tm, .tx, .sg, .sk, .tw, .fs, .se, .mg, .objs, .win0, .cnt, .freeIx, .outs] s (advance s) := by
  unfold advance
  try dsimp only
  repeat'
    first
    | with_reducible exact Fr.refl _ _
    | with_reducible apply Fr.step ?_ (advanceFuel_fr ..) ?_
    | exact rfl

theorem plan_fr (s : State) (l : List (Bool × Nat × Move)) :
    Fr [.pads, .hl, .qs, .mb, .ld, .tm, .tx, .sg, .sk, .tw, .fs, .se, .mg, .objs, .win0, .cnt, .freeIx, .outs] s (plan s l) := by
  unfold plan
  try dsimp only
  repeat'
    first
    | with_reducible exact Fr.refl _ _
    | with_reducible apply Fr.step ?_ (advance_fr ..) ?_
    | with_reducible apply Fr.step ?_ (modLd_fr ..) ?_
    | exact rfl

theorem domainEnable_fr (s : State) (r : Request) :
    AFr [.ld] s (domainEnable s r) := by
  unfold domainEnable
  try dsimp only
  repeat'
    first
    | with_reducible exact Fr.refl _ _
    | with_reducible apply Fr.ite
    | with_reducible apply AFr.ite
    | with_reducible apply AFr.no
    | with_reducible apply AFr.ok
    | with_reducible apply AFr.later
    | with_reducible apply sized_fr
    | with_reducible apply reserved_fr
    | with_reducible apply badRange_fr
    | with_reducible apply Fr.step ?_ (startEnable_fr ..) ?_
    | split
    | exact rfl

theorem bootEnable_fr (s : State) :
    Fr [.ld, .freeIx] s (bootEnable s) := by
  unfold bootEnable
  dsimp only
  split
  · next t h =>
    have k := domainEnable_fr (draw s).2 { via := .boot, opcode := 0x40, tag := 0, word6 := 0, oid := 0, length := 4, payload := toLe 4 ((draw s).1 % 78), crcOk := true, busy := false, at_ := (draw s).2.clock }
    rw [h] at k
    exact Fr.step (Fr.mono (draw_fr s) rfl) k.at_ rfl
  · exact Fr.mono (draw_fr s) rfl

theorem execDomainEnable_fr (via : Via) (s : State) :
    OFr [.pads, .hl, .mb, .ld, .sk, .se, .win0, .cnt, .freeIx, .outs] s (execDomainEnable via s) := by
  unfold execDomainEnable
  split
  · exact run_fr rfl (Fr.mono (bootEnable_fr s) rfl)
  · exact runCmd_fr rfl (fun s r => AFr.step (Fr.refl _ _) (domainEnable_fr s r) rfl)

theorem domainDisable_fr (s : State) (r : Request) :
    AFr [.hl, .mb, .ld, .tm, .sk, .se, .win0, .cnt, .outs] s (domainDisable s r) := by
  unfold domainDisable
  try dsimp only
  repeat'
    first
    | with_reducible exact Fr.refl _ _
    | with_reducible apply Fr.ite
    | with_reducible apply AFr.ite
    | with_reducible apply AFr.no
    | with_reducible apply AFr.ok
    | with_reducible apply AFr.later
    | with_reducible apply sized_fr
    | with_reducible apply reserved_fr
    | with_reducible apply badRange_fr
    | with_reducible apply Fr.step ?_ (startDisable_fr ..) ?_
    | split
    | exact rfl

theorem execDomainDisable_fr (via : Via) (s : State) :
    OFr [.pads, .hl, .mb, .ld, .tm, .sk, .se, .win0, .cnt, .outs] s (execDomainDisable via s) := by
  unfold execDomainDisable
  refine runCmd_fr rfl (fun s r => ?_)
  try dsimp only
  repeat'
    first
    | with_reducible exact Fr.refl _ _
    | with_reducible apply AFr.step ?_ (domainDisable_fr ..) ?_
    | exact rfl

theorem answerMove_fr (s : State) (m : Move) (op : BitVec 16) (status : Nat) (payload : Bytes) :
    Fr [.hl, .mb, .sk, .se, .win0, .cnt, .outs] s (answerMove s m op status payload) := by
  unfold answerMove
  try dsimp only
  repeat'
    first
    | with_reducible exact Fr.refl _ _
    | with_reducible apply Fr.step ?_ (respondWith_fr ..) ?_
    | split
    | exact rfl

theorem enableDone_fr (s : State) (d : Nat) (m : Move) :
    Fr [.pads, .hl, .qs, .mb, .ld, .tm, .cal, .tx, .sg, .sk, .tw, .fs, .se, .mg, .objs, .win0, .cnt, .freeIx, .outs] s (enableDone s d m) := by
  unfold enableDone
  try dsimp only
  repeat'
    first
    | with_reducible exact Fr.refl _ _
    | with_reducible apply Fr.ite
    | with_reducible apply Fr.step ?_ (setDom_fr ..) ?_
    | with_reducible apply Fr.step ?_ (modLd_fr ..) ?_
    | with_reducible apply Fr.step ?_ (gain_fr ..) ?_
    | with_reducible apply Fr.step ?_ (answerMove_fr ..) ?_
    | with_reducible apply Fr.step ?_ (settleMove_fr ..) ?_
    | with_reducible apply Fr.step ?_ (plan_fr ..) ?_
    | with_reducible apply Fr.step ?_ (advance_fr ..) ?_
    | exact rfl

theorem logLedger_fr (s : State) (d : Nat) (what : Nat) :
    Fr [.mg, .cnt] s (logLedger s d what) := by
  unfold logLedger
  try dsimp only
  repeat'
    first
    | with_reducible exact Fr.refl _ _
    | with_reducible apply Fr.step ?_ (logAdd_fr ..) ?_
    | exact rfl

theorem enableFailed_fr (s : State) (d : Nat) (m : Move) :
    Fr [.pads, .hl, .qs, .mb, .ld, .tm, .tx, .sg, .sk, .tw, .fs, .se, .mg, .objs, .win0, .cnt, .freeIx, .outs] s (enableFailed s d m) := by
  unfold enableFailed
  try dsimp only
  repeat'
    first
    | with_reducible exact Fr.refl _ _
    | with_reducible apply Fr.ite
    | with_reducible apply Fr.step ?_ (setDom_fr ..) ?_
    | with_reducible apply Fr.step ?_ (modLd_fr ..) ?_
    | with_reducible apply Fr.step ?_ (logLedger_fr ..) ?_
    | with_reducible apply Fr.step ?_ (fault_fr ..) ?_
    | with_reducible apply Fr.step ?_ (modMb_fr ..) ?_
    | with_reducible apply Fr.step ?_ (draw_fr ..) ?_
    | with_reducible apply Fr.step ?_ (answerMove_fr ..) ?_
    | with_reducible apply Fr.step ?_ (checkOver_fr ..) ?_
    | with_reducible apply Fr.step ?_ (advance_fr ..) ?_
    | with_reducible apply Fr.step ?_ (settleMove_fr ..) ?_
    | with_reducible apply Fr.step ?_ (plan_fr ..) ?_
    | split
    | exact rfl

theorem disableDone_fr (s : State) (d : Nat) (m : Move) :
    Fr [.pads, .hl, .qs, .mb, .ld, .tm, .cal, .tx, .rx, .str, .sg, .sk, .tw, .fs, .se, .mg, .objs, .win0, .win1, .cnt, .freeIx, .outs] s (disableDone s d m) := by
  unfold disableDone
  try dsimp only
  repeat'
    first
    | with_reducible exact Fr.refl _ _
    | with_reducible apply Fr.ite
    | with_reducible apply Fr.step ?_ (setDom_fr ..) ?_
    | with_reducible apply Fr.step ?_ (modLd_fr ..) ?_
    | with_reducible apply Fr.step ?_ (checkOver_fr ..) ?_
    | with_reducible apply Fr.step ?_ (lose_fr ..) ?_
    | with_reducible apply Fr.step ?_ (answerMove_fr ..) ?_
    | with_reducible apply Fr.step ?_ (advance_fr ..) ?_
    | with_reducible apply Fr.step ?_ (settleMove_fr ..) ?_
    | with_reducible apply Fr.step ?_ (bankGone_fr ..) ?_
    | split
    | exact rfl

theorem execLedgerQuery_fr (via : Via) (s : State) :
    OFr [.pads, .hl, .mb, .sk, .se, .win0, .cnt, .outs] s (execLedgerQuery via s) := by
  unfold execLedgerQuery
  refine runCmd_fr rfl (fun s r => ?_)
  try dsimp only
  repeat'
    first
    | with_reducible exact Fr.refl _ _
    | with_reducible apply Fr.ite
    | with_reducible apply AFr.ok
    | with_reducible apply sized_fr

theorem tjFaults_fr (s : State) (tj : Int) :
    Fr [.pads, .hl, .qs, .mb, .ld, .tm, .tx, .sg, .sk, .tw, .fs, .se, .mg, .objs, .win0, .cnt, .freeIx, .outs] s (tjFaults s tj) := by
  unfold tjFaults
  try dsimp only
  repeat'
    first
    | with_reducible exact Fr.refl _ _
    | with_reducible apply Fr.ite
    | with_reducible apply Fr.step ?_ (condOn_fr ..) ?_
    | with_reducible apply Fr.step ?_ (condOff_fr ..) ?_
    | with_reducible apply Fr.step ?_ (modFs_fr _ _ ?_) ?_
    | split
    | exact rfl
    | with_reducible exact id

theorem execTjReading_fr (s : State) :
    OFr [.pads, .hl, .qs, .mb, .ld, .tm, .tx, .sg, .sk, .tw, .fs, .se, .mg, .objs, .win0, .cnt, .freeIx, .outs] s (execTjReading s) := by
  unfold execTjReading
  refine run_fr rfl ?_
  try dsimp only
  repeat'
    first
    | with_reducible exact Fr.refl _ _
    | with_reducible apply Fr.step ?_ (modLd_fr ..) ?_
    | with_reducible apply Fr.step ?_ (checkOver_fr ..) ?_
    | with_reducible apply Fr.step ?_ (tjFaults_fr ..) ?_
    | exact rfl

theorem execLedgerShed_fr (s : State) :
    OFr [.pads, .hl, .qs, .mb, .ld, .tm, .tx, .sg, .sk, .tw, .fs, .se, .mg, .objs, .win0, .cnt, .freeIx, .outs] s (execLedgerShed s) := by
  unfold execLedgerShed
  refine run_fr rfl ?_
  try dsimp only
  repeat'
    first
    | with_reducible exact Fr.refl _ _
    | with_reducible apply Fr.ite
    | with_reducible apply Fr.step ?_ (checkOver_fr ..) ?_
    | with_reducible apply Fr.step ?_ (startDisable_fr ..) ?_
    | with_reducible apply Fr.step ?_ (logLedger_fr ..) ?_
    | with_reducible apply Fr.step ?_ (condOn_fr ..) ?_
    | with_reducible apply Fr.step ?_ (modLd_fr ..) ?_
    | split
    | exact rfl

theorem dozeEnter_fr (s : State) (u : Nat) :
    ExcFr [.pads, .hl, .qs, .mb, .ld, .tm, .tx, .sg, .sk, .tw, .fs, .se, .mg, .objs, .win0, .cnt, .freeIx, .outs] s (dozeEnter s u) := by
  unfold dozeEnter
  try dsimp only
  repeat'
    first
    | with_reducible exact Fr.refl _ _
    | with_reducible apply Fr.ite
    | with_reducible apply ExcFr.ok
    | with_reducible apply ExcFr.error
    | with_reducible apply ExcFr.ite
    | with_reducible apply Fr.step ?_ (modDoz_fr ..) ?_
    | with_reducible apply Fr.step ?_ (objWrite_fr ..) ?_
    | with_reducible apply Fr.step ?_ (linkFault_fr ..) ?_
    | with_reducible apply Fr.step ?_ (setDom_fr ..) ?_
    | with_reducible apply Fr.step ?_ (plan_fr ..) ?_
    | exact rfl

theorem wakeUp_fr (s : State) (u : Nat) :
    Fr [.pads, .hl, .qs, .mb, .ld, .tm, .tx, .sg, .sk, .tw, .fs, .se, .mg, .objs, .win0, .cnt, .freeIx, .outs] s (wakeUp s u) := by
  unfold wakeUp
  try dsimp only
  repeat'
    first
    | with_reducible exact Fr.refl _ _
    | with_reducible apply Fr.ite
    | with_reducible apply Fr.step ?_ (logLedger_fr ..) ?_
    | with_reducible apply Fr.step ?_ (fault_fr ..) ?_
    | with_reducible apply Fr.step ?_ (modDoz_fr ..) ?_
    | with_reducible apply Fr.step ?_ (plan_fr ..) ?_
    | with_reducible apply Fr.foldl ?_ (fun _ _ => ?_)
    | exact rfl

theorem dozeLeave_fr (s : State) (u : Nat) :
    ExcFr [.pads, .hl, .qs, .mb, .ld, .tm, .tx, .sg, .sk, .tw, .fs, .se, .mg, .objs, .win0, .cnt, .freeIx, .outs] s (dozeLeave s u) := by
  unfold dozeLeave
  try dsimp only
  repeat'
    first
    | with_reducible exact Fr.refl _ _
    | with_reducible apply Fr.ite
    | with_reducible apply ExcFr.ok
    | with_reducible apply ExcFr.error
    | with_reducible apply ExcFr.ite
    | with_reducible apply Fr.step ?_ (objWrite_fr ..) ?_
    | with_reducible apply Fr.step ?_ (wakeUp_fr ..) ?_
    | exact rfl

theorem execDozeEntry_fr (unit : Fin 32) (s : State) :
    OFr [.pads, .hl, .qs, .mb, .ld, .tm, .tx, .sg, .sk, .tw, .fs, .se, .mg, .objs, .win0, .cnt, .freeIx, .outs] s (execDozeEntry unit s) := by
  unfold execDozeEntry
  refine run_fr rfl ?_
  try dsimp only
  repeat'
    first
    | with_reducible exact Fr.refl _ _
    | with_reducible apply Fr.ite
    | with_reducible apply Fr.step ?_ (ExcFr.get (dozeEnter_fr ..) ‹_›) ?_
    | split
    | exact rfl

theorem execDozeExit_fr (unit : Fin 32) (s : State) :
    OFr [.pads, .hl, .qs, .mb, .ld, .tm, .tx, .sg, .sk, .tw, .fs, .se, .mg, .objs, .win0, .cnt, .freeIx, .outs] s (execDozeExit unit s) := by
  unfold execDozeExit
  refine run_fr rfl ?_
  try dsimp only
  repeat'
    first
    | with_reducible exact Fr.refl _ _
    | with_reducible apply Fr.ite
    | with_reducible apply Fr.step ?_ (ExcFr.get (dozeLeave_fr ..) ‹_›) ?_
    | split
    | exact rfl

theorem execWakePatternMatch_fr (p : Fin 6) (s : State) :
    OFr [.pads, .hl, .qs, .mb, .ld, .tm, .tx, .sg, .sk, .tw, .fs, .se, .mg, .objs, .win0, .cnt, .freeIx, .outs] s (execWakePatternMatch p s) := by
  unfold execWakePatternMatch
  refine run_fr rfl ?_
  try dsimp only
  repeat'
    first
    | with_reducible exact Fr.refl _ _
    | with_reducible apply Fr.ite
    | with_reducible apply Fr.step ?_ (wakeUp_fr ..) ?_
    | exact rfl

theorem execEnergyDetect_fr (i : Fin 16) (s : State) :
    OFr [.pads, .hl, .qs, .mb, .ld, .tm, .tx, .sg, .sk, .tw, .fs, .se, .mg, .objs, .win0, .cnt, .freeIx, .outs] s (execEnergyDetect i s) := by
  unfold execEnergyDetect
  refine run_fr rfl ?_
  try dsimp only
  repeat'
    first
    | with_reducible exact Fr.refl _ _
    | with_reducible apply Fr.ite
    | with_reducible apply Fr.step ?_ (wakeUp_fr ..) ?_
    | exact rfl

theorem execLedgerCeilWrite_fr (v : BitVec 32) (s : State) :
    OFr [.pads, .hl, .qs, .mb, .ld, .tm, .tx, .sg, .sk, .tw, .fs, .se, .mg, .objs, .win0, .cnt, .freeIx, .outs] s (execLedgerCeilWrite v s) := by
  unfold execLedgerCeilWrite
  refine run_fr rfl ?_
  try dsimp only
  repeat'
    first
    | with_reducible exact Fr.refl _ _
    | with_reducible apply Fr.ite
    | with_reducible apply Fr.step ?_ (checkOver_fr ..) ?_
    | with_reducible apply Fr.step ?_ (modLd_fr ..) ?_
    | exact rfl

theorem modCalPt_fr (s : State) (pt : Nat) (f : CalPoint → CalPoint) :
    Fr [.cal] s (modCalPt s pt f) := by
  unfold modCalPt
  try dsimp only
  repeat'
    first
    | with_reducible exact Fr.refl _ _
    | with_reducible apply Fr.step ?_ (modCal_fr ..) ?_
    | exact rfl

theorem modCalPort_fr (s : State) (i : Nat) (f : CalPort → CalPort) :
    Fr [.cal] s (modCalPort s i f) := by
  unfold modCalPort
  try dsimp only
  repeat'
    first
    | with_reducible exact Fr.refl _ _
    | with_reducible apply Fr.step ?_ (modCal_fr ..) ?_
    | exact rfl

theorem stampAt_fr (s : State) (port : Nat) (cls : Nat) (movePs : Int) :
    Fr [.freeIx] s (stampAt s port cls movePs).2 := by
  unfold stampAt
  try dsimp only
  repeat'
    first
    | with_reducible exact Fr.refl _ _
    | with_reducible apply Fr.step ?_ (setFreeIx_fr ..) ?_
    | exact rfl

theorem txStamp_fr (s : State) (i : Nat) :
    Fr [.freeIx] s (txStamp s i).2 := by
  unfold txStamp
  try dsimp only
  repeat'
    first
    | with_reducible exact Fr.refl _ _
    | with_reducible apply Fr.step ?_ (stampAt_fr ..) ?_
    | exact rfl

theorem rxStampAt_fr (s : State) (i : Nat) (n : Nat) (asym : State → Int) :
    Fr [.freeIx] s (rxStampAt s i n asym).2 := by
  unfold rxStampAt
  try dsimp only
  repeat'
    first
    | with_reducible exact Fr.refl _ _
    | with_reducible apply Fr.step ?_ (stampAt_fr ..) ?_
    | split
    | exact rfl

theorem rxStamp_fr (s : State) (i : Nat) (n : Nat) :
    Fr [.freeIx] s (rxStamp s i n).2 := by
  unfold rxStamp
  try dsimp only
  repeat'
    first
    | with_reducible exact Fr.refl _ _
    | with_reducible apply Fr.step ?_ (rxStampAt_fr ..) ?_
    | exact rfl

theorem passRuns_fr (s : State) (pt : Nat) :
    Fr [.cal] s (passRuns s pt) := by
  unfold passRuns
  try dsimp only
  repeat'
    first
    | with_reducible exact Fr.refl _ _
    | with_reducible apply Fr.step ?_ (modCalPt_fr ..) ?_
    | split
    | exact rfl

theorem trefFault_fr (s : State) :
    Fr [.pads, .hl, .qs, .mb, .ld, .tm, .tx, .sg, .sk, .tw, .fs, .se, .mg, .objs, .win0, .cnt, .freeIx, .outs] s (trefFault s) := by
  unfold trefFault
  try dsimp only
  repeat'
    first
    | with_reducible exact Fr.refl _ _
    | with_reducible apply Fr.ite
    | with_reducible apply Fr.step ?_ (condOn_fr ..) ?_
    | with_reducible apply Fr.step ?_ (condOff_fr ..) ?_
    | exact rfl

theorem raiseAgain_fr (s : State) (n : Nat) :
    Fr [.pads, .hl, .qs, .mb, .ld, .tm, .tx, .sg, .sk, .tw, .fs, .se, .mg, .objs, .win0, .cnt, .freeIx, .outs] s (raiseAgain s n) := by
  unfold raiseAgain
  try dsimp only
  repeat'
    first
    | with_reducible exact Fr.refl _ _
    | with_reducible apply Fr.ite
    | with_reducible apply Fr.step ?_ (fault_fr ..) ?_
    | with_reducible apply Fr.step ?_ (condOn_fr ..) ?_
    | split
    | exact rfl

theorem staleFaults_fr (s : State) (pt : Nat) :
    Fr [.pads, .hl, .qs, .mb, .ld, .tm, .tx, .sg, .sk, .tw, .fs, .se, .mg, .objs, .win0, .cnt, .freeIx, .outs] s (staleFaults s pt) := by
  unfold staleFaults
  try dsimp only
  repeat'
    first
    | with_reducible exact Fr.refl _ _
    | with_reducible apply Fr.ite
    | with_reducible apply Fr.step ?_ (condOff_fr ..) ?_
    | with_reducible apply Fr.step ?_ (trefFault_fr ..) ?_
    | with_reducible apply Fr.step ?_ (raiseAgain_fr ..) ?_
    | exact rfl

theorem retryNow_fr (s : State) (i : Nat) :
    Fr [.cal] s (retryNow s i) := by
  unfold retryNow
  try dsimp only
  repeat'
    first
    | with_reducible exact Fr.refl _ _
    | with_reducible apply Fr.step ?_ (modCalPt_fr ..) ?_
    | with_reducible apply Fr.foldl ?_ (fun _ _ => ?_)
    | split
    | exact rfl

theorem brimRetry_fr (s : State) :
    Fr [.cal] s (brimRetry s) := by
  unfold brimRetry
  try dsimp only
  repeat'
    first
    | with_reducible exact Fr.refl _ _
    | with_reducible apply Fr.ite
    | with_reducible apply Fr.step ?_ (retryNow_fr ..) ?_
    | with_reducible apply Fr.foldl ?_ (fun _ _ => ?_)
    | split
    | exact rfl

theorem relockPts_fr (s : State) (i : Nat) :
    Fr [.pads, .hl, .qs, .mb, .ld, .tm, .cal, .tx, .sg, .sk, .tw, .fs, .se, .mg, .objs, .win0, .cnt, .freeIx, .outs] s (relockPts s i) := by
  unfold relockPts
  try dsimp only
  repeat'
    first
    | with_reducible exact Fr.refl _ _
    | with_reducible apply Fr.ite
    | with_reducible apply Fr.step ?_ (modCalPt_fr ..) ?_
    | with_reducible apply Fr.step ?_ (modCalPort_fr ..) ?_
    | with_reducible apply Fr.step ?_ (draw_fr ..) ?_
    | with_reducible apply Fr.step ?_ (staleFaults_fr ..) ?_
    | with_reducible apply Fr.step ?_ (passRuns_fr ..) ?_
    | with_reducible apply Fr.step ?_ (keepPast_fr ..) ?_
    | with_reducible apply Fr.foldl ?_ (fun _ _ => ?_)
    | exact rfl

theorem execTimeRead_fr (via : Via) (s : State) :
    OFr [.pads, .hl, .mb, .sk, .se, .win0, .cnt, .outs] s (execTimeRead via s) := by
  unfold execTimeRead
  refine runCmd_fr rfl (fun s r => ?_)
  try dsimp only
  repeat'
    first
    | with_reducible exact Fr.refl _ _
    | with_reducible apply AFr.ok
    | with_reducible apply sized_fr

theorem disarm_fr (s : State) :
    Fr [.tm] s (disarm s) := by
  unfold disarm
  try dsimp only
  repeat'
    first
    | with_reducible exact Fr.refl _ _
    | with_reducible apply Fr.step ?_ (modTm_fr ..) ?_
    | exact rfl

theorem armPermit_fr (s : State) (agent : Nat) :
    Fr [.tm] s (armPermit s agent) := by
  unfold armPermit
  try dsimp only
  repeat'
    first
    | with_reducible exact Fr.refl _ _
    | with_reducible apply Fr.step ?_ (modTm_fr ..) ?_
    | exact rfl

theorem beginAdjust_fr (s : State) (rate : Option Int) (step : Option Int) (permit : Bool) (via : Option Via) (servo : Bool) :
    Fr [.tm] s (beginAdjust s rate step permit via servo) := by
  unfold beginAdjust
  try dsimp only
  repeat'
    first
    | with_reducible exact Fr.refl _ _
    | with_reducible apply Fr.step ?_ (modTm_fr ..) ?_
    | exact rfl

theorem timeAdjust_fr (s : State) (r : Request) :
    AFr [.pads, .hl, .qs, .mb, .ld, .tm, .tx, .sg, .sk, .tw, .fs, .se, .mg, .objs, .win0, .cnt, .freeIx, .outs] s (timeAdjust s r) := by
  unfold timeAdjust
  try dsimp only
  repeat'
    first
    | with_reducible exact Fr.refl _ _
    | with_reducible apply Fr.ite
    | with_reducible apply AFr.ite
    | with_reducible apply AFr.no
    | with_reducible apply AFr.done
    | with_reducible apply AFr.later
    | with_reducible apply sized_fr
    | with_reducible apply reserved_fr
    | with_reducible apply badRange_fr
    | with_reducible apply Fr.step ?_ (beginAdjust_fr ..) ?_
    | with_reducible apply Fr.step ?_ (disarm_fr ..) ?_
    | with_reducible apply Fr.step ?_ (fault_fr ..) ?_
    | exact rfl

theorem execTimeAdjust_fr (via : Via) (s : State) :
    OFr [.pads, .hl, .qs, .mb, .ld, .tm, .tx, .sg, .sk, .tw, .fs, .se, .mg, .objs, .win0, .cnt, .freeIx, .outs] s (execTimeAdjust via s) := by
  unfold execTimeAdjust
  refine runCmd_fr rfl (fun s r => ?_)
  try dsimp only
  repeat'
    first
    | with_reducible exact Fr.refl _ _
    | with_reducible apply AFr.step ?_ (timeAdjust_fr ..) ?_
    | exact rfl

theorem execPermitArm_fr (via : Via) (s : State) :
    OFr [.pads, .tm] s (execPermitArm via s) := by
  unfold execPermitArm
  refine run_fr rfl ?_
  try dsimp only
  repeat'
    first
    | with_reducible exact Fr.refl _ _
    | with_reducible apply Fr.ite
    | with_reducible apply Fr.step ?_ (armPermit_fr ..) ?_
    | exact rfl

theorem execPermitExpiry_fr (s : State) :
    OFr [.pads, .tm] s (execPermitExpiry s) := by
  unfold execPermitExpiry
  refine run_fr rfl ?_
  try dsimp only
  repeat'
    first
    | with_reducible exact Fr.refl _ _
    | with_reducible apply Fr.ite
    | with_reducible apply Fr.step ?_ (disarm_fr ..) ?_
    | exact rfl

theorem voteFail_fr (s : State) :
    Fr [.pads, .hl, .qs, .mb, .ld, .tm, .tx, .sg, .sk, .tw, .fs, .se, .mg, .objs, .win0, .cnt, .freeIx, .outs] s (voteFail s) := by
  unfold voteFail
  try dsimp only
  repeat'
    first
    | with_reducible exact Fr.refl _ _
    | with_reducible apply Fr.ite
    | with_reducible apply Fr.step ?_ (fault_fr ..) ?_
    | with_reducible apply Fr.step ?_ (modTm_fr ..) ?_
    | exact rfl

theorem outvote_fr (s : State) (ch : Nat) (values : BitVec 8) :
    Fr [.pads, .hl, .qs, .mb, .ld, .tm, .tx, .sg, .sk, .tw, .fs, .se, .mg, .objs, .win0, .cnt, .freeIx, .outs] s (outvote s ch values) := by
  unfold outvote
  try dsimp only
  repeat'
    first
    | with_reducible exact Fr.refl _ _
    | with_reducible apply Fr.ite
    | with_reducible apply Fr.step ?_ (modTm_fr ..) ?_
    | with_reducible apply Fr.step ?_ (modChan_fr ..) ?_
    | with_reducible apply Fr.step ?_ (condOn_fr ..) ?_
    | with_reducible apply Fr.step ?_ (fault_fr ..) ?_
    | exact rfl

theorem execChannelOutvoted_fr (ch : Fin 3) (values : BitVec 8) (s : State) :
    OFr [.pads, .hl, .qs, .mb, .ld, .tm, .tx, .sg, .sk, .tw, .fs, .se, .mg, .objs, .win0, .cnt, .freeIx, .outs] s (execChannelOutvoted ch values s) := by
  unfold execChannelOutvoted
  refine run_fr rfl ?_
  try dsimp only
  repeat'
    first
    | with_reducible exact Fr.refl _ _
    | with_reducible apply Fr.ite
    | with_reducible apply Fr.step ?_ (outvote_fr ..) ?_
    | with_reducible apply Fr.step ?_ (voteFail_fr ..) ?_
    | exact rfl

theorem execVoteFailed_fr (s : State) :
    OFr [.pads, .hl, .qs, .mb, .ld, .tm, .tx, .sg, .sk, .tw, .fs, .se, .mg, .objs, .win0, .cnt, .freeIx, .outs] s (execVoteFailed s) := by
  unfold execVoteFailed
  refine run_fr rfl ?_
  try dsimp only
  repeat'
    first
    | with_reducible exact Fr.refl _ _
    | with_reducible apply Fr.step ?_ (voteFail_fr ..) ?_
    | exact rfl

theorem setTimeState_fr (s : State) (v : Nat) :
    Fr [.tm, .fs, .mg, .cnt] s (setTimeState s v) := by
  unfold setTimeState
  try dsimp only
  repeat'
    first
    | with_reducible exact Fr.refl _ _
    | with_reducible apply Fr.ite
    | with_reducible apply Fr.step ?_ (modTm_fr ..) ?_
    | with_reducible apply Fr.step ?_ (logAdd_fr ..) ?_
    | with_reducible apply Fr.step ?_ (condOff_fr ..) ?_
    | exact rfl

theorem servoTook_fr (s : State) :
    Fr [.tm, .fs, .mg, .cnt] s (servoTook s) := by
  unfold servoTook
  try dsimp only
  repeat'
    first
    | with_reducible exact Fr.refl _ _
    | with_reducible apply Fr.ite
    | with_reducible apply Fr.step ?_ (modTm_fr ..) ?_
    | with_reducible apply Fr.step ?_ (setTimeState_fr ..) ?_
    | exact rfl

theorem modPlane_fr (s : State) (p : Nat) (f : Plane → Plane) :
    Fr [.tm] s (modPlane s p f) := by
  unfold modPlane
  try dsimp only
  repeat'
    first
    | with_reducible exact Fr.refl _ _
    | with_reducible apply Fr.step ?_ (modTm_fr ..) ?_
    | exact rfl

theorem planeFaults_fr (s : State) :
    Fr [.pads, .hl, .qs, .mb, .ld, .tm, .tx, .sg, .sk, .tw, .fs, .se, .mg, .objs, .win0, .cnt, .freeIx, .outs] s (planeFaults s) := by
  unfold planeFaults
  try dsimp only
  repeat'
    first
    | with_reducible exact Fr.refl _ _
    | with_reducible apply Fr.ite
    | with_reducible apply Fr.step ?_ (condOn_fr ..) ?_
    | with_reducible apply Fr.step ?_ (condOff_fr ..) ?_
    | exact rfl

theorem markFar_fr (s : State) (med : Int) :
    Fr [.pads, .hl, .qs, .mb, .ld, .tm, .tx, .sg, .sk, .tw, .fs, .se, .mg, .objs, .win0, .cnt, .freeIx, .outs] s (markFar s med) := by
  unfold markFar
  try dsimp only
  repeat'
    first
    | with_reducible exact Fr.refl _ _
    | with_reducible apply Fr.ite
    | with_reducible apply Fr.step ?_ (planeFaults_fr ..) ?_
    | with_reducible apply Fr.step ?_ (modPlane_fr ..) ?_
    | with_reducible apply Fr.foldl ?_ (fun _ _ => ?_)
    | exact rfl

theorem planeVote_fr (s : State) :
    Fr [.pads, .hl, .qs, .mb, .ld, .tm, .tx, .sg, .sk, .tw, .fs, .se, .mg, .objs, .win0, .cnt, .freeIx, .outs] s (planeVote s).2 := by
  unfold planeVote
  try dsimp only
  repeat'
    first
    | with_reducible exact Fr.refl _ _
    | with_reducible apply Fr.ite
    | with_reducible apply Fr.step ?_ (condOff_fr ..) ?_
    | with_reducible apply Fr.step ?_ (markFar_fr ..) ?_
    | with_reducible apply Fr.step ?_ (condOn_fr ..) ?_
    | split
    | exact rfl

theorem servoAct_fr (s : State) (err : Int) :
    Fr [.pads, .hl, .qs, .mb, .ld, .tm, .tx, .sg, .sk, .tw, .fs, .se, .mg, .objs, .win0, .cnt, .freeIx, .outs] s (servoAct s err) := by
  unfold servoAct
  try dsimp only
  repeat'
    first
    | with_reducible exact Fr.refl _ _
    | with_reducible apply Fr.ite
    | with_reducible apply Fr.step ?_ (setFreeIx_fr ..) ?_
    | with_reducible apply Fr.step ?_ (modTm_fr ..) ?_
    | with_reducible apply Fr.step ?_ (beginAdjust_fr ..) ?_
    | with_reducible apply Fr.step ?_ (disarm_fr ..) ?_
    | with_reducible apply Fr.step ?_ (armPermit_fr ..) ?_
    | with_reducible apply Fr.step ?_ (fault_fr ..) ?_
    | exact rfl

theorem execServoUpdate_fr (p : Fin 3) (offset : BitVec 80) (s : State) :
    OFr [.pads, .hl, .qs, .mb, .ld, .tm, .tx, .sg, .sk, .tw, .fs, .se, .mg, .objs, .win0, .cnt, .freeIx, .outs] s (execServoUpdate p offset s) := by
  unfold execServoUpdate
  refine run_fr rfl ?_
  try dsimp only
  repeat'
    first
    | with_reducible exact Fr.refl _ _
    | with_reducible apply Fr.ite
    | with_reducible apply Fr.step ?_ (modPlane_fr ..) ?_
    | with_reducible apply Fr.step ?_ (planeVote_fr ..) ?_
    | with_reducible apply Fr.step ?_ (modTm_fr ..) ?_
    | with_reducible apply Fr.step ?_ (servoAct_fr ..) ?_
    | with_reducible apply Fr.step ?_ (settle_fr ..) ?_
    | with_reducible apply Fr.foldl ?_ (fun _ _ => ?_)
    | split
    | exact rfl

theorem execGrandmasterChange_fr (p : Fin 3) (identity : BitVec 64) (s : State) :
    OFr [.pads, .hl, .qs, .mb, .ld, .tm, .tx, .sg, .sk, .tw, .fs, .se, .mg, .objs, .win0, .cnt, .freeIx, .outs] s (execGrandmasterChange p identity s) := by
  unfold execGrandmasterChange
  refine run_fr rfl ?_
  try dsimp only
  repeat'
    first
    | with_reducible exact Fr.refl _ _
    | with_reducible apply Fr.ite
    | with_reducible apply Fr.step ?_ (planeFaults_fr ..) ?_
    | with_reducible apply Fr.step ?_ (modPlane_fr ..) ?_
    | with_reducible apply Fr.step ?_ (fault_fr ..) ?_
    | with_reducible apply Fr.step ?_ (settle_fr ..) ?_
    | exact rfl

theorem execAnnounceTimeout_fr (p : Fin 3) (s : State) :
    OFr [.pads, .hl, .qs, .mb, .ld, .tm, .tx, .sg, .sk, .tw, .fs, .se, .mg, .objs, .win0, .cnt, .freeIx, .outs] s (execAnnounceTimeout p s) := by
  unfold execAnnounceTimeout
  refine run_fr rfl ?_
  try dsimp only
  repeat'
    first
    | with_reducible exact Fr.refl _ _
    | with_reducible apply Fr.ite
    | with_reducible apply Fr.step ?_ (planeFaults_fr ..) ?_
    | with_reducible apply Fr.step ?_ (modPlane_fr ..) ?_
    | with_reducible apply Fr.step ?_ (settle_fr ..) ?_
    | exact rfl

theorem execHoldoverEntry_fr (s : State) :
    OFr [.pads, .tm, .fs, .mg, .cnt] s (execHoldoverEntry s) := by
  unfold execHoldoverEntry
  refine run_fr rfl ?_
  try dsimp only
  repeat'
    first
    | with_reducible exact Fr.refl _ _
    | with_reducible apply Fr.ite
    | with_reducible apply Fr.step ?_ (setTimeState_fr ..) ?_
    | with_reducible apply Fr.step ?_ (beginAdjust_fr ..) ?_
    | exact rfl

theorem execHoldoverMax_fr (s : State) :
    OFr [.pads, .hl, .qs, .mb, .ld, .tm, .tx, .sg, .sk, .tw, .fs, .se, .mg, .objs, .win0, .cnt, .freeIx, .outs] s (execHoldoverMax s) := by
  unfold execHoldoverMax
  refine run_fr rfl ?_
  try dsimp only
  repeat'
    first
    | with_reducible exact Fr.refl _ _
    | with_reducible apply Fr.ite
    | with_reducible apply Fr.step ?_ (condOn_fr ..) ?_
    | with_reducible apply Fr.step ?_ (setTimeState_fr ..) ?_
    | exact rfl

theorem modTout_fr (s : State) (n : Nat) (f : TimedOut → TimedOut) :
    Fr [.tm] s (modTout s n f) := by
  unfold modTout
  try dsimp only
  repeat'
    first
    | with_reducible exact Fr.refl _ _
    | with_reducible apply Fr.step ?_ (modTm_fr ..) ?_
    | exact rfl

theorem driveEvt_fr (s : State) (n : Nat) (high : Bool) :
    Fr [.pads] s (driveEvt s n high) := by
  unfold driveEvt
  try dsimp only
  repeat'
    first
    | with_reducible exact Fr.refl _ _
    | with_reducible apply Fr.step ?_ (modPads_fr ..) ?_
    | exact rfl

theorem releaseRes_fr (s : State) (oid : Nat) :
    Fr [.ld] s (releaseRes s oid) := by
  unfold releaseRes
  try dsimp only
  repeat'
    first
    | with_reducible exact Fr.refl _ _
    | with_reducible apply Fr.step ?_ (modLd_fr ..) ?_
    | exact rfl

theorem claimRes_fr (s : State) (oid : Nat) (pin : Nat) (n : Nat) (agent : Nat) :
    Fr [.ld] s (claimRes s oid pin n agent) := by
  unfold claimRes
  try dsimp only
  repeat'
    first
    | with_reducible exact Fr.refl _ _
    | with_reducible apply Fr.step ?_ (releaseRes_fr ..) ?_
    | with_reducible apply Fr.step ?_ (modLd_fr ..) ?_
    | with_reducible apply Fr.foldl ?_ (fun _ _ => ?_)
    | exact rfl

theorem timedOutSet_fr (s : State) (r : Request) :
    AFr [.pads, .ld, .tm] s (timedOutSet s r) := by
  unfold timedOutSet
  try dsimp only
  repeat'
    first
    | with_reducible exact Fr.refl _ _
    | with_reducible apply Fr.ite
    | with_reducible apply AFr.ite
    | with_reducible apply AFr.no
    | with_reducible apply AFr.ok
    | with_reducible apply sized_fr
    | with_reducible apply reserved_fr
    | with_reducible apply badRange_fr
    | with_reducible apply Fr.step ?_ (driveEvt_fr ..) ?_
    | with_reducible apply Fr.step ?_ (releaseRes_fr ..) ?_
    | with_reducible apply Fr.step ?_ (modTout_fr ..) ?_
    | with_reducible apply Fr.step ?_ (claimRes_fr ..) ?_
    | split
    | exact rfl

theorem execTimedOutSet_fr (via : Via) (s : State) :
    OFr [.pads, .hl, .mb, .ld, .tm, .sk, .se, .win0, .cnt, .outs] s (execTimedOutSet via s) := by
  unfold execTimedOutSet
  refine runCmd_fr rfl (fun s r => ?_)
  try dsimp only
  repeat'
    first
    | with_reducible exact Fr.refl _ _
    | with_reducible apply AFr.step ?_ (timedOutSet_fr ..) ?_
    | exact rfl

theorem outDone_fr (s : State) (n : Nat) :
    Fr [.hl, .tm, .cnt, .outs] s (outDone s n) := by
  unfold outDone
  try dsimp only
  repeat'
    first
    | with_reducible exact Fr.refl _ _
    | with_reducible apply Fr.step ?_ (raiseEvent_fr ..) ?_
    | with_reducible apply Fr.step ?_ (modTout_fr ..) ?_
    | exact rfl

theorem placeEdge_fr (s : State) (n : Nat) (t : Nat) :
    Fr [.tm] s (placeEdge s n t) := by
  unfold placeEdge
  try dsimp only
  repeat'
    first
    | with_reducible exact Fr.refl _ _
    | with_reducible apply Fr.step ?_ (modTout_fr ..) ?_
    | split
    | exact rfl

theorem outEdge_fr (s : State) (n : Nat) :
    Fr [.pads, .hl, .tm, .cnt, .outs] s (outEdge s n) := by
  unfold outEdge
  try dsimp only
  repeat'
    first
    | with_reducible exact Fr.refl _ _
    | with_reducible apply Fr.ite
    | with_reducible apply Fr.step ?_ (modTout_fr ..) ?_
    | with_reducible apply Fr.step ?_ (count_fr ..) ?_
    | with_reducible apply Fr.step ?_ (driveEvt_fr ..) ?_
    | with_reducible apply Fr.step ?_ (outDone_fr ..) ?_
    | with_reducible apply Fr.step ?_ (placeEdge_fr ..) ?_
    | exact rfl

theorem execTimedOutputEdge_fr (n : Fin 8) (s : State) :
    OFr [.pads, .hl, .tm, .cnt, .outs] s (execTimedOutputEdge n s) := by
  unfold execTimedOutputEdge
  refine run_fr rfl ?_
  try dsimp only
  repeat'
    first
    | with_reducible exact Fr.refl _ _
    | with_reducible apply Fr.ite
    | with_reducible apply Fr.step ?_ (outEdge_fr ..) ?_
    | exact rfl

theorem outStep_fr (s : State) (n : Nat) :
    Fr [.pads, .hl, .tm, .cnt, .outs] s (outStep s n) := by
  unfold outStep
  try dsimp only
  repeat'
    first
    | with_reducible exact Fr.refl _ _
    | with_reducible apply Fr.ite
    | with_reducible apply Fr.step ?_ (modTout_fr ..) ?_
    | with_reducible apply Fr.step ?_ (driveEvt_fr ..) ?_
    | with_reducible apply Fr.step ?_ (outDone_fr ..) ?_
    | with_reducible apply Fr.step ?_ (placeEdge_fr ..) ?_
    | exact rfl

theorem modCap_fr (s : State) (n : Nat) (f : Capture → Capture) :
    Fr [.tm] s (modCap s n f) := by
  unfold modCap
  try dsimp only
  repeat'
    first
    | with_reducible exact Fr.refl _ _
    | with_reducible apply Fr.step ?_ (modTm_fr ..) ?_
    | exact rfl

theorem capApply_fr (s : State) (agent : Nat) (n : Nat) (image : Bytes) :
    Fr [.ld, .tm, .objs] s (capApply s agent n image) := by
  unfold capApply
  try dsimp only
  repeat'
    first
    | with_reducible exact Fr.refl _ _
    | with_reducible apply Fr.ite
    | with_reducible apply Fr.step ?_ (objWrite_fr ..) ?_
    | with_reducible apply Fr.step ?_ (claimRes_fr ..) ?_
    | with_reducible apply Fr.step ?_ (releaseRes_fr ..) ?_
    | with_reducible apply Fr.step ?_ (modCap_fr ..) ?_
    | exact rfl

theorem execTimedCapWrite_fr (via : Via) (n : Fin 4) (image : Bytes) (s : State) :
    OFr [.pads, .ld, .tm, .objs] s (execTimedCapWrite via n image s) := by
  unfold execTimedCapWrite
  refine run_fr rfl ?_
  try dsimp only
  repeat'
    first
    | with_reducible exact Fr.refl _ _
    | with_reducible apply Fr.ite
    | with_reducible apply Fr.step ?_ (capApply_fr ..) ?_
    | split
    | exact rfl

theorem execCapture_fr (n : Fin 4) (rising : Bool) (sub : BitVec 7) (s : State) :
    OFr [.pads, .hl, .tm, .cnt, .outs] s (execCapture n rising sub s) := by
  unfold execCapture
  refine run_fr rfl ?_
  try dsimp only
  repeat'
    first
    | with_reducible exact Fr.refl _ _
    | with_reducible apply Fr.ite
    | with_reducible apply Fr.step ?_ (count_fr ..) ?_
    | with_reducible apply Fr.step ?_ (modCap_fr ..) ?_
    | with_reducible apply Fr.step ?_ (raiseEvent_fr ..) ?_
    | exact rfl

theorem execCaptureWindowClose_fr (n : Fin 4) (s : State) :
    OFr [.pads, .tm] s (execCaptureWindowClose n s) := by
  unfold execCaptureWindowClose
  refine run_fr rfl ?_
  try dsimp only
  repeat'
    first
    | with_reducible exact Fr.refl _ _
    | with_reducible apply Fr.ite
    | with_reducible apply Fr.step ?_ (modCap_fr ..) ?_
    | exact rfl

theorem execCaptureRead_fr (via : Via) (s : State) :
    OFr [.pads, .hl, .mb, .tm, .sk, .se, .win0, .cnt, .outs] s (execCaptureRead via s) := by
  unfold execCaptureRead
  refine runCmd_fr rfl (fun s r => ?_)
  try dsimp only
  repeat'
    first
    | with_reducible exact Fr.refl _ _
    | with_reducible apply Fr.ite
    | with_reducible apply AFr.ite
    | with_reducible apply AFr.no
    | with_reducible apply AFr.done
    | with_reducible apply sized_fr
    | with_reducible apply reserved_fr
    | with_reducible apply badRange_fr
    | with_reducible apply Fr.step ?_ (modCap_fr ..) ?_
    | exact rfl

theorem cbsUpdate_fr (s : State) (p : Nat) :
    Fr [.tx] s (cbsUpdate s p) := by
  unfold cbsUpdate
  try dsimp only
  repeat'
    first
    | with_reducible exact Fr.refl _ _
    | with_reducible apply Fr.step ?_ (modPrt_fr ..) ?_
    | exact rfl

theorem cbsAll_fr (s : State) :
    Fr [.tx] s (cbsAll s) := by
  unfold cbsAll
  try dsimp only
  repeat'
    first
    | with_reducible exact Fr.refl _ _
    | with_reducible apply Fr.step ?_ (cbsUpdate_fr ..) ?_
    | with_reducible apply Fr.foldl ?_ (fun _ _ => ?_)
    | split
    | exact rfl

theorem addCorrection_fr (s : State) (p : Nat) (b : Bytes) (o : Nat) (amount : Int) :
    Fr [.cnt, .freeIx] s (addCorrection s p b o amount).2 := by
  unfold addCorrection
  try dsimp only
  repeat'
    first
    | with_reducible exact Fr.refl _ _
    | with_reducible apply Fr.ite
    | with_reducible apply Fr.step ?_ (count_fr ..) ?_
    | with_reducible apply Fr.step ?_ (draw_fr ..) ?_
    | split
    | exact rfl

theorem addResidence_fr (s : State) (p : Nat) (b : Bytes) (o : Nat) (amount : Int) (cls : BitVec 2) :
    Fr [.cnt, .freeIx] s (addResidence s p b o amount cls).2.2 := by
  unfold addResidence
  try dsimp only
  repeat'
    first
    | with_reducible exact Fr.refl _ _
    | with_reducible apply Fr.step ?_ (addCorrection_fr ..) ?_
    | split
    | exact rfl

theorem tcEdit_fr (s : State) (p : Nat) (f : EgFrame) (st : Stamp) :
    Fr [.tm, .cnt, .freeIx] s (tcEdit s p f st).2.2 := by
  unfold tcEdit
  try dsimp only
  repeat'
    first
    | with_reducible exact Fr.refl _ _
    | with_reducible apply Fr.ite
    | with_reducible apply Fr.step ?_ (modTm_fr ..) ?_
    | with_reducible apply Fr.step ?_ (count_fr ..) ?_
    | with_reducible apply Fr.step ?_ (addResidence_fr ..) ?_
    | split
    | exact rfl

theorem secTake_fr (s : State) (p : Nat) (userLen : Nat) :
    OptPFr [.tx, .objs, .cnt] s (secTake s p userLen) := by
  unfold secTake
  dsimp only
  split
  · with_reducible exact OptPFr.none _ _
  · with_reducible apply OptPFr.ite
    · with_reducible exact OptPFr.none _ _
    · with_reducible apply OptPFr.some
      with_reducible apply Fr.step ?_ (count_fr ..) rfl
      with_reducible apply Fr.step ?_ (modPrt_fr ..) rfl
      with_reducible apply Fr.mono (objWrite_fr ..) rfl

theorem finish_fr (s : State) (p : Nat) (f : EgFrame) (e : PortEnd) :
    Fr [.qs, .tx, .freeIx] s (finish s p f e) := by
  unfold finish
  try dsimp only
  repeat'
    first
    | with_reducible exact Fr.refl _ _
    | with_reducible apply Fr.step ?_ (settle_fr ..) ?_
    | with_reducible apply Fr.step ?_ (modPrt_fr ..) ?_
    | split
    | exact rfl

theorem unqueue_fr (s : State) (p : Nat) (id : Nat) :
    Fr [.tx] s (unqueue s p id) := by
  unfold unqueue
  try dsimp only
  repeat'
    first
    | with_reducible exact Fr.refl _ _
    | with_reducible apply Fr.step ?_ (modPrt_fr ..) ?_
    | exact rfl

theorem beginAt_fr (s : State) (p : Nat) (f : EgFrame) (smd? : Option Nat) (st : Stamp) :
    Fr [.qs, .tm, .tx, .objs, .cnt, .freeIx] s (beginAt s p f smd? st) := by
  unfold beginAt
  try dsimp only
  repeat'
    first
    | with_reducible exact Fr.refl _ _
    | with_reducible apply Fr.ite
    | with_reducible apply Fr.step ?_ (cbsUpdate_fr ..) ?_
    | with_reducible apply Fr.step ?_ (unqueue_fr ..) ?_
    | with_reducible apply Fr.step ?_ (finish_fr ..) ?_
    | with_reducible apply Fr.step ?_ (count_fr ..) ?_
    | with_reducible apply Fr.step ?_ (modPrt_fr ..) ?_
    | with_reducible apply Fr.step ?_ (tcEdit_fr ..) ?_
    | with_reducible apply Fr.step ?_ (OptPFr.get (secTake_fr ..) ‹_›) ?_
    | split
    | exact rfl

theorem begin__fr (s : State) (p : Nat) (f : EgFrame) (smd? : Option Nat) :
    Fr [.qs, .tm, .tx, .objs, .cnt, .freeIx] s (begin_ s p f smd?) := by
  unfold begin_
  try dsimp only
  repeat'
    first
    | with_reducible exact Fr.refl _ _
    | with_reducible apply Fr.step ?_ (txStamp_fr ..) ?_
    | with_reducible apply Fr.step ?_ (beginAt_fr ..) ?_
    | exact rfl

theorem resume_fr (s : State) (p : Nat) (l : OnLine) :
    Fr [.tx, .cnt] s (resume s p l) := by
  unfold resume
  try dsimp only
  repeat'
    first
    | with_reducible exact Fr.refl _ _
    | with_reducible apply Fr.step ?_ (cbsUpdate_fr ..) ?_
    | with_reducible apply Fr.step ?_ (modPrt_fr ..) ?_
    | with_reducible apply Fr.step ?_ (count_fr ..) ?_
    | exact rfl

theorem startFuel_fr (x0 : Nat) (s : State) (x2 : Nat) :
    Fr [.qs, .tm, .tx, .objs, .cnt, .freeIx] s (startFuel x0 s x2) := by
  induction x0 generalizing s x2 with
  | zero => exact Fr.refl _ _
  | succ k ih =>
    unfold startFuel
    try dsimp only
    repeat'
      first
      | with_reducible exact Fr.refl _ _
      | with_reducible apply Fr.ite
      | with_reducible apply Fr.step ?_ (resume_fr ..) ?_
      | with_reducible apply Fr.step ?_ (modPrt_fr ..) ?_
      | with_reducible apply Fr.step ?_ (begin__fr ..) ?_
      | with_reducible apply Fr.step ?_ (ih ..) ?_
      | split
      | exact rfl

theorem keepBack_fr (s : State) (p : Nat) :
    Fr [.tx] s (keepBack s p) := by
  unfold keepBack
  try dsimp only
  repeat'
    first
    | with_reducible exact Fr.refl _ _
    | with_reducible apply Fr.ite
    | with_reducible apply Fr.step ?_ (modPrt_fr ..) ?_
    | split
    | exact rfl

theorem markInner_fr (s : State) (p : Nat) :
    Fr [.tx] s (markInner s p) := by
  unfold markInner
  try dsimp only
  repeat'
    first
    | with_reducible exact Fr.refl _ _
    | with_reducible apply Fr.ite
    | with_reducible apply Fr.step ?_ (modPrt_fr ..) ?_
    | split
    | exact rfl

theorem startNext_fr (s : State) (p : Nat) :
    Fr [.qs, .tm, .tx, .objs, .cnt, .freeIx] s (startNext s p) := by
  unfold startNext
  try dsimp only
  repeat'
    first
    | with_reducible exact Fr.refl _ _
    | with_reducible apply Fr.ite
    | with_reducible apply Fr.step ?_ (startFuel_fr ..) ?_
    | with_reducible apply Fr.step ?_ (cbsUpdate_fr ..) ?_
    | with_reducible apply Fr.step ?_ (keepBack_fr ..) ?_
    | with_reducible apply Fr.step ?_ (markInner_fr ..) ?_
    | exact rfl

theorem flushDown_fr (s : State) :
    Fr [.qs, .sk, .cnt, .outs] s (flushDown s) := by
  unfold flushDown
  try dsimp only
  repeat'
    first
    | with_reducible exact Fr.refl _ _
    | with_reducible apply Fr.ite
    | with_reducible apply Fr.step ?_ (modQue_fr ..) ?_
    | with_reducible apply Fr.step ?_ (kSend_fr ..) ?_
    | with_reducible apply Fr.foldl ?_ (fun _ _ => ?_)
    | split
    | exact rfl

theorem countEnd_fr (s : State) (p : Nat) (l : OnLine) :
    Fr [.cnt] s (countEnd s p l) := by
  unfold countEnd
  try dsimp only
  repeat'
    first
    | with_reducible exact Fr.refl _ _
    | with_reducible apply Fr.ite
    | with_reducible apply Fr.step ?_ (count_fr ..) ?_
    | with_reducible apply Fr.step ?_ (countN_fr ..) ?_
    | split
    | exact rfl

theorem endLine_fr (s : State) (p : Nat) (l : OnLine) (bad : Bool) :
    Fr [.qs, .tx, .sk, .cnt, .freeIx, .outs] s (endLine s p l bad) := by
  unfold endLine
  try dsimp only
  repeat'
    first
    | with_reducible exact Fr.refl _ _
    | with_reducible apply Fr.ite
    | with_reducible apply Fr.step ?_ (cbsUpdate_fr ..) ?_
    | with_reducible apply Fr.step ?_ (emit_fr ..) ?_
    | with_reducible apply Fr.step ?_ (modPrt_fr ..) ?_
    | with_reducible apply Fr.step ?_ (countEnd_fr ..) ?_
    | with_reducible apply Fr.step ?_ (stampRec_fr ..) ?_
    | with_reducible apply Fr.step ?_ (flushDown_fr ..) ?_
    | with_reducible apply Fr.step ?_ (settleLevels_fr ..) ?_
    | with_reducible apply Fr.step ?_ (finish_fr ..) ?_
    | split
    | exact rfl

theorem cutLine_fr (s : State) (p : Nat) (l : OnLine) (n : Nat) :
    Fr [.qs, .tx, .sk, .cnt, .freeIx, .outs] s (cutLine s p l n) := by
  unfold cutLine
  try dsimp only
  repeat'
    first
    | with_reducible exact Fr.refl _ _
    | with_reducible apply Fr.ite
    | with_reducible apply Fr.step ?_ (cbsUpdate_fr ..) ?_
    | with_reducible apply Fr.step ?_ (emit_fr ..) ?_
    | with_reducible apply Fr.step ?_ (count_fr ..) ?_
    | with_reducible apply Fr.step ?_ (flushDown_fr ..) ?_
    | with_reducible apply Fr.step ?_ (finish_fr ..) ?_
    | with_reducible apply Fr.step ?_ (modPrt_fr ..) ?_
    | exact rfl

theorem enqueue_fr (s : State) (p : Nat) (f : EgFrame) :
    Fr [.tx] s (enqueue s p f) := by
  unfold enqueue
  try dsimp only
  repeat'
    first
    | with_reducible exact Fr.refl _ _
    | with_reducible apply Fr.step ?_ (cbsUpdate_fr ..) ?_
    | with_reducible apply Fr.step ?_ (modTx_fr ..) ?_
    | with_reducible apply Fr.step ?_ (modPrt_fr ..) ?_
    | exact rfl

theorem sendOwn_fr (s : State) (p : Nat) (tc : Nat) (express : Bool) (data : Bytes) :
    Fr [.tx] s (sendOwn s p tc express data) := by
  unfold sendOwn
  try dsimp only
  repeat'
    first
    | with_reducible exact Fr.refl _ _
    | with_reducible apply Fr.ite
    | with_reducible apply Fr.step ?_ (enqueue_fr ..) ?_
    | exact rfl

theorem sendOffer_fr (s : State) (p : Nat) :
    Fr [.tx] s (sendOffer s p) := by
  unfold sendOffer
  try dsimp only
  repeat'
    first
    | with_reducible exact Fr.refl _ _
    | with_reducible apply Fr.step ?_ (sendOwn_fr ..) ?_
    | exact rfl

theorem mergeActive_fr (s : State) (p : Nat) :
    Fr [.tx, .freeIx] s (mergeActive s p) := by
  unfold mergeActive
  try dsimp only
  repeat'
    first
    | with_reducible exact Fr.refl _ _
    | with_reducible apply Fr.ite
    | with_reducible apply Fr.step ?_ (modPrt_fr ..) ?_
    | with_reducible apply Fr.step ?_ (draw_fr ..) ?_
    | with_reducible apply Fr.step ?_ (sendOffer_fr ..) ?_
    | exact rfl

theorem mergeStart_fr (s : State) (p : Nat) :
    Fr [.tx, .freeIx] s (mergeStart s p) := by
  unfold mergeStart
  try dsimp only
  repeat'
    first
    | with_reducible exact Fr.refl _ _
    | with_reducible apply Fr.ite
    | with_reducible apply Fr.step ?_ (modPrt_fr ..) ?_
    | with_reducible apply Fr.step ?_ (mergeActive_fr ..) ?_
    | exact rfl

theorem takeCells_fr (s : State) (q : Nat) (idx : Nat) (ps : List Nat) (n : Nat) :
    Fr [.qs, .tx] s (takeCells s q idx ps n) := by
  unfold takeCells
  try dsimp only
  repeat'
    first
    | with_reducible exact Fr.refl _ _
    | with_reducible apply Fr.step ?_ (modPrt_fr ..) ?_
    | with_reducible apply Fr.step ?_ (modRec_fr ..) ?_
    | with_reducible apply Fr.foldl ?_ (fun _ _ => ?_)
    | exact rfl

theorem setTalk_fr (s : State) (h : Nat) (v : BitVec 16) :
    Fr [.str] s (setTalk s h v) := by
  unfold setTalk
  try dsimp only
  repeat'
    first
    | with_reducible exact Fr.refl _ _
    | with_reducible apply Fr.step ?_ (modStr_fr ..) ?_
    | exact rfl

theorem sendAssign_fr (s : State) (h : Nat) (r : TxRec) :
    Fr [.sk, .cnt, .outs] s (sendAssign s h r) := by
  unfold sendAssign
  try dsimp only
  repeat'
    first
    | with_reducible exact Fr.refl _ _
    | with_reducible apply Fr.step ?_ (kSend_fr ..) ?_
    | exact rfl

theorem digestMismatch_fr (s : State) (h : Nat) :
    Fr [.pads, .hl, .qs, .mb, .ld, .tm, .tx, .sg, .sk, .tw, .fs, .se, .mg, .objs, .win0, .cnt, .freeIx, .outs] s (digestMismatch s h) := by
  unfold digestMismatch
  try dsimp only
  repeat'
    first
    | with_reducible exact Fr.refl _ _
    | with_reducible apply Fr.ite
    | with_reducible apply Fr.step ?_ (count_fr ..) ?_
    | with_reducible apply Fr.step ?_ (modTw_fr ..) ?_
    | with_reducible apply Fr.step ?_ (fault_fr ..) ?_
    | exact rfl

theorem meetAssign_fr (s : State) (q : Nat) (idx : Nat) (h : Nat) (seq : BitVec 16) (digest : BitVec 64) :
    Fr [.pads, .hl, .qs, .mb, .ld, .tm, .tx, .str, .sg, .sk, .tw, .fs, .se, .mg, .objs, .win0, .cnt, .freeIx, .outs] s (meetAssign s q idx h seq digest) := by
  unfold meetAssign
  try dsimp only
  repeat'
    first
    | with_reducible exact Fr.refl _ _
    | with_reducible apply Fr.ite
    | with_reducible apply Fr.step ?_ (count_fr ..) ?_
    | with_reducible apply Fr.step ?_ (modTw_fr ..) ?_
    | with_reducible apply Fr.step ?_ (setTalk_fr ..) ?_
    | with_reducible apply Fr.step ?_ (modRec_fr ..) ?_
    | with_reducible apply Fr.step ?_ (digestMismatch_fr ..) ?_
    | split
    | exact rfl

theorem talkerStaged_fr (s : State) (q : Nat) (idx : Nat) :
    Fr [.pads, .hl, .qs, .mb, .ld, .tm, .tx, .str, .sg, .sk, .tw, .fs, .se, .mg, .objs, .win0, .cnt, .freeIx, .outs] s (talkerStaged s q idx) := by
  unfold talkerStaged
  try dsimp only
  repeat'
    first
    | with_reducible exact Fr.refl _ _
    | with_reducible apply Fr.ite
    | with_reducible apply Fr.step ?_ (sendAssign_fr ..) ?_
    | with_reducible apply Fr.step ?_ (meetAssign_fr ..) ?_
    | with_reducible apply Fr.step ?_ (modTw_fr ..) ?_
    | split
    | exact rfl

theorem sendDown_fr (s : State) (q : Nat) (m : Nat) (r : TxRec) :
    Fr [.sk, .cnt, .outs] s (sendDown s q m r) := by
  unfold sendDown
  try dsimp only
  repeat'
    first
    | with_reducible exact Fr.refl _ _
    | with_reducible apply Fr.step ?_ (kSend_fr ..) ?_
    | exact rfl

theorem takeDesc_fr (s : State) (idx : Nat) (d : Bytes) (elsewhere : Bool) :
    Fr [.str, .cnt] s (takeDesc s idx d elsewhere).2 := by
  unfold takeDesc
  try dsimp only
  repeat'
    first
    | with_reducible exact Fr.refl _ _
    | with_reducible apply Fr.ite
    | with_reducible apply Fr.step ?_ (count_fr ..) ?_
    | with_reducible apply Fr.step ?_ (setTalk_fr ..) ?_
    | split
    | exact rfl

end Sys2Proof.Machine
end

