-- ==== Sys2Proof/Laws/FootprintFrames.lean ====
section
/-! SUPPORT. The footprint of every operation: transmission, calibration, DMA, classification and stream elimination. -/

namespace Sys2Proof.Machine

set_option linter.all false
set_option simprocs false

theorem execFrameTransmitStart_fr (p : Fin 6) (s : State) :
    OFr [.pads, .qs, .tm, .tx, .sk, .objs, .cnt, .freeIx, .outs] s (execFrameTransmitStart p s) := by
  unfold execFrameTransmitStart
  refine run_fr rfl ?_
  try dsimp only
  repeat'
    first
    | with_reducible exact Fr.refl _ _
    | with_reducible apply Fr.step ?_ (flushDown_fr ..) ?_
    | with_reducible apply Fr.step ?_ (startNext_fr ..) ?_
    | exact rfl

theorem execTransmissionEnd_fr (p : Fin 6) (s : State) :
    OFr [.pads, .qs, .tx, .sk, .cnt, .freeIx, .outs] s (execTransmissionEnd p s) := by
  unfold execTransmissionEnd
  refine run_fr rfl ?_
  try dsimp only
  repeat'
    first
    | with_reducible exact Fr.refl _ _
    | with_reducible apply Fr.ite
    | with_reducible apply Fr.step ?_ (endLine_fr ..) ?_
    | with_reducible apply Fr.step ?_ (settleLevels_fr ..) ?_
    | with_reducible apply Fr.step ?_ (cutLine_fr ..) ?_
    | split
    | exact rfl

theorem execPreemption_fr (p : Fin 6) (sent : Nat) (s : State) :
    OFr [.pads, .qs, .tx, .sk, .cnt, .freeIx, .outs] s (execPreemption p sent s) := by
  unfold execPreemption
  refine run_fr rfl ?_
  try dsimp only
  repeat'
    first
    | with_reducible exact Fr.refl _ _
    | with_reducible apply Fr.ite
    | with_reducible apply Fr.step ?_ (flushDown_fr ..) ?_
    | with_reducible apply Fr.step ?_ (settleLevels_fr ..) ?_
    | with_reducible apply Fr.step ?_ (cutLine_fr ..) ?_
    | with_reducible apply Fr.step ?_ (cbsUpdate_fr ..) ?_
    | split
    | exact rfl

theorem countOverrun_fr (s : State) (p : Nat) :
    Fr [.tx, .cnt] s (countOverrun s p) := by
  unfold countOverrun
  try dsimp only
  repeat'
    first
    | with_reducible exact Fr.refl _ _
    | with_reducible apply Fr.step ?_ (count_fr ..) ?_
    | with_reducible apply Fr.step ?_ (modPrt_fr ..) ?_
    | exact rfl

theorem execGateOverrun_fr (p : Fin 6) (sent : Nat) (s : State) :
    OFr [.pads, .qs, .tx, .sk, .cnt, .freeIx, .outs] s (execGateOverrun p sent s) := by
  unfold execGateOverrun
  refine run_fr rfl ?_
  try dsimp only
  repeat'
    first
    | with_reducible exact Fr.refl _ _
    | with_reducible apply Fr.ite
    | with_reducible apply Fr.step ?_ (countOverrun_fr ..) ?_
    | with_reducible apply Fr.step ?_ (flushDown_fr ..) ?_
    | with_reducible apply Fr.step ?_ (settleLevels_fr ..) ?_
    | with_reducible apply Fr.step ?_ (cutLine_fr ..) ?_
    | with_reducible apply Fr.step ?_ (endLine_fr ..) ?_
    | split
    | exact rfl

theorem cycleStart_fr (s : State) (p : Nat) :
    Fr [.tx, .cnt] s (cycleStart s p) := by
  unfold cycleStart
  try dsimp only
  repeat'
    first
    | with_reducible exact Fr.refl _ _
    | with_reducible apply Fr.step ?_ (modPrt_fr ..) ?_
    | with_reducible apply Fr.step ?_ (resume_fr ..) ?_
    | split
    | exact rfl

theorem execGateEntryStart_fr (p : Fin 6) (copyAgrees : Bool) (s : State) :
    OFr [.pads, .hl, .qs, .mb, .ld, .tm, .tx, .sg, .sk, .tw, .fs, .se, .mg, .objs, .win0, .cnt, .freeIx, .outs] s (execGateEntryStart p copyAgrees s) := by
  unfold execGateEntryStart
  refine run_fr rfl ?_
  try dsimp only
  repeat'
    first
    | with_reducible exact Fr.refl _ _
    | with_reducible apply Fr.ite
    | with_reducible apply Fr.step ?_ (cbsUpdate_fr ..) ?_
    | with_reducible apply Fr.step ?_ (modPrt_fr ..) ?_
    | with_reducible apply Fr.step ?_ (modTx_fr ..) ?_
    | with_reducible apply Fr.step ?_ (count_fr ..) ?_
    | with_reducible apply Fr.step ?_ (fault_fr ..) ?_
    | with_reducible apply Fr.step ?_ (cycleStart_fr ..) ?_
    | exact rfl

theorem execHold_fr (p : Fin 6) (s : State) :
    OFr [.pads, .tx] s (execHold p s) := by
  unfold execHold
  refine run_fr rfl ?_
  try dsimp only
  repeat'
    first
    | with_reducible exact Fr.refl _ _
    | with_reducible apply Fr.ite
    | with_reducible apply Fr.step ?_ (modPrt_fr ..) ?_
    | exact rfl

theorem readyOn_fr (s : State) (q : Nat) (idx : Nat) (p : Nat) (r : TxRec) :
    Fr [.qs, .tx, .cnt, .freeIx] s (readyOn s q idx p r) := by
  unfold readyOn
  try dsimp only
  repeat'
    first
    | with_reducible exact Fr.refl _ _
    | with_reducible apply Fr.ite
    | with_reducible apply Fr.step ?_ (modRec_fr ..) ?_
    | with_reducible apply Fr.step ?_ (settle_fr ..) ?_
    | with_reducible apply Fr.step ?_ (count_fr ..) ?_
    | with_reducible apply Fr.step ?_ (enqueue_fr ..) ?_
    | exact rfl

theorem ripen_fr (s : State) (q : Nat) (idx : Nat) (p : Nat) (r : TxRec) :
    Fr [.qs, .tx, .cnt, .freeIx] s (ripen s q idx p r) := by
  unfold ripen
  try dsimp only
  repeat'
    first
    | with_reducible exact Fr.refl _ _
    | with_reducible apply Fr.ite
    | with_reducible apply Fr.step ?_ (modRec_fr ..) ?_
    | with_reducible apply Fr.step ?_ (readyOn_fr ..) ?_
    | split
    | exact rfl

theorem ripenRest_fr (s : State) (q : Nat) (p : Nat) :
    Fr [.qs, .tx, .cnt, .freeIx] s (ripenRest s q p) := by
  unfold ripenRest
  try dsimp only
  repeat'
    first
    | with_reducible exact Fr.refl _ _
    | with_reducible apply Fr.ite
    | with_reducible apply Fr.step ?_ (ripen_fr ..) ?_
    | with_reducible apply Fr.step ?_ (modRec_fr ..) ?_
    | with_reducible apply Fr.foldl ?_ (fun _ _ => ?_)
    | split
    | exact rfl

theorem stageDown_fr (s : State) (q : Nat) (idx : Nat) :
    Fr [.pads, .hl, .qs, .mb, .ld, .tm, .tx, .str, .sg, .sk, .tw, .fs, .se, .mg, .objs, .win0, .cnt, .freeIx, .outs] s (stageDown s q idx) := by
  unfold stageDown
  try dsimp only
  repeat'
    first
    | with_reducible exact Fr.refl _ _
    | with_reducible apply Fr.ite
    | with_reducible apply Fr.step ?_ (talkerStaged_fr ..) ?_
    | with_reducible apply Fr.step ?_ (takeCells_fr ..) ?_
    | with_reducible apply Fr.step ?_ (modRec_fr ..) ?_
    | split
    | exact rfl

theorem execParisonReady_fr (q : Fin 64) (idx : BitVec 12) (p : Fin 6) (s : State) :
    OFr [.pads, .hl, .qs, .mb, .ld, .tm, .tx, .str, .sg, .sk, .tw, .fs, .se, .mg, .objs, .win0, .cnt, .freeIx, .outs] s (execParisonReady q idx p s) := by
  unfold execParisonReady
  refine run_fr rfl ?_
  try dsimp only
  repeat'
    first
    | with_reducible exact Fr.refl _ _
    | with_reducible apply Fr.step ?_ (flushDown_fr ..) ?_
    | with_reducible apply Fr.step ?_ (stageDown_fr ..) ?_
    | with_reducible apply Fr.step ?_ (ripenRest_fr ..) ?_
    | with_reducible apply Fr.step ?_ (ripen_fr ..) ?_
    | split
    | exact rfl

theorem withheldEnd_fr (s : State) (q : Nat) (idx : Nat) (r : TxRec) :
    Fr [.qs, .tx, .tw, .cnt] s (withheldEnd s q idx r) := by
  unfold withheldEnd
  try dsimp only
  repeat'
    first
    | with_reducible exact Fr.refl _ _
    | with_reducible apply Fr.ite
    | with_reducible apply Fr.step ?_ (count_fr ..) ?_
    | with_reducible apply Fr.step ?_ (modTw_fr ..) ?_
    | with_reducible apply Fr.step ?_ (endRec_fr ..) ?_
    | exact rfl

theorem lateOn_fr (s : State) (q : Nat) (idx : Nat) (p : Nat) (r : TxRec) :
    Fr [.qs, .tx, .tw, .cnt, .freeIx] s (lateOn s q idx p r) := by
  unfold lateOn
  try dsimp only
  repeat'
    first
    | with_reducible exact Fr.refl _ _
    | with_reducible apply Fr.ite
    | with_reducible apply Fr.step ?_ (withheldEnd_fr ..) ?_
    | with_reducible apply Fr.step ?_ (modPrt_fr ..) ?_
    | with_reducible apply Fr.step ?_ (modRec_fr ..) ?_
    | with_reducible apply Fr.step ?_ (settle_fr ..) ?_
    | with_reducible apply Fr.step ?_ (count_fr ..) ?_
    | exact rfl

theorem execParisonLate_fr (q : Fin 64) (idx : BitVec 12) (p : Fin 6) (s : State) :
    OFr [.pads, .qs, .tx, .sk, .tw, .cnt, .freeIx, .outs] s (execParisonLate q idx p s) := by
  unfold execParisonLate
  refine run_fr rfl ?_
  try dsimp only
  repeat'
    first
    | with_reducible exact Fr.refl _ _
    | with_reducible apply Fr.step ?_ (flushDown_fr ..) ?_
    | with_reducible apply Fr.step ?_ (lateOn_fr ..) ?_
    | with_reducible apply Fr.step ?_ (ripenRest_fr ..) ?_
    | split
    | exact rfl

theorem execSmdVReceive_fr (p : Fin 6) (s : State) :
    OFr [.pads, .tx] s (execSmdVReceive p s) := by
  unfold execSmdVReceive
  refine run_fr rfl ?_
  try dsimp only
  repeat'
    first
    | with_reducible exact Fr.refl _ _
    | with_reducible apply Fr.ite
    | with_reducible apply Fr.step ?_ (modPrt_fr ..) ?_
    | exact rfl

theorem execSmdRReceive_fr (p : Fin 6) (addFragSize : Fin 4) (s : State) :
    OFr [.pads, .tx, .freeIx] s (execSmdRReceive p addFragSize s) := by
  unfold execSmdRReceive
  refine run_fr rfl ?_
  try dsimp only
  repeat'
    first
    | with_reducible exact Fr.refl _ _
    | with_reducible apply Fr.ite
    | with_reducible apply Fr.step ?_ (mergeActive_fr ..) ?_
    | with_reducible apply Fr.step ?_ (modPrt_fr ..) ?_
    | exact rfl

theorem execVerifyTimeout_fr (p : Fin 6) (s : State) :
    OFr [.pads, .tx, .cnt] s (execVerifyTimeout p s) := by
  unfold execVerifyTimeout
  refine run_fr rfl ?_
  try dsimp only
  repeat'
    first
    | with_reducible exact Fr.refl _ _
    | with_reducible apply Fr.ite
    | with_reducible apply Fr.step ?_ (modPrt_fr ..) ?_
    | with_reducible apply Fr.step ?_ (count_fr ..) ?_
    | exact rfl

theorem takeOffer_fr (s : State) (p : Nat) (f : Bytes) :
    Fr [.tx, .cnt] s (takeOffer s p f) := by
  unfold takeOffer
  try dsimp only
  repeat'
    first
    | with_reducible exact Fr.refl _ _
    | with_reducible apply Fr.ite
    | with_reducible apply Fr.step ?_ (count_fr ..) ?_
    | with_reducible apply Fr.step ?_ (modPrt_fr ..) ?_
    | with_reducible apply Fr.step ?_ (sendOwn_fr ..) ?_
    | exact rfl

theorem execSpOfferReceive_fr (p : Fin 6) (frame : Bytes) (s : State) :
    OFr [.pads, .tx, .cnt] s (execSpOfferReceive p frame s) := by
  unfold execSpOfferReceive
  refine run_fr rfl ?_
  try dsimp only
  repeat'
    first
    | with_reducible exact Fr.refl _ _
    | with_reducible apply Fr.ite
    | with_reducible apply Fr.step ?_ (takeOffer_fr ..) ?_
    | exact rfl

theorem spFallback_fr (s : State) (p : Nat) (why : Nat) :
    Fr [.pads, .hl, .qs, .mb, .ld, .tm, .tx, .sg, .sk, .tw, .fs, .se, .mg, .objs, .win0, .cnt, .freeIx, .outs] s (spFallback s p why) := by
  unfold spFallback
  try dsimp only
  repeat'
    first
    | with_reducible exact Fr.refl _ _
    | with_reducible apply Fr.step ?_ (fault_fr ..) ?_
    | with_reducible apply Fr.step ?_ (modPrt_fr ..) ?_
    | exact rfl

theorem takeAnswer_fr (s : State) (p : Nat) (f : Bytes) :
    Fr [.pads, .hl, .qs, .mb, .ld, .tm, .tx, .sg, .sk, .tw, .fs, .se, .mg, .objs, .win0, .cnt, .freeIx, .outs] s (takeAnswer s p f) := by
  unfold takeAnswer
  try dsimp only
  repeat'
    first
    | with_reducible exact Fr.refl _ _
    | with_reducible apply Fr.ite
    | with_reducible apply Fr.step ?_ (count_fr ..) ?_
    | with_reducible apply Fr.step ?_ (settleLevels_fr ..) ?_
    | with_reducible apply Fr.step ?_ (modPrt_fr ..) ?_
    | with_reducible apply Fr.step ?_ (spFallback_fr ..) ?_
    | exact rfl

theorem execSpAnswerReceive_fr (p : Fin 6) (frame : Bytes) (s : State) :
    OFr [.pads, .hl, .qs, .mb, .ld, .tm, .tx, .sg, .sk, .tw, .fs, .se, .mg, .objs, .win0, .cnt, .freeIx, .outs] s (execSpAnswerReceive p frame s) := by
  unfold execSpAnswerReceive
  refine run_fr rfl ?_
  try dsimp only
  repeat'
    first
    | with_reducible exact Fr.refl _ _
    | with_reducible apply Fr.ite
    | with_reducible apply Fr.step ?_ (takeAnswer_fr ..) ?_
    | exact rfl

theorem execSpOfferRepeat_fr (p : Fin 6) (s : State) :
    OFr [.pads, .hl, .qs, .mb, .ld, .tm, .tx, .sg, .sk, .tw, .fs, .se, .mg, .objs, .win0, .cnt, .freeIx, .outs] s (execSpOfferRepeat p s) := by
  unfold execSpOfferRepeat
  refine run_fr rfl ?_
  try dsimp only
  repeat'
    first
    | with_reducible exact Fr.refl _ _
    | with_reducible apply Fr.ite
    | with_reducible apply Fr.step ?_ (sendOffer_fr ..) ?_
    | with_reducible apply Fr.step ?_ (modPrt_fr ..) ?_
    | with_reducible apply Fr.step ?_ (spFallback_fr ..) ?_
    | exact rfl

theorem setPause_fr (s : State) (p : Nat) (q : Nat) (quanta : Nat) :
    Fr [.tx] s (setPause s p q quanta) := by
  unfold setPause
  try dsimp only
  repeat'
    first
    | with_reducible exact Fr.refl _ _
    | with_reducible apply Fr.ite
    | with_reducible apply Fr.step ?_ (modPrt_fr ..) ?_
    | exact rfl

theorem takePause_fr (s : State) (p : Nat) (f : Bytes) :
    Fr [.tx, .cnt] s (takePause s p f) := by
  unfold takePause
  try dsimp only
  repeat'
    first
    | with_reducible exact Fr.refl _ _
    | with_reducible apply Fr.ite
    | with_reducible apply Fr.step ?_ (count_fr ..) ?_
    | with_reducible apply Fr.step ?_ (setPause_fr ..) ?_
    | with_reducible apply Fr.foldl ?_ (fun _ _ => ?_)
    | exact rfl

theorem execPauseReceive_fr (p : Fin 6) (frame : Bytes) (s : State) :
    OFr [.pads, .tx, .cnt] s (execPauseReceive p frame s) := by
  unfold execPauseReceive
  refine run_fr rfl ?_
  try dsimp only
  repeat'
    first
    | with_reducible exact Fr.refl _ _
    | with_reducible apply Fr.ite
    | with_reducible apply Fr.step ?_ (takePause_fr ..) ?_
    | exact rfl

theorem execPauseExpiry_fr (p : Fin 6) (tc : Fin 8) (s : State) :
    OFr [.pads, .tx] s (execPauseExpiry p tc s) := by
  unfold execPauseExpiry
  refine run_fr rfl ?_
  try dsimp only
  repeat'
    first
    | with_reducible exact Fr.refl _ _
    | with_reducible apply Fr.step ?_ (modPrt_fr ..) ?_
    | exact rfl

theorem execLaneRelock_fr (lane : Fin 8) (gbps : Nat) (s : State) :
    OFr [.pads, .hl, .qs, .mb, .ld, .tm, .cal, .tx, .sg, .sk, .tw, .fs, .se, .mg, .objs, .win0, .cnt, .freeIx, .outs] s (execLaneRelock lane gbps s) := by
  unfold execLaneRelock
  refine run_fr rfl ?_
  try dsimp only
  repeat'
    first
    | with_reducible exact Fr.refl _ _
    | with_reducible apply Fr.ite
    | with_reducible apply Fr.step ?_ (countN_fr ..) ?_
    | with_reducible apply Fr.step ?_ (modPrt_fr ..) ?_
    | with_reducible apply Fr.step ?_ (settleLevels_fr ..) ?_
    | with_reducible apply Fr.step ?_ (relockPts_fr ..) ?_
    | with_reducible apply Fr.step ?_ (linkFault_fr ..) ?_
    | with_reducible apply Fr.step ?_ (mergeStart_fr ..) ?_
    | with_reducible apply Fr.step ?_ (abortLine_fr ..) ?_
    | exact rfl

theorem execCalStatus_fr (via : Via) (s : State) :
    OFr [.pads, .hl, .mb, .sk, .se, .win0, .cnt, .outs] s (execCalStatus via s) := by
  unfold execCalStatus
  refine runCmd_fr rfl (fun s r => ?_)
  try dsimp only
  repeat'
    first
    | with_reducible exact Fr.refl _ _
    | with_reducible apply Fr.ite
    | with_reducible apply AFr.ite
    | with_reducible apply AFr.no
    | with_reducible apply AFr.ok
    | with_reducible apply sized_fr
    | with_reducible apply reserved_fr
    | with_reducible apply badRange_fr
    | split

theorem defer_fr (s : State) (i : Nat) (why : Nat) :
    Fr [.cal] s (defer s i why) := by
  unfold defer
  try dsimp only
  repeat'
    first
    | with_reducible exact Fr.refl _ _
    | with_reducible apply Fr.step ?_ (modCalPort_fr ..) ?_
    | exact rfl

theorem policy_fr (s : State) (i : Nat) (action : Nat) (trigger : Nat) :
    Fr [.cal] s (policy s i action trigger) := by
  unfold policy
  try dsimp only
  repeat'
    first
    | with_reducible exact Fr.refl _ _
    | with_reducible apply Fr.ite
    | with_reducible apply Fr.step ?_ (modCalPort_fr ..) ?_
    | with_reducible apply Fr.step ?_ (modCalPt_fr ..) ?_
    | with_reducible apply Fr.step ?_ (defer_fr ..) ?_
    | with_reducible apply Fr.step ?_ (retryNow_fr ..) ?_
    | with_reducible apply Fr.step ?_ (keepPast_fr ..) ?_
    | with_reducible apply Fr.foldl ?_ (fun _ _ => ?_)
    | exact rfl

theorem execCalPolicy_fr (via : Via) (s : State) :
    OFr [.pads, .hl, .mb, .cal, .sk, .se, .win0, .cnt, .outs] s (execCalPolicy via s) := by
  unfold execCalPolicy
  refine runCmd_fr rfl (fun s r => ?_)
  try dsimp only
  repeat'
    first
    | with_reducible exact Fr.refl _ _
    | with_reducible apply Fr.ite
    | with_reducible apply AFr.ite
    | with_reducible apply AFr.no
    | with_reducible apply AFr.ok
    | with_reducible apply sized_fr
    | with_reducible apply reserved_fr
    | with_reducible apply badRange_fr
    | with_reducible apply Fr.step ?_ (policy_fr ..) ?_
    | with_reducible apply Fr.foldl ?_ (fun _ _ => ?_)
    | exact rfl

theorem execCodeDensityTest_fr (conv : Fin 8) (ok : Bool) (s : State) :
    OFr [.pads, .hl, .qs, .mb, .ld, .tm, .cal, .tx, .sg, .sk, .tw, .fs, .se, .mg, .objs, .win0, .cnt, .freeIx, .outs] s (execCodeDensityTest conv ok s) := by
  unfold execCodeDensityTest
  refine run_fr rfl ?_
  try dsimp only
  repeat'
    first
    | with_reducible exact Fr.refl _ _
    | with_reducible apply Fr.ite
    | with_reducible apply Fr.step ?_ (trefFault_fr ..) ?_
    | with_reducible apply Fr.step ?_ (modCal_fr ..) ?_
    | exact rfl

theorem execCalibrationPassStart_fr (pt : Fin 49) (s : State) :
    OFr [.pads, .cal] s (execCalibrationPassStart pt s) := by
  unfold execCalibrationPassStart
  refine run_fr rfl ?_
  try dsimp only
  repeat'
    first
    | with_reducible exact Fr.refl _ _
    | with_reducible apply Fr.ite
    | with_reducible apply Fr.step ?_ (defer_fr ..) ?_
    | with_reducible apply Fr.step ?_ (modCalPort_fr ..) ?_
    | with_reducible apply Fr.step ?_ (modCalPt_fr ..) ?_
    | with_reducible apply Fr.step ?_ (passRuns_fr ..) ?_
    | split
    | exact rfl

theorem acceptPass_fr (s : State) (pt : Nat) (d : Int) :
    Fr [.pads, .hl, .qs, .mb, .ld, .tm, .cal, .tx, .sg, .sk, .tw, .fs, .se, .mg, .objs, .win0, .cnt, .freeIx, .outs] s (acceptPass s pt d) := by
  unfold acceptPass
  try dsimp only
  repeat'
    first
    | with_reducible exact Fr.refl _ _
    | with_reducible apply Fr.step ?_ (modCalPt_fr ..) ?_
    | with_reducible apply Fr.step ?_ (modCalPort_fr ..) ?_
    | with_reducible apply Fr.step ?_ (staleFaults_fr ..) ?_
    | with_reducible apply Fr.step ?_ (keepPast_fr ..) ?_
    | exact rfl

theorem dropPass_fr (s : State) (pt : Nat) :
    Fr [.cal] s (dropPass s pt) := by
  unfold dropPass
  try dsimp only
  repeat'
    first
    | with_reducible exact Fr.refl _ _
    | with_reducible apply Fr.step ?_ (modCalPt_fr ..) ?_
    | exact rfl

theorem thinReason_fr (s : State) (pt : Nat) :
    Fr [.freeIx] s (thinReason s pt).2 := by
  unfold thinReason
  try dsimp only
  repeat'
    first
    | with_reducible exact Fr.refl _ _
    | with_reducible apply Fr.ite
    | with_reducible apply Fr.step ?_ (draw_fr ..) ?_
    | split
    | exact rfl

theorem execCalibrationPassEnd_fr (pt : Fin 49) (samples : List Int) (s : State) :
    OFr [.pads, .hl, .qs, .mb, .ld, .tm, .cal, .tx, .sg, .sk, .tw, .fs, .se, .mg, .objs, .win0, .cnt, .freeIx, .outs] s (execCalibrationPassEnd pt samples s) := by
  unfold execCalibrationPassEnd
  refine run_fr rfl ?_
  try dsimp only
  repeat'
    first
    | with_reducible exact Fr.refl _ _
    | with_reducible apply Fr.ite
    | with_reducible apply Fr.step ?_ (defer_fr ..) ?_
    | with_reducible apply Fr.step ?_ (modCalPt_fr ..) ?_
    | with_reducible apply Fr.step ?_ (modCalPort_fr ..) ?_
    | with_reducible apply Fr.step ?_ (count_fr ..) ?_
    | with_reducible apply Fr.step ?_ (acceptPass_fr ..) ?_
    | with_reducible apply Fr.step ?_ (fault_fr ..) ?_
    | with_reducible apply Fr.step ?_ (dropPass_fr ..) ?_
    | with_reducible apply Fr.step ?_ (thinReason_fr ..) ?_
    | split
    | exact rfl

theorem execCalStale_fr (pt : Fin 49) (s : State) :
    OFr [.pads, .hl, .qs, .mb, .ld, .tm, .cal, .tx, .sg, .sk, .tw, .fs, .se, .mg, .objs, .win0, .cnt, .freeIx, .outs] s (execCalStale pt s) := by
  unfold execCalStale
  refine run_fr rfl ?_
  try dsimp only
  repeat'
    first
    | with_reducible exact Fr.refl _ _
    | with_reducible apply Fr.ite
    | with_reducible apply Fr.step ?_ (modCalPt_fr ..) ?_
    | with_reducible apply Fr.step ?_ (fault_fr ..) ?_
    | with_reducible apply Fr.step ?_ (staleFaults_fr ..) ?_
    | with_reducible apply Fr.step ?_ (keepPast_fr ..) ?_
    | exact rfl

theorem usesBrim_fr (s : State) (p : Nat) (echo : Bool) :
    Fr [.cal] s (usesBrim s p echo) := by
  unfold usesBrim
  try dsimp only
  repeat'
    first
    | with_reducible exact Fr.refl _ _
    | with_reducible apply Fr.ite
    | with_reducible apply Fr.step ?_ (modCalPort_fr ..) ?_
    | split
    | exact rfl

theorem sendLehr_fr (s : State) (p : Nat) (mk : Stamp → Bytes) :
    Fr [.qs, .tm, .tx, .objs, .cnt, .freeIx] s (sendLehr s p mk).2 := by
  unfold sendLehr
  try dsimp only
  repeat'
    first
    | with_reducible exact Fr.refl _ _
    | with_reducible apply Fr.step ?_ (txStamp_fr ..) ?_
    | with_reducible apply Fr.step ?_ (modTx_fr ..) ?_
    | with_reducible apply Fr.step ?_ (beginAt_fr ..) ?_
    | exact rfl

theorem unanswered_fr (s : State) (p : Nat) :
    Fr [.pads, .hl, .qs, .mb, .ld, .tm, .cal, .tx, .sg, .sk, .tw, .fs, .se, .mg, .objs, .win0, .cnt, .freeIx, .outs] s (unanswered s p) := by
  unfold unanswered
  try dsimp only
  repeat'
    first
    | with_reducible exact Fr.refl _ _
    | with_reducible apply Fr.ite
    | with_reducible apply Fr.step ?_ (modCalPort_fr ..) ?_
    | with_reducible apply Fr.step ?_ (defer_fr ..) ?_
    | with_reducible apply Fr.step ?_ (fault_fr ..) ?_
    | exact rfl

theorem expireProbes_fr (s : State) (p : Nat) :
    Fr [.pads, .hl, .qs, .mb, .ld, .tm, .cal, .tx, .sg, .sk, .tw, .fs, .se, .mg, .objs, .win0, .cnt, .freeIx, .outs] s (expireProbes s p) := by
  unfold expireProbes
  try dsimp only
  repeat'
    first
    | with_reducible exact Fr.refl _ _
    | with_reducible apply Fr.ite
    | with_reducible apply Fr.step ?_ (unanswered_fr ..) ?_
    | with_reducible apply Fr.step ?_ (modCalPort_fr ..) ?_
    | with_reducible apply Fr.foldl ?_ (fun _ _ => ?_)
    | split
    | exact rfl

theorem execProbeSend_fr (p : Fin 6) (s : State) :
    OFr [.pads, .hl, .qs, .mb, .ld, .tm, .cal, .tx, .sg, .sk, .tw, .fs, .se, .mg, .objs, .win0, .cnt, .freeIx, .outs] s (execProbeSend p s) := by
  unfold execProbeSend
  refine run_fr rfl ?_
  try dsimp only
  repeat'
    first
    | with_reducible exact Fr.refl _ _
    | with_reducible apply Fr.ite
    | with_reducible apply Fr.step ?_ (modCalPort_fr ..) ?_
    | with_reducible apply Fr.step ?_ (sendLehr_fr ..) ?_
    | with_reducible apply Fr.step ?_ (count_fr ..) ?_
    | with_reducible apply Fr.step ?_ (defer_fr ..) ?_
    | with_reducible apply Fr.step ?_ (usesBrim_fr ..) ?_
    | with_reducible apply Fr.step ?_ (expireProbes_fr ..) ?_
    | exact rfl

theorem takeProbe_fr (s : State) (p : Nat) (f : Bytes) (t2 : Stamp) :
    Fr [.cal, .cnt] s (takeProbe s p f t2) := by
  unfold takeProbe
  try dsimp only
  repeat'
    first
    | with_reducible exact Fr.refl _ _
    | with_reducible apply Fr.step ?_ (count_fr ..) ?_
    | with_reducible apply Fr.step ?_ (modCalPort_fr ..) ?_
    | exact rfl

theorem execProbeReceive_fr (p : Fin 6) (frame : Bytes) (s : State) :
    OFr [.pads, .cal, .cnt, .freeIx] s (execProbeReceive p frame s) := by
  unfold execProbeReceive
  refine run_fr rfl ?_
  try dsimp only
  repeat'
    first
    | with_reducible exact Fr.refl _ _
    | with_reducible apply Fr.ite
    | with_reducible apply Fr.step ?_ (rxStamp_fr ..) ?_
    | with_reducible apply Fr.step ?_ (takeProbe_fr ..) ?_
    | with_reducible apply Fr.step ?_ (count_fr ..) ?_
    | exact rfl

theorem execEchoSend_fr (p : Fin 6) (s : State) :
    OFr [.pads, .qs, .tm, .cal, .tx, .objs, .cnt, .freeIx] s (execEchoSend p s) := by
  unfold execEchoSend
  refine run_fr rfl ?_
  try dsimp only
  repeat'
    first
    | with_reducible exact Fr.refl _ _
    | with_reducible apply Fr.ite
    | with_reducible apply Fr.step ?_ (sendLehr_fr ..) ?_
    | with_reducible apply Fr.step ?_ (count_fr ..) ?_
    | with_reducible apply Fr.step ?_ (modCalPort_fr ..) ?_
    | with_reducible apply Fr.step ?_ (usesBrim_fr ..) ?_
    | split
    | exact rfl

theorem asymPass_fr (s : State) (p : Nat) :
    Fr [.cal, .cnt] s (asymPass s p) := by
  unfold asymPass
  try dsimp only
  repeat'
    first
    | with_reducible exact Fr.refl _ _
    | with_reducible apply Fr.ite
    | with_reducible apply Fr.step ?_ (modCalPort_fr ..) ?_
    | with_reducible apply Fr.step ?_ (count_fr ..) ?_
    | exact rfl

theorem usePair_fr (s : State) (i : Nat) (rtt : Int) (asym : Int) :
    Fr [.cal, .cnt] s (usePair s i rtt asym) := by
  unfold usePair
  try dsimp only
  repeat'
    first
    | with_reducible exact Fr.refl _ _
    | with_reducible apply Fr.ite
    | with_reducible apply Fr.step ?_ (asymPass_fr ..) ?_
    | with_reducible apply Fr.step ?_ (modCalPort_fr ..) ?_
    | split
    | exact rfl

theorem takeEcho_fr (s : State) (p : Nat) (f : Bytes) (t4 : BitVec 48) :
    Fr [.pads, .hl, .qs, .mb, .ld, .tm, .cal, .tx, .sg, .sk, .tw, .fs, .se, .mg, .objs, .win0, .cnt, .freeIx, .outs] s (takeEcho s p f t4) := by
  unfold takeEcho
  try dsimp only
  repeat'
    first
    | with_reducible exact Fr.refl _ _
    | with_reducible apply Fr.ite
    | with_reducible apply Fr.step ?_ (count_fr ..) ?_
    | with_reducible apply Fr.step ?_ (modCalPort_fr ..) ?_
    | with_reducible apply Fr.step ?_ (defer_fr ..) ?_
    | with_reducible apply Fr.step ?_ (unanswered_fr ..) ?_
    | with_reducible apply Fr.step ?_ (usePair_fr ..) ?_
    | split
    | exact rfl

theorem execEchoReceive_fr (p : Fin 6) (frame : Bytes) (s : State) :
    OFr [.pads, .hl, .qs, .mb, .ld, .tm, .cal, .tx, .sg, .sk, .tw, .fs, .se, .mg, .objs, .win0, .cnt, .freeIx, .outs] s (execEchoReceive p frame s) := by
  unfold execEchoReceive
  refine run_fr rfl ?_
  try dsimp only
  repeat'
    first
    | with_reducible exact Fr.refl _ _
    | with_reducible apply Fr.ite
    | with_reducible apply Fr.step ?_ (rxStamp_fr ..) ?_
    | with_reducible apply Fr.step ?_ (takeEcho_fr ..) ?_
    | with_reducible apply Fr.step ?_ (count_fr ..) ?_
    | exact rfl

theorem writeMem_fr (s : State) (addr : Nat) (data : Bytes) (attr : Nat) :
    Fr [.hl, .cnt, .outs] s (writeMem s addr data attr) := by
  unfold writeMem
  try dsimp only
  repeat'
    first
    | with_reducible exact Fr.refl _ _
    | with_reducible apply Fr.step ?_ (sendMsg_fr ..) ?_
    | with_reducible apply Fr.foldl ?_ (fun _ _ => ?_)
    | exact rfl

theorem readMem_fr (s : State) (use : DmrdUse) (addr : Nat) (len : Nat) :
    OptFr [.hl, .cnt, .outs] s (readMem s use addr len) := by
  unfold readMem
  try dsimp only
  repeat'
    first
    | with_reducible exact Fr.refl _ _
    | with_reducible apply OptFr.some
    | with_reducible apply OptFr.none
    | with_reducible apply Fr.step ?_ (sendMsg_fr ..) ?_
    | with_reducible apply Fr.step ?_ (modHl_fr ..) ?_
    | split
    | exact rfl

theorem fetchDesc_fr (s : State) (i : Nat) (use : Nat → DmrdUse) :
    Fr [.hl, .qs, .cnt, .outs] s (fetchDesc s i use) := by
  unfold fetchDesc
  try dsimp only
  repeat'
    first
    | with_reducible exact Fr.refl _ _
    | with_reducible apply Fr.ite
    | with_reducible apply Fr.step ?_ (OptFr.get (readMem_fr ..) ‹_›) ?_
    | with_reducible apply Fr.step ?_ (modQue_fr ..) ?_
    | split
    | exact rfl

theorem execTxDescriptorFetch_fr (q : Fin 64) (s : State) :
    OFr [.pads, .hl, .qs, .cnt, .outs] s (execTxDescriptorFetch q s) := by
  unfold execTxDescriptorFetch
  refine run_fr rfl ?_
  try dsimp only
  repeat'
    first
    | with_reducible exact Fr.refl _ _
    | with_reducible apply Fr.step ?_ (fetchDesc_fr ..) ?_
    | exact rfl

theorem execRxDescriptorFetch_fr (q : Fin 64) (s : State) :
    OFr [.pads, .hl, .qs, .cnt, .outs] s (execRxDescriptorFetch q s) := by
  unfold execRxDescriptorFetch
  refine run_fr rfl ?_
  try dsimp only
  repeat'
    first
    | with_reducible exact Fr.refl _ _
    | with_reducible apply Fr.step ?_ (fetchDesc_fr ..) ?_
    | exact rfl

theorem readFrame_fr (s : State) (q : Nat) (r : TxRec) :
    OptFr [.hl, .qs, .cnt, .outs] s (readFrame s q r) := by
  have h (l : List (Nat × Nat)) (o : Option State) (k : OptFr [.hl, .qs, .cnt, .outs] s o) :
      OptFr [.hl, .qs, .cnt, .outs] s (l.foldl (fun (o : Option State) x => match o with
        | some s => readMem s (.txFrame q r.idx x.1) (readSpan (le r.desc 0 8 + x.1) x.2).1 (readSpan (le r.desc 0 8 + x.1) x.2).2
        | none => none) o) := by
    induction l generalizing o with
    | nil => exact k
    | cons x l ih =>
      refine ih _ ?_
      cases o with
      | none => exact OptFr.none _ _
      | some t => exact OptFr.step (OptFr.get k rfl) (readMem_fr ..) rfl
  unfold readFrame
  dsimp only
  have k := h (pieces (maxRead s) (le r.desc 0 8) (descLen r.desc)) (some s) (OptFr.some (Fr.refl _ _))
  revert k
  generalize List.foldl _ _ _ = o
  intro k
  cases o with
  | none => exact OptFr.none _ _
  | some t => exact OptFr.some (Fr.step (OptFr.get k rfl) (modRec_fr ..) rfl)

theorem execTxFrameFetch_fr (q : Fin 64) (s : State) :
    OFr [.pads, .hl, .qs, .tx, .cnt, .outs] s (execTxFrameFetch q s) := by
  unfold execTxFrameFetch
  refine run_fr rfl ?_
  try dsimp only
  repeat'
    first
    | with_reducible exact Fr.refl _ _
    | with_reducible apply Fr.ite
    | with_reducible apply Fr.step ?_ (endRec_fr ..) ?_
    | with_reducible apply Fr.step ?_ (modRec_fr ..) ?_
    | with_reducible apply Fr.step ?_ (OptFr.get (readFrame_fr ..) ‹_›) ?_
    | with_reducible apply Fr.step ?_ (takeCells_fr ..) ?_
    | split
    | exact rfl

theorem txDescRead_fr (s : State) (q : Nat) (idx : Nat) (d : Bytes) :
    Fr [.qs, .str, .cnt] s (txDescRead s q idx d) := by
  unfold txDescRead
  try dsimp only
  repeat'
    first
    | with_reducible exact Fr.refl _ _
    | with_reducible apply Fr.ite
    | with_reducible apply Fr.step ?_ (modQue_fr ..) ?_
    | with_reducible apply Fr.step ?_ (takeDesc_fr ..) ?_
    | exact rfl

theorem popBadFuel_fr (x0 : Nat) (s : State) (x2 : Nat) :
    Fr [.qs] s (popBadFuel x0 s x2) := by
  induction x0 generalizing s x2 with
  | zero => exact Fr.refl _ _
  | succ k ih =>
    unfold popBadFuel
    try dsimp only
    repeat'
      first
      | with_reducible exact Fr.refl _ _
      | with_reducible apply Fr.ite
      | with_reducible apply Fr.step ?_ (modQue_fr ..) ?_
      | with_reducible apply Fr.step ?_ (ih ..) ?_
      | split
      | exact rfl

theorem popBad_fr (s : State) (i : Nat) :
    Fr [.qs] s (popBad s i) := by
  unfold popBad
  try dsimp only
  repeat'
    first
    | with_reducible exact Fr.refl _ _
    | with_reducible apply Fr.step ?_ (popBadFuel_fr ..) ?_
    | exact rfl

theorem rxDescRead_fr (s : State) (q : Nat) (idx : Nat) (d : Bytes) :
    Fr [.qs] s (rxDescRead s q idx d) := by
  unfold rxDescRead
  try dsimp only
  repeat'
    first
    | with_reducible exact Fr.refl _ _
    | with_reducible apply Fr.ite
    | with_reducible apply Fr.step ?_ (modQue_fr ..) ?_
    | with_reducible apply Fr.step ?_ (popBad_fr ..) ?_
    | exact rfl

theorem frameRead_fr (s : State) (q : Nat) (idx : Nat) :
    Fr [.pads, .hl, .qs, .mb, .ld, .tm, .tx, .str, .sg, .sk, .tw, .fs, .se, .mg, .objs, .win0, .cnt, .freeIx, .outs] s (frameRead s q idx) := by
  unfold frameRead
  try dsimp only
  repeat'
    first
    | with_reducible exact Fr.refl _ _
    | with_reducible apply Fr.ite
    | with_reducible apply Fr.step ?_ (endRec_fr ..) ?_
    | with_reducible apply Fr.step ?_ (sendDown_fr ..) ?_
    | with_reducible apply Fr.step ?_ (modRec_fr ..) ?_
    | with_reducible apply Fr.step ?_ (talkerStaged_fr ..) ?_
    | with_reducible apply Fr.step ?_ (ripenRest_fr ..) ?_
    | with_reducible apply Fr.foldl ?_ (fun _ _ => ?_)
    | split
    | exact rfl

theorem pieceEnd_fr (s : State) (q : Nat) (idx : Nat) (off : Nat) (addr : Nat) (got : Bytes) (status : BitVec 8) :
    Fr [.pads, .hl, .qs, .mb, .ld, .tm, .tx, .str, .sg, .sk, .tw, .fs, .se, .mg, .objs, .win0, .cnt, .freeIx, .outs] s (pieceEnd s q idx off addr got status) := by
  unfold pieceEnd
  try dsimp only
  repeat'
    first
    | with_reducible exact Fr.refl _ _
    | with_reducible apply Fr.ite
    | with_reducible apply Fr.step ?_ (modRec_fr ..) ?_
    | with_reducible apply Fr.step ?_ (frameRead_fr ..) ?_
    | split
    | exact rfl

theorem descFail_fr (s : State) (i : Nat) (idx : Nat) (err : BitVec 4) :
    Fr [.hl, .qs, .cnt, .outs] s (descFail s i idx err) := by
  unfold descFail
  try dsimp only
  repeat'
    first
    | with_reducible exact Fr.refl _ _
    | with_reducible apply Fr.ite
    | with_reducible apply Fr.step ?_ (modQue_fr ..) ?_
    | with_reducible apply Fr.step ?_ (stopQueue_fr ..) ?_
    | exact rfl

theorem dropDmrd_fr (s : State) (d : Dmrd) :
    Fr [.hl] s (dropDmrd s d) := by
  unfold dropDmrd
  try dsimp only
  repeat'
    first
    | with_reducible exact Fr.refl _ _
    | with_reducible apply Fr.step ?_ (modHl_fr ..) ?_
    | exact rfl

theorem dmrdDone_fr (s : State) (d : Dmrd) :
    Fr [.pads, .hl, .qs, .mb, .ld, .tm, .tx, .str, .sg, .sk, .tw, .fs, .se, .mg, .objs, .win0, .cnt, .freeIx, .outs] s (dmrdDone s d) := by
  unfold dmrdDone
  try dsimp only
  repeat'
    first
    | with_reducible exact Fr.refl _ _
    | with_reducible apply Fr.ite
    | with_reducible apply Fr.step ?_ (dropDmrd_fr ..) ?_
    | with_reducible apply Fr.step ?_ (descFail_fr ..) ?_
    | with_reducible apply Fr.step ?_ (txDescRead_fr ..) ?_
    | with_reducible apply Fr.step ?_ (rxDescRead_fr ..) ?_
    | with_reducible apply Fr.step ?_ (pieceEnd_fr ..) ?_
    | split
    | exact rfl

theorem dmrdFail_fr (s : State) (d : Dmrd) (err : BitVec 4) :
    Fr [.pads, .hl, .qs, .mb, .ld, .tm, .tx, .str, .sg, .sk, .tw, .fs, .se, .mg, .objs, .win0, .cnt, .freeIx, .outs] s (dmrdFail s d err) := by
  unfold dmrdFail
  try dsimp only
  repeat'
    first
    | with_reducible exact Fr.refl _ _
    | with_reducible apply Fr.ite
    | with_reducible apply Fr.step ?_ (dropDmrd_fr ..) ?_
    | with_reducible apply Fr.step ?_ (descFail_fr ..) ?_
    | with_reducible apply Fr.step ?_ (pieceEnd_fr ..) ?_
    | split
    | exact rfl

theorem unexpected_fr (s : State) :
    Fr [.pads, .hl, .qs, .mb, .ld, .tm, .tx, .sg, .sk, .tw, .fs, .se, .mg, .objs, .win0, .cnt, .freeIx, .outs] s (unexpected s) := by
  unfold unexpected
  try dsimp only
  repeat'
    first
    | with_reducible exact Fr.refl _ _
    | with_reducible apply Fr.step ?_ (fault_fr ..) ?_
    | with_reducible apply Fr.step ?_ (setFlag_fr ..) ?_
    | exact rfl

theorem takeFailure_fr (s : State) (c : CplMsg) (hdr : Bytes) :
    Fr [.pads, .hl, .qs, .mb, .ld, .tm, .tx, .str, .sg, .sk, .tw, .fs, .se, .mg, .objs, .win0, .cnt, .freeIx, .outs] s (takeFailure s c hdr) := by
  unfold takeFailure
  try dsimp only
  repeat'
    first
    | with_reducible exact Fr.refl _ _
    | with_reducible apply Fr.ite
    | with_reducible apply Fr.step ?_ (unexpected_fr ..) ?_
    | with_reducible apply Fr.step ?_ (dmrdFail_fr ..) ?_
    | with_reducible apply Fr.step ?_ (poisonSeen_fr ..) ?_
    | with_reducible apply Fr.step ?_ (readFailed_fr ..) ?_
    | split
    | exact rfl

theorem takeDcpld_fr (s : State) (c : CplMsg) :
    Fr [.pads, .hl, .qs, .mb, .ld, .tm, .tx, .str, .sg, .sk, .tw, .fs, .se, .mg, .objs, .win0, .cnt, .freeIx, .outs] s (takeDcpld s c) := by
  unfold takeDcpld
  try dsimp only
  repeat'
    first
    | with_reducible exact Fr.refl _ _
    | with_reducible apply Fr.ite
    | with_reducible apply Fr.step ?_ (malformed_fr ..) ?_
    | with_reducible apply Fr.step ?_ (takeFailure_fr ..) ?_
    | with_reducible apply Fr.step ?_ (unexpected_fr ..) ?_
    | with_reducible apply Fr.step ?_ (poisonSeen_fr ..) ?_
    | with_reducible apply Fr.step ?_ (modHl_fr ..) ?_
    | with_reducible apply Fr.step ?_ (dmrdDone_fr ..) ?_
    | split
    | exact rfl

theorem execDcpld_fr (c : CplMsg) (s : State) :
    OFr [.pads, .hl, .qs, .mb, .ld, .tm, .tx, .str, .sg, .sk, .tw, .fs, .se, .mg, .objs, .win0, .cnt, .freeIx, .outs] s (execDcpld c s) := by
  unfold execDcpld
  refine run_fr rfl ?_
  try dsimp only
  repeat'
    first
    | with_reducible exact Fr.refl _ _
    | with_reducible apply Fr.ite
    | with_reducible apply Fr.step ?_ (pump_fr ..) ?_
    | with_reducible apply Fr.step ?_ (takeDcpld_fr ..) ?_
    | exact rfl

theorem takeDcpl_fr (s : State) (c : CplMsg) :
    Fr [.pads, .hl, .qs, .mb, .ld, .tm, .tx, .str, .sg, .sk, .tw, .fs, .se, .mg, .objs, .win0, .cnt, .freeIx, .outs] s (takeDcpl s c) := by
  unfold takeDcpl
  try dsimp only
  repeat'
    first
    | with_reducible exact Fr.refl _ _
    | with_reducible apply Fr.ite
    | with_reducible apply Fr.step ?_ (malformed_fr ..) ?_
    | with_reducible apply Fr.step ?_ (takeFailure_fr ..) ?_
    | exact rfl

theorem execDcpl_fr (c : CplMsg) (s : State) :
    OFr [.pads, .hl, .qs, .mb, .ld, .tm, .tx, .str, .sg, .sk, .tw, .fs, .se, .mg, .objs, .win0, .cnt, .freeIx, .outs] s (execDcpl c s) := by
  unfold execDcpl
  refine run_fr rfl ?_
  try dsimp only
  repeat'
    first
    | with_reducible exact Fr.refl _ _
    | with_reducible apply Fr.ite
    | with_reducible apply Fr.step ?_ (pump_fr ..) ?_
    | with_reducible apply Fr.step ?_ (takeDcpl_fr ..) ?_
    | exact rfl

theorem execDmrdTimeout_fr (tag : BitVec 10) (s : State) :
    OFr [.pads, .hl, .qs, .mb, .ld, .tm, .tx, .str, .sg, .sk, .tw, .fs, .se, .mg, .objs, .win0, .cnt, .freeIx, .outs] s (execDmrdTimeout tag s) := by
  unfold execDmrdTimeout
  refine run_fr rfl ?_
  try dsimp only
  repeat'
    first
    | with_reducible exact Fr.refl _ _
    | with_reducible apply Fr.step ?_ (dmrdFail_fr ..) ?_
    | with_reducible apply Fr.step ?_ (timedOut_fr ..) ?_
    | with_reducible apply Fr.step ?_ (pump_fr ..) ?_
    | split
    | exact rfl

theorem takeLm_fr (s : State) (m : Bytes) :
    Fr [.pads, .hl, .qs, .mb, .ld, .tm, .tx, .sg, .sk, .tw, .fs, .se, .mg, .objs, .win0, .cnt, .freeIx, .outs] s (takeLm s m) := by
  unfold takeLm
  try dsimp only
  repeat'
    first
    | with_reducible exact Fr.refl _ _
    | with_reducible apply Fr.ite
    | with_reducible apply Fr.step ?_ (malformed_fr ..) ?_
    | with_reducible apply Fr.step ?_ (poisonSeen_fr ..) ?_
    | with_reducible apply Fr.step ?_ (takeQuiesce_fr ..) ?_
    | with_reducible apply Fr.step ?_ (lmCredit_fr ..) ?_
    | exact rfl

theorem takeMsg_fr (s : State) (m : Bytes) :
    Fr [.pads, .hl, .qs, .mb, .ld, .tm, .tx, .str, .sg, .sk, .tw, .fs, .se, .mg, .objs, .win0, .win1, .cnt, .freeIx, .outs] s (takeMsg s m) := by
  unfold takeMsg
  try dsimp only
  repeat'
    first
    | with_reducible exact Fr.refl _ _
    | with_reducible apply Fr.step ?_ (takeMwr_fr ..) ?_
    | with_reducible apply Fr.step ?_ (takeMrd_fr ..) ?_
    | with_reducible apply Fr.step ?_ (takeDcpld_fr ..) ?_
    | with_reducible apply Fr.step ?_ (takeDcpl_fr ..) ?_
    | with_reducible apply Fr.step ?_ (takeLm_fr ..) ?_
    | with_reducible apply Fr.step ?_ (malformed_fr ..) ?_
    | split
    | exact rfl

theorem takeMsgsFuel_fr (x0 : Nat) (s : State) (x2 : Bytes) :
    Fr [.pads, .hl, .qs, .mb, .ld, .tm, .tx, .str, .sg, .sk, .tw, .fs, .se, .mg, .objs, .win0, .win1, .cnt, .freeIx, .outs] s (takeMsgsFuel x0 s x2) := by
  induction x0 generalizing s x2 with
  | zero => exact Fr.refl _ _
  | succ k ih =>
    unfold takeMsgsFuel
    try dsimp only
    repeat'
      first
      | with_reducible exact Fr.refl _ _
      | with_reducible apply Fr.ite
      | with_reducible apply Fr.step ?_ (takeMsg_fr ..) ?_
      | with_reducible apply Fr.step ?_ (modHl_fr ..) ?_
      | with_reducible apply Fr.step ?_ (ih ..) ?_
      | exact rfl

theorem takeArea_fr (s : State) (first : Nat) (area : Bytes) :
    Fr [.pads, .hl, .qs, .mb, .ld, .tm, .tx, .str, .sg, .sk, .tw, .fs, .se, .mg, .objs, .win0, .win1, .cnt, .freeIx, .outs] s (takeArea s first area) := by
  unfold takeArea
  try dsimp only
  repeat'
    first
    | with_reducible exact Fr.refl _ _
    | with_reducible apply Fr.ite
    | with_reducible apply Fr.step ?_ (takeMsgsFuel_fr ..) ?_
    | with_reducible apply Fr.step ?_ (modHl_fr ..) ?_
    | exact rfl

theorem badFlit_fr (s : State) :
    Fr [.hl, .cnt, .outs] s (badFlit s) := by
  unfold badFlit
  try dsimp only
  repeat'
    first
    | with_reducible exact Fr.refl _ _
    | with_reducible apply Fr.ite
    | with_reducible apply Fr.step ?_ (sendNak_fr ..) ?_
    | with_reducible apply Fr.step ?_ (modHl_fr ..) ?_
    | exact rfl

theorem takeCredits_fr (s : State) (f : Bytes) :
    Fr [.hl] s (takeCredits s f) := by
  unfold takeCredits
  try dsimp only
  repeat'
    first
    | with_reducible exact Fr.refl _ _
    | with_reducible apply Fr.step ?_ (modHl_fr ..) ?_
    | exact rfl

theorem execFlitReceive_fr (f : Bytes) (s : State) :
    OFr [.pads, .hl, .qs, .mb, .ld, .tm, .tx, .str, .sg, .sk, .tw, .fs, .se, .mg, .objs, .win0, .win1, .cnt, .freeIx, .outs] s (execFlitReceive f s) := by
  unfold execFlitReceive
  refine run_fr rfl ?_
  try dsimp only
  repeat'
    first
    | with_reducible exact Fr.refl _ _
    | with_reducible apply Fr.ite
    | with_reducible apply Fr.step ?_ (badFlit_fr ..) ?_
    | with_reducible apply Fr.step ?_ (count_fr ..) ?_
    | with_reducible apply Fr.step ?_ (ackReplay_fr ..) ?_
    | with_reducible apply Fr.step ?_ (pump_fr ..) ?_
    | with_reducible apply Fr.step ?_ (takeCredits_fr ..) ?_
    | with_reducible apply Fr.step ?_ (modHl_fr ..) ?_
    | with_reducible apply Fr.step ?_ (takeNak_fr ..) ?_
    | with_reducible apply Fr.step ?_ (takeArea_fr ..) ?_
    | with_reducible apply Fr.step ?_ (ack_fr ..) ?_
    | with_reducible apply Fr.step ?_ (leave_fr ..) ?_
    | exact rfl

theorem takeStamps_fr (s : State) (l : List Stamp) :
    Fr [.tx] s (takeStamps s l).2.2 := by
  have h (l : List Stamp) (a : List Stamp × Nat × State) :
      Fr [.tx] a.2.2 (l.foldl (fun (a : List Stamp × Nat × State) st =>
        if st.port ≥ 6 then a
        else if (prt a.2.2 st.port).fifo ≥ 64 then (a.1, a.2.1 + 2 ^ st.port, a.2.2)
        else (a.1 ++ [st], a.2.1, modPrt a.2.2 st.port fun p => { p with fifo := p.fifo + 1 })) a).2.2 := by
    induction l generalizing a with
    | nil => exact Fr.refl _ _
    | cons x l ih =>
      rw [List.foldl_cons]
      refine Fr.step' (a := [.tx]) ?_ (ih _) rfl
      split
      · exact Fr.refl _ _
      · split
        · exact Fr.refl _ _
        · exact modPrt_fr ..
  exact h l ([], 0, s)

theorem intoQueue_fr (s : State) (q : Nat) (m : RxMeta) (frame : Bytes) :
    Fr [.qs, .tx, .cnt] s (intoQueue s q m frame) := by
  unfold intoQueue
  try dsimp only
  repeat'
    first
    | with_reducible exact Fr.refl _ _
    | with_reducible apply Fr.ite
    | with_reducible apply Fr.step ?_ (count_fr ..) ?_
    | with_reducible apply Fr.step ?_ (takeStamps_fr ..) ?_
    | with_reducible apply Fr.step ?_ (popBad_fr ..) ?_
    | with_reducible apply Fr.step ?_ (modQue_fr ..) ?_
    | split
    | exact rfl

theorem deliverRx_fr (s : State) (r : Nat) (m : RxMeta) (frame : Bytes) :
    Fr [.qs, .tx, .sk, .cnt, .outs] s (deliverRx s r m frame) := by
  unfold deliverRx
  try dsimp only
  repeat'
    first
    | with_reducible exact Fr.refl _ _
    | with_reducible apply Fr.ite
    | with_reducible apply Fr.step ?_ (count_fr ..) ?_
    | with_reducible apply Fr.step ?_ (kSend_fr ..) ?_
    | with_reducible apply Fr.step ?_ (intoQueue_fr ..) ?_
    | split
    | exact rfl

theorem writeBack_fr (s : State) (i : Nat) (idx : Nat) (wb : Bytes) :
    Fr [.hl, .qs, .cnt, .outs] s (writeBack s i idx wb) := by
  unfold writeBack
  try dsimp only
  repeat'
    first
    | with_reducible exact Fr.refl _ _
    | with_reducible apply Fr.step ?_ (modQue_fr ..) ?_
    | with_reducible apply Fr.step ?_ (sendVec_fr ..) ?_
    | split
    | exact rfl

theorem txWriteRec_fr (s : State) (q : Nat) (r : TxRec) (status : BitVec 8) :
    Fr [.hl, .qs, .tx, .win1, .cnt, .outs] s (txWriteRec s q r status) := by
  unfold txWriteRec
  try dsimp only
  repeat'
    first
    | with_reducible exact Fr.refl _ _
    | with_reducible apply Fr.ite
    | with_reducible apply Fr.step ?_ (setWin1_fr _ _ ?_) ?_
    | with_reducible apply Fr.step ?_ (modQue_fr ..) ?_
    | with_reducible apply Fr.step ?_ (freeStamps_fr ..) ?_
    | with_reducible apply Fr.step ?_ (countN_fr ..) ?_
    | with_reducible apply Fr.step ?_ (count_fr ..) ?_
    | with_reducible apply Fr.step ?_ (wbDone_fr ..) ?_
    | with_reducible apply Fr.step ?_ (writeBack_fr ..) ?_
    | exact rfl
    | exact fun hw => wf_mwrite _ _ _ _ hw

theorem execTxWriteBack_fr (q : Fin 64) (s : State) :
    OFr [.pads, .hl, .qs, .tx, .win1, .cnt, .outs] s (execTxWriteBack q s) := by
  unfold execTxWriteBack
  refine run_fr rfl ?_
  try dsimp only
  repeat'
    first
    | with_reducible exact Fr.refl _ _
    | with_reducible apply Fr.ite
    | with_reducible apply Fr.step ?_ (txWriteRec_fr ..) ?_
    | split
    | exact rfl

theorem rxWriteRec_fr (s : State) (i : Nat) (w : RxWb) :
    Fr [.hl, .qs, .tx, .win1, .cnt, .outs] s (rxWriteRec s i w) := by
  unfold rxWriteRec
  try dsimp only
  repeat'
    first
    | with_reducible exact Fr.refl _ _
    | with_reducible apply Fr.ite
    | with_reducible apply Fr.step ?_ (setWin1_fr _ _ ?_) ?_
    | with_reducible apply Fr.step ?_ (writeMem_fr ..) ?_
    | with_reducible apply Fr.step ?_ (freeStamps_fr ..) ?_
    | with_reducible apply Fr.step ?_ (modQue_fr ..) ?_
    | with_reducible apply Fr.step ?_ (count_fr ..) ?_
    | with_reducible apply Fr.step ?_ (countN_fr ..) ?_
    | with_reducible apply Fr.step ?_ (wbDone_fr ..) ?_
    | with_reducible apply Fr.step ?_ (writeBack_fr ..) ?_
    | exact rfl
    | exact fun hw => wf_mwrite _ _ _ _ hw

theorem execRxWriteBack_fr (q : Fin 64) (s : State) :
    OFr [.pads, .hl, .qs, .tx, .win1, .cnt, .outs] s (execRxWriteBack q s) := by
  unfold execRxWriteBack
  refine run_fr rfl ?_
  try dsimp only
  repeat'
    first
    | with_reducible exact Fr.refl _ _
    | with_reducible apply Fr.ite
    | with_reducible apply Fr.step ?_ (rxWriteRec_fr ..) ?_
    | split
    | exact rfl

theorem writeAll_fr (s : State) (i : Nat) :
    Fr [.hl, .qs, .tx, .win1, .cnt, .outs] s (writeAll s i) := by
  unfold writeAll
  try dsimp only
  repeat'
    first
    | with_reducible exact Fr.refl _ _
    | with_reducible apply Fr.ite
    | with_reducible apply Fr.step ?_ (txWriteRec_fr ..) ?_
    | with_reducible apply Fr.step ?_ (rxWriteRec_fr ..) ?_
    | with_reducible apply Fr.foldl ?_ (fun _ _ => ?_)
    | split
    | exact rfl

theorem flushQueue_fr (s : State) (q : Nat) :
    Fr [.qs, .tx] s (flushQueue s q) := by
  unfold flushQueue
  try dsimp only
  repeat'
    first
    | with_reducible exact Fr.refl _ _
    | with_reducible apply Fr.step ?_ (modPrt_fr ..) ?_
    | with_reducible apply Fr.step ?_ (endRec_fr ..) ?_
    | with_reducible apply Fr.foldl ?_ (fun _ _ => ?_)
    | split
    | exact rfl

theorem execQueueDisableComplete_fr (d : Dir) (q : Fin 64) (s : State) :
    OFr [.pads, .hl, .qs, .tx, .win1, .cnt, .outs] s (execQueueDisableComplete d q s) := by
  unfold execQueueDisableComplete
  refine run_fr rfl ?_
  try dsimp only
  repeat'
    first
    | with_reducible exact Fr.refl _ _
    | with_reducible apply Fr.ite
    | with_reducible apply Fr.step ?_ (writeAll_fr ..) ?_
    | with_reducible apply Fr.step ?_ (flushQueue_fr ..) ?_
    | with_reducible apply Fr.step ?_ (modQue_fr ..) ?_
    | exact rfl

theorem drainWrites_fr (s : State) :
    Fr [.hl, .qs, .tx, .win1, .cnt, .outs] s (drainWrites s) := by
  unfold drainWrites
  try dsimp only
  repeat'
    first
    | with_reducible exact Fr.refl _ _
    | with_reducible apply Fr.ite
    | with_reducible apply Fr.step ?_ (modQue_fr ..) ?_
    | with_reducible apply Fr.step ?_ (writeAll_fr ..) ?_
    | with_reducible apply Fr.foldl ?_ (fun _ _ => ?_)
    | exact rfl

theorem drainEvt_fr (s : State) :
    Fr [.hl, .cnt, .outs] s (drainEvt s) := by
  unfold drainEvt
  try dsimp only
  repeat'
    first
    | with_reducible exact Fr.refl _ _
    | with_reducible apply Fr.ite
    | with_reducible apply Fr.step ?_ (evtNow_fr ..) ?_
    | split
    | exact rfl

theorem execDetachDrainComplete_fr (s : State) :
    OFr [.pads, .hl, .qs, .mb, .tx, .sk, .se, .win0, .win1, .cnt, .freeIx, .outs] s (execDetachDrainComplete s) := by
  unfold execDetachDrainComplete
  refine run_fr rfl ?_
  try dsimp only
  repeat'
    first
    | with_reducible exact Fr.refl _ _
    | with_reducible apply Fr.ite
    | with_reducible apply Fr.step ?_ (stopAll_fr ..) ?_
    | with_reducible apply Fr.step ?_ (drainWrites_fr ..) ?_
    | with_reducible apply Fr.step ?_ (modHl_fr ..) ?_
    | with_reducible apply Fr.step ?_ (respondWith_fr ..) ?_
    | with_reducible apply Fr.step ?_ (sendLm_fr ..) ?_
    | with_reducible apply Fr.step ?_ (drainEvt_fr ..) ?_
    | with_reducible apply Fr.step ?_ (leave_fr ..) ?_
    | split
    | exact rfl

theorem countStop_fr (s : State) (p : Nat) (stop : Nat) (conflict : Nat) :
    Fr [.cnt] s (countStop s p stop conflict) := by
  unfold countStop
  try dsimp only
  repeat'
    first
    | with_reducible exact Fr.refl _ _
    | with_reducible apply Fr.ite
    | with_reducible apply Fr.step ?_ (count_fr ..) ?_
    | split
    | exact rfl

theorem countParse_fr (s : State) (p : Nat) (stop : Nat) (conflict : Nat) :
    Fr [.cnt] s (countParse s p stop conflict) := by
  unfold countParse
  try dsimp only
  repeat'
    first
    | with_reducible exact Fr.refl _ _
    | with_reducible apply Fr.ite
    | with_reducible apply Fr.step ?_ (count_fr ..) ?_
    | with_reducible apply Fr.step ?_ (countStop_fr ..) ?_
    | exact rfl

theorem firstPass_fr (s : State) (p : Nat) (f : Bytes) :
    Fr [.cnt] s (firstPass s p f) := by
  unfold firstPass
  try dsimp only
  repeat'
    first
    | with_reducible exact Fr.refl _ _
    | with_reducible apply Fr.step ?_ (countStop_fr ..) ?_
    | split
    | exact rfl

theorem classify_fr (s : State) (p : Nat) (view : Nat) (f : Bytes) (inner : Option Inner) (early : Option Nat) :
    Fr [.cnt] s (classify s p view f inner early).2 := by
  unfold classify
  try dsimp only
  repeat'
    first
    | with_reducible exact Fr.refl _ _
    | with_reducible apply Fr.ite
    | with_reducible apply Fr.step ?_ (countParse_fr ..) ?_
    | with_reducible apply Fr.step ?_ (count_fr ..) ?_
    | split
    | exact rfl

theorem setMeter_fr (s : State) (m : Nat) (v : Meter) :
    Fr [.rx] s (setMeter s m v) := by
  unfold setMeter
  try dsimp only
  repeat'
    first
    | with_reducible exact Fr.refl _ _
    | with_reducible apply Fr.step ?_ (modRx_fr ..) ?_
    | exact rfl

theorem fillMeter_fr (s : State) (m : Nat) :
    Fr [.rx] s (fillMeter s m) := by
  unfold fillMeter
  try dsimp only
  repeat'
    first
    | with_reducible exact Fr.refl _ _
    | with_reducible apply Fr.step ?_ (setMeter_fr ..) ?_
    | exact rfl

theorem metered_fr (s : State) (m : Nat) (b : Nat) (dei : Bool) :
    Fr [.rx] s (metered s m b dei).2.2 := by
  unfold metered
  try dsimp only
  repeat'
    first
    | with_reducible exact Fr.refl _ _
    | with_reducible apply Fr.ite
    | with_reducible apply Fr.step ?_ (setMeter_fr ..) ?_
    | split
    | exact rfl

theorem modRecov_fr (s : State) (h : Nat) (f : Recov → Recov) :
    Fr [.str] s (modRecov s h f) := by
  unfold modRecov
  try dsimp only
  repeat'
    first
    | with_reducible exact Fr.refl _ _
    | with_reducible apply Fr.step ?_ (modStr_fr ..) ?_
    | exact rfl

theorem recoverSeq_fr (s : State) (h : Nat) (seq : BitVec 16) :
    Fr [.str, .cnt] s (recoverSeq s h seq).2 := by
  unfold recoverSeq
  try dsimp only
  repeat'
    first
    | with_reducible exact Fr.refl _ _
    | with_reducible apply Fr.ite
    | with_reducible apply Fr.step ?_ (countN_fr ..) ?_
    | with_reducible apply Fr.step ?_ (modRecov_fr ..) ?_
    | with_reducible apply Fr.step ?_ (count_fr ..) ?_
    | exact rfl

theorem handOver_fr (s : State) (dest : Option Nat) (m : RxMeta) (frame : Bytes) :
    Fr [.qs, .tx, .rx, .sk, .cnt, .outs] s (handOver s dest m frame) := by
  unfold handOver
  try dsimp only
  repeat'
    first
    | with_reducible exact Fr.refl _ _
    | with_reducible apply Fr.ite
    | with_reducible apply Fr.step ?_ (deliverRx_fr ..) ?_
    | with_reducible apply Fr.step ?_ (modRx_fr ..) ?_
    | with_reducible apply Fr.step ?_ (emit_fr ..) ?_
    | split
    | exact rfl

theorem deliverReplica_fr (s : State) (h : Nat) (r : Replica) (planes : Nat) (outcome : Nat) (others : List Replica) :
    Fr [.qs, .tx, .rx, .sk, .cnt, .outs] s (deliverReplica s h r planes outcome others) := by
  unfold deliverReplica
  try dsimp only
  repeat'
    first
    | with_reducible exact Fr.refl _ _
    | with_reducible apply Fr.step ?_ (handOver_fr ..) ?_
    | exact rfl

theorem countDissent_fr (s : State) (h : Nat) (p : Nat) :
    Fr [.str, .cnt] s (countDissent s h p) := by
  unfold countDissent
  try dsimp only
  repeat'
    first
    | with_reducible exact Fr.refl _ _
    | with_reducible apply Fr.ite
    | with_reducible apply Fr.step ?_ (count_fr ..) ?_
    | with_reducible apply Fr.step ?_ (modRecov_fr ..) ?_
    | exact rfl

theorem cullet_fr (s : State) (h : Nat) (digest : Option (BitVec 64)) (r : Replica) :
    Fr [.str, .cnt] s (cullet s h digest r) := by
  unfold cullet
  try dsimp only
  repeat'
    first
    | with_reducible exact Fr.refl _ _
    | with_reducible apply Fr.ite
    | with_reducible apply Fr.step ?_ (count_fr ..) ?_
    | with_reducible apply Fr.step ?_ (countDissent_fr ..) ?_
    | exact rfl

theorem unchecked_fr (s : State) (h : Nat) :
    Fr [.cnt] s (unchecked s h) := by
  unfold unchecked
  try dsimp only
  repeat'
    first
    | with_reducible exact Fr.refl _ _
    | with_reducible apply Fr.step ?_ (count_fr ..) ?_
    | exact rfl

theorem setSlot_fr (s : State) (x : Slot) :
    Fr [.str] s (setSlot s x) := by
  unfold setSlot
  try dsimp only
  repeat'
    first
    | with_reducible exact Fr.refl _ _
    | with_reducible apply Fr.ite
    | with_reducible apply Fr.step ?_ (modStr_fr ..) ?_
    | exact rfl

theorem freeSlot_fr (s : State) (x : Slot) :
    Fr [.str] s (freeSlot s x) := by
  unfold freeSlot
  try dsimp only
  repeat'
    first
    | with_reducible exact Fr.refl _ _
    | with_reducible apply Fr.step ?_ (modStr_fr ..) ?_
    | exact rfl

theorem decideSlot_fr (s : State) (x : Slot) (outcome : Nat) (win : Option (BitVec 64)) (give : Bool) (release : Bool) :
    Fr [.pads, .hl, .qs, .mb, .ld, .tm, .tx, .rx, .str, .sg, .sk, .tw, .fs, .se, .mg, .objs, .win0, .cnt, .freeIx, .outs] s (decideSlot s x outcome win give release) := by
  unfold decideSlot
  try dsimp only
  repeat'
    first
    | with_reducible exact Fr.refl _ _
    | with_reducible apply Fr.ite
    | with_reducible apply Fr.step ?_ (count_fr ..) ?_
    | with_reducible apply Fr.step ?_ (modRecov_fr ..) ?_
    | with_reducible apply Fr.step ?_ (fault_fr ..) ?_
    | with_reducible apply Fr.step ?_ (deliverReplica_fr ..) ?_
    | with_reducible apply Fr.step ?_ (cullet_fr ..) ?_
    | with_reducible apply Fr.step ?_ (modStr_fr ..) ?_
    | with_reducible apply Fr.step ?_ (freeSlot_fr ..) ?_
    | with_reducible apply Fr.step ?_ (setSlot_fr ..) ?_
    | with_reducible apply Fr.foldl ?_ (fun _ _ => ?_)
    | split
    | exact rfl

theorem decideShort_fr (s : State) (x : Slot) (giveUnvoted : Bool) :
    Fr [.pads, .hl, .qs, .mb, .ld, .tm, .tx, .rx, .str, .sg, .sk, .tw, .fs, .se, .mg, .objs, .win0, .cnt, .freeIx, .outs] s (decideShort s x giveUnvoted) := by
  unfold decideShort
  try dsimp only
  repeat'
    first
    | with_reducible exact Fr.refl _ _
    | with_reducible apply Fr.ite
    | with_reducible apply Fr.step ?_ (decideSlot_fr ..) ?_
    | exact rfl

theorem windowEnd_fr (s : State) (x : Slot) (hold : Bool) :
    Fr [.pads, .hl, .qs, .mb, .ld, .tm, .tx, .rx, .str, .sg, .sk, .tw, .fs, .se, .mg, .objs, .win0, .cnt, .freeIx, .outs] s (windowEnd s x hold) := by
  unfold windowEnd
  try dsimp only
  repeat'
    first
    | with_reducible exact Fr.refl _ _
    | with_reducible apply Fr.ite
    | with_reducible apply Fr.step ?_ (decideSlot_fr ..) ?_
    | with_reducible apply Fr.step ?_ (setSlot_fr ..) ?_
    | with_reducible apply Fr.step ?_ (decideShort_fr ..) ?_
    | split
    | exact rfl

theorem voteCast_fr (s : State) (x : Slot) :
    Fr [.pads, .hl, .qs, .mb, .ld, .tm, .tx, .rx, .str, .sg, .sk, .tw, .fs, .se, .mg, .objs, .win0, .cnt, .freeIx, .outs] s (voteCast s x) := by
  unfold voteCast
  try dsimp only
  repeat'
    first
    | with_reducible exact Fr.refl _ _
    | with_reducible apply Fr.ite
    | with_reducible apply Fr.step ?_ (decideSlot_fr ..) ?_
    | split
    | exact rfl

theorem joinSlot_fr (s : State) (x : Slot) (r : Replica) :
    Fr [.pads, .hl, .qs, .mb, .ld, .tm, .tx, .rx, .str, .sg, .sk, .tw, .fs, .se, .mg, .objs, .win0, .cnt, .freeIx, .outs] s (joinSlot s x r) := by
  unfold joinSlot
  try dsimp only
  repeat'
    first
    | with_reducible exact Fr.refl _ _
    | with_reducible apply Fr.ite
    | with_reducible apply Fr.step ?_ (setSlot_fr ..) ?_
    | with_reducible apply Fr.step ?_ (cullet_fr ..) ?_
    | with_reducible apply Fr.step ?_ (freeSlot_fr ..) ?_
    | with_reducible apply Fr.step ?_ (voteCast_fr ..) ?_
    | with_reducible apply Fr.step ?_ (unchecked_fr ..) ?_
    | exact rfl

theorem openSlot_fr (s : State) (h : Nat) (r : Replica) (reserved : Bool) :
    Fr [.pads, .hl, .qs, .mb, .ld, .tm, .tx, .rx, .str, .sg, .sk, .tw, .fs, .se, .mg, .objs, .win0, .cnt, .freeIx, .outs] s (openSlot s h r reserved) := by
  unfold openSlot
  try dsimp only
  repeat'
    first
    | with_reducible exact Fr.refl _ _
    | with_reducible apply Fr.step ?_ (modStr_fr ..) ?_
    | with_reducible apply Fr.step ?_ (voteCast_fr ..) ?_
    | exact rfl

theorem exhausted_fr (s : State) (h : Nat) (r : Replica) :
    Fr [.pads, .hl, .qs, .mb, .ld, .tm, .tx, .rx, .str, .sg, .sk, .tw, .fs, .se, .mg, .objs, .win0, .cnt, .freeIx, .outs] s (exhausted s h r) := by
  unfold exhausted
  try dsimp only
  repeat'
    first
    | with_reducible exact Fr.refl _ _
    | with_reducible apply Fr.ite
    | with_reducible apply Fr.step ?_ (count_fr ..) ?_
    | with_reducible apply Fr.step ?_ (modStr_fr ..) ?_
    | with_reducible apply Fr.step ?_ (fault_fr ..) ?_
    | with_reducible apply Fr.step ?_ (modRecov_fr ..) ?_
    | with_reducible apply Fr.step ?_ (deliverReplica_fr ..) ?_
    | exact rfl

theorem newVoteFuel_fr (x0 : Nat) (s : State) (x2 : Nat) (x3 : Replica) :
    Fr [.pads, .hl, .qs, .mb, .ld, .tm, .tx, .rx, .str, .sg, .sk, .tw, .fs, .se, .mg, .objs, .win0, .cnt, .freeIx, .outs] s (newVoteFuel x0 s x2 x3) := by
  induction x0 generalizing s x2 x3 with
  | zero => exact Fr.mono (exhausted_fr ..) rfl
  | succ k ih =>
    unfold newVoteFuel
    try dsimp only
    repeat'
      first
      | with_reducible exact Fr.refl _ _
      | with_reducible apply Fr.step ?_ (exhausted_fr ..) ?_
      | with_reducible apply Fr.step ?_ (openSlot_fr ..) ?_
      | with_reducible apply Fr.step ?_ (count_fr ..) ?_
      | with_reducible apply Fr.step ?_ (freeSlot_fr ..) ?_
      | with_reducible apply Fr.step ?_ (modStr_fr ..) ?_
      | with_reducible apply Fr.step ?_ (ih ..) ?_
      | split
      | exact rfl

theorem newVote_fr (s : State) (h : Nat) (r : Replica) :
    Fr [.pads, .hl, .qs, .mb, .ld, .tm, .tx, .rx, .str, .sg, .sk, .tw, .fs, .se, .mg, .objs, .win0, .cnt, .freeIx, .outs] s (newVote s h r) := by
  unfold newVote
  try dsimp only
  repeat'
    first
    | with_reducible exact Fr.refl _ _
    | with_reducible apply Fr.step ?_ (newVoteFuel_fr ..) ?_
    | split
    | exact rfl

theorem eliminate_fr (s : State) (h : Nat) (r : Replica) (tagged : Bool) (plain : State → State) (hp : ∀ s, Fr [.qs, .tx, .rx, .sk, .cnt, .outs] s (plain s)) :
    Fr [.pads, .hl, .qs, .mb, .ld, .tm, .tx, .rx, .str, .sg, .sk, .tw, .fs, .se, .mg, .objs, .win0, .cnt, .freeIx, .outs] s (eliminate s h r tagged plain) := by
  unfold eliminate
  try dsimp only
  repeat'
    first
    | with_reducible exact Fr.refl _ _
    | with_reducible apply Fr.ite
    | with_reducible apply Fr.step ?_ (count_fr ..) ?_
    | with_reducible apply Fr.step ?_ (recoverSeq_fr ..) ?_
    | with_reducible apply Fr.step ?_ (modRecov_fr ..) ?_
    | with_reducible apply Fr.step ?_ (deliverReplica_fr ..) ?_
    | with_reducible apply Fr.step ?_ (newVote_fr ..) ?_
    | with_reducible apply Fr.step ?_ (unchecked_fr ..) ?_
    | with_reducible apply Fr.step ?_ (joinSlot_fr ..) ?_
    | with_reducible apply Fr.step ?_ (hp ..) ?_
    | split
    | exact rfl

theorem police_fr (s : State) (h : Nat) (pol : Bytes) (len : Nat) (b : Nat) (dei : Bool) :
    Fr [.rx, .str, .cnt] s (police s h pol len b dei).2.2.2 := by
  unfold police
  try dsimp only
  repeat'
    first
    | with_reducible exact Fr.refl _ _
    | with_reducible apply Fr.ite
    | with_reducible apply Fr.step ?_ (count_fr ..) ?_
    | with_reducible apply Fr.step ?_ (modStr_fr ..) ?_
    | with_reducible apply Fr.step ?_ (metered_fr ..) ?_
    | split
    | exact rfl

theorem closeSlots_fr (s : State) (h : Nat) :
    Fr [.pads, .hl, .qs, .mb, .ld, .tm, .tx, .rx, .str, .sg, .sk, .tw, .fs, .se, .mg, .objs, .win0, .cnt, .freeIx, .outs] s (closeSlots s h) := by
  unfold closeSlots
  try dsimp only
  repeat'
    first
    | with_reducible exact Fr.refl _ _
    | with_reducible apply Fr.ite
    | with_reducible apply Fr.step ?_ (freeSlot_fr ..) ?_
    | with_reducible apply Fr.step ?_ (windowEnd_fr ..) ?_
    | with_reducible apply Fr.step ?_ (modRecov_fr ..) ?_
    | with_reducible apply Fr.foldl ?_ (fun _ _ => ?_)
    | exact rfl

theorem execVoteWindowExpiry_fr (h : Fin 16384) (seq : BitVec 16) (s : State) :
    OFr [.pads, .hl, .qs, .mb, .ld, .tm, .tx, .rx, .str, .sg, .sk, .tw, .fs, .se, .mg, .objs, .win0, .cnt, .freeIx, .outs] s (execVoteWindowExpiry h seq s) := by
  unfold execVoteWindowExpiry
  refine run_fr rfl ?_
  try dsimp only
  repeat'
    first
    | with_reducible exact Fr.refl _ _
    | with_reducible apply Fr.ite
    | with_reducible apply Fr.step ?_ (windowEnd_fr ..) ?_
    | with_reducible apply Fr.step ?_ (freeSlot_fr ..) ?_
    | split
    | exact rfl

theorem execLateHoldExpiry_fr (h : Fin 16384) (seq : BitVec 16) (s : State) :
    OFr [.pads, .hl, .qs, .mb, .ld, .tm, .tx, .rx, .str, .sg, .sk, .tw, .fs, .se, .mg, .objs, .win0, .cnt, .freeIx, .outs] s (execLateHoldExpiry h seq s) := by
  unfold execLateHoldExpiry
  refine run_fr rfl ?_
  try dsimp only
  repeat'
    first
    | with_reducible exact Fr.refl _ _
    | with_reducible apply Fr.ite
    | with_reducible apply Fr.step ?_ (decideShort_fr ..) ?_
    | with_reducible apply Fr.step ?_ (freeSlot_fr ..) ?_
    | split
    | exact rfl

theorem execRecoveryReset_fr (h : Fin 16384) (s : State) :
    OFr [.pads, .str, .cnt] s (execRecoveryReset h s) := by
  unfold execRecoveryReset
  refine run_fr rfl ?_
  try dsimp only
  repeat'
    first
    | with_reducible exact Fr.refl _ _
    | with_reducible apply Fr.ite
    | with_reducible apply Fr.step ?_ (count_fr ..) ?_
    | with_reducible apply Fr.step ?_ (modRecov_fr ..) ?_
    | exact rfl

theorem forwardCopy_fr (s : State) (p : Nat) (v : Verdict) (data : Bytes) (whole : Bool) (st : Stamp) :
    Fr [.tx, .cnt] s (forwardCopy s p v data whole st).2 := by
  unfold forwardCopy
  try dsimp only
  repeat'
    first
    | with_reducible exact Fr.refl _ _
    | with_reducible apply Fr.ite
    | with_reducible apply Fr.step ?_ (count_fr ..) ?_
    | with_reducible apply Fr.step ?_ (modPrt_fr ..) ?_
    | with_reducible apply Fr.step ?_ (enqueue_fr ..) ?_
    | split
    | exact rfl

theorem growCopy_fr (s : State) (p : Nat) (id : Nat) (plain : Bytes) (whole : Bool) :
    Fr [.tx] s (growCopy s p id plain whole) := by
  unfold growCopy
  try dsimp only
  repeat'
    first
    | with_reducible exact Fr.refl _ _
    | with_reducible apply Fr.ite
    | with_reducible apply Fr.step ?_ (modPrt_fr ..) ?_
    | split
    | exact rfl

theorem copyLimit_fr (s : State) (eg : Nat) (id : Nat) :
    Fr [.tx, .cnt] s (copyLimit s eg id) := by
  unfold copyLimit
  try dsimp only
  repeat'
    first
    | with_reducible exact Fr.refl _ _
    | with_reducible apply Fr.ite
    | with_reducible apply Fr.step ?_ (stompCopy_fr ..) ?_
    | split
    | exact rfl

theorem completeCopy_fr (s : State) (p : Nat) (id : Nat) (plain : Bytes) :
    Fr [.tx, .cnt] s (completeCopy s p id plain) := by
  unfold completeCopy
  try dsimp only
  repeat'
    first
    | with_reducible exact Fr.refl _ _
    | with_reducible apply Fr.step ?_ (copyLimit_fr ..) ?_
    | with_reducible apply Fr.step ?_ (growCopy_fr ..) ?_
    | with_reducible apply Fr.ite
    | split
    | exact rfl

theorem dropCopy_fr (s : State) (p : Nat) (copy : Option Nat) :
    Fr [.tx, .cnt] s (dropCopy s p copy) := by
  unfold dropCopy
  try dsimp only
  repeat'
    first
    | with_reducible exact Fr.refl _ _
    | with_reducible apply Fr.step ?_ (stompCopy_fr ..) ?_
    | split
    | exact rfl

theorem deviceFrame_fr (s : State) (dev : DevFn) (p : Nat) (kind : Nat) (plain : Bytes) (stamp : Stamp) (hd : ∀ p k f s, Fr [.pads, .hl, .qs, .mb, .ld, .tm, .tx, .sg, .sk, .tw, .fs, .se, .mg, .objs, .win0, .cnt, .freeIx, .outs] s (dev p k f s)) :
    Fr [.pads, .hl, .qs, .mb, .ld, .tm, .cal, .tx, .sg, .sk, .tw, .fs, .se, .mg, .objs, .win0, .cnt, .freeIx, .outs] s (deviceFrame s dev p kind plain stamp) := by
  unfold deviceFrame
  try dsimp only
  repeat'
    first
    | with_reducible exact Fr.refl _ _
    | with_reducible apply Fr.ite
    | with_reducible apply Fr.step ?_ (takeProbe_fr ..) ?_
    | with_reducible apply Fr.step ?_ (takeEcho_fr ..) ?_
    | with_reducible apply Fr.step ?_ (takeOffer_fr ..) ?_
    | with_reducible apply Fr.step ?_ (takeAnswer_fr ..) ?_
    | with_reducible apply Fr.step ?_ (count_fr ..) ?_
    | with_reducible apply Fr.step ?_ (hd ..) ?_
    | exact rfl

theorem gafferDelay_fr (s : State) (p : Nat) (plain : Bytes) :
    Fr [.objs, .freeIx] s (gafferDelay s p plain) := by
  unfold gafferDelay
  try dsimp only
  repeat'
    first
    | with_reducible exact Fr.refl _ _
    | with_reducible apply Fr.ite
    | with_reducible apply Fr.step ?_ (draw_fr ..) ?_
    | with_reducible apply Fr.step ?_ (objWrite_fr ..) ?_
    | split
    | exact rfl

theorem servoCopy_fr (s : State) (p : Nat) (plain : Bytes) (stamp : Stamp) :
    Fr [.rx, .objs, .freeIx, .outs] s (servoCopy s p plain stamp) := by
  unfold servoCopy
  try dsimp only
  repeat'
    first
    | with_reducible exact Fr.refl _ _
    | with_reducible apply Fr.ite
    | with_reducible apply Fr.step ?_ (modRx_fr ..) ?_
    | with_reducible apply Fr.step ?_ (emit_fr ..) ?_
    | with_reducible apply Fr.step ?_ (gafferDelay_fr ..) ?_
    | exact rfl

theorem localCopy_fr (s : State) (p : Nat) (v : Verdict) (dest : Option Nat) (colour : Nat) (plain : Bytes) (stamp : Stamp) (epoch : BitVec 16) :
    Fr [.pads, .hl, .qs, .mb, .ld, .tm, .tx, .rx, .str, .sg, .sk, .tw, .fs, .se, .mg, .objs, .win0, .cnt, .freeIx, .outs] s (localCopy s p v dest colour plain stamp epoch) := by
  unfold localCopy
  try dsimp only
  repeat'
    first
    | with_reducible exact Fr.refl _ _
    | with_reducible apply Fr.ite
    | with_reducible apply Fr.step ?_ (eliminate_fr (hp := fun _ => handOver_fr ..) ..) ?_
    | with_reducible apply Fr.step ?_ (handOver_fr ..) ?_
    | split
    | exact rfl

theorem classMeter_fr (s : State) (p : Nat) (v : Verdict) (b : Nat) :
    Fr [.rx, .cnt] s (classMeter s p v b).2.2 := by
  unfold classMeter
  try dsimp only
  repeat'
    first
    | with_reducible exact Fr.refl _ _
    | with_reducible apply Fr.ite
    | with_reducible apply Fr.step ?_ (metered_fr ..) ?_
    | with_reducible apply Fr.step ?_ (count_fr ..) ?_
    | split
    | exact rfl

theorem streamFilter_fr (s : State) (v : Verdict) (len : Nat) (b : Nat) (colour : Nat) :
    Fr [.rx, .str, .cnt] s (streamFilter s v len b colour).2.2 := by
  unfold streamFilter
  try dsimp only
  repeat'
    first
    | with_reducible exact Fr.refl _ _
    | with_reducible apply Fr.ite
    | with_reducible apply Fr.step ?_ (police_fr ..) ?_
    | with_reducible apply Fr.step ?_ (count_fr ..) ?_
    | split
    | exact rfl

theorem conclude_fr (s : State) (dev : DevFn) (p : Nat) (v : Verdict) (plain : Bytes) (b : Nat) (stamp : Stamp) (epoch : BitVec 16) (copy : Option Nat) (hd : ∀ p k f s, Fr [.pads, .hl, .qs, .mb, .ld, .tm, .tx, .sg, .sk, .tw, .fs, .se, .mg, .objs, .win0, .cnt, .freeIx, .outs] s (dev p k f s)) :
    Fr [.pads, .hl, .qs, .mb, .ld, .tm, .cal, .tx, .rx, .str, .sg, .sk, .tw, .fs, .se, .mg, .objs, .win0, .cnt, .freeIx, .outs] s (conclude s dev p v plain b stamp epoch copy) := by
  unfold conclude
  try dsimp only
  repeat'
    first
    | with_reducible exact Fr.refl _ _
    | with_reducible apply Fr.ite
    | with_reducible apply Fr.step ?_ (dropCopy_fr ..) ?_
    | with_reducible apply Fr.step ?_ (classMeter_fr ..) ?_
    | with_reducible apply Fr.step ?_ (streamFilter_fr ..) ?_
    | with_reducible apply Fr.step ?_ (completeCopy_fr ..) ?_
    | with_reducible apply Fr.step ?_ (forwardCopy_fr ..) ?_
    | with_reducible apply Fr.step ?_ (servoCopy_fr ..) ?_
    | with_reducible apply Fr.step ?_ (deviceFrame_fr (hd := hd) ..) ?_
    | with_reducible apply Fr.step ?_ (localCopy_fr ..) ?_
    | split
    | exact rfl

theorem secVerify_fr (s : State) (p : Nat) (f : Bytes) (set : PassSet) :
    Fr [.rx, .cnt] s (secVerify s p f set).2 := by
  unfold secVerify
  try dsimp only
  repeat'
    first
    | with_reducible exact Fr.refl _ _
    | with_reducible apply Fr.step ?_ (count_fr ..) ?_
    | with_reducible apply Fr.step ?_ (modRx_fr ..) ?_
    | split
    | exact rfl

theorem loopEnter_fr (s : State) (h : LoopHead) :
    Fr [.rx, .cnt] s (loopEnter s h) := by
  unfold loopEnter
  try dsimp only
  repeat'
    first
    | with_reducible exact Fr.refl _ _
    | with_reducible apply Fr.ite
    | with_reducible apply Fr.step ?_ (modRx_fr ..) ?_
    | with_reducible apply Fr.step ?_ (count_fr ..) ?_
    | exact rfl

theorem feedCopy_fr (s : State) (p : Nat) (e : Early) (bytes : Bytes) :
    Fr [.tx] s (feedCopy s p e bytes) := by
  unfold feedCopy
  try dsimp only
  repeat'
    first
    | with_reducible exact Fr.refl _ _
    | with_reducible apply Fr.ite
    | with_reducible apply Fr.step ?_ (growCopy_fr ..) ?_
    | split
    | exact rfl

theorem dropFrame_fr (s : State) (p : Nat) (body : Bytes) (e : Option Early) (h : Option LoopHead) :
    Fr [.tx, .rx, .cnt] s (dropFrame s p body e h) := by
  unfold dropFrame
  try dsimp only
  repeat'
    first
    | with_reducible exact Fr.refl _ _
    | with_reducible apply Fr.ite
    | with_reducible apply Fr.step ?_ (dropCopy_fr ..) ?_
    | with_reducible apply Fr.step ?_ (dropHeads_fr ..) ?_
    | with_reducible apply Fr.step ?_ (feedCopy_fr ..) ?_
    | split
    | exact rfl

theorem afterSec_fr (s : State) (dev : DevFn) (p : Nat) (b : Nat) (plain : Bytes) (inner : Option Inner) (e : Option Early) (h : Option LoopHead) (stamp : Stamp) (hd : ∀ p k f s, Fr [.pads, .hl, .qs, .mb, .ld, .tm, .tx, .sg, .sk, .tw, .fs, .se, .mg, .objs, .win0, .cnt, .freeIx, .outs] s (dev p k f s)) :
    Fr [.pads, .hl, .qs, .mb, .ld, .tm, .cal, .tx, .rx, .str, .sg, .sk, .tw, .fs, .se, .mg, .objs, .win0, .cnt, .freeIx, .outs] s (afterSec s dev p b plain inner e h stamp) := by
  unfold afterSec
  try dsimp only
  repeat'
    first
    | with_reducible exact Fr.refl _ _
    | with_reducible apply Fr.ite
    | with_reducible apply Fr.step ?_ (conclude_fr (hd := hd) ..) ?_
    | with_reducible apply Fr.step ?_ (classify_fr ..) ?_
    | with_reducible apply Fr.step ?_ (loopEnter_fr ..) ?_
    | with_reducible apply Fr.step ?_ (modRx_fr ..) ?_
    | split
    | exact rfl

theorem acceptFrame_fr (s : State) (dev : DevFn) (p : Nat) (b : Nat) (body : Bytes) (e : Option Early) (h : Option LoopHead) (stamp : Stamp) (hd : ∀ p k f s, Fr [.pads, .hl, .qs, .mb, .ld, .tm, .tx, .sg, .sk, .tw, .fs, .se, .mg, .objs, .win0, .cnt, .freeIx, .outs] s (dev p k f s)) :
    Fr [.pads, .hl, .qs, .mb, .ld, .tm, .cal, .tx, .rx, .str, .sg, .sk, .tw, .fs, .se, .mg, .objs, .win0, .cnt, .freeIx, .outs] s (acceptFrame s dev p b body e h stamp) := by
  unfold acceptFrame
  try dsimp only
  repeat'
    first
    | with_reducible exact Fr.refl _ _
    | with_reducible apply Fr.ite
    | with_reducible apply Fr.step ?_ (afterSec_fr (hd := hd) ..) ?_
    | with_reducible apply Fr.snd1 ?_ (secVerify_fr ..) ‹_› ?_
    | with_reducible apply Fr.step ?_ (count_fr ..) ?_
    | with_reducible apply Fr.step ?_ (dropFrame_fr ..) ?_
    | with_reducible apply Fr.step ?_ (firstPass_fr ..) ?_
    | split
    | exact rfl

theorem receive_fr (s : State) (dev : DevFn) (p : Nat) (f : Bytes) (codeError : Bool) (stamp : Stamp) (hd : ∀ p k f s, Fr [.pads, .hl, .qs, .mb, .ld, .tm, .tx, .sg, .sk, .tw, .fs, .se, .mg, .objs, .win0, .cnt, .freeIx, .outs] s (dev p k f s)) :
    Fr [.pads, .hl, .qs, .mb, .ld, .tm, .cal, .tx, .rx, .str, .sg, .sk, .tw, .fs, .se, .mg, .objs, .win0, .cnt, .freeIx, .outs] s (receive s dev p f codeError stamp) := by
  unfold receive
  try dsimp only
  repeat'
    first
    | with_reducible exact Fr.refl _ _
    | with_reducible apply Fr.ite
    | with_reducible apply Fr.step ?_ (modPrt_fr ..) ?_
    | with_reducible apply Fr.step ?_ (countN_fr ..) ?_
    | with_reducible apply Fr.step ?_ (count_fr ..) ?_
    | with_reducible apply Fr.step ?_ (takePause_fr ..) ?_
    | with_reducible apply Fr.step ?_ (acceptFrame_fr (hd := hd) ..) ?_
    | with_reducible apply Fr.step ?_ (dropFrame_fr ..) ?_
    | split
    | exact rfl

theorem discard_fr (s : State) (p : Nat) (bytes : Bytes) :
    Fr [.tx, .rx, .cnt] s (discard s p bytes) := by
  unfold discard
  try dsimp only
  repeat'
    first
    | with_reducible exact Fr.refl _ _
    | with_reducible apply Fr.step ?_ (dropEarly_fr ..) ?_
    | with_reducible apply Fr.step ?_ (dropHeads_fr ..) ?_
    | with_reducible apply Fr.step ?_ (feedCopy_fr ..) ?_
    | with_reducible apply Fr.foldl ?_ (fun _ _ => ?_)
    | exact rfl

theorem reasm_fr (s : State) (p : Nat) (row : Nat) :
    Fr [.cnt] s (reasm s p row) := by
  unfold reasm
  try dsimp only
  repeat'
    first
    | with_reducible exact Fr.refl _ _
    | with_reducible apply Fr.step ?_ (count_fr ..) ?_
    | exact rfl

theorem ctxDrop_fr (s : State) (p : Nat) (count_ : Nat) :
    Fr [.tx, .rx, .cnt] s (ctxDrop s p count_) := by
  unfold ctxDrop
  try dsimp only
  repeat'
    first
    | with_reducible exact Fr.refl _ _
    | with_reducible apply Fr.step ?_ (discard_fr ..) ?_
    | with_reducible apply Fr.step ?_ (modPrt_fr ..) ?_
    | with_reducible apply Fr.step ?_ (count_fr ..) ?_
    | split
    | exact rfl

theorem fragCopy_fr (s : State) (p : Nat) (data : Bytes) :
    Fr [.tx, .cnt] s (fragCopy s p data) := by
  unfold fragCopy
  try dsimp only
  repeat'
    first
    | with_reducible exact Fr.refl _ _
    | with_reducible apply Fr.step ?_ (copyLimit_fr ..) ?_
    | with_reducible apply Fr.step ?_ (feedCopy_fr ..) ?_
    | split
    | exact rfl

theorem ctxTake_fr (s : State) (dev : DevFn) (p : Nat) (c : RxCtx) (more : Bool) (good : Bool) (new : Nat) (hd : ∀ p k f s, Fr [.pads, .hl, .qs, .mb, .ld, .tm, .tx, .sg, .sk, .tw, .fs, .se, .mg, .objs, .win0, .cnt, .freeIx, .outs] s (dev p k f s)) :
    Fr [.pads, .hl, .qs, .mb, .ld, .tm, .cal, .tx, .rx, .str, .sg, .sk, .tw, .fs, .se, .mg, .objs, .win0, .cnt, .freeIx, .outs] s (ctxTake s dev p c more good new) := by
  unfold ctxTake
  try dsimp only
  repeat'
    first
    | with_reducible exact Fr.refl _ _
    | with_reducible apply Fr.ite
    | with_reducible apply Fr.step ?_ (discard_fr ..) ?_
    | with_reducible apply Fr.step ?_ (reasm_fr ..) ?_
    | with_reducible apply Fr.step ?_ (modPrt_fr ..) ?_
    | with_reducible apply Fr.step ?_ (receive_fr (hd := hd) ..) ?_
    | with_reducible apply Fr.step ?_ (fragCopy_fr ..) ?_
    | exact rfl

theorem smdStart_fr (s : State) (dev : DevFn) (p : Nat) (c : Nat) (data : Bytes) (more : Bool) (good : Bool) (hd : ∀ p k f s, Fr [.pads, .hl, .qs, .mb, .ld, .tm, .tx, .sg, .sk, .tw, .fs, .se, .mg, .objs, .win0, .cnt, .freeIx, .outs] s (dev p k f s)) :
    Fr [.pads, .hl, .qs, .mb, .ld, .tm, .cal, .tx, .rx, .str, .sg, .sk, .tw, .fs, .se, .mg, .objs, .win0, .cnt, .freeIx, .outs] s (smdStart s dev p c data more good) := by
  unfold smdStart
  try dsimp only
  repeat'
    first
    | with_reducible exact Fr.refl _ _
    | with_reducible apply Fr.ite
    | with_reducible apply Fr.step ?_ (ctxTake_fr (hd := hd) ..) ?_
    | with_reducible apply Fr.step ?_ (ctxDrop_fr ..) ?_
    | with_reducible apply Fr.step ?_ (reasm_fr ..) ?_
    | with_reducible apply Fr.step ?_ (discard_fr ..) ?_
    | with_reducible apply Fr.step ?_ (rxStamp_fr ..) ?_
    | with_reducible apply Fr.step ?_ (count_fr ..) ?_
    | split
    | exact rfl

theorem smdContinue_fr (s : State) (dev : DevFn) (p : Nat) (c : Nat) (frag : Nat) (data : Bytes) (more : Bool) (good : Bool) (hd : ∀ p k f s, Fr [.pads, .hl, .qs, .mb, .ld, .tm, .tx, .sg, .sk, .tw, .fs, .se, .mg, .objs, .win0, .cnt, .freeIx, .outs] s (dev p k f s)) :
    Fr [.pads, .hl, .qs, .mb, .ld, .tm, .cal, .tx, .rx, .str, .sg, .sk, .tw, .fs, .se, .mg, .objs, .win0, .cnt, .freeIx, .outs] s (smdContinue s dev p c frag data more good) := by
  unfold smdContinue
  try dsimp only
  repeat'
    first
    | with_reducible exact Fr.refl _ _
    | with_reducible apply Fr.ite
    | with_reducible apply Fr.step ?_ (reasm_fr ..) ?_
    | with_reducible apply Fr.step ?_ (ctxDrop_fr ..) ?_
    | with_reducible apply Fr.step ?_ (modPrt_fr ..) ?_
    | with_reducible apply Fr.step ?_ (ctxTake_fr (hd := hd) ..) ?_
    | with_reducible apply Fr.step ?_ (count_fr ..) ?_
    | split
    | exact rfl

theorem takeFragment_fr (s : State) (dev : DevFn) (p : Nat) (smd : Nat) (frag : Nat) (data : Bytes) (more : Bool) (good : Bool) (hd : ∀ p k f s, Fr [.pads, .hl, .qs, .mb, .ld, .tm, .tx, .sg, .sk, .tw, .fs, .se, .mg, .objs, .win0, .cnt, .freeIx, .outs] s (dev p k f s)) :
    Fr [.pads, .hl, .qs, .mb, .ld, .tm, .cal, .tx, .rx, .str, .sg, .sk, .tw, .fs, .se, .mg, .objs, .win0, .cnt, .freeIx, .outs] s (takeFragment s dev p smd frag data more good) := by
  unfold takeFragment
  try dsimp only
  repeat'
    first
    | with_reducible exact Fr.refl _ _
    | with_reducible apply Fr.step ?_ (smdStart_fr (hd := hd) ..) ?_
    | with_reducible apply Fr.step ?_ (smdContinue_fr (hd := hd) ..) ?_
    | split
    | exact rfl

theorem keepEarly_fr (s : State) (p : Nat) (e : Early) :
    Fr [.tx] s (keepEarly s p e) := by
  unfold keepEarly
  try dsimp only
  repeat'
    first
    | with_reducible exact Fr.refl _ _
    | with_reducible apply Fr.step ?_ (modPrt_fr ..) ?_
    | split
    | exact rfl

theorem lenEarly_fr (s : State) (n : Nat) :
    Fr [.freeIx] s (lenEarly s n).2 := by
  unfold lenEarly
  try dsimp only
  repeat'
    first
    | with_reducible exact Fr.refl _ _
    | with_reducible apply Fr.step ?_ (draw_fr ..) ?_
    | split
    | exact rfl

theorem passEarly_fr (s : State) (p : Nat) (view : Nat) (pfx : Bytes) (plain : Bytes) (inner : Option Inner) (smdE : Bool) (set : PassSet) (stamp : Stamp) (epoch : BitVec 16) :
    Fr [.tx, .cnt, .freeIx] s (passEarly s p view pfx plain inner smdE set stamp epoch) := by
  unfold passEarly
  try dsimp only
  repeat'
    first
    | with_reducible exact Fr.refl _ _
    | with_reducible apply Fr.ite
    | with_reducible apply Fr.step ?_ (lenEarly_fr ..) ?_
    | with_reducible apply Fr.step ?_ (classify_fr ..) ?_
    | with_reducible apply Fr.step ?_ (keepEarly_fr ..) ?_
    | with_reducible apply Fr.step ?_ (forwardCopy_fr ..) ?_
    | split
    | exact rfl

theorem decideEarly_fr (s : State) (p : Nat) (pfx : Bytes) (smdE : Bool) :
    Fr [.tx, .rx, .cnt, .freeIx] s (decideEarly s p pfx smdE) := by
  unfold decideEarly
  try dsimp only
  repeat'
    first
    | with_reducible exact Fr.refl _ _
    | with_reducible apply Fr.ite
    | with_reducible apply Fr.step ?_ (rxStamp_fr ..) ?_
    | with_reducible apply Fr.step ?_ (count_fr ..) ?_
    | with_reducible apply Fr.step ?_ (passEarly_fr ..) ?_
    | with_reducible apply Fr.step ?_ (firstPass_fr ..) ?_
    | with_reducible apply Fr.step ?_ (loopEnter_fr ..) ?_
    | with_reducible apply Fr.step ?_ (keepEarly_fr ..) ?_
    | split
    | exact rfl

end Sys2Proof.Machine
end

