-- ==== Sys2Proof/Laws/FootprintStage.lean ====
section
/-! SUPPORT. The footprint of every operation: flash, images, staging, agreement and segments. -/

namespace Sys2Proof.Machine

set_option linter.all false
set_option simprocs false

theorem flashWrite_fr (s : State) (a : Nat) (b : Bytes) :
    Fr [.flash] s (flashWrite s a b) := by
  unfold flashWrite
  try dsimp only
  repeat'
    first
    | with_reducible exact Fr.refl _ _
    | with_reducible apply Fr.step ?_ (setFlash_fr _ _ ?_) ?_
    | exact rfl
    | exact fun hw => wf_mwrite _ _ _ _ hw

theorem flashErase_fr (s : State) (a : Nat) (n : Nat) :
    Fr [.flash] s (flashErase s a n) := by
  unfold flashErase
  try dsimp only
  repeat'
    first
    | with_reducible exact Fr.refl _ _
    | with_reducible apply Fr.step ?_ (setFlash_fr _ _ ?_) ?_
    | exact rfl
    | exact fun hw => twf_filter _ _ _ hw

theorem flashSpoil_fr (s : State) (a : Nat) (n : Nat) :
    Fr [.flash, .freeIx] s (flashSpoil s a n) := by
  unfold flashSpoil
  repeat'
    first
    | with_reducible exact Fr.refl _ _
    | with_reducible apply Fr.step ?_ (flashWrite_fr ..) ?_
    | with_reducible apply Fr.step ?_ (draw_fr ..) ?_
    | exact rfl

theorem writeRecord_fr (s : State) (base : Nat) (magic : Nat) (body : Bytes) :
    Fr [.flash] s (writeRecord s base magic body) := by
  unfold writeRecord
  try dsimp only
  repeat'
    first
    | with_reducible exact Fr.refl _ _
    | with_reducible apply Fr.step ?_ (flashWrite_fr ..) ?_
    | with_reducible apply Fr.step ?_ (flashErase_fr ..) ?_
    | split
    | exact rfl

theorem slotRecWrite_fr (s : State) (r : SlotRec) :
    Fr [.flash] s (slotRecWrite s r) := by
  unfold slotRecWrite
  try dsimp only
  repeat'
    first
    | with_reducible exact Fr.refl _ _
    | with_reducible apply Fr.step ?_ (writeRecord_fr ..) ?_
    | exact rfl

theorem setVerified_fr (s : State) (k : Nat) (ok : Bool) (ver : Option Nat) :
    Fr [.flash] s (setVerified s k ok ver) := by
  unfold setVerified
  try dsimp only
  repeat'
    first
    | with_reducible exact Fr.refl _ _
    | with_reducible apply Fr.ite
    | with_reducible apply Fr.step ?_ (slotRecWrite_fr ..) ?_
    | exact rfl

theorem modRelay_fr (s : State) (p : Nat) (f : Relay → Relay) :
    Fr [.sk] s (modRelay s p f) := by
  unfold modRelay
  try dsimp only
  repeat'
    first
    | with_reducible exact Fr.refl _ _
    | with_reducible apply Fr.step ?_ (modSk_fr ..) ?_
    | exact rfl

theorem relaySend_fr (s : State) (p : Nat) (auto : Bool) (msg : Bytes) :
    Fr [.sk, .cnt, .outs] s (relaySend s p auto msg) := by
  unfold relaySend
  try dsimp only
  repeat'
    first
    | with_reducible exact Fr.refl _ _
    | with_reducible apply Fr.step ?_ (modRelay_fr ..) ?_
    | with_reducible apply Fr.step ?_ (kSend_fr ..) ?_
    | exact rfl

theorem relayWrite_fr (s : State) (via : Via) (p : Nat) (first : Nat) (data : Bytes) :
    AFr [.sk, .cnt, .outs] s (relayWrite s via p first data) := by
  unfold relayWrite
  try dsimp only
  repeat'
    first
    | with_reducible exact Fr.refl _ _
    | with_reducible apply Fr.ite
    | with_reducible apply AFr.ite
    | with_reducible apply AFr.no
    | with_reducible apply AFr.ok
    | with_reducible apply badRange_fr
    | with_reducible apply Fr.step ?_ (relaySend_fr ..) ?_
    | with_reducible apply Fr.step ?_ (modRelay_fr ..) ?_
    | exact rfl

theorem autoRelay_fr (s : State) (r : Request) (payload : Bytes) :
    Fr [.sk, .cnt, .outs] s (autoRelay s r payload) := by
  unfold autoRelay
  try dsimp only
  repeat'
    first
    | with_reducible exact Fr.refl _ _
    | with_reducible apply Fr.ite
    | with_reducible apply Fr.step ?_ (kSend_fr ..) ?_
    | with_reducible apply Fr.step ?_ (relaySend_fr ..) ?_
    | with_reducible apply Fr.foldl ?_ (fun _ _ => ?_)
    | exact rfl

theorem setRole_fr (s : State) (role : Nat) (seq : BitVec 16) :
    Fr [.hl, .tw, .mg, .cnt, .outs] s (setRole s role seq) := by
  unfold setRole
  try dsimp only
  repeat'
    first
    | with_reducible exact Fr.refl _ _
    | with_reducible apply Fr.ite
    | with_reducible apply Fr.step ?_ (modTw_fr ..) ?_
    | with_reducible apply Fr.step ?_ (raiseEvent_fr ..) ?_
    | with_reducible apply Fr.step ?_ (logAdd_fr ..) ?_
    | exact rfl

theorem syncDone_fr (s : State) :
    Fr [.hl, .tw, .mg, .cnt, .outs] s (syncDone s) := by
  unfold syncDone
  try dsimp only
  repeat'
    first
    | with_reducible exact Fr.refl _ _
    | with_reducible apply Fr.ite
    | with_reducible apply Fr.step ?_ (setRole_fr ..) ?_
    | with_reducible apply Fr.step ?_ (modTw_fr ..) ?_
    | split
    | exact rfl

theorem unqueueAll_fr (s : State) (q : Nat) (idx : Nat) (p : Nat) :
    Fr [.tx] s (unqueueAll s q idx p) := by
  unfold unqueueAll
  try dsimp only
  repeat'
    first
    | with_reducible exact Fr.refl _ _
    | with_reducible apply Fr.ite
    | with_reducible apply Fr.step ?_ (modPrt_fr ..) ?_
    | exact rfl

theorem flushTalker_fr (s : State) (q : Nat) (r : TxRec) :
    Fr [.qs, .tx, .freeIx] s (flushTalker s q r) := by
  unfold flushTalker
  try dsimp only
  repeat'
    first
    | with_reducible exact Fr.refl _ _
    | with_reducible apply Fr.ite
    | with_reducible apply Fr.step ?_ (settle_fr ..) ?_
    | with_reducible apply Fr.step ?_ (unqueueAll_fr ..) ?_
    | with_reducible apply Fr.step ?_ (endRec_fr ..) ?_
    | with_reducible apply Fr.foldl ?_ (fun _ _ => ?_)
    | exact rfl

theorem flushTalkers_fr (s : State) :
    Fr [.qs, .tx, .freeIx] s (flushTalkers s) := by
  unfold flushTalkers
  try dsimp only
  repeat'
    first
    | with_reducible exact Fr.refl _ _
    | with_reducible apply Fr.step ?_ (flushTalker_fr ..) ?_
    | with_reducible apply Fr.foldl ?_ (fun _ _ => ?_)
    | exact rfl

theorem displace_fr (s : State) (l : List Order) :
    Fr [.mb, .ld, .fs] s (displace s l) := by
  unfold displace
  try dsimp only
  repeat'
    first
    | with_reducible exact Fr.refl _ _
    | with_reducible apply Fr.step ?_ (modMb_fr ..) ?_
    | with_reducible apply Fr.step ?_ (underCeil_fr ..) ?_
    | with_reducible apply Fr.foldl ?_ (fun _ _ => ?_)
    | exact rfl

theorem stageOrder_fr (s : State) (r : Request) (domains : List Nat) (cells : Option (Nat × Nat)) (payload : Bytes) :
    AFr [.mb, .ld, .fs] s (stageOrder s r domains cells payload) := by
  unfold stageOrder
  try dsimp only
  repeat'
    first
    | with_reducible exact Fr.refl _ _
    | with_reducible apply Fr.ite
    | with_reducible apply AFr.ite
    | with_reducible apply AFr.no
    | with_reducible apply AFr.staged
    | with_reducible apply Fr.step ?_ (modMb_fr ..) ?_
    | with_reducible apply Fr.step ?_ (displace_fr ..) ?_
    | with_reducible apply Fr.foldl ?_ (fun _ _ => ?_)
    | split
    | exact rfl

theorem attrRefusal_fr (s : State) (r : Request) (oid : Nat) (img : Bytes) :
    OptAFr [] s (attrRefusal s r oid img) := by
  unfold attrRefusal
  try dsimp only
  repeat'
    first
    | with_reducible apply AFr.no
    | with_reducible apply OptAFr.some
    | with_reducible apply OptAFr.none
    | with_reducible apply OptAFr.ite
    | with_reducible apply OptAFr.map

theorem attrApply_fr (s : State) (r : Request) (oid : Nat) (img : Bytes) :
    AFr [.pads, .hl, .qs, .mb, .ld, .tm, .cal, .tx, .sg, .sk, .tw, .fs, .se, .mg, .objs, .win0, .cnt, .freeIx, .outs] s (attrApply s r oid img) := by
  unfold attrApply
  try dsimp only
  repeat'
    first
    | with_reducible exact Fr.refl _ _
    | with_reducible apply Fr.ite
    | with_reducible apply AFr.ite
    | with_reducible apply AFr.no
    | with_reducible apply AFr.ok
    | with_reducible apply Fr.step ?_ (armPermit_fr ..) ?_
    | with_reducible apply Fr.step ?_ (disarm_fr ..) ?_
    | with_reducible apply Fr.step ?_ (capApply_fr ..) ?_
    | with_reducible apply Fr.step ?_ (objWrite_fr ..) ?_
    | with_reducible apply Fr.step ?_ (setSafeN_fr ..) ?_
    | with_reducible apply Fr.step ?_ (ExcFr.get (ExcFr.ite (dozeEnter_fr ..) (dozeLeave_fr ..)) ‹_›) ?_
    | with_reducible apply Fr.step ?_ (retryNow_fr ..) ?_
    | split
    | exact rfl

theorem stagedRefusal_fr (s : State) (oid : Nat) (img : Bytes) :
    OptAFr [] s (stagedRefusal s oid img) := by
  unfold stagedRefusal
  try dsimp only
  repeat'
    first
    | with_reducible apply badRange_fr
    | with_reducible apply OptAFr.some
    | with_reducible apply OptAFr.none
    | with_reducible apply OptAFr.ite

theorem attrSet_fr (s : State) (r : Request) :
    AFr [.pads, .hl, .qs, .mb, .ld, .tm, .cal, .tx, .sg, .sk, .tw, .fs, .se, .mg, .objs, .win0, .cnt, .freeIx, .outs] s (attrSet s r) := by
  unfold attrSet
  try dsimp only
  repeat'
    first
    | with_reducible exact Fr.refl _ _
    | with_reducible apply Fr.ite
    | with_reducible apply AFr.staged
    | with_reducible apply AFr.ite
    | with_reducible apply AFr.no
    | with_reducible apply badRange_fr
    | with_reducible apply AFr.step ?_ (OptAFr.get (stagedRefusal_fr ..) ‹_›) ?_
    | with_reducible apply AFr.step ?_ (stageOrder_fr ..) ?_
    | with_reducible apply AFr.step ?_ (OptAFr.get (attrRefusal_fr ..) ‹_›) ?_
    | with_reducible apply AFr.step ?_ (attrApply_fr ..) ?_
    | split
    | exact rfl

theorem execAttrSet_fr (via : Via) (s : State) :
    OFr [.pads, .hl, .qs, .mb, .ld, .tm, .cal, .tx, .sg, .sk, .tw, .fs, .se, .mg, .objs, .win0, .cnt, .freeIx, .outs] s (execAttrSet via s) := by
  unfold execAttrSet
  refine runCmd_fr rfl (fun s r => ?_)
  try dsimp only
  repeat'
    first
    | with_reducible exact Fr.refl _ _
    | with_reducible apply AFr.step ?_ (attrSet_fr ..) ?_
    | exact rfl

theorem attrGet_fr (s : State) (r : Request) :
    AFr [] s (attrGet s r) := by
  unfold attrGet
  try dsimp only
  repeat'
    first
    | with_reducible exact Fr.refl _ _
    | with_reducible apply Fr.ite
    | with_reducible apply AFr.ite
    | with_reducible apply AFr.no
    | with_reducible apply AFr.ok
    | with_reducible apply sized_fr
    | with_reducible apply reserved_fr
    | with_reducible apply badRange_fr

theorem execAttrGet_fr (via : Via) (s : State) :
    OFr [.pads, .hl, .mb, .sk, .se, .win0, .cnt, .outs] s (execAttrGet via s) := by
  unfold execAttrGet
  refine runCmd_fr rfl (fun s r => ?_)
  try dsimp only
  repeat'
    first
    | with_reducible exact Fr.refl _ _
    | with_reducible apply AFr.step ?_ (attrGet_fr ..) ?_
    | exact rfl

theorem tableRead_fr (s : State) (r : Request) :
    AFr [] s (tableRead s r) := by
  unfold tableRead
  try dsimp only
  repeat'
    first
    | with_reducible exact Fr.refl _ _
    | with_reducible apply Fr.ite
    | with_reducible apply AFr.ite
    | with_reducible apply AFr.no
    | with_reducible apply AFr.ok
    | with_reducible apply sized_fr
    | with_reducible apply reserved_fr
    | with_reducible apply badRange_fr
    | split

theorem execTableRead_fr (via : Via) (s : State) :
    OFr [.pads, .hl, .mb, .sk, .se, .win0, .cnt, .outs] s (execTableRead via s) := by
  unfold execTableRead
  refine runCmd_fr rfl (fun s r => ?_)
  try dsimp only
  repeat'
    first
    | with_reducible exact Fr.refl _ _
    | with_reducible apply AFr.step ?_ (tableRead_fr ..) ?_
    | exact rfl

theorem tableRefusal_fr (s : State) (r : Request) (oid : Nat) (first : Nat) (l : List Bytes) (clear : Bool) :
    OptAFr [] s (tableRefusal s r oid first l clear) := by
  unfold tableRefusal
  try dsimp only
  repeat'
    first
    | with_reducible apply AFr.no
    | with_reducible apply OptAFr.some
    | with_reducible apply OptAFr.none
    | with_reducible apply OptAFr.ite

theorem resetPns_fr (s : State) (p : Nat) (c : Nat) (old : Bytes) (new : Bytes) :
    Fr [.rx] s (resetPns s p c old new) := by
  unfold resetPns
  try dsimp only
  repeat'
    first
    | with_reducible exact Fr.refl _ _
    | with_reducible apply Fr.ite
    | with_reducible apply Fr.step ?_ (modRx_fr ..) ?_
    | with_reducible apply Fr.foldl ?_ (fun _ _ => ?_)
    | exact rfl

theorem entryHook_fr (s : State) (oid : Nat) (e : Nat) (old : Bytes) (new : Bytes) :
    Fr [.rx, .sg, .se, .mg, .outs] s (entryHook s oid e old new) := by
  unfold entryHook
  try dsimp only
  repeat'
    first
    | with_reducible exact Fr.refl _ _
    | with_reducible apply Fr.ite
    | with_reducible apply Fr.step ?_ (fillMeter_fr ..) ?_
    | with_reducible apply Fr.step ?_ (resetPns_fr ..) ?_
    | with_reducible apply Fr.step ?_ (modSgm_fr ..) ?_
    | with_reducible apply Fr.step ?_ (sessClose_fr ..) ?_
    | exact rfl

theorem writeEntries_fr (s : State) (oid : Nat) (d : Desc) (x3 : Nat) (x4 : List Bytes) :
    Fr [.rx, .sg, .se, .mg, .objs, .outs] s (writeEntries s oid d x3 x4) := by
  induction x4 generalizing s x3 with
  | nil => exact Fr.refl _ _
  | cons w ws ih =>
    unfold writeEntries
    try dsimp only
    repeat'
      first
      | with_reducible exact Fr.refl _ _
      | with_reducible apply Fr.ite
      | with_reducible apply Fr.step ?_ (entryHook_fr ..) ?_
      | with_reducible apply Fr.step ?_ (objWrite_fr ..) ?_
      | with_reducible apply Fr.step ?_ (ih ..) ?_
      | exact rfl

theorem tableCommon_fr (s : State) (r : Request) (oid : Nat) (d : Desc) (first : Nat) (l : List Bytes) (clear : Bool) :
    AFr [.mb, .ld, .rx, .sg, .fs, .se, .mg, .objs, .outs] s (tableCommon s r oid d first l clear) := by
  unfold tableCommon
  try dsimp only
  repeat'
    first
    | with_reducible exact Fr.refl _ _
    | with_reducible apply Fr.ite
    | with_reducible apply AFr.staged
    | with_reducible apply AFr.ite
    | with_reducible apply AFr.no
    | with_reducible apply AFr.ok
    | with_reducible apply AFr.step ?_ (stageOrder_fr ..) ?_
    | with_reducible apply AFr.step ?_ (OptAFr.get (tableRefusal_fr ..) ‹_›) ?_
    | with_reducible apply Fr.step ?_ (writeEntries_fr ..) ?_
    | split
    | exact rfl

theorem tableWrite_fr (s : State) (r : Request) :
    AFr [.mb, .ld, .rx, .sg, .sk, .fs, .se, .mg, .objs, .cnt, .outs] s (tableWrite s r) := by
  unfold tableWrite
  try dsimp only
  repeat'
    first
    | with_reducible exact Fr.refl _ _
    | with_reducible apply Fr.ite
    | with_reducible apply AFr.ite
    | with_reducible apply AFr.no
    | with_reducible apply badRange_fr
    | with_reducible apply AFr.step ?_ (relayWrite_fr ..) ?_
    | with_reducible apply AFr.step ?_ (tableCommon_fr ..) ?_
    | split
    | exact rfl

theorem execTableWrite_fr (via : Via) (s : State) :
    OFr [.pads, .hl, .mb, .ld, .rx, .sg, .sk, .fs, .se, .mg, .objs, .win0, .cnt, .outs] s (execTableWrite via s) := by
  unfold execTableWrite
  refine runCmd_fr rfl (fun s r => ?_)
  try dsimp only
  repeat'
    first
    | with_reducible exact Fr.refl _ _
    | with_reducible apply AFr.step ?_ (tableWrite_fr ..) ?_
    | exact rfl

theorem tableClear_fr (s : State) (r : Request) :
    AFr [.mb, .ld, .rx, .sg, .sk, .fs, .se, .mg, .objs, .outs] s (tableClear s r) := by
  unfold tableClear
  try dsimp only
  repeat'
    first
    | with_reducible exact Fr.refl _ _
    | with_reducible apply Fr.ite
    | with_reducible apply AFr.ite
    | with_reducible apply AFr.no
    | with_reducible apply AFr.ok
    | with_reducible apply sized_fr
    | with_reducible apply badRange_fr
    | with_reducible apply Fr.step ?_ (modRelay_fr ..) ?_
    | with_reducible apply AFr.step ?_ (tableCommon_fr ..) ?_
    | split
    | exact rfl

theorem execTableClear_fr (via : Via) (s : State) :
    OFr [.pads, .hl, .mb, .ld, .rx, .sg, .sk, .fs, .se, .mg, .objs, .win0, .cnt, .outs] s (execTableClear via s) := by
  unfold execTableClear
  refine runCmd_fr rfl (fun s r => ?_)
  try dsimp only
  repeat'
    first
    | with_reducible exact Fr.refl _ _
    | with_reducible apply AFr.step ?_ (tableClear_fr ..) ?_
    | exact rfl

theorem stageMode_fr (s : State) (r : Request) :
    AFr [.mb, .ld, .sk, .fs, .cnt, .outs] s (stageMode s r) := by
  unfold stageMode
  try dsimp only
  repeat'
    first
    | with_reducible exact Fr.refl _ _
    | with_reducible apply Fr.ite
    | with_reducible apply AFr.ite
    | with_reducible apply AFr.no
    | with_reducible apply AFr.staged
    | with_reducible apply sized_fr
    | with_reducible apply reserved_fr
    | with_reducible apply badRange_fr
    | with_reducible apply AFr.step ?_ (stageOrder_fr ..) ?_
    | with_reducible apply Fr.step ?_ (autoRelay_fr ..) ?_
    | with_reducible apply Fr.step ?_ (AFr.get_staged (stageOrder_fr ..) ‹_›) ?_
    | split
    | exact rfl

theorem execStageMode_fr (via : Via) (s : State) :
    OFr [.pads, .hl, .mb, .ld, .sk, .fs, .se, .win0, .cnt, .outs] s (execStageMode via s) := by
  unfold execStageMode
  refine runCmd_fr rfl (fun s r => ?_)
  try dsimp only
  repeat'
    first
    | with_reducible exact Fr.refl _ _
    | with_reducible apply AFr.step ?_ (stageMode_fr ..) ?_
    | exact rfl

theorem abortStage_fr (s : State) (r : Request) :
    AFr [.mb, .ld, .fs] s (abortStage s r) := by
  unfold abortStage
  try dsimp only
  repeat'
    first
    | with_reducible exact Fr.refl _ _
    | with_reducible apply Fr.ite
    | with_reducible apply AFr.ite
    | with_reducible apply AFr.no
    | with_reducible apply AFr.ok
    | with_reducible apply sized_fr
    | with_reducible apply reserved_fr
    | with_reducible apply badRange_fr
    | with_reducible apply Fr.step ?_ (modMb_fr ..) ?_
    | with_reducible apply Fr.step ?_ (underCeil_fr ..) ?_
    | exact rfl

theorem execAbortStage_fr (via : Via) (s : State) :
    OFr [.pads, .hl, .mb, .ld, .sk, .fs, .se, .win0, .cnt, .outs] s (execAbortStage via s) := by
  unfold execAbortStage
  refine runCmd_fr rfl (fun s r => ?_)
  try dsimp only
  repeat'
    first
    | with_reducible exact Fr.refl _ _
    | with_reducible apply AFr.step ?_ (abortStage_fr ..) ?_
    | exact rfl

theorem execStackRelayWrite_fr (via : Via) (p : Fin 8) (first : Nat) (data : Bytes) (s : State) :
    OFr [.pads, .sk, .cnt, .outs] s (execStackRelayWrite via p first data s) := by
  unfold execStackRelayWrite
  refine run_fr rfl ?_
  try dsimp only
  repeat'
    first
    | with_reducible exact Fr.refl _ _
    | with_reducible apply Fr.ite
    | with_reducible apply Fr.step ?_ (AFr.get_ok (relayWrite_fr ..) ‹_›) ?_
    | split
    | exact rfl

theorem execSafeNRelease_fr (o : PortOrder) (s : State) :
    OFr [.pads, .hl, .qs, .mb, .ld, .tm, .tx, .sg, .sk, .tw, .fs, .se, .mg, .objs, .win0, .cnt, .freeIx, .outs] s (execSafeNRelease o s) := by
  unfold execSafeNRelease
  refine run_fr rfl ?_
  try dsimp only
  repeat'
    first
    | with_reducible exact Fr.refl _ _
    | with_reducible apply Fr.ite
    | with_reducible apply Fr.step ?_ (setSafeN_fr ..) ?_
    | with_reducible apply Fr.step ?_ (fault_fr ..) ?_
    | exact rfl

theorem execSafeNWithdraw_fr (o : PortOrder) (s : State) :
    OFr [.pads, .hl, .qs, .mb, .ld, .tm, .tx, .sg, .sk, .tw, .fs, .se, .mg, .objs, .win0, .cnt, .freeIx, .outs] s (execSafeNWithdraw o s) := by
  unfold execSafeNWithdraw
  refine run_fr rfl ?_
  try dsimp only
  repeat'
    first
    | with_reducible exact Fr.refl _ _
    | with_reducible apply Fr.ite
    | with_reducible apply Fr.step ?_ (setSafeN_fr ..) ?_
    | with_reducible apply Fr.step ?_ (fault_fr ..) ?_
    | exact rfl

theorem sendPlanes_fr (s : State) (kind : Nat) (planes : List Nat) :
    Fr [.tx] s (sendPlanes s kind planes) := by
  unfold sendPlanes
  try dsimp only
  repeat'
    first
    | with_reducible exact Fr.refl _ _
    | with_reducible apply Fr.step ?_ (sendOwn_fr ..) ?_
    | with_reducible apply Fr.foldl ?_ (fun _ _ => ?_)
    | exact rfl

theorem sendStack_fr (s : State) (op : Nat) :
    Fr [.sk, .cnt, .outs] s (sendStack s op) := by
  unfold sendStack
  try dsimp only
  repeat'
    first
    | with_reducible exact Fr.refl _ _
    | with_reducible apply Fr.ite
    | with_reducible apply Fr.step ?_ (kSend_fr ..) ?_
    | with_reducible apply Fr.foldl ?_ (fun _ _ => ?_)
    | exact rfl

theorem startAgree_fr (s : State) (b : Nat) (m : Nat) :
    Fr [.tx, .sk, .cnt, .freeIx, .outs] s (startAgree s b m) := by
  unfold startAgree
  try dsimp only
  repeat'
    first
    | with_reducible exact Fr.refl _ _
    | with_reducible apply Fr.ite
    | with_reducible apply Fr.step ?_ (draw_fr ..) ?_
    | with_reducible apply Fr.step ?_ (modTx_fr ..) ?_
    | with_reducible apply Fr.step ?_ (sendStack_fr ..) ?_
    | with_reducible apply Fr.step ?_ (sendPlanes_fr ..) ?_
    | split
    | exact rfl

theorem lateAgree_fr (s : State) :
    Fr [.tx, .sk, .cnt, .freeIx, .outs] s (lateAgree s) := by
  unfold lateAgree
  try dsimp only
  repeat'
    first
    | with_reducible exact Fr.refl _ _
    | with_reducible apply Fr.ite
    | with_reducible apply Fr.step ?_ (startAgree_fr ..) ?_
    | with_reducible apply Fr.step ?_ (modTx_fr ..) ?_
    | split
    | exact rfl

theorem execDomainEnableComplete_fr (d : Fin 78) (s : State) :
    OFr [.pads, .hl, .qs, .mb, .ld, .tm, .cal, .tx, .sg, .sk, .tw, .fs, .se, .mg, .objs, .win0, .cnt, .freeIx, .outs] s (execDomainEnableComplete d s) := by
  unfold execDomainEnableComplete
  refine run_fr rfl ?_
  try dsimp only
  repeat'
    first
    | with_reducible exact Fr.refl _ _
    | with_reducible apply Fr.ite
    | with_reducible apply Fr.step ?_ (enableDone_fr ..) ?_
    | with_reducible apply Fr.step ?_ (lateAgree_fr ..) ?_
    | split
    | exact rfl

theorem execDomainEnableFailed_fr (d : Fin 78) (s : State) :
    OFr [.pads, .hl, .qs, .mb, .ld, .tm, .tx, .sg, .sk, .tw, .fs, .se, .mg, .objs, .win0, .cnt, .freeIx, .outs] s (execDomainEnableFailed d s) := by
  unfold execDomainEnableFailed
  refine run_fr rfl ?_
  try dsimp only
  repeat'
    first
    | with_reducible exact Fr.refl _ _
    | with_reducible apply Fr.ite
    | with_reducible apply Fr.step ?_ (enableFailed_fr ..) ?_
    | with_reducible apply Fr.step ?_ (lateAgree_fr ..) ?_
    | split
    | exact rfl

theorem execDomainDisableComplete_fr (d : Fin 78) (s : State) :
    OFr [.pads, .hl, .qs, .mb, .ld, .tm, .cal, .tx, .rx, .str, .sg, .sk, .tw, .fs, .se, .mg, .objs, .win0, .win1, .cnt, .freeIx, .outs] s (execDomainDisableComplete d s) := by
  unfold execDomainDisableComplete
  refine run_fr rfl ?_
  try dsimp only
  repeat'
    first
    | with_reducible exact Fr.refl _ _
    | with_reducible apply Fr.ite
    | with_reducible apply Fr.step ?_ (disableDone_fr ..) ?_
    | with_reducible apply Fr.step ?_ (lateAgree_fr ..) ?_
    | split
    | exact rfl

theorem freeze_fr (s : State) (r : Request) (b : Nat) :
    Fr [.pads, .hl, .qs, .mb, .ld, .tm, .tx, .sg, .sk, .tw, .fs, .se, .mg, .objs, .win0, .cnt, .freeIx, .outs] s (freeze s r b) := by
  unfold freeze
  try dsimp only
  repeat'
    first
    | with_reducible exact Fr.refl _ _
    | with_reducible apply Fr.ite
    | with_reducible apply Fr.step ?_ (modMb_fr ..) ?_
    | with_reducible apply Fr.step ?_ (modTx_fr ..) ?_
    | with_reducible apply Fr.step ?_ (plan_fr ..) ?_
    | with_reducible apply Fr.step ?_ (lateAgree_fr ..) ?_
    | with_reducible apply Fr.foldl ?_ (fun _ _ => ?_)
    | split
    | exact rfl

theorem commit_fr (s : State) (r : Request) :
    AFr [.pads, .hl, .qs, .mb, .ld, .tm, .tx, .sg, .sk, .tw, .fs, .se, .mg, .objs, .win0, .cnt, .freeIx, .outs] s (commit s r) := by
  unfold commit
  try dsimp only
  repeat'
    first
    | with_reducible exact Fr.refl _ _
    | with_reducible apply Fr.ite
    | with_reducible apply AFr.ite
    | with_reducible apply AFr.no
    | with_reducible apply AFr.ok
    | with_reducible apply AFr.later
    | with_reducible apply sized_fr
    | with_reducible apply badRange_fr
    | with_reducible apply Fr.step ?_ (freeze_fr ..) ?_
    | with_reducible apply Fr.step ?_ (autoRelay_fr ..) ?_
    | split
    | exact rfl

theorem execCommit_fr (via : Via) (s : State) :
    OFr [.pads, .hl, .qs, .mb, .ld, .tm, .tx, .sg, .sk, .tw, .fs, .se, .mg, .objs, .win0, .cnt, .freeIx, .outs] s (execCommit via s) := by
  unfold execCommit
  refine runCmd_fr rfl (fun s r => ?_)
  try dsimp only
  repeat'
    first
    | with_reducible exact Fr.refl _ _
    | with_reducible apply AFr.step ?_ (commit_fr ..) ?_
    | exact rfl

theorem failCommit_fr (s : State) (planes : Nat) (stack : Nat) (segs : Nat) :
    Fr [.hl, .mb, .ld, .tx, .sk, .fs, .se, .mg, .win0, .cnt, .outs] s (failCommit s planes stack segs) := by
  unfold failCommit
  try dsimp only
  repeat'
    first
    | with_reducible exact Fr.refl _ _
    | with_reducible apply Fr.ite
    | with_reducible apply Fr.step ?_ (undoMoves_fr ..) ?_
    | with_reducible apply Fr.step ?_ (endCommit_fr ..) ?_
    | with_reducible apply Fr.step ?_ (modMb_fr ..) ?_
    | with_reducible apply Fr.step ?_ (modTx_fr ..) ?_
    | with_reducible apply Fr.step ?_ (displace_fr ..) ?_
    | with_reducible apply Fr.foldl ?_ (fun _ _ => ?_)
    | exact rfl

theorem decideNow_fr (s : State) (m : Nat) :
    Fr [.hl, .mb, .ld, .tx, .sk, .fs, .se, .mg, .win0, .cnt, .outs] s (decideNow s m) := by
  unfold decideNow
  try dsimp only
  repeat'
    first
    | with_reducible exact Fr.refl _ _
    | with_reducible apply Fr.ite
    | with_reducible apply Fr.step ?_ (modTx_fr ..) ?_
    | with_reducible apply Fr.step ?_ (sendStack_fr ..) ?_
    | with_reducible apply Fr.step ?_ (sendPlanes_fr ..) ?_
    | with_reducible apply Fr.step ?_ (failCommit_fr ..) ?_
    | exact rfl

theorem execCommitDecide_fr (s : State) :
    OFr [.pads, .hl, .mb, .ld, .tx, .sk, .fs, .se, .mg, .win0, .cnt, .outs] s (execCommitDecide s) := by
  unfold execCommitDecide
  refine run_fr rfl ?_
  try dsimp only
  repeat'
    first
    | with_reducible exact Fr.refl _ _
    | with_reducible apply Fr.step ?_ (decideNow_fr ..) ?_
    | split
    | exact rfl

theorem execAgreeRepeat_fr (s : State) :
    OFr [.pads, .tx, .sk, .cnt, .outs] s (execAgreeRepeat s) := by
  unfold execAgreeRepeat
  refine run_fr rfl ?_
  try dsimp only
  repeat'
    first
    | with_reducible exact Fr.refl _ _
    | with_reducible apply Fr.ite
    | with_reducible apply Fr.step ?_ (sendPlanes_fr ..) ?_
    | with_reducible apply Fr.step ?_ (sendStack_fr ..) ?_
    | with_reducible apply Fr.step ?_ (modTx_fr ..) ?_
    | exact rfl

theorem gauntletHold_fr (s : State) (b : Nat) :
    Fr [.sg] s (gauntletHold s b) := by
  unfold gauntletHold
  try dsimp only
  repeat'
    first
    | with_reducible exact Fr.refl _ _
    | with_reducible apply Fr.ite
    | with_reducible apply Fr.step ?_ (gauntletLoad_fr ..) ?_
    | with_reducible apply Fr.step ?_ (modSg_fr ..) ?_
    | with_reducible apply Fr.foldl ?_ (fun _ _ => ?_)
    | split
    | exact rfl

theorem holdSet_fr (s : State) :
    Fr [.pads, .hl, .qs, .mb, .ld, .tm, .tx, .sg, .sk, .tw, .fs, .se, .mg, .objs, .win0, .cnt, .freeIx, .outs] s (holdSet s) := by
  unfold holdSet
  try dsimp only
  repeat'
    first
    | with_reducible exact Fr.refl _ _
    | with_reducible apply Fr.ite
    | with_reducible apply Fr.step ?_ (decideNow_fr ..) ?_
    | with_reducible apply Fr.step ?_ (failCommit_fr ..) ?_
    | with_reducible apply Fr.step ?_ (modMb_fr ..) ?_
    | with_reducible apply AFr.step ?_ (commit_fr ..) ?_
    | with_reducible apply Fr.step ?_ (gauntletHold_fr ..) ?_
    | with_reducible apply Fr.foldl ?_ (fun _ _ => ?_)
    | split
    | exact rfl

theorem execPreparedSetHold_fr (s : State) :
    OFr [.pads, .hl, .qs, .mb, .ld, .tm, .tx, .sg, .sk, .tw, .fs, .se, .mg, .objs, .win0, .cnt, .freeIx, .outs] s (execPreparedSetHold s) := by
  unfold execPreparedSetHold
  refine run_fr rfl ?_
  try dsimp only
  repeat'
    first
    | with_reducible exact Fr.refl _ _
    | with_reducible apply Fr.step ?_ (holdSet_fr ..) ?_
    | exact rfl

theorem joinDomains_fr (s : State) :
    Fr [.pads, .hl, .qs, .mb, .ld, .tm, .cal, .tx, .sg, .sk, .tw, .fs, .se, .mg, .objs, .win0, .cnt, .freeIx, .outs] s (joinDomains s) := by
  unfold joinDomains
  try dsimp only
  repeat'
    first
    | with_reducible exact Fr.refl _ _
    | with_reducible apply Fr.step ?_ (gain_fr ..) ?_
    | with_reducible apply Fr.step ?_ (modLd_fr ..) ?_
    | with_reducible apply Fr.foldl ?_ (fun _ _ => ?_)
    | exact rfl

theorem writeGroup_fr (s : State) (o : Order) (oid : Nat) (d : Desc) :
    Fr [.pads, .hl, .qs, .mb, .ld, .tm, .tx, .rx, .str, .sg, .sk, .tw, .fs, .se, .mg, .objs, .win0, .cnt, .freeIx, .outs] s (writeGroup s o oid d) := by
  unfold writeGroup
  try dsimp only
  repeat'
    first
    | with_reducible exact Fr.refl _ _
    | with_reducible apply Fr.ite
    | with_reducible apply Fr.step ?_ (objWrite_fr ..) ?_
    | with_reducible apply Fr.step ?_ (cbsUpdate_fr ..) ?_
    | with_reducible apply Fr.step ?_ (modLd_fr ..) ?_
    | with_reducible apply Fr.step ?_ (settleLevels_fr ..) ?_
    | with_reducible apply Fr.step ?_ (mergeStart_fr ..) ?_
    | with_reducible apply Fr.step ?_ (closeSlots_fr ..) ?_
    | with_reducible apply Fr.step ?_ (setTalk_fr ..) ?_
    | with_reducible apply Fr.step ?_ (modStr_fr ..) ?_
    | with_reducible apply Fr.step ?_ (modSgm_fr ..) ?_
    | with_reducible apply Fr.step ?_ (segListen_fr ..) ?_
    | exact rfl

theorem twinOff_fr (s : State) :
    Fr [.hl, .sk, .tw, .fs, .mg, .cnt, .outs] s (twinOff s) := by
  unfold twinOff
  try dsimp only
  repeat'
    first
    | with_reducible exact Fr.refl _ _
    | with_reducible apply Fr.step ?_ (modTw_fr ..) ?_
    | with_reducible apply Fr.step ?_ (setRole_fr ..) ?_
    | with_reducible apply Fr.step ?_ (condOff_fr ..) ?_
    | with_reducible apply Fr.step ?_ (modSk_fr ..) ?_
    | exact rfl

theorem applyTwinConfig_fr (s : State) (p : Bytes) :
    Fr [.hl, .sk, .tw, .fs, .mg, .cnt, .outs] s (applyTwinConfig s p) := by
  unfold applyTwinConfig
  try dsimp only
  repeat'
    first
    | with_reducible exact Fr.refl _ _
    | with_reducible apply Fr.ite
    | with_reducible apply Fr.step ?_ (modTw_fr ..) ?_
    | with_reducible apply Fr.step ?_ (setRole_fr ..) ?_
    | with_reducible apply Fr.step ?_ (twinOff_fr ..) ?_
    | exact rfl

theorem applyStackConfig_fr (s : State) (p : Bytes) :
    Fr [.pads, .hl, .qs, .mb, .ld, .tm, .tx, .sg, .sk, .tw, .fs, .se, .mg, .objs, .win0, .cnt, .freeIx, .outs] s (applyStackConfig s p) := by
  unfold applyStackConfig
  try dsimp only
  repeat'
    first
    | with_reducible exact Fr.refl _ _
    | with_reducible apply Fr.ite
    | with_reducible apply Fr.step ?_ (modSk_fr ..) ?_
    | with_reducible apply Fr.step ?_ (twinOff_fr ..) ?_
    | with_reducible apply Fr.step ?_ (count_fr ..) ?_
    | with_reducible apply Fr.step ?_ (checkRanges_fr ..) ?_
    | with_reducible apply Fr.step ?_ (stackEvent_fr ..) ?_
    | exact rfl

theorem applyMirror_fr (s : State) (p : Bytes) :
    Fr [.tw] s (applyMirror s p) := by
  unfold applyMirror
  try dsimp only
  repeat'
    first
    | with_reducible exact Fr.refl _ _
    | with_reducible apply Fr.ite
    | with_reducible apply Fr.step ?_ (modTw_fr ..) ?_
    | exact rfl

theorem applyOrder_fr (s : State) (b : Nat) (o : Order) :
    Fr [.pads, .hl, .qs, .mb, .ld, .tm, .tx, .rx, .str, .sg, .sk, .tw, .fs, .se, .mg, .objs, .win0, .cnt, .freeIx, .outs] s (applyOrder s b o) := by
  unfold applyOrder
  try dsimp only
  repeat'
    first
    | with_reducible exact Fr.refl _ _
    | with_reducible apply Fr.ite
    | with_reducible apply Fr.step ?_ (modTx_fr ..) ?_
    | with_reducible apply Fr.step ?_ (modSrc_fr ..) ?_
    | with_reducible apply Fr.step ?_ (applyTwinConfig_fr ..) ?_
    | with_reducible apply Fr.step ?_ (applyMirror_fr ..) ?_
    | with_reducible apply Fr.step ?_ (applyStackConfig_fr ..) ?_
    | with_reducible apply Fr.step ?_ (writeGroup_fr ..) ?_
    | with_reducible apply Fr.step ?_ (objWrite_fr ..) ?_
    | split
    | exact rfl

theorem rejoin_fr (s : State) :
    Fr [.tm, .fs] s (rejoin s) := by
  unfold rejoin
  try dsimp only
  repeat'
    first
    | with_reducible exact Fr.refl _ _
    | with_reducible apply Fr.ite
    | with_reducible apply Fr.step ?_ (condOff_fr ..) ?_
    | with_reducible apply Fr.step ?_ (modChan_fr ..) ?_
    | with_reducible apply Fr.foldl ?_ (fun _ _ => ?_)
    | exact rfl

theorem applyStage_fr (s : State) (b : Nat) :
    Fr [.pads, .hl, .qs, .mb, .ld, .tm, .cal, .tx, .rx, .str, .sg, .sk, .tw, .fs, .se, .mg, .objs, .win0, .cnt, .freeIx, .outs] s (applyStage s b) := by
  unfold applyStage
  try dsimp only
  repeat'
    first
    | with_reducible exact Fr.refl _ _
    | with_reducible apply Fr.ite
    | with_reducible apply Fr.step ?_ (joinDomains_fr ..) ?_
    | with_reducible apply Fr.step ?_ (applyOrder_fr ..) ?_
    | with_reducible apply Fr.step ?_ (modMb_fr ..) ?_
    | with_reducible apply Fr.step ?_ (modTx_fr ..) ?_
    | with_reducible apply Fr.step ?_ (endCommit_fr ..) ?_
    | with_reducible apply Fr.foldl ?_ (fun _ _ => ?_)
    | exact rfl

theorem passBoundary_fr (s : State) :
    Fr [.mb, .tm, .fs] s (passBoundary s) := by
  unfold passBoundary
  try dsimp only
  repeat'
    first
    | with_reducible exact Fr.refl _ _
    | with_reducible apply Fr.ite
    | with_reducible apply Fr.step ?_ (rejoin_fr ..) ?_
    | with_reducible apply Fr.step ?_ (modMb_fr ..) ?_
    | split
    | exact rfl

theorem takeSet_fr (s : State) (b : Nat) :
    Fr [.pads, .hl, .qs, .mb, .ld, .tm, .cal, .tx, .rx, .str, .sg, .sk, .tw, .fs, .se, .mg, .objs, .win0, .cnt, .freeIx, .outs] s (takeSet s b) := by
  unfold takeSet
  try dsimp only
  repeat'
    first
    | with_reducible exact Fr.refl _ _
    | with_reducible apply Fr.step ?_ (rejoin_fr ..) ?_
    | with_reducible apply Fr.step ?_ (brimRetry_fr ..) ?_
    | with_reducible apply Fr.step ?_ (applyStage_fr ..) ?_
    | with_reducible apply Fr.step ?_ (cbsAll_fr ..) ?_
    | with_reducible apply Fr.step ?_ (modMb_fr ..) ?_
    | split
    | exact rfl

theorem takeBoundary_fr (s : State) :
    Fr [.pads, .hl, .qs, .mb, .ld, .tm, .cal, .tx, .rx, .str, .sg, .sk, .tw, .fs, .se, .mg, .objs, .win0, .cnt, .freeIx, .outs] s (takeBoundary s) := by
  unfold takeBoundary
  try dsimp only
  repeat'
    first
    | with_reducible exact Fr.refl _ _
    | with_reducible apply Fr.step ?_ (takeSet_fr ..) ?_
    | with_reducible apply Fr.step ?_ (passBoundary_fr ..) ?_
    | with_reducible apply Fr.ite
    | split
    | exact rfl

theorem execCommitBoundary_fr (s : State) :
    OFr [.pads, .hl, .qs, .mb, .ld, .tm, .cal, .tx, .rx, .str, .sg, .sk, .tw, .fs, .se, .mg, .objs, .win0, .cnt, .freeIx, .outs] s (execCommitBoundary s) := by
  unfold execCommitBoundary
  refine run_fr rfl ?_
  try dsimp only
  repeat'
    first
    | with_reducible exact Fr.refl _ _
    | with_reducible apply Fr.step ?_ (takeBoundary_fr ..) ?_
    | exact rfl

theorem takePropose_fr (s : State) (p : Nat) (f : Bytes) :
    Fr [.tx] s (takePropose s p f) := by
  unfold takePropose
  try dsimp only
  repeat'
    first
    | with_reducible exact Fr.refl _ _
    | with_reducible apply Fr.ite
    | with_reducible apply Fr.step ?_ (modTx_fr ..) ?_
    | with_reducible apply Fr.step ?_ (sendOwn_fr ..) ?_
    | exact rfl

theorem execProposeReceive_fr (p : Fin 6) (frame : Bytes) (s : State) :
    OFr [.pads, .tx] s (execProposeReceive p frame s) := by
  unfold execProposeReceive
  refine run_fr rfl ?_
  try dsimp only
  repeat'
    first
    | with_reducible exact Fr.refl _ _
    | with_reducible apply Fr.ite
    | with_reducible apply Fr.step ?_ (takePropose_fr ..) ?_
    | exact rfl

theorem takeReply_fr (s : State) (p : Nat) (f : Bytes) :
    Fr [.tx] s (takeReply s p f) := by
  unfold takeReply
  try dsimp only
  repeat'
    first
    | with_reducible exact Fr.refl _ _
    | with_reducible apply Fr.ite
    | with_reducible apply Fr.step ?_ (modTx_fr ..) ?_
    | split
    | exact rfl

theorem execReplyReceive_fr (p : Fin 6) (frame : Bytes) (s : State) :
    OFr [.pads, .tx] s (execReplyReceive p frame s) := by
  unfold execReplyReceive
  refine run_fr rfl ?_
  try dsimp only
  repeat'
    first
    | with_reducible exact Fr.refl _ _
    | with_reducible apply Fr.ite
    | with_reducible apply Fr.step ?_ (takeReply_fr ..) ?_
    | exact rfl

theorem takeConfirm_fr (s : State) (p : Nat) (f : Bytes) :
    Fr [.tx] s (takeConfirm s p f) := by
  unfold takeConfirm
  try dsimp only
  repeat'
    first
    | with_reducible exact Fr.refl _ _
    | with_reducible apply Fr.ite
    | with_reducible apply Fr.step ?_ (modTx_fr ..) ?_
    | exact rfl

theorem execConfirmReceive_fr (p : Fin 6) (frame : Bytes) (s : State) :
    OFr [.pads, .tx] s (execConfirmReceive p frame s) := by
  unfold execConfirmReceive
  refine run_fr rfl ?_
  try dsimp only
  repeat'
    first
    | with_reducible exact Fr.refl _ _
    | with_reducible apply Fr.ite
    | with_reducible apply Fr.step ?_ (takeConfirm_fr ..) ?_
    | exact rfl

theorem dropHeld_fr (s : State) :
    Fr [.hl, .mb, .ld, .tx, .sg, .sk, .fs, .se, .mg, .win0, .cnt, .outs] s (dropHeld s) := by
  unfold dropHeld
  try dsimp only
  repeat'
    first
    | with_reducible exact Fr.refl _ _
    | with_reducible apply Fr.ite
    | with_reducible apply Fr.step ?_ (failCommit_fr ..) ?_
    | with_reducible apply Fr.step ?_ (modSg_fr ..) ?_
    | split
    | exact rfl

theorem takeCancel_fr (s : State) (p : Nat) (f : Bytes) :
    Fr [.hl, .mb, .ld, .tx, .sg, .sk, .fs, .se, .mg, .win0, .cnt, .outs] s (takeCancel s p f) := by
  unfold takeCancel
  try dsimp only
  repeat'
    first
    | with_reducible exact Fr.refl _ _
    | with_reducible apply Fr.ite
    | with_reducible apply Fr.step ?_ (modTx_fr ..) ?_
    | with_reducible apply Fr.step ?_ (dropHeld_fr ..) ?_
    | exact rfl

theorem execCancelReceive_fr (p : Fin 6) (frame : Bytes) (s : State) :
    OFr [.pads, .hl, .mb, .ld, .tx, .sg, .sk, .fs, .se, .mg, .win0, .cnt, .outs] s (execCancelReceive p frame s) := by
  unfold execCancelReceive
  refine run_fr rfl ?_
  try dsimp only
  repeat'
    first
    | with_reducible exact Fr.refl _ _
    | with_reducible apply Fr.ite
    | with_reducible apply Fr.step ?_ (takeCancel_fr ..) ?_
    | exact rfl

theorem takeAgree_fr (p : Nat) (kind : Nat) (f : Bytes) (s : State) :
    Fr [.hl, .mb, .ld, .tx, .sg, .sk, .fs, .se, .mg, .win0, .cnt, .outs] s (takeAgree p kind f s) := by
  unfold takeAgree
  try dsimp only
  repeat'
    first
    | with_reducible exact Fr.refl _ _
    | with_reducible apply Fr.ite
    | with_reducible apply Fr.step ?_ (takePropose_fr ..) ?_
    | with_reducible apply Fr.step ?_ (takeReply_fr ..) ?_
    | with_reducible apply Fr.step ?_ (takeConfirm_fr ..) ?_
    | with_reducible apply Fr.step ?_ (takeCancel_fr ..) ?_
    | exact rfl

theorem segTell_fr (s : State) (i : Nat) (ground : Nat) :
    Fr [.pads, .hl, .qs, .mb, .ld, .tm, .tx, .sg, .sk, .tw, .fs, .se, .mg, .objs, .win0, .cnt, .freeIx, .outs] s (segTell s i ground) := by
  unfold segTell
  try dsimp only
  repeat'
    first
    | with_reducible exact Fr.refl _ _
    | with_reducible apply Fr.ite
    | with_reducible apply Fr.step ?_ (fault_fr ..) ?_
    | with_reducible apply Fr.step ?_ (modSgm_fr ..) ?_
    | exact rfl

theorem calUnanswered_fr (s : State) (i : Nat) :
    Fr [.sg, .cnt] s (calUnanswered s i) := by
  unfold calUnanswered
  try dsimp only
  repeat'
    first
    | with_reducible exact Fr.refl _ _
    | with_reducible apply Fr.ite
    | with_reducible apply Fr.step ?_ (modSgm_fr ..) ?_
    | with_reducible apply Fr.step ?_ (count_fr ..) ?_
    | split
    | exact rfl

theorem headCycleEnd_fr (s : State) (i : Nat) :
    Fr [.pads, .hl, .qs, .mb, .ld, .tm, .tx, .sg, .sk, .tw, .fs, .se, .mg, .objs, .win0, .cnt, .freeIx, .outs] s (headCycleEnd s i) := by
  unfold headCycleEnd
  try dsimp only
  repeat'
    first
    | with_reducible exact Fr.refl _ _
    | with_reducible apply Fr.ite
    | with_reducible apply Fr.step ?_ (modSgm_fr ..) ?_
    | with_reducible apply Fr.step ?_ (fault_fr ..) ?_
    | with_reducible apply Fr.step ?_ (segListen_fr ..) ?_
    | exact rfl

theorem listenStart_fr (s : State) (i : Nat) :
    Fr [.sg, .cnt] s (listenStart s i) := by
  unfold listenStart
  try dsimp only
  repeat'
    first
    | with_reducible exact Fr.refl _ _
    | with_reducible apply Fr.ite
    | with_reducible apply Fr.step ?_ (count_fr ..) ?_
    | with_reducible apply Fr.step ?_ (modSgm_fr ..) ?_
    | exact rfl

theorem cycleBegin_fr (s : State) (i : Nat) (start : Nat) :
    Fr [.sg] s (cycleBegin s i start) := by
  unfold cycleBegin
  try dsimp only
  repeat'
    first
    | with_reducible exact Fr.refl _ _
    | with_reducible apply Fr.ite
    | with_reducible apply Fr.step ?_ (modSgm_fr ..) ?_
    | exact rfl

theorem gauntBlock_fr (s : State) (i : Nat) :
    Fr [.pads, .hl, .qs, .mb, .ld, .tm, .tx, .sg, .sk, .tw, .fs, .se, .mg, .objs, .win0, .cnt, .freeIx, .outs] s (gauntBlock s i) := by
  unfold gauntBlock
  try dsimp only
  repeat'
    first
    | with_reducible exact Fr.refl _ _
    | with_reducible apply Fr.ite
    | with_reducible apply Fr.step ?_ (count_fr ..) ?_
    | with_reducible apply Fr.step ?_ (modSg_fr ..) ?_
    | with_reducible apply Fr.step ?_ (segTell_fr ..) ?_
    | with_reducible apply Fr.step ?_ (modSgm_fr ..) ?_
    | with_reducible apply Fr.step ?_ (fault_fr ..) ?_
    | exact rfl

theorem segDrive_fr (s : State) (i : Nat) :
    Fr [.pads] s (segDrive s i) := by
  unfold segDrive
  try dsimp only
  repeat'
    first
    | with_reducible exact Fr.refl _ _
    | with_reducible apply Fr.step ?_ (modPads_fr ..) ?_
    | split
    | exact rfl

theorem driveSegs_fr (s : State) :
    Fr [.pads, .sg] s (driveSegs s) := by
  unfold driveSegs
  try dsimp only
  repeat'
    first
    | with_reducible exact Fr.refl _ _
    | with_reducible apply Fr.ite
    | with_reducible apply Fr.step ?_ (segDrive_fr ..) ?_
    | with_reducible apply Fr.step ?_ (modSgm_fr ..) ?_
    | with_reducible apply Fr.foldl ?_ (fun _ _ => ?_)
    | split
    | exact rfl

theorem segCycle_fr (s : State) (i : Nat) (start : Nat) :
    Fr [.pads, .hl, .qs, .mb, .ld, .tm, .tx, .sg, .sk, .tw, .fs, .se, .mg, .objs, .win0, .cnt, .freeIx, .outs] s (segCycle s i start) := by
  unfold segCycle
  try dsimp only
  repeat'
    first
    | with_reducible exact Fr.refl _ _
    | with_reducible apply Fr.ite
    | with_reducible apply Fr.step ?_ (calUnanswered_fr ..) ?_
    | with_reducible apply Fr.step ?_ (headCycleEnd_fr ..) ?_
    | with_reducible apply Fr.step ?_ (listenStart_fr ..) ?_
    | with_reducible apply Fr.step ?_ (cycleBegin_fr ..) ?_
    | split
    | exact rfl

theorem execSegmentCycleStart_fr (i : Fin 16) (s : State) :
    OFr [.pads, .hl, .qs, .mb, .ld, .tm, .tx, .sg, .sk, .tw, .fs, .se, .mg, .objs, .win0, .cnt, .freeIx, .outs] s (execSegmentCycleStart i s) := by
  unfold execSegmentCycleStart
  refine run_fr rfl ?_
  try dsimp only
  repeat'
    first
    | with_reducible exact Fr.refl _ _
    | with_reducible apply Fr.ite
    | with_reducible apply Fr.step ?_ (segDrive_fr ..) ?_
    | with_reducible apply Fr.step ?_ (segCycle_fr ..) ?_
    | exact rfl

theorem snapshot_fr (s : State) (i : Nat) :
    Fr [.sg, .cnt] s (snapshot s i) := by
  unfold snapshot
  try dsimp only
  repeat'
    first
    | with_reducible exact Fr.refl _ _
    | with_reducible apply Fr.ite
    | with_reducible apply Fr.step ?_ (modSgm_fr ..) ?_
    | with_reducible apply Fr.step ?_ (count_fr ..) ?_
    | with_reducible apply Fr.foldl ?_ (fun _ _ => ?_)
    | exact rfl

theorem ktbSend_fr (s : State) (i : Nat) (e : Nat) (idx : Nat) (x : SlotEntry) (f : Bytes) :
    Fr [.pads, .hl, .qs, .mb, .ld, .tm, .tx, .sg, .sk, .tw, .fs, .se, .mg, .objs, .win0, .cnt, .freeIx, .outs] s (ktbSend s i e idx x f) := by
  unfold ktbSend
  try dsimp only
  repeat'
    first
    | with_reducible exact Fr.refl _ _
    | with_reducible apply Fr.ite
    | with_reducible apply Fr.step ?_ (gauntBlock_fr ..) ?_
    | with_reducible apply Fr.step ?_ (modSgm_fr ..) ?_
    | with_reducible apply Fr.step ?_ (count_fr ..) ?_
    | with_reducible apply Fr.step ?_ (emit_fr ..) ?_
    | with_reducible apply Fr.step ?_ (segDrive_fr ..) ?_
    | exact rfl

theorem ownEntry_fr (s : State) (i : Nat) (e : Nat) (x : SlotEntry) :
    Fr [.pads, .hl, .qs, .mb, .ld, .tm, .tx, .sg, .sk, .tw, .fs, .se, .mg, .objs, .win0, .cnt, .freeIx, .outs] s (ownEntry s i e x) := by
  unfold ownEntry
  try dsimp only
  repeat'
    first
    | with_reducible exact Fr.refl _ _
    | with_reducible apply Fr.ite
    | with_reducible apply Fr.step ?_ (snapshot_fr ..) ?_
    | with_reducible apply Fr.step ?_ (modSgm_fr ..) ?_
    | with_reducible apply Fr.step ?_ (calUnanswered_fr ..) ?_
    | with_reducible apply Fr.step ?_ (ktbSend_fr ..) ?_
    | with_reducible apply Fr.step ?_ (countN_fr ..) ?_
    | split
    | exact rfl

theorem execOwnSlotStart_fr (i : Fin 16) (entry : Fin 64) (s : State) :
    OFr [.pads, .hl, .qs, .mb, .ld, .tm, .tx, .sg, .sk, .tw, .fs, .se, .mg, .objs, .win0, .cnt, .freeIx, .outs] s (execOwnSlotStart i entry s) := by
  unfold execOwnSlotStart
  refine run_fr rfl ?_
  try dsimp only
  repeat'
    first
    | with_reducible exact Fr.refl _ _
    | with_reducible apply Fr.ite
    | with_reducible apply Fr.step ?_ (ownEntry_fr ..) ?_
    | split
    | exact rfl

theorem execCollision_fr (i : Fin 16) (s : State) :
    OFr [.pads, .hl, .qs, .mb, .ld, .tm, .tx, .sg, .sk, .tw, .fs, .se, .mg, .objs, .win0, .cnt, .freeIx, .outs] s (execCollision i s) := by
  unfold execCollision
  refine run_fr rfl ?_
  try dsimp only
  repeat'
    first
    | with_reducible exact Fr.refl _ _
    | with_reducible apply Fr.ite
    | with_reducible apply Fr.step ?_ (count_fr ..) ?_
    | with_reducible apply Fr.step ?_ (emit_fr ..) ?_
    | with_reducible apply Fr.step ?_ (modSgm_fr ..) ?_
    | with_reducible apply Fr.step ?_ (segListen_fr ..) ?_
    | with_reducible apply Fr.step ?_ (fault_fr ..) ?_
    | with_reducible apply Fr.step ?_ (segTell_fr ..) ?_
    | with_reducible apply Fr.step ?_ (segDrive_fr ..) ?_
    | split
    | exact rfl

theorem headSync_fr (s : State) (i : Nat) (agrees : Bool) :
    Fr [.pads, .hl, .qs, .mb, .ld, .tm, .tx, .sg, .sk, .tw, .fs, .se, .mg, .objs, .win0, .cnt, .freeIx, .outs] s (headSync s i agrees) := by
  unfold headSync
  try dsimp only
  repeat'
    first
    | with_reducible exact Fr.refl _ _
    | with_reducible apply Fr.ite
    | with_reducible apply Fr.step ?_ (modSgm_fr ..) ?_
    | with_reducible apply Fr.step ?_ (fault_fr ..) ?_
    | exact rfl

theorem takeSync_fr (s : State) (i : Nat) (f : Bytes) (markPs : Int) :
    Fr [.pads, .hl, .qs, .mb, .ld, .tm, .tx, .sg, .sk, .tw, .fs, .se, .mg, .objs, .win0, .cnt, .freeIx, .outs] s (takeSync s i f markPs) := by
  unfold takeSync
  try dsimp only
  repeat'
    first
    | with_reducible exact Fr.refl _ _
    | with_reducible apply Fr.ite
    | with_reducible apply Fr.step ?_ (count_fr ..) ?_
    | with_reducible apply Fr.step ?_ (fault_fr ..) ?_
    | with_reducible apply Fr.step ?_ (segTell_fr ..) ?_
    | with_reducible apply Fr.step ?_ (modSgm_fr ..) ?_
    | with_reducible apply Fr.step ?_ (headSync_fr ..) ?_
    | split
    | exact rfl

theorem takeCalResp_fr (s : State) (i : Nat) (f : Bytes) (markPs : Int) (overran : Bool) :
    Fr [.cal, .sg, .cnt] s (takeCalResp s i f markPs overran) := by
  unfold takeCalResp
  try dsimp only
  repeat'
    first
    | with_reducible exact Fr.refl _ _
    | with_reducible apply Fr.ite
    | with_reducible apply Fr.step ?_ (modCal_fr ..) ?_
    | with_reducible apply Fr.step ?_ (modSgm_fr ..) ?_
    | with_reducible apply Fr.step ?_ (count_fr ..) ?_
    | split
    | exact rfl

theorem nodeFrame_fr (s : State) (i : Nat) (f : Bytes) (markPs : Int) (overran : Bool) :
    Fr [.sg, .cnt] s (nodeFrame s i f markPs overran) := by
  unfold nodeFrame
  try dsimp only
  repeat'
    first
    | with_reducible exact Fr.refl _ _
    | with_reducible apply Fr.ite
    | with_reducible apply Fr.step ?_ (count_fr ..) ?_
    | with_reducible apply Fr.step ?_ (modSgm_fr ..) ?_
    | split
    | exact rfl

theorem ktbReceive_fr (s : State) (i : Nat) (f : Bytes) (markPs : Int) (overran : Bool) :
    Fr [.pads, .hl, .qs, .mb, .ld, .tm, .cal, .tx, .sg, .sk, .tw, .fs, .se, .mg, .objs, .win0, .cnt, .freeIx, .outs] s (ktbReceive s i f markPs overran) := by
  unfold ktbReceive
  try dsimp only
  repeat'
    first
    | with_reducible exact Fr.refl _ _
    | with_reducible apply Fr.ite
    | with_reducible apply Fr.step ?_ (count_fr ..) ?_
    | with_reducible apply Fr.step ?_ (takeSync_fr ..) ?_
    | with_reducible apply Fr.step ?_ (takeCalResp_fr ..) ?_
    | with_reducible apply Fr.step ?_ (nodeFrame_fr ..) ?_
    | exact rfl

theorem nodeJudged_fr (s : State) (i : Nat) (n : Nat) (ok : Bool) (held : BitVec 8) :
    Fr [.pads, .hl, .qs, .mb, .ld, .tm, .cal, .tx, .rx, .str, .sg, .sk, .tw, .fs, .se, .mg, .objs, .win0, .win1, .cnt, .freeIx, .outs] s (nodeJudged s i n ok held) := by
  unfold nodeJudged
  try dsimp only
  repeat'
    first
    | with_reducible exact Fr.refl _ _
    | with_reducible apply Fr.ite
    | with_reducible apply Fr.step ?_ (modSgm_fr ..) ?_
    | with_reducible apply Fr.step ?_ (fault_fr ..) ?_
    | with_reducible apply Fr.step ?_ (lose_fr ..) ?_
    | exact rfl

theorem seqWrite_fr (s : State) (base : Nat) (parts : List (Nat × Bytes)) :
    Fr [.win1] s (seqWrite s base parts) := by
  unfold seqWrite
  try dsimp only
  repeat'
    first
    | with_reducible exact Fr.refl _ _
    | with_reducible apply Fr.step ?_ (setWin1_fr _ _ ?_) ?_
    | exact fun hw => wf_mwrite _ _ _ _ (wf_foldl _ _ (fun w x h => wf_mwrite _ _ _ _ h) hw)
    | with_reducible apply Fr.foldl ?_ (fun _ _ => ?_)
    | exact rfl

theorem writeIn_fr (s : State) (i : Nat) (n : Nat) (judged : Nat) :
    Fr [.win1] s (writeIn s i n judged) := by
  unfold writeIn
  try dsimp only
  repeat'
    first
    | with_reducible exact Fr.refl _ _
    | with_reducible apply Fr.ite
    | with_reducible apply Fr.step ?_ (seqWrite_fr ..) ?_
    | split
    | exact rfl

theorem execNodeSlotEnd_fr (i : Fin 16) (entry : Fin 64) (s : State) :
    OFr [.pads, .hl, .qs, .mb, .ld, .tm, .cal, .tx, .rx, .str, .sg, .sk, .tw, .fs, .se, .mg, .objs, .win0, .win1, .cnt, .freeIx, .outs] s (execNodeSlotEnd i entry s) := by
  unfold execNodeSlotEnd
  refine run_fr rfl ?_
  try dsimp only
  repeat'
    first
    | with_reducible exact Fr.refl _ _
    | with_reducible apply Fr.ite
    | with_reducible apply Fr.step ?_ (modSgm_fr ..) ?_
    | with_reducible apply Fr.step ?_ (count_fr ..) ?_
    | with_reducible apply Fr.step ?_ (segTell_fr ..) ?_
    | with_reducible apply Fr.step ?_ (nodeJudged_fr ..) ?_
    | with_reducible apply Fr.step ?_ (writeIn_fr ..) ?_
    | split
    | exact rfl

theorem execStatusBlockWrite_fr (i : Fin 16) (s : State) :
    OFr [.pads, .hl, .win1, .cnt, .outs] s (execStatusBlockWrite i s) := by
  unfold execStatusBlockWrite
  refine run_fr rfl ?_
  try dsimp only
  repeat'
    first
    | with_reducible exact Fr.refl _ _
    | with_reducible apply Fr.ite
    | with_reducible apply Fr.step ?_ (seqWrite_fr ..) ?_
    | with_reducible apply Fr.step ?_ (raiseEvent_fr ..) ?_
    | exact rfl

theorem gauntCorrect_fr (s : State) (drift : Int) :
    Fr [.sg] s (gauntCorrect s drift) := by
  unfold gauntCorrect
  try dsimp only
  repeat'
    first
    | with_reducible exact Fr.refl _ _
    | with_reducible apply Fr.step ?_ (modSg_fr ..) ?_
    | split
    | exact rfl

theorem execGauntletMarker_fr (drift : Int) (s : State) :
    OFr [.pads, .hl, .qs, .mb, .ld, .tm, .tx, .sg, .sk, .tw, .fs, .se, .mg, .objs, .win0, .cnt, .freeIx, .outs] s (execGauntletMarker drift s) := by
  unfold execGauntletMarker
  refine run_fr rfl ?_
  try dsimp only
  repeat'
    first
    | with_reducible exact Fr.refl _ _
    | with_reducible apply Fr.ite
    | with_reducible apply Fr.step ?_ (condOff_fr ..) ?_
    | with_reducible apply Fr.step ?_ (modSg_fr ..) ?_
    | with_reducible apply Fr.step ?_ (fault_fr ..) ?_
    | with_reducible apply Fr.step ?_ (gauntTurn_fr ..) ?_
    | with_reducible apply Fr.step ?_ (gauntCorrect_fr ..) ?_
    | with_reducible apply Fr.step ?_ (driveSegs_fr ..) ?_
    | exact rfl

theorem execMarkerLost_fr (s : State) :
    OFr [.pads, .hl, .qs, .mb, .ld, .tm, .tx, .sg, .sk, .tw, .fs, .se, .mg, .objs, .win0, .cnt, .freeIx, .outs] s (execMarkerLost s) := by
  unfold execMarkerLost
  refine run_fr rfl ?_
  try dsimp only
  repeat'
    first
    | with_reducible exact Fr.refl _ _
    | with_reducible apply Fr.ite
    | with_reducible apply Fr.step ?_ (condOn_fr ..) ?_
    | with_reducible apply Fr.step ?_ (modSg_fr ..) ?_
    | with_reducible apply Fr.step ?_ (driveSegs_fr ..) ?_
    | exact rfl

theorem execGauntletBlock_fr (i : Fin 16) (s : State) :
    OFr [.pads, .hl, .qs, .mb, .ld, .tm, .tx, .sg, .sk, .tw, .fs, .se, .mg, .objs, .win0, .cnt, .freeIx, .outs] s (execGauntletBlock i s) := by
  unfold execGauntletBlock
  refine run_fr rfl ?_
  try dsimp only
  repeat'
    first
    | with_reducible exact Fr.refl _ _
    | with_reducible apply Fr.ite
    | with_reducible apply Fr.step ?_ (gauntBlock_fr ..) ?_
    | with_reducible apply Fr.step ?_ (segDrive_fr ..) ?_
    | with_reducible apply Fr.step ?_ (modSgm_fr ..) ?_
    | exact rfl

theorem segFence_fr (s : State) (i : Nat) :
    Fr [.pads, .sg, .outs] s (segFence s i) := by
  unfold segFence
  try dsimp only
  repeat'
    first
    | with_reducible exact Fr.refl _ _
    | with_reducible apply Fr.ite
    | with_reducible apply Fr.step ?_ (modSgm_fr ..) ?_
    | with_reducible apply Fr.step ?_ (segQuiet_fr ..) ?_
    | exact rfl

theorem segUnfence_fr (s : State) (i : Nat) :
    Fr [.sg] s (segUnfence s i) := by
  unfold segUnfence
  try dsimp only
  repeat'
    first
    | with_reducible exact Fr.refl _ _
    | with_reducible apply Fr.ite
    | with_reducible apply Fr.step ?_ (modSgm_fr ..) ?_
    | exact rfl

theorem portFence_fr (s : State) (p : Nat) :
    Fr [.pads, .hl, .qs, .mb, .ld, .tm, .tx, .sg, .sk, .tw, .fs, .se, .mg, .objs, .win0, .cnt, .freeIx, .outs] s (portFence s p) := by
  unfold portFence
  try dsimp only
  repeat'
    first
    | with_reducible exact Fr.refl _ _
    | with_reducible apply Fr.step ?_ (linkFault_fr ..) ?_
    | with_reducible apply Fr.step ?_ (silencePort_fr ..) ?_
    | exact rfl

theorem portUnfence_fr (s : State) (p : Nat) :
    Fr [.pads, .hl, .qs, .mb, .ld, .tm, .tx, .sg, .sk, .tw, .fs, .se, .mg, .objs, .win0, .cnt, .freeIx, .outs] s (portUnfence s p) := by
  unfold portUnfence
  try dsimp only
  repeat'
    first
    | with_reducible exact Fr.refl _ _
    | with_reducible apply Fr.ite
    | with_reducible apply Fr.step ?_ (linkFault_fr ..) ?_
    | with_reducible apply Fr.step ?_ (modPrt_fr ..) ?_
    | with_reducible apply Fr.step ?_ (resume_fr ..) ?_
    | exact rfl

theorem fenceCmd_fr (s : State) (r : Request) :
    AFr [.pads, .hl, .qs, .mb, .ld, .tm, .tx, .sg, .sk, .tw, .fs, .se, .mg, .fences, .objs, .win0, .cnt, .freeIx, .outs] s (fenceCmd s r) := by
  unfold fenceCmd
  try dsimp only
  repeat'
    first
    | with_reducible exact Fr.refl _ _
    | with_reducible apply Fr.ite
    | with_reducible apply AFr.ite
    | with_reducible apply AFr.no
    | with_reducible apply AFr.ok
    | with_reducible apply sized_fr
    | with_reducible apply reserved_fr
    | with_reducible apply badRange_fr
    | with_reducible apply Fr.step ?_ (modFences_fr ..) ?_
    | with_reducible apply Fr.step ?_ (portFence_fr ..) ?_
    | with_reducible apply Fr.step ?_ (segFence_fr ..) ?_
    | with_reducible apply Fr.step ?_ (portUnfence_fr ..) ?_
    | with_reducible apply Fr.step ?_ (segUnfence_fr ..) ?_
    | with_reducible apply Fr.foldl ?_ (fun _ _ => ?_)
    | exact rfl

theorem execFence_fr (via : Via) (s : State) :
    OFr [.pads, .hl, .qs, .mb, .ld, .tm, .tx, .sg, .sk, .tw, .fs, .se, .mg, .fences, .objs, .win0, .cnt, .freeIx, .outs] s (execFence via s) := by
  unfold execFence
  refine runCmd_fr rfl (fun s r => ?_)
  try dsimp only
  repeat'
    first
    | with_reducible exact Fr.refl _ _
    | with_reducible apply AFr.step ?_ (fenceCmd_fr ..) ?_
    | exact rfl

end Sys2Proof.Machine
end

