-- ==== Sys2Proof/Laws/FootprintStack.lean ====
section
/-! SUPPORT. The footprint of every operation: the cascade, the twin and reception. -/

namespace Sys2Proof.Machine

set_option linter.all false
set_option simprocs false

theorem kAck_fr (s : State) (k : Nat) (seq : BitVec 16) :
    Fr [.sk, .cnt, .outs] s (kAck s k seq) := by
  unfold kAck
  try dsimp only
  repeat'
    first
    | with_reducible exact Fr.refl _ _
    | with_reducible apply Fr.step ?_ (kPump_fr ..) ?_
    | with_reducible apply Fr.step ?_ (modKlink_fr ..) ?_
    | split
    | exact rfl

theorem kInOrder_fr (s : State) (k : Nat) (f : Bytes) :
    Fr [.sk, .cnt] s (kInOrder s k f).2 := by
  unfold kInOrder
  try dsimp only
  repeat'
    first
    | with_reducible exact Fr.refl _ _
    | with_reducible apply Fr.ite
    | with_reducible apply Fr.step ?_ (modKlink_fr ..) ?_
    | with_reducible apply Fr.step ?_ (count_fr ..) ?_
    | split
    | exact rfl

theorem kForward_fr (s : State) (k : Nat) (f : Bytes) :
    Fr [.sk, .cnt, .outs] s (kForward s k f) := by
  unfold kForward
  try dsimp only
  repeat'
    first
    | with_reducible exact Fr.refl _ _
    | with_reducible apply Fr.ite
    | with_reducible apply Fr.step ?_ (kOut_fr ..) ?_
    | with_reducible apply Fr.step ?_ (count_fr ..) ?_
    | exact rfl

theorem kTake_fr (s : State) (k : Nat) (kind : Nat) (f : Bytes) :
    Fr [.sk, .cnt, .outs] s (kTake s k kind f).2 := by
  unfold kTake
  try dsimp only
  repeat'
    first
    | with_reducible exact Fr.refl _ _
    | with_reducible apply Fr.ite
    | with_reducible apply Fr.step ?_ (count_fr ..) ?_
    | with_reducible apply Fr.step ?_ (kAck_fr ..) ?_
    | with_reducible apply Fr.step ?_ (kInOrder_fr ..) ?_
    | with_reducible apply Fr.step ?_ (kForward_fr ..) ?_
    | split
    | exact rfl

theorem discChanged_fr (s : State) (was : Nat × BitVec 8 × List Nat) :
    Fr [.sk] s (discChanged s was) := by
  unfold discChanged
  try dsimp only
  repeat'
    first
    | with_reducible exact Fr.refl _ _
    | with_reducible apply Fr.ite
    | with_reducible apply Fr.step ?_ (modSk_fr ..) ?_
    | exact rfl

theorem markDup_fr (s : State) (p : Nat) :
    Fr [.pads, .hl, .qs, .mb, .ld, .tm, .tx, .sg, .sk, .tw, .fs, .se, .mg, .objs, .win0, .cnt, .freeIx, .outs] s (markDup s p) := by
  unfold markDup
  try dsimp only
  repeat'
    first
    | with_reducible exact Fr.refl _ _
    | with_reducible apply Fr.ite
    | with_reducible apply Fr.step ?_ (fault_fr ..) ?_
    | with_reducible apply Fr.step ?_ (modSrc_fr ..) ?_
    | with_reducible apply Fr.step ?_ (modSk_fr ..) ?_
    | exact rfl

theorem execDiscoverSend_fr (s : State) :
    OFr [.pads, .sk, .cnt, .outs] s (execDiscoverSend s) := by
  unfold execDiscoverSend
  refine run_fr rfl ?_
  try dsimp only
  repeat'
    first
    | with_reducible exact Fr.refl _ _
    | with_reducible apply Fr.ite
    | with_reducible apply Fr.step ?_ (kSend_fr ..) ?_
    | with_reducible apply Fr.foldl ?_ (fun _ _ => ?_)
    | exact rfl

theorem learn_fr (s : State) (d : Bytes) :
    Fr [.pads, .hl, .qs, .mb, .ld, .tm, .tx, .sg, .sk, .tw, .fs, .se, .mg, .objs, .win0, .cnt, .freeIx, .outs] s (learn s d) := by
  unfold learn
  try dsimp only
  repeat'
    first
    | with_reducible exact Fr.refl _ _
    | with_reducible apply Fr.ite
    | with_reducible apply Fr.step ?_ (markDup_fr ..) ?_
    | with_reducible apply Fr.step ?_ (modSk_fr ..) ?_
    | with_reducible apply Fr.foldl ?_ (fun _ _ => ?_)
    | exact rfl

theorem execDiscover_fr (k : Fin 2) (x : Discovery) (s : State) :
    OFr [.pads, .hl, .qs, .mb, .ld, .tm, .tx, .sg, .sk, .tw, .fs, .se, .mg, .objs, .win0, .cnt, .freeIx, .outs] s (execDiscover k x s) := by
  unfold execDiscover
  refine run_fr rfl ?_
  try dsimp only
  repeat'
    first
    | with_reducible exact Fr.refl _ _
    | with_reducible apply Fr.ite
    | with_reducible apply Fr.step ?_ (kTake_fr ..) ?_
    | with_reducible apply Fr.step ?_ (modKlink_fr ..) ?_
    | with_reducible apply Fr.step ?_ (modTw_fr ..) ?_
    | with_reducible apply Fr.step ?_ (discChanged_fr ..) ?_
    | with_reducible apply Fr.step ?_ (checkRanges_fr ..) ?_
    | with_reducible apply Fr.step ?_ (learn_fr ..) ?_
    | with_reducible apply Fr.step ?_ (stackEvent_fr ..) ?_
    | exact rfl

theorem execDiscoveryComplete_fr (s : State) :
    OFr [.pads, .hl, .qs, .mb, .ld, .tm, .tx, .sg, .sk, .tw, .fs, .se, .mg, .objs, .win0, .cnt, .freeIx, .outs] s (execDiscoveryComplete s) := by
  unfold execDiscoveryComplete
  refine run_fr rfl ?_
  try dsimp only
  repeat'
    first
    | with_reducible exact Fr.refl _ _
    | with_reducible apply Fr.ite
    | with_reducible apply Fr.step ?_ (markDup_fr ..) ?_
    | with_reducible apply Fr.step ?_ (discChanged_fr ..) ?_
    | with_reducible apply Fr.step ?_ (modSk_fr ..) ?_
    | with_reducible apply Fr.step ?_ (stackEvent_fr ..) ?_
    | with_reducible apply Fr.foldl ?_ (fun _ _ => ?_)
    | exact rfl

theorem execCascadeAckDue_fr (k : Fin 2) (s : State) :
    OFr [.pads, .sk, .cnt, .outs] s (execCascadeAckDue k s) := by
  unfold execCascadeAckDue
  refine run_fr rfl ?_
  try dsimp only
  repeat'
    first
    | with_reducible exact Fr.refl _ _
    | with_reducible apply Fr.ite
    | with_reducible apply Fr.step ?_ (kSend_fr ..) ?_
    | exact rfl

theorem execAckReceive_fr (k : Fin 2) (frame : Bytes) (s : State) :
    OFr [.pads, .sk, .cnt, .outs] s (execAckReceive k frame s) := by
  unfold execAckReceive
  refine run_fr rfl ?_
  try dsimp only
  repeat'
    first
    | with_reducible exact Fr.refl _ _
    | with_reducible apply Fr.step ?_ (kTake_fr ..) ?_
    | exact rfl

theorem kLost_fr (s : State) (k : Nat) :
    Fr [.pads, .hl, .qs, .mb, .ld, .tm, .tx, .sg, .sk, .tw, .fs, .se, .mg, .objs, .win0, .cnt, .freeIx, .outs] s (kLost s k) := by
  unfold kLost
  try dsimp only
  repeat'
    first
    | with_reducible exact Fr.refl _ _
    | with_reducible apply Fr.step ?_ (modKlink_fr ..) ?_
    | with_reducible apply Fr.step ?_ (modSk_fr ..) ?_
    | with_reducible apply Fr.step ?_ (modTw_fr ..) ?_
    | with_reducible apply Fr.step ?_ (discChanged_fr ..) ?_
    | with_reducible apply Fr.step ?_ (checkRanges_fr ..) ?_
    | with_reducible apply Fr.step ?_ (fault_fr ..) ?_
    | with_reducible apply Fr.step ?_ (stackEvent_fr ..) ?_
    | exact rfl

theorem execCascadeResend_fr (k : Fin 2) (s : State) :
    OFr [.pads, .hl, .qs, .mb, .ld, .tm, .tx, .sg, .sk, .tw, .fs, .se, .mg, .objs, .win0, .cnt, .freeIx, .outs] s (execCascadeResend k s) := by
  unfold execCascadeResend
  refine run_fr rfl ?_
  try dsimp only
  repeat'
    first
    | with_reducible exact Fr.refl _ _
    | with_reducible apply Fr.ite
    | with_reducible apply Fr.step ?_ (kLost_fr ..) ?_
    | with_reducible apply Fr.step ?_ (modKlink_fr ..) ?_
    | with_reducible apply Fr.step ?_ (count_fr ..) ?_
    | with_reducible apply Fr.step ?_ (kEmit_fr ..) ?_
    | with_reducible apply Fr.foldl ?_ (fun _ _ => ?_)
    | exact rfl

theorem execCascadeLinkLost_fr (k : Fin 2) (s : State) :
    OFr [.pads, .hl, .qs, .mb, .ld, .tm, .tx, .sg, .sk, .tw, .fs, .se, .mg, .objs, .win0, .cnt, .freeIx, .outs] s (execCascadeLinkLost k s) := by
  unfold execCascadeLinkLost
  refine run_fr rfl ?_
  try dsimp only
  repeat'
    first
    | with_reducible exact Fr.refl _ _
    | with_reducible apply Fr.ite
    | with_reducible apply Fr.step ?_ (kLost_fr ..) ?_
    | exact rfl

theorem execTimeReqSend_fr (s : State) :
    OFr [.pads, .cal, .sk, .cnt, .freeIx, .outs] s (execTimeReqSend s) := by
  unfold execTimeReqSend
  refine run_fr rfl ?_
  try dsimp only
  repeat'
    first
    | with_reducible exact Fr.refl _ _
    | with_reducible apply Fr.ite
    | with_reducible apply Fr.step ?_ (kStamp_fr ..) ?_
    | with_reducible apply Fr.step ?_ (modSk_fr ..) ?_
    | with_reducible apply Fr.step ?_ (kSend_fr ..) ?_
    | with_reducible apply Fr.step ?_ (txStamp_fr ..) ?_
    | with_reducible apply Fr.step ?_ (modCalPort_fr ..) ?_
    | exact rfl

theorem execTimeReq_fr (k : Fin 2) (frame : Bytes) (s : State) :
    OFr [.pads, .sk, .cnt, .freeIx, .outs] s (execTimeReq k frame s) := by
  unfold execTimeReq
  refine run_fr rfl ?_
  try dsimp only
  repeat'
    first
    | with_reducible exact Fr.refl _ _
    | with_reducible apply Fr.ite
    | with_reducible apply Fr.step ?_ (kTake_fr ..) ?_
    | with_reducible apply Fr.step ?_ (kStamp_fr ..) ?_
    | with_reducible apply Fr.step ?_ (kSend_fr ..) ?_
    | with_reducible apply Fr.step ?_ (rxStampAt_fr ..) ?_
    | with_reducible apply Fr.step ?_ (txStamp_fr ..) ?_
    | exact rfl

theorem timeAgree_fr (s : State) (err : Int) :
    Fr [.pads, .hl, .qs, .mb, .ld, .tm, .tx, .sg, .sk, .tw, .fs, .se, .mg, .objs, .win0, .cnt, .freeIx, .outs] s (timeAgree s err) := by
  unfold timeAgree
  try dsimp only
  repeat'
    first
    | with_reducible exact Fr.refl _ _
    | with_reducible apply Fr.ite
    | with_reducible apply Fr.step ?_ (modSk_fr ..) ?_
    | with_reducible apply Fr.step ?_ (condOn_fr ..) ?_
    | with_reducible apply Fr.step ?_ (condOff_fr ..) ?_
    | exact rfl

theorem takePair_fr (s : State) (k : Nat) (q : Probe) (b : Bytes) (t4 : BitVec 48) :
    Fr [.pads, .hl, .qs, .mb, .ld, .tm, .cal, .tx, .sg, .sk, .tw, .fs, .se, .mg, .objs, .win0, .cnt, .freeIx, .outs] s (takePair s k q b t4) := by
  unfold takePair
  try dsimp only
  repeat'
    first
    | with_reducible exact Fr.refl _ _
    | with_reducible apply Fr.ite
    | with_reducible apply Fr.step ?_ (count_fr ..) ?_
    | with_reducible apply Fr.step ?_ (modKlink_fr ..) ?_
    | with_reducible apply Fr.step ?_ (modSk_fr ..) ?_
    | with_reducible apply Fr.step ?_ (timeAgree_fr ..) ?_
    | with_reducible apply Fr.step ?_ (servoAct_fr ..) ?_
    | with_reducible apply Fr.step ?_ (modTm_fr ..) ?_
    | with_reducible apply Fr.step ?_ (modCalPort_fr ..) ?_
    | with_reducible apply Fr.step ?_ (usePair_fr ..) ?_
    | exact rfl

theorem execTimeResp_fr (k : Fin 2) (frame : Bytes) (s : State) :
    OFr [.pads, .hl, .qs, .mb, .ld, .tm, .cal, .tx, .sg, .sk, .tw, .fs, .se, .mg, .objs, .win0, .cnt, .freeIx, .outs] s (execTimeResp k frame s) := by
  unfold execTimeResp
  refine run_fr rfl ?_
  try dsimp only
  repeat'
    first
    | with_reducible exact Fr.refl _ _
    | with_reducible apply Fr.ite
    | with_reducible apply Fr.step ?_ (kTake_fr ..) ?_
    | with_reducible apply Fr.step ?_ (kStamp_fr ..) ?_
    | with_reducible apply Fr.step ?_ (takePair_fr ..) ?_
    | with_reducible apply Fr.step ?_ (modSk_fr ..) ?_
    | with_reducible apply Fr.step ?_ (rxStampAt_fr ..) ?_
    | with_reducible apply Fr.step ?_ (syncDone_fr ..) ?_
    | split
    | exact rfl

theorem execCommand_fr (k : Fin 2) (frame : Bytes) (s : State) :
    OFr [.pads, .mb, .sk, .cnt, .outs] s (execCommand k frame s) := by
  unfold execCommand
  refine run_fr rfl ?_
  try dsimp only
  repeat'
    first
    | with_reducible exact Fr.refl _ _
    | with_reducible apply Fr.ite
    | with_reducible apply Fr.step ?_ (kTake_fr ..) ?_
    | with_reducible apply Fr.step ?_ (arrive_fr ..) ?_
    | with_reducible apply Fr.step ?_ (kSend_fr ..) ?_
    | split
    | exact rfl

theorem execResponse_fr (k : Fin 2) (frame : Bytes) (s : State) :
    OFr [.pads, .sk, .cnt, .outs] s (execResponse k frame s) := by
  unfold execResponse
  refine run_fr rfl ?_
  try dsimp only
  repeat'
    first
    | with_reducible exact Fr.refl _ _
    | with_reducible apply Fr.ite
    | with_reducible apply Fr.step ?_ (kTake_fr ..) ?_
    | with_reducible apply Fr.step ?_ (modRelay_fr ..) ?_
    | exact rfl

theorem execRelayUnreachable_fr (p : Fin 8) (s : State) :
    OFr [.pads, .hl, .sk, .cnt, .outs] s (execRelayUnreachable p s) := by
  unfold execRelayUnreachable
  refine run_fr rfl ?_
  try dsimp only
  repeat'
    first
    | with_reducible exact Fr.refl _ _
    | with_reducible apply Fr.ite
    | with_reducible apply Fr.step ?_ (raiseEvent_fr ..) ?_
    | with_reducible apply Fr.step ?_ (count_fr ..) ?_
    | with_reducible apply Fr.step ?_ (modRelay_fr ..) ?_
    | exact rfl

theorem memberReply_fr (s : State) :
    Fr [.sk, .cnt, .outs] s (memberReply s) := by
  unfold memberReply
  try dsimp only
  repeat'
    first
    | with_reducible exact Fr.refl _ _
    | with_reducible apply Fr.step ?_ (kSend_fr ..) ?_
    | exact rfl

theorem stackReply_fr (s : State) (src : Nat) (b : Bytes) :
    Fr [.tx] s (stackReply s src b) := by
  unfold stackReply
  try dsimp only
  repeat'
    first
    | with_reducible exact Fr.refl _ _
    | with_reducible apply Fr.ite
    | with_reducible apply Fr.step ?_ (modTx_fr ..) ?_
    | exact rfl

theorem stackDecision_fr (s : State) (src : Nat) (b : Bytes) :
    Fr [.tx] s (stackDecision s src b) := by
  unfold stackDecision
  try dsimp only
  repeat'
    first
    | with_reducible exact Fr.refl _ _
    | with_reducible apply Fr.ite
    | with_reducible apply Fr.step ?_ (modTx_fr ..) ?_
    | exact rfl

theorem execStackAgree_fr (k : Fin 2) (frame : Bytes) (s : State) :
    OFr [.pads, .tx, .sk, .cnt, .outs] s (execStackAgree k frame s) := by
  unfold execStackAgree
  refine run_fr rfl ?_
  try dsimp only
  repeat'
    first
    | with_reducible exact Fr.refl _ _
    | with_reducible apply Fr.ite
    | with_reducible apply Fr.step ?_ (kTake_fr ..) ?_
    | with_reducible apply Fr.step ?_ (stackReply_fr ..) ?_
    | with_reducible apply Fr.step ?_ (memberReply_fr ..) ?_
    | with_reducible apply Fr.step ?_ (modTx_fr ..) ?_
    | with_reducible apply Fr.step ?_ (stackDecision_fr ..) ?_
    | exact rfl

theorem execStackAgreeReplyRepeat_fr (s : State) :
    OFr [.pads, .sk, .cnt, .outs] s (execStackAgreeReplyRepeat s) := by
  unfold execStackAgreeReplyRepeat
  refine run_fr rfl ?_
  try dsimp only
  repeat'
    first
    | with_reducible exact Fr.refl _ _
    | with_reducible apply Fr.ite
    | with_reducible apply Fr.step ?_ (memberReply_fr ..) ?_
    | exact rfl

theorem upInto_fr (s : State) (q : Nat) (k : Nat) (wb : Bytes) (frame : Bytes) :
    Fr [.qs, .cnt] s (upInto s q k wb frame) := by
  unfold upInto
  try dsimp only
  repeat'
    first
    | with_reducible exact Fr.refl _ _
    | with_reducible apply Fr.ite
    | with_reducible apply Fr.step ?_ (count_fr ..) ?_
    | with_reducible apply Fr.step ?_ (popBad_fr ..) ?_
    | with_reducible apply Fr.step ?_ (modQue_fr ..) ?_
    | split
    | exact rfl

theorem execTrafficUp_fr (k : Fin 2) (u : UpTraffic) (s : State) :
    OFr [.pads, .qs, .sk, .cnt, .outs] s (execTrafficUp k u s) := by
  unfold execTrafficUp
  refine run_fr rfl ?_
  try dsimp only
  repeat'
    first
    | with_reducible exact Fr.refl _ _
    | with_reducible apply Fr.ite
    | with_reducible apply Fr.step ?_ (kTake_fr ..) ?_
    | with_reducible apply Fr.step ?_ (count_fr ..) ?_
    | with_reducible apply Fr.step ?_ (upInto_fr ..) ?_
    | exact rfl

theorem downInto_fr (s : State) (k : Nat) (idx : Nat) (d : Bytes) (data : Bytes) :
    Fr [.pads, .hl, .qs, .mb, .ld, .tm, .tx, .str, .sg, .sk, .tw, .fs, .se, .mg, .objs, .win0, .cnt, .freeIx, .outs] s (downInto s k idx d data) := by
  unfold downInto
  try dsimp only
  repeat'
    first
    | with_reducible exact Fr.refl _ _
    | with_reducible apply Fr.ite
    | with_reducible apply Fr.step ?_ (takeDesc_fr ..) ?_
    | with_reducible apply Fr.step ?_ (modQue_fr ..) ?_
    | with_reducible apply Fr.step ?_ (flushDown_fr ..) ?_
    | with_reducible apply Fr.step ?_ (stageDown_fr ..) ?_
    | exact rfl

theorem execTrafficDown_fr (k : Fin 2) (frame : Bytes) (s : State) :
    OFr [.pads, .hl, .qs, .mb, .ld, .tm, .tx, .str, .sg, .sk, .tw, .fs, .se, .mg, .objs, .win0, .cnt, .freeIx, .outs] s (execTrafficDown k frame s) := by
  unfold execTrafficDown
  refine run_fr rfl ?_
  try dsimp only
  repeat'
    first
    | with_reducible exact Fr.refl _ _
    | with_reducible apply Fr.ite
    | with_reducible apply Fr.step ?_ (kTake_fr ..) ?_
    | with_reducible apply Fr.step ?_ (downInto_fr ..) ?_
    | exact rfl

theorem execTxDone_fr (k : Fin 2) (frame : Bytes) (s : State) :
    OFr [.pads, .qs, .sk, .cnt, .outs] s (execTxDone k frame s) := by
  unfold execTxDone
  refine run_fr rfl ?_
  try dsimp only
  repeat'
    first
    | with_reducible exact Fr.refl _ _
    | with_reducible apply Fr.ite
    | with_reducible apply Fr.step ?_ (kTake_fr ..) ?_
    | with_reducible apply Fr.step ?_ (modRec_fr ..) ?_
    | split
    | exact rfl

theorem decideTakeover_fr (s : State) (t : Nat) :
    Fr [.tw] s (decideTakeover s t) := by
  unfold decideTakeover
  try dsimp only
  repeat'
    first
    | with_reducible exact Fr.refl _ _
    | with_reducible apply Fr.ite
    | with_reducible apply Fr.step ?_ (modTw_fr ..) ?_
    | exact rfl

theorem loseRole_fr (s : State) :
    Fr [.pads, .hl, .qs, .mb, .ld, .tm, .tx, .sg, .sk, .tw, .fs, .se, .mg, .objs, .win0, .cnt, .freeIx, .outs] s (loseRole s) := by
  unfold loseRole
  try dsimp only
  repeat'
    first
    | with_reducible exact Fr.refl _ _
    | with_reducible apply Fr.step ?_ (fault_fr ..) ?_
    | with_reducible apply Fr.step ?_ (setRole_fr ..) ?_
    | with_reducible apply Fr.step ?_ (flushTalkers_fr ..) ?_
    | with_reducible apply Fr.step ?_ (modTw_fr ..) ?_
    | exact rfl

theorem roleEvidence_fr (s : State) (seq : BitVec 16) :
    Fr [.pads, .hl, .qs, .mb, .ld, .tm, .tx, .sg, .sk, .tw, .fs, .se, .mg, .objs, .win0, .cnt, .freeIx, .outs] s (roleEvidence s seq) := by
  unfold roleEvidence
  try dsimp only
  repeat'
    first
    | with_reducible exact Fr.refl _ _
    | with_reducible apply Fr.ite
    | with_reducible apply Fr.step ?_ (loseRole_fr ..) ?_
    | exact rfl

theorem headClaim_fr (s : State) (i : Nat) (f : Bytes) :
    Fr [.pads, .hl, .qs, .mb, .ld, .tm, .tx, .sg, .sk, .tw, .fs, .se, .mg, .objs, .win0, .cnt, .freeIx, .outs] s (headClaim s i f) := by
  unfold headClaim
  try dsimp only
  repeat'
    first
    | with_reducible exact Fr.refl _ _
    | with_reducible apply Fr.ite
    | with_reducible apply Fr.step ?_ (modTw_fr ..) ?_
    | with_reducible apply Fr.step ?_ (roleEvidence_fr ..) ?_
    | split
    | exact rfl

theorem hbGap_fr (s : State) (i : Nat) :
    Fr [.tw, .cnt] s (hbGap s i) := by
  unfold hbGap
  try dsimp only
  repeat'
    first
    | with_reducible exact Fr.refl _ _
    | with_reducible apply Fr.ite
    | with_reducible apply Fr.step ?_ (count_fr ..) ?_
    | with_reducible apply Fr.step ?_ (modTw_fr ..) ?_
    | exact rfl

theorem execHeartbeatSend_fr (s : State) :
    OFr [.pads, .tx, .sk, .tw, .cnt, .outs] s (execHeartbeatSend s) := by
  unfold execHeartbeatSend
  refine run_fr rfl ?_
  try dsimp only
  repeat'
    first
    | with_reducible exact Fr.refl _ _
    | with_reducible apply Fr.ite
    | with_reducible apply Fr.step ?_ (hbGap_fr ..) ?_
    | with_reducible apply Fr.step ?_ (modTw_fr ..) ?_
    | with_reducible apply Fr.step ?_ (kSend_fr ..) ?_
    | with_reducible apply Fr.step ?_ (sendOwn_fr ..) ?_
    | with_reducible apply Fr.foldl ?_ (fun _ _ => ?_)
    | exact rfl

theorem hbNote_fr (s : State) (i : Nat) (b : Bytes) :
    Fr [.tw] s (hbNote s i b) := by
  unfold hbNote
  try dsimp only
  repeat'
    first
    | with_reducible exact Fr.refl _ _
    | with_reducible apply Fr.ite
    | with_reducible apply Fr.step ?_ (modTw_fr ..) ?_
    | exact rfl

theorem cancelTakeover_fr (s : State) :
    Fr [.tw, .cnt] s (cancelTakeover s) := by
  unfold cancelTakeover
  try dsimp only
  repeat'
    first
    | with_reducible exact Fr.refl _ _
    | with_reducible apply Fr.ite
    | with_reducible apply Fr.step ?_ (count_fr ..) ?_
    | with_reducible apply Fr.step ?_ (modTw_fr ..) ?_
    | exact rfl

theorem yieldAck_fr (s : State) :
    Fr [.hl, .mb, .sk, .tw, .se, .win0, .cnt, .outs] s (yieldAck s) := by
  unfold yieldAck
  try dsimp only
  repeat'
    first
    | with_reducible exact Fr.refl _ _
    | with_reducible apply Fr.ite
    | with_reducible apply Fr.step ?_ (modTw_fr ..) ?_
    | with_reducible apply Fr.step ?_ (respondWith_fr ..) ?_
    | split
    | exact rfl

theorem roleHeard_fr (s : State) :
    Fr [.pads, .hl, .qs, .mb, .ld, .tm, .tx, .sg, .sk, .tw, .fs, .se, .mg, .objs, .win0, .cnt, .freeIx, .outs] s (roleHeard s) := by
  unfold roleHeard
  try dsimp only
  repeat'
    first
    | with_reducible exact Fr.refl _ _
    | with_reducible apply Fr.ite
    | with_reducible apply Fr.step ?_ (setRole_fr ..) ?_
    | with_reducible apply Fr.step ?_ (decideTakeover_fr ..) ?_
    | with_reducible apply Fr.step ?_ (roleEvidence_fr ..) ?_
    | with_reducible apply Fr.step ?_ (syncDone_fr ..) ?_
    | exact rfl

theorem takeHeartbeat_fr (s : State) (i : Nat) (b : Bytes) :
    Fr [.pads, .hl, .qs, .mb, .ld, .tm, .tx, .sg, .sk, .tw, .fs, .se, .mg, .objs, .win0, .cnt, .freeIx, .outs] s (takeHeartbeat s i b) := by
  unfold takeHeartbeat
  try dsimp only
  repeat'
    first
    | with_reducible exact Fr.refl _ _
    | with_reducible apply Fr.ite
    | with_reducible apply Fr.step ?_ (yieldAck_fr ..) ?_
    | with_reducible apply Fr.step ?_ (roleHeard_fr ..) ?_
    | with_reducible apply Fr.step ?_ (cancelTakeover_fr ..) ?_
    | with_reducible apply Fr.step ?_ (hbNote_fr ..) ?_
    | exact rfl

theorem execHeartbeat_fr (path : HbPath) (bytes : Bytes) (s : State) :
    OFr [.pads, .hl, .qs, .mb, .ld, .tm, .tx, .sg, .sk, .tw, .fs, .se, .mg, .objs, .win0, .cnt, .freeIx, .outs] s (execHeartbeat path bytes s) := by
  unfold execHeartbeat
  refine run_fr rfl ?_
  try dsimp only
  repeat'
    first
    | with_reducible exact Fr.refl _ _
    | with_reducible apply Fr.ite
    | with_reducible apply Fr.step ?_ (takeHeartbeat_fr ..) ?_
    | with_reducible apply Fr.step ?_ (kTake_fr ..) ?_
    | split
    | exact rfl

theorem execPartnerLost_fr (s : State) :
    OFr [.pads, .hl, .qs, .mb, .ld, .tm, .tx, .sg, .sk, .tw, .fs, .se, .mg, .objs, .win0, .cnt, .freeIx, .outs] s (execPartnerLost s) := by
  unfold execPartnerLost
  refine run_fr rfl ?_
  try dsimp only
  repeat'
    first
    | with_reducible exact Fr.refl _ _
    | with_reducible apply Fr.ite
    | with_reducible apply Fr.step ?_ (modTw_fr ..) ?_
    | with_reducible apply Fr.step ?_ (fault_fr ..) ?_
    | with_reducible apply Fr.step ?_ (setRole_fr ..) ?_
    | with_reducible apply Fr.step ?_ (decideTakeover_fr ..) ?_
    | exact rfl

theorem releaseTalkers_fr (s : State) (t : Nat) :
    Fr [.qs, .tx, .cnt, .freeIx] s (releaseTalkers s t) := by
  unfold releaseTalkers
  try dsimp only
  repeat'
    first
    | with_reducible exact Fr.refl _ _
    | with_reducible apply Fr.ite
    | with_reducible apply Fr.step ?_ (modRec_fr ..) ?_
    | with_reducible apply Fr.step ?_ (readyOn_fr ..) ?_
    | with_reducible apply Fr.foldl ?_ (fun _ _ => ?_)
    | split
    | exact rfl

theorem execTakeover_fr (s : State) :
    OFr [.pads, .hl, .qs, .mb, .ld, .tm, .tx, .sg, .sk, .tw, .fs, .se, .mg, .objs, .win0, .cnt, .freeIx, .outs] s (execTakeover s) := by
  unfold execTakeover
  refine run_fr rfl ?_
  try dsimp only
  repeat'
    first
    | with_reducible exact Fr.refl _ _
    | with_reducible apply Fr.ite
    | with_reducible apply Fr.step ?_ (count_fr ..) ?_
    | with_reducible apply Fr.step ?_ (modTw_fr ..) ?_
    | with_reducible apply Fr.step ?_ (releaseTalkers_fr ..) ?_
    | with_reducible apply Fr.step ?_ (setRole_fr ..) ?_
    | with_reducible apply Fr.step ?_ (flushTalkers_fr ..) ?_
    | with_reducible apply Fr.step ?_ (loseRole_fr ..) ?_
    | split
    | exact rfl

theorem execYieldTimeout_fr (s : State) :
    OFr [.pads, .hl, .mb, .sk, .tw, .se, .win0, .cnt, .outs] s (execYieldTimeout s) := by
  unfold execYieldTimeout
  refine run_fr rfl ?_
  try dsimp only
  repeat'
    first
    | with_reducible exact Fr.refl _ _
    | with_reducible apply Fr.step ?_ (respondWith_fr ..) ?_
    | with_reducible apply Fr.step ?_ (modTw_fr ..) ?_
    | split
    | exact rfl

theorem fromPartner_fr (s : State) (k : Nat) (kind : Nat) (f : Bytes) :
    Fr [.sk, .cnt, .outs] s (fromPartner s k kind f).2 := by
  unfold fromPartner
  try dsimp only
  repeat'
    first
    | with_reducible exact Fr.refl _ _
    | with_reducible apply Fr.step ?_ (kTake_fr ..) ?_
    | exact rfl

theorem execAssign_fr (k : Fin 2) (frame : Bytes) (s : State) :
    OFr [.pads, .hl, .qs, .mb, .ld, .tm, .tx, .str, .sg, .sk, .tw, .fs, .se, .mg, .objs, .win0, .cnt, .freeIx, .outs] s (execAssign k frame s) := by
  unfold execAssign
  refine run_fr rfl ?_
  try dsimp only
  repeat'
    first
    | with_reducible exact Fr.refl _ _
    | with_reducible apply Fr.ite
    | with_reducible apply Fr.step ?_ (fromPartner_fr ..) ?_
    | with_reducible apply Fr.step ?_ (meetAssign_fr ..) ?_
    | with_reducible apply Fr.step ?_ (modTw_fr ..) ?_
    | split
    | exact rfl

theorem execMissingLocal_fr (h : Fin 4096) (launch : BitVec 48) (s : State) :
    OFr [.pads, .tw, .cnt] s (execMissingLocal h launch s) := by
  unfold execMissingLocal
  refine run_fr rfl ?_
  try dsimp only
  repeat'
    first
    | with_reducible exact Fr.refl _ _
    | with_reducible apply Fr.step ?_ (count_fr ..) ?_
    | with_reducible apply Fr.step ?_ (modTw_fr ..) ?_
    | split
    | exact rfl

theorem sendMirror_fr (s : State) (item : Nat) (last : Bool) (n : Nat) (entries : Bytes) :
    Fr [.sk, .cnt, .outs] s (sendMirror s item last n entries) := by
  unfold sendMirror
  try dsimp only
  repeat'
    first
    | with_reducible exact Fr.refl _ _
    | with_reducible apply Fr.step ?_ (kSend_fr ..) ?_
    | exact rfl

theorem sendItems_fr (s : State) :
    Fr [.sk, .cnt, .outs] s (sendItems s) := by
  unfold sendItems
  try dsimp only
  repeat'
    first
    | with_reducible exact Fr.refl _ _
    | with_reducible apply Fr.step ?_ (sendMirror_fr ..) ?_
    | exact rfl

theorem sendHist_fr (s : State) (x1 : List Bytes) :
    Fr [.sk, .cnt, .outs] s (sendHist s x1) := by
  induction x1 generalizing s with
  | nil => exact sendMirror_fr ..
  | cons b bs ih =>
    cases bs with
    | nil => exact sendMirror_fr ..
    | cons c cs => exact Fr.step (sendMirror_fr ..) (ih _) rfl

theorem sendSnapshot_fr (s : State) :
    Fr [.sk, .cnt, .outs] s (sendSnapshot s) := by
  unfold sendSnapshot
  try dsimp only
  repeat'
    first
    | with_reducible exact Fr.refl _ _
    | with_reducible apply Fr.step ?_ (sendItems_fr ..) ?_
    | with_reducible apply Fr.step ?_ (sendHist_fr ..) ?_
    | exact rfl

theorem loadHist_fr (s : State) (e : Bytes) :
    Fr [.str] s (loadHist s e) := by
  unfold loadHist
  try dsimp only
  repeat'
    first
    | with_reducible exact Fr.refl _ _
    | with_reducible apply Fr.step ?_ (modStr_fr ..) ?_
    | exact rfl

theorem execMirror_fr (k : Fin 2) (frame : Bytes) (s : State) :
    OFr [.pads, .hl, .str, .sk, .tw, .mg, .cnt, .outs] s (execMirror k frame s) := by
  unfold execMirror
  refine run_fr rfl ?_
  try dsimp only
  repeat'
    first
    | with_reducible exact Fr.refl _ _
    | with_reducible apply Fr.ite
    | with_reducible apply Fr.step ?_ (fromPartner_fr ..) ?_
    | with_reducible apply Fr.step ?_ (sendSnapshot_fr ..) ?_
    | with_reducible apply Fr.step ?_ (loadHist_fr ..) ?_
    | with_reducible apply Fr.step ?_ (modTw_fr ..) ?_
    | with_reducible apply Fr.step ?_ (syncDone_fr ..) ?_
    | with_reducible apply Fr.foldl ?_ (fun _ _ => ?_)
    | exact rfl

theorem execMirrorSend_fr (s : State) :
    OFr [.pads, .sk, .cnt, .outs] s (execMirrorSend s) := by
  unfold execMirrorSend
  refine run_fr rfl ?_
  try dsimp only
  repeat'
    first
    | with_reducible exact Fr.refl _ _
    | with_reducible apply Fr.ite
    | with_reducible apply Fr.step ?_ (sendItems_fr ..) ?_
    | with_reducible apply Fr.step ?_ (sendMirror_fr ..) ?_
    | exact rfl

theorem sendRegion_fr (s : State) (n : Nat) (seq : Nat) (off : Nat) (x4 : List Bytes) :
    Fr [.sk, .cnt, .outs] s (sendRegion s n seq off x4) := by
  induction x4 generalizing s off with
  | nil => exact Fr.refl _ _
  | cons w ws ih =>
    unfold sendRegion
    try dsimp only
    repeat'
      first
      | with_reducible exact Fr.refl _ _
      | with_reducible apply Fr.step ?_ (kSend_fr ..) ?_
      | with_reducible apply Fr.step ?_ (ih ..) ?_
      | exact rfl

theorem execRegionRead_fr (n : Fin 8) (data : Bytes) (after : BitVec 32) (s : State) :
    OFr [.pads, .sk, .cnt, .outs] s (execRegionRead n data after s) := by
  unfold execRegionRead
  refine run_fr rfl ?_
  try dsimp only
  repeat'
    first
    | with_reducible exact Fr.refl _ _
    | with_reducible apply Fr.ite
    | with_reducible apply Fr.step ?_ (sendRegion_fr ..) ?_
    | exact rfl

theorem modRegion_fr (s : State) (n : Nat) (f : Region → Region) :
    Fr [.tw] s (modRegion s n f) := by
  unfold modRegion
  try dsimp only
  repeat'
    first
    | with_reducible exact Fr.refl _ _
    | with_reducible apply Fr.step ?_ (modTw_fr ..) ?_
    | exact rfl

theorem writeRegion_fr (s : State) (n : Nat) (r : Region) :
    Fr [.hl, .tw, .mg, .cnt, .outs] s (writeRegion s n r) := by
  unfold writeRegion
  try dsimp only
  repeat'
    first
    | with_reducible exact Fr.refl _ _
    | with_reducible apply Fr.step ?_ (writeMem_fr ..) ?_
    | with_reducible apply Fr.step ?_ (count_fr ..) ?_
    | with_reducible apply Fr.step ?_ (modRegion_fr ..) ?_
    | with_reducible apply Fr.step ?_ (modTw_fr ..) ?_
    | with_reducible apply Fr.step ?_ (syncDone_fr ..) ?_
    | split
    | exact rfl

theorem execRegion_fr (k : Fin 2) (frame : Bytes) (s : State) :
    OFr [.pads, .hl, .sk, .tw, .mg, .cnt, .outs] s (execRegion k frame s) := by
  unfold execRegion
  refine run_fr rfl ?_
  try dsimp only
  repeat'
    first
    | with_reducible exact Fr.refl _ _
    | with_reducible apply Fr.ite
    | with_reducible apply Fr.step ?_ (fromPartner_fr ..) ?_
    | with_reducible apply Fr.step ?_ (modRegion_fr ..) ?_
    | with_reducible apply Fr.step ?_ (count_fr ..) ?_
    | with_reducible apply Fr.step ?_ (writeRegion_fr ..) ?_
    | split
    | exact rfl

theorem twinConfigCmd_fr (s : State) (r : Request) :
    AFr [.mb, .ld, .fs] s (twinConfigCmd s r) := by
  unfold twinConfigCmd
  try dsimp only
  repeat'
    first
    | with_reducible exact Fr.refl _ _
    | with_reducible apply Fr.ite
    | with_reducible apply AFr.ite
    | with_reducible apply AFr.no
    | with_reducible apply sized_fr
    | with_reducible apply reserved_fr
    | with_reducible apply badRange_fr
    | with_reducible apply AFr.step ?_ (stageOrder_fr ..) ?_
    | exact rfl

theorem execTwinConfig_fr (via : Via) (s : State) :
    OFr [.pads, .hl, .mb, .ld, .sk, .fs, .se, .win0, .cnt, .outs] s (execTwinConfig via s) := by
  unfold execTwinConfig
  refine runCmd_fr rfl (fun s r => ?_)
  try dsimp only
  repeat'
    first
    | with_reducible exact Fr.refl _ _
    | with_reducible apply AFr.step ?_ (twinConfigCmd_fr ..) ?_
    | exact rfl

theorem execTwinStatus_fr (via : Via) (s : State) :
    OFr [.pads, .hl, .mb, .sk, .se, .win0, .cnt, .outs] s (execTwinStatus via s) := by
  unfold execTwinStatus
  refine runCmd_fr rfl (fun s r => ?_)
  try dsimp only
  repeat'
    first
    | with_reducible exact Fr.refl _ _
    | with_reducible apply AFr.ok
    | with_reducible apply sized_fr

theorem twinYieldCmd_fr (s : State) (r : Request) :
    AFr [.tw] s (twinYieldCmd s r) := by
  unfold twinYieldCmd
  try dsimp only
  repeat'
    first
    | with_reducible exact Fr.refl _ _
    | with_reducible apply Fr.ite
    | with_reducible apply AFr.ite
    | with_reducible apply AFr.no
    | with_reducible apply AFr.later
    | with_reducible apply sized_fr
    | with_reducible apply Fr.step ?_ (modTw_fr ..) ?_
    | exact rfl

theorem execTwinYield_fr (via : Via) (s : State) :
    OFr [.pads, .hl, .mb, .sk, .tw, .se, .win0, .cnt, .outs] s (execTwinYield via s) := by
  unfold execTwinYield
  refine runCmd_fr rfl (fun s r => ?_)
  try dsimp only
  repeat'
    first
    | with_reducible exact Fr.refl _ _
    | with_reducible apply AFr.step ?_ (twinYieldCmd_fr ..) ?_
    | exact rfl

theorem mirrorDeclareCmd_fr (s : State) (r : Request) :
    AFr [.mb, .ld, .fs] s (mirrorDeclareCmd s r) := by
  unfold mirrorDeclareCmd
  try dsimp only
  repeat'
    first
    | with_reducible exact Fr.refl _ _
    | with_reducible apply Fr.ite
    | with_reducible apply AFr.ite
    | with_reducible apply AFr.no
    | with_reducible apply sized_fr
    | with_reducible apply reserved_fr
    | with_reducible apply badRange_fr
    | with_reducible apply AFr.step ?_ (stageOrder_fr ..) ?_
    | with_reducible apply Fr.foldl ?_ (fun _ _ => ?_)
    | exact rfl

theorem execMirrorDeclare_fr (via : Via) (s : State) :
    OFr [.pads, .hl, .mb, .ld, .sk, .fs, .se, .win0, .cnt, .outs] s (execMirrorDeclare via s) := by
  unfold execMirrorDeclare
  refine runCmd_fr rfl (fun s r => ?_)
  try dsimp only
  repeat'
    first
    | with_reducible exact Fr.refl _ _
    | with_reducible apply AFr.step ?_ (mirrorDeclareCmd_fr ..) ?_
    | exact rfl

theorem execStackStatus_fr (via : Via) (s : State) :
    OFr [.pads, .hl, .mb, .sk, .se, .win0, .cnt, .outs] s (execStackStatus via s) := by
  unfold execStackStatus
  refine runCmd_fr rfl (fun s r => ?_)
  try dsimp only
  repeat'
    first
    | with_reducible exact Fr.refl _ _
    | with_reducible apply AFr.ok
    | with_reducible apply sized_fr

theorem stackConfigCmd_fr (s : State) (r : Request) :
    AFr [.mb, .ld, .fs] s (stackConfigCmd s r) := by
  unfold stackConfigCmd
  try dsimp only
  repeat'
    first
    | with_reducible exact Fr.refl _ _
    | with_reducible apply Fr.ite
    | with_reducible apply AFr.ite
    | with_reducible apply AFr.no
    | with_reducible apply sized_fr
    | with_reducible apply reserved_fr
    | with_reducible apply badRange_fr
    | with_reducible apply AFr.step ?_ (stageOrder_fr ..) ?_
    | exact rfl

theorem execStackConfig_fr (via : Via) (s : State) :
    OFr [.pads, .hl, .mb, .ld, .sk, .fs, .se, .win0, .cnt, .outs] s (execStackConfig via s) := by
  unfold execStackConfig
  refine runCmd_fr rfl (fun s r => ?_)
  try dsimp only
  repeat'
    first
    | with_reducible exact Fr.refl _ _
    | with_reducible apply AFr.step ?_ (stackConfigCmd_fr ..) ?_
    | exact rfl

theorem execKtbFrameReceive_fr (i : Fin 16) (line : List Bool) (markPs : Int) (skewed overran : Bool) (s : State) :
    OFr [.pads, .hl, .qs, .mb, .ld, .tm, .cal, .tx, .sg, .sk, .tw, .fs, .se, .mg, .objs, .win0, .cnt, .freeIx, .outs] s (execKtbFrameReceive i line markPs skewed overran s) := by
  unfold execKtbFrameReceive
  refine run_fr rfl ?_
  try dsimp only
  repeat'
    first
    | with_reducible exact Fr.refl _ _
    | with_reducible apply Fr.ite
    | with_reducible apply Fr.step ?_ (ktbReceive_fr ..) ?_
    | with_reducible apply Fr.step ?_ (count_fr ..) ?_
    | with_reducible apply Fr.step ?_ (headClaim_fr ..) ?_
    | split
    | exact rfl

theorem devTake_fr (p : Nat) (kind : Nat) (f : Bytes) (s : State) :
    Fr [.pads, .hl, .qs, .mb, .ld, .tm, .tx, .sg, .sk, .tw, .fs, .se, .mg, .objs, .win0, .cnt, .freeIx, .outs] s (devTake p kind f s) := by
  unfold devTake
  try dsimp only
  repeat'
    first
    | with_reducible exact Fr.refl _ _
    | with_reducible apply Fr.ite
    | with_reducible apply Fr.step ?_ (takeHeartbeat_fr ..) ?_
    | with_reducible apply Fr.step ?_ (takeAgree_fr ..) ?_
    | exact rfl

theorem execFrameReceive_fr (p : Fin 6) (frame : Bytes) (codeError : Bool) (s : State) :
    OFr [.pads, .hl, .qs, .mb, .ld, .tm, .cal, .tx, .rx, .str, .sg, .sk, .tw, .fs, .se, .mg, .objs, .win0, .cnt, .freeIx, .outs] s (execFrameReceive p frame codeError s) := by
  unfold execFrameReceive
  refine run_fr rfl ?_
  try dsimp only
  repeat'
    first
    | with_reducible exact Fr.refl _ _
    | with_reducible apply Fr.ite
    | with_reducible apply Fr.step ?_ (receive_fr (hd := fun _ _ _ _ => devTake_fr ..) ..) ?_
    | with_reducible apply Fr.step ?_ (rxStamp_fr ..) ?_
    | exact rfl

theorem execFragmentReceive_fr (p : Fin 6) (smd : BitVec 8) (count : BitVec 8) (data : Bytes) (mcrc : Bool) (good : Bool) (s : State) :
    OFr [.pads, .hl, .qs, .mb, .ld, .tm, .cal, .tx, .rx, .str, .sg, .sk, .tw, .fs, .se, .mg, .objs, .win0, .cnt, .freeIx, .outs] s (execFragmentReceive p smd count data mcrc good s) := by
  unfold execFragmentReceive
  refine run_fr rfl ?_
  try dsimp only
  repeat'
    first
    | with_reducible exact Fr.refl _ _
    | with_reducible apply Fr.ite
    | with_reducible apply Fr.step ?_ (takeFragment_fr (hd := fun _ _ _ _ => devTake_fr ..) ..) ?_
    | exact rfl

theorem execDecidingPassComplete_fr (p : Fin 6) (pfx : Bytes) (smdE : Bool) (s : State) :
    OFr [.pads, .tx, .rx, .cnt, .freeIx] s (execDecidingPassComplete p pfx smdE s) := by
  unfold execDecidingPassComplete
  refine run_fr rfl ?_
  try dsimp only
  repeat'
    first
    | with_reducible exact Fr.refl _ _
    | with_reducible apply Fr.ite
    | with_reducible apply Fr.step ?_ (decideEarly_fr ..) ?_
    | exact rfl

theorem execSecondPass_fr (s : State) :
    OFr [.pads, .hl, .qs, .mb, .ld, .tm, .cal, .tx, .rx, .str, .sg, .sk, .tw, .fs, .se, .mg, .objs, .win0, .cnt, .freeIx, .outs] s (execSecondPass s) := by
  unfold execSecondPass
  refine run_fr rfl ?_
  try dsimp only
  repeat'
    first
    | with_reducible exact Fr.refl _ _
    | with_reducible apply Fr.ite
    | with_reducible apply Fr.step ?_ (modRx_fr ..) ?_
    | with_reducible apply Fr.step ?_ (drainCheck_fr ..) ?_
    | with_reducible apply Fr.step ?_ (classify_fr ..) ?_
    | with_reducible apply Fr.step ?_ (conclude_fr (hd := fun _ _ _ _ => devTake_fr ..) ..) ?_
    | with_reducible apply Fr.step ?_ (passEarly_fr ..) ?_
    | split
    | exact rfl

theorem execLoopWaitExpiry_fr (s : State) :
    OFr [.pads, .tx, .rx, .cnt] s (execLoopWaitExpiry s) := by
  unfold execLoopWaitExpiry
  refine run_fr rfl ?_
  try dsimp only
  repeat'
    first
    | with_reducible exact Fr.refl _ _
    | with_reducible apply Fr.ite
    | with_reducible apply Fr.step ?_ (drainCheck_fr ..) ?_
    | with_reducible apply Fr.step ?_ (count_fr ..) ?_
    | with_reducible apply Fr.step ?_ (modRx_fr ..) ?_
    | with_reducible apply Fr.step ?_ (keepEarly_fr ..) ?_
    | split
    | exact rfl

theorem portDown_fr (s : State) (p : Nat) :
    Fr [.pads, .hl, .qs, .mb, .ld, .tm, .tx, .rx, .sg, .sk, .tw, .fs, .se, .mg, .objs, .win0, .cnt, .freeIx, .outs] s (portDown s p) := by
  unfold portDown
  try dsimp only
  repeat'
    first
    | with_reducible exact Fr.refl _ _
    | with_reducible apply Fr.ite
    | with_reducible apply Fr.step ?_ (countN_fr ..) ?_
    | with_reducible apply Fr.step ?_ (count_fr ..) ?_
    | with_reducible apply Fr.step ?_ (linkFault_fr ..) ?_
    | with_reducible apply Fr.step ?_ (portGone_fr ..) ?_
    | exact rfl

theorem execLinkDown_fr (p : Fin 7) (s : State) :
    OFr [.pads, .hl, .qs, .mb, .ld, .tm, .tx, .rx, .sg, .sk, .tw, .fs, .se, .mg, .objs, .win0, .cnt, .freeIx, .outs] s (execLinkDown p s) := by
  unfold execLinkDown
  refine run_fr rfl ?_
  try dsimp only
  repeat'
    first
    | with_reducible exact Fr.refl _ _
    | with_reducible apply Fr.ite
    | with_reducible apply Fr.step ?_ (portDown_fr ..) ?_
    | with_reducible apply Fr.step ?_ (sessClose_fr ..) ?_
    | with_reducible apply Fr.foldl ?_ (fun _ _ => ?_)
    | exact rfl

theorem swapEpoch_fr (s : State) :
    Fr [.rx, .cnt] s (swapEpoch s) := by
  unfold swapEpoch
  try dsimp only
  repeat'
    first
    | with_reducible exact Fr.refl _ _
    | with_reducible apply Fr.step ?_ (count_fr ..) ?_
    | with_reducible apply Fr.step ?_ (modRx_fr ..) ?_
    | exact rfl

theorem epochSwapCmd_fr (s : State) (r : Request) :
    AFr [.rx, .cnt] s (epochSwapCmd s r) := by
  unfold epochSwapCmd
  try dsimp only
  repeat'
    first
    | with_reducible exact Fr.refl _ _
    | with_reducible apply Fr.ite
    | with_reducible apply AFr.ite
    | with_reducible apply AFr.no
    | with_reducible apply AFr.ok
    | with_reducible apply sized_fr
    | with_reducible apply Fr.step ?_ (swapEpoch_fr ..) ?_
    | with_reducible apply Fr.step ?_ (drainCheck_fr ..) ?_
    | exact rfl

theorem execEpochSwap_fr (via : Via) (s : State) :
    OFr [.pads, .hl, .mb, .rx, .sk, .se, .win0, .cnt, .outs] s (execEpochSwap via s) := by
  unfold execEpochSwap
  refine runCmd_fr rfl (fun s r => ?_)
  try dsimp only
  repeat'
    first
    | with_reducible exact Fr.refl _ _
    | with_reducible apply AFr.step ?_ (epochSwapCmd_fr ..) ?_
    | exact rfl

theorem execEpochStatus_fr (via : Via) (s : State) :
    OFr [.pads, .hl, .mb, .sk, .se, .win0, .cnt, .outs] s (execEpochStatus via s) := by
  unfold execEpochStatus
  refine runCmd_fr rfl (fun s r => ?_)
  try dsimp only
  repeat'
    first
    | with_reducible exact Fr.refl _ _
    | with_reducible apply AFr.ite
    | with_reducible apply AFr.no
    | with_reducible apply AFr.ok
    | with_reducible apply sized_fr

end Sys2Proof.Machine
end

