-- ==== Sys2Proof/Laws/FootprintCare.lean ====
section
/-! SUPPORT. The footprint of every operation: adjustment, the vote, the tick, faults, life, security, power and management. -/

namespace Sys2Proof.Machine

set_option linter.all false
set_option simprocs false

theorem stepBoundary_fr (s : State) (was : Nat) :
    Fr [.pads, .hl, .qs, .mb, .ld, .tm, .cal, .tx, .rx, .str, .sg, .sk, .tw, .fs, .se, .mg, .objs, .win0, .cnt, .freeIx, .outs] s (stepBoundary s was) := by
  unfold stepBoundary
  try dsimp only
  repeat'
    first
    | with_reducible exact Fr.refl _ _
    | with_reducible apply Fr.ite
    | with_reducible apply Fr.step ?_ (takeBoundary_fr ..) ?_
    | with_reducible apply Fr.step ?_ (holdSet_fr ..) ?_
    | with_reducible apply Fr.step ?_ (passBoundary_fr ..) ?_
    | split
    | exact rfl

theorem stepPort_fr (was : Nat) (s : State) (p : Nat) :
    Fr [.tx, .cnt] s (stepPort was s p) := by
  unfold stepPort
  try dsimp only
  repeat'
    first
    | with_reducible exact Fr.refl _ _
    | with_reducible apply Fr.ite
    | with_reducible apply Fr.step ?_ (modPrt_fr ..) ?_
    | with_reducible apply Fr.step ?_ (countOverrun_fr ..) ?_
    | split
    | exact rfl

theorem shiftSeg_fr (s : State) (step : Int) (i : Nat) :
    Fr [.sg] s (shiftSeg s step i) := by
  unfold shiftSeg
  try dsimp only
  repeat'
    first
    | with_reducible exact Fr.refl _ _
    | with_reducible apply Fr.ite
    | with_reducible apply Fr.step ?_ (modSgm_fr ..) ?_
    | split
    | exact rfl

theorem stepSeg_fr (s : State) (step : Int) (was : Nat) (i : Nat) :
    Fr [.pads, .hl, .qs, .mb, .ld, .tm, .tx, .sg, .sk, .tw, .fs, .se, .mg, .objs, .win0, .cnt, .freeIx, .outs] s (stepSeg s step was i) := by
  unfold stepSeg
  try dsimp only
  repeat'
    first
    | with_reducible exact Fr.refl _ _
    | with_reducible apply Fr.ite
    | with_reducible apply Fr.step ?_ (modSgm_fr ..) ?_
    | with_reducible apply Fr.step ?_ (shiftSeg_fr ..) ?_
    | with_reducible apply Fr.step ?_ (segCycle_fr ..) ?_
    | exact rfl

theorem gauntStep_fr (s : State) (step : Int) :
    Fr [.sg] s (gauntStep s step) := by
  unfold gauntStep
  try dsimp only
  repeat'
    first
    | with_reducible exact Fr.refl _ _
    | with_reducible apply Fr.step ?_ (gauntTurn_fr ..) ?_
    | with_reducible apply Fr.step ?_ (modSg_fr ..) ?_
    | split
    | exact rfl

theorem stepEffects_fr (s : State) (step : Int) (was : Nat) :
    Fr [.pads, .hl, .qs, .mb, .ld, .tm, .cal, .tx, .rx, .str, .sg, .sk, .tw, .fs, .se, .mg, .objs, .win0, .cnt, .freeIx, .outs] s (stepEffects s step was) := by
  unfold stepEffects
  try dsimp only
  repeat'
    first
    | with_reducible exact Fr.refl _ _
    | with_reducible apply Fr.ite
    | with_reducible apply Fr.step ?_ (modTm_fr ..) ?_
    | with_reducible apply Fr.step ?_ (stepBoundary_fr ..) ?_
    | with_reducible apply Fr.step ?_ (stepPort_fr ..) ?_
    | with_reducible apply Fr.step ?_ (stepSeg_fr ..) ?_
    | with_reducible apply Fr.step ?_ (outStep_fr ..) ?_
    | with_reducible apply Fr.step ?_ (gauntStep_fr ..) ?_
    | with_reducible apply Fr.foldl ?_ (fun _ _ => ?_)
    | exact rfl

theorem answerAdjust_fr (s : State) (via : Option Via) :
    Fr [.hl, .mb, .sk, .se, .win0, .cnt, .outs] s (answerAdjust s via) := by
  unfold answerAdjust
  try dsimp only
  repeat'
    first
    | with_reducible exact Fr.refl _ _
    | with_reducible apply Fr.step ?_ (respondWith_fr ..) ?_
    | split
    | exact rfl

theorem adjustNow_fr (s : State) (a : Adjust) :
    Fr [.pads, .hl, .qs, .mb, .ld, .tm, .cal, .tx, .rx, .str, .sg, .sk, .tw, .fs, .se, .mg, .objs, .win0, .cnt, .freeIx, .outs] s (adjustNow s a) := by
  unfold adjustNow
  try dsimp only
  repeat'
    first
    | with_reducible exact Fr.refl _ _
    | with_reducible apply Fr.ite
    | with_reducible apply Fr.step ?_ (modChan_fr ..) ?_
    | with_reducible apply Fr.step ?_ (modTm_fr ..) ?_
    | with_reducible apply Fr.step ?_ (stepEffects_fr ..) ?_
    | with_reducible apply Fr.step ?_ (answerAdjust_fr ..) ?_
    | with_reducible apply Fr.step ?_ (servoTook_fr ..) ?_
    | with_reducible apply Fr.step ?_ (cbsAll_fr ..) ?_
    | with_reducible apply Fr.foldl ?_ (fun _ _ => ?_)
    | split
    | exact rfl

theorem execAdjustmentPoint_fr (s : State) :
    OFr [.pads, .hl, .qs, .mb, .ld, .tm, .cal, .tx, .rx, .str, .sg, .sk, .tw, .fs, .se, .mg, .objs, .win0, .cnt, .freeIx, .outs] s (execAdjustmentPoint s) := by
  unfold execAdjustmentPoint
  refine run_fr rfl ?_
  try dsimp only
  repeat'
    first
    | with_reducible exact Fr.refl _ _
    | with_reducible apply Fr.ite
    | with_reducible apply Fr.step ?_ (adjustNow_fr ..) ?_
    | split
    | exact rfl

theorem voteCheck_fr (s : State) :
    Fr [.pads, .hl, .qs, .mb, .ld, .tm, .tx, .sg, .sk, .tw, .fs, .se, .mg, .objs, .win0, .cnt, .freeIx, .outs] s (voteCheck s) := by
  unfold voteCheck
  try dsimp only
  repeat'
    first
    | with_reducible exact Fr.refl _ _
    | with_reducible apply Fr.ite
    | with_reducible apply Fr.step ?_ (voteFail_fr ..) ?_
    | exact rfl

theorem frameError_fr (s : State) (entry : Nat) : Fr [.qs] s (frameError s entry) := by
  unfold frameError
  exact modQue_fr ..

theorem flashError_fr (s : State) :
    Fr [.mg, .cnt] s (flashError s) := by
  unfold flashError
  try dsimp only
  repeat'
    first
    | with_reducible exact Fr.refl _ _
    | with_reducible apply Fr.step ?_ (count_fr ..) ?_
    | with_reducible apply Fr.step ?_ (modMg_fr ..) ?_
    | split
    | exact rfl

theorem sourceAssert_fr (s : State) (n : Nat) (ipTable : Bool) (entry : Nat) :
    Fr [.pads, .hl, .qs, .mb, .ld, .tm, .tx, .sg, .sk, .tw, .fs, .se, .mg, .objs, .win0, .cnt, .freeIx, .outs] s (sourceAssert s n ipTable entry) := by
  unfold sourceAssert
  try dsimp only
  repeat'
    first
    | with_reducible exact Fr.refl _ _
    | with_reducible apply Fr.ite
    | with_reducible apply Fr.step ?_ (modTm_fr ..) ?_
    | with_reducible apply Fr.step ?_ (modSrc_fr ..) ?_
    | with_reducible apply Fr.step ?_ (assertWith_fr ..) ?_
    | with_reducible apply Fr.step ?_ (voteCheck_fr ..) ?_
    | with_reducible apply Fr.step ?_ (frameError_fr ..) ?_
    | with_reducible apply Fr.step ?_ (flashError_fr ..) ?_
    | split
    | exact rfl

theorem execFaultSourceAssert_fr (src : Fin 192) (ipTable : Bool) (entry : Nat) (s : State) :
    OFr [.pads, .hl, .qs, .mb, .ld, .tm, .tx, .sg, .sk, .tw, .fs, .se, .mg, .objs, .win0, .cnt, .freeIx, .outs] s (execFaultSourceAssert src ipTable entry s) := by
  unfold execFaultSourceAssert
  refine aoRun_fr rfl ?_
  try dsimp only
  repeat'
    first
    | with_reducible exact Fr.refl _ _
    | with_reducible apply Fr.ite
    | with_reducible apply Fr.step ?_ (sourceAssert_fr ..) ?_
    | with_reducible apply Fr.step ?_ (aoOn_fr ..) ?_
    | with_reducible apply Fr.step ?_ (aoFault_fr ..) ?_
    | exact rfl

theorem execFaultSourceDeassert_fr (src : Fin 192) (s : State) :
    OFr [.pads, .fs] s (execFaultSourceDeassert src s) := by
  unfold execFaultSourceDeassert
  refine aoRun_fr rfl ?_
  try dsimp only
  repeat'
    first
    | with_reducible exact Fr.refl _ _
    | with_reducible apply Fr.ite
    | with_reducible apply Fr.step ?_ (condOff_fr ..) ?_
    | exact rfl

theorem f3Resume_fr (s : State) (t : Nat) :
    Fr [.pads, .hl, .qs, .mb, .ld, .tm, .tx, .sg, .sk, .tw, .fs, .se, .mg, .objs, .win0, .cnt, .freeIx, .outs] s (f3Resume s t) := by
  unfold f3Resume
  try dsimp only
  repeat'
    first
    | with_reducible exact Fr.refl _ _
    | with_reducible apply Fr.ite
    | with_reducible apply Fr.step ?_ (portUnfence_fr ..) ?_
    | with_reducible apply Fr.step ?_ (gauntletLoad_fr ..) ?_
    | with_reducible apply Fr.step ?_ (segListen_fr ..) ?_
    | with_reducible apply Fr.step ?_ (modSgm_fr ..) ?_
    | exact rfl

theorem f3Exit_fr (s : State) :
    Fr [.pads, .hl, .qs, .mb, .ld, .tm, .tx, .sg, .sk, .tw, .fs, .se, .mg, .objs, .win0, .cnt, .freeIx, .outs] s (f3Exit s) := by
  unfold f3Exit
  try dsimp only
  repeat'
    first
    | with_reducible exact Fr.refl _ _
    | with_reducible apply Fr.ite
    | with_reducible apply Fr.step ?_ (modFs_fr _ _ ?_) ?_
    | with_reducible apply Fr.step ?_ (modSg_fr ..) ?_
    | with_reducible apply Fr.step ?_ (f3Resume_fr ..) ?_
    | with_reducible apply Fr.foldl ?_ (fun _ _ => ?_)
    | exact rfl
    | with_reducible exact id

theorem execPresentBitExpiry_fr (src : Fin 192) (s : State) :
    OFr [.pads, .hl, .qs, .mb, .ld, .tm, .tx, .sg, .sk, .tw, .fs, .se, .mg, .objs, .win0, .cnt, .freeIx, .outs] s (execPresentBitExpiry src s) := by
  unfold execPresentBitExpiry
  refine aoRun_fr rfl ?_
  try dsimp only
  repeat'
    first
    | with_reducible exact Fr.refl _ _
    | with_reducible apply Fr.ite
    | with_reducible apply Fr.step ?_ (f3Exit_fr ..) ?_
    | with_reducible apply Fr.step ?_ (modSrc_fr ..) ?_
    | exact rfl

theorem execFaultRead_fr (via : Via) (s : State) :
    OFr [.pads, .hl, .mb, .sk, .se, .win0, .cnt, .outs] s (execFaultRead via s) := by
  unfold execFaultRead
  refine runCmd_fr rfl (fun s r => ?_)
  try dsimp only
  repeat'
    first
    | with_reducible exact Fr.refl _ _
    | with_reducible apply AFr.ok
    | with_reducible apply sized_fr

theorem transferred_fr {f : State → Request → Answer} {s : State} {r : Request} (parity : Bool)
    (h : AFr [.pads, .hl, .qs, .mb, .ld, .tm, .tx, .sg, .sk, .tw, .fs, .se, .mg, .objs, .win0, .cnt, .freeIx, .outs] s (f s r)) :
    AFr [.pads, .hl, .qs, .mb, .ld, .tm, .tx, .sg, .sk, .tw, .fs, .se, .mg, .objs, .win0, .cnt, .freeIx, .outs] s (transferred parity f s r) := by
  unfold transferred
  split
  · exact AFr.no ..
  · split
    · exact h
    · exact AFr.done (fault_fr s 24)

theorem faultClear_fr (s : State) (r : Request) :
    AFr [.pads, .hl, .qs, .mb, .ld, .tm, .tx, .sg, .sk, .tw, .fs, .se, .mg, .objs, .win0, .cnt, .freeIx, .outs] s (faultClear s r) := by
  unfold faultClear
  try dsimp only
  repeat'
    first
    | with_reducible exact Fr.refl _ _
    | with_reducible apply Fr.ite
    | with_reducible apply AFr.ite
    | with_reducible apply AFr.no
    | with_reducible apply AFr.ok
    | with_reducible apply reserved_fr
    | with_reducible apply badRange_fr
    | (with_reducible apply namesSource_fr; intro _)
    | with_reducible apply Fr.step ?_ (modSrc_fr ..) ?_
    | with_reducible apply Fr.step ?_ (modFs_fr _ _ ?_) ?_
    | with_reducible apply Fr.step ?_ (f3Exit_fr ..) ?_
    | split
    | exact rfl
    | with_reducible exact id

theorem execFaultClear_fr (o : PortOrder) (s : State) :
    OFr [.pads, .hl, .qs, .mb, .ld, .tm, .tx, .sg, .sk, .tw, .fs, .se, .mg, .objs, .win0, .cnt, .freeIx, .outs] s (execFaultClear o s) := by
  unfold execFaultClear
  refine runCmd_fr rfl (fun s r => ?_)
  exact AFr.step (Fr.refl _ _) (transferred_fr o.parity (AFr.step (Fr.refl _ _) (faultClear_fr s r) rfl)) rfl

theorem injectOnce_fr (s : State) (n : Nat) :
    Fr [.pads, .hl, .qs, .mb, .ld, .tm, .tx, .sg, .sk, .tw, .fs, .se, .mg, .objs, .win0, .cnt, .freeIx, .outs] s (injectOnce s n) := by
  unfold injectOnce
  try dsimp only
  repeat'
    first
    | with_reducible exact Fr.refl _ _
    | with_reducible apply Fr.ite
    | with_reducible apply Fr.step ?_ (assertWith_fr ..) ?_
    | with_reducible apply Fr.step ?_ (voteCheck_fr ..) ?_
    | exact rfl

theorem injectEnd_fr (s : State) (n : Nat) :
    Fr [.fs] s (injectEnd s n) := by
  unfold injectEnd
  try dsimp only
  repeat'
    first
    | with_reducible exact Fr.refl _ _
    | with_reducible apply Fr.step ?_ (modSrc_fr ..) ?_
    | exact rfl

theorem faultInject_fr (s : State) (r : Request) :
    AFr [.pads, .hl, .qs, .mb, .ld, .tm, .tx, .sg, .sk, .tw, .fs, .se, .mg, .objs, .win0, .cnt, .freeIx, .outs] s (faultInject s r) := by
  unfold faultInject
  try dsimp only
  repeat'
    first
    | with_reducible exact Fr.refl _ _
    | with_reducible apply Fr.ite
    | with_reducible apply AFr.ite
    | with_reducible apply AFr.no
    | with_reducible apply AFr.ok
    | with_reducible apply reserved_fr
    | with_reducible apply badRange_fr
    | (with_reducible apply namesSource_fr; intro _)
    | with_reducible apply Fr.step ?_ (injectEnd_fr ..) ?_
    | with_reducible apply Fr.step ?_ (injectOnce_fr ..) ?_
    | with_reducible apply Fr.step ?_ (modSrc_fr ..) ?_
    | exact rfl

theorem execFaultInject_fr (o : PortOrder) (s : State) :
    OFr [.pads, .hl, .qs, .mb, .ld, .tm, .tx, .sg, .sk, .tw, .fs, .se, .mg, .objs, .win0, .cnt, .freeIx, .outs] s (execFaultInject o s) := by
  unfold execFaultInject
  refine runCmd_fr rfl (fun s r => ?_)
  exact AFr.step (Fr.refl _ _) (transferred_fr o.parity (AFr.step (Fr.refl _ _) (faultInject_fr s r) rfl)) rfl

theorem faultConfig_fr (s : State) (r : Request) :
    AFr [.mb, .ld, .fs] s (faultConfig s r) := by
  unfold faultConfig
  try dsimp only
  repeat'
    first
    | with_reducible exact Fr.refl _ _
    | with_reducible apply Fr.ite
    | with_reducible apply AFr.ite
    | with_reducible apply reserved_fr
    | with_reducible apply badRange_fr
    | (with_reducible apply namesSource_fr; intro _)
    | with_reducible apply AFr.step ?_ (stageOrder_fr ..) ?_
    | split
    | exact rfl

theorem execFaultConfig_fr (o : PortOrder) (s : State) :
    OFr [.pads, .hl, .qs, .mb, .ld, .tm, .tx, .sg, .sk, .tw, .fs, .se, .mg, .objs, .win0, .cnt, .freeIx, .outs] s (execFaultConfig o s) := by
  unfold execFaultConfig
  refine runCmd_fr rfl (fun s r => ?_)
  exact AFr.step (Fr.refl _ _) (transferred_fr o.parity (AFr.step (Fr.refl _ _) (faultConfig_fr s r) rfl)) rfl

theorem execSafeNReadback_fr (pads : BitVec 2) (s : State) :
    OFr [.pads, .hl, .qs, .mb, .ld, .tm, .tx, .sg, .sk, .tw, .fs, .se, .mg, .objs, .win0, .cnt, .freeIx, .outs] s (execSafeNReadback pads s) := by
  unfold execSafeNReadback
  refine aoRun_fr rfl ?_
  try dsimp only
  repeat'
    first
    | with_reducible exact Fr.refl _ _
    | with_reducible apply Fr.ite
    | with_reducible apply Fr.step ?_ (modPads_fr ..) ?_
    | with_reducible apply Fr.step ?_ (condOff_fr ..) ?_
    | with_reducible apply Fr.step ?_ (aoOn_fr ..) ?_
    | exact rfl

theorem execGafferWatchdog_fr (s : State) :
    OFr [.pads, .hl, .qs, .mb, .ld, .tm, .tx, .sg, .sk, .tw, .fs, .se, .mg, .objs, .win0, .cnt, .freeIx, .outs] s (execGafferWatchdog s) := by
  unfold execGafferWatchdog
  refine run_fr rfl ?_
  try dsimp only
  repeat'
    first
    | with_reducible exact Fr.refl _ _
    | with_reducible apply Fr.ite
    | with_reducible apply Fr.step ?_ (fault_fr ..) ?_
    | exact rfl

theorem execCi09Check_fr (hz : Nat) (s : State) :
    OFr [.pads, .hl, .qs, .mb, .ld, .tm, .tx, .sg, .sk, .tw, .fs, .se, .mg, .objs, .win0, .cnt, .freeIx, .outs] s (execCi09Check hz s) := by
  unfold execCi09Check
  refine run_fr rfl ?_
  try dsimp only
  repeat'
    first
    | with_reducible exact Fr.refl _ _
    | with_reducible apply Fr.ite
    | with_reducible apply Fr.step ?_ (condOn_fr ..) ?_
    | with_reducible apply Fr.step ?_ (condOff_fr ..) ?_
    | exact rfl

theorem lifeAdd_fr (s : State) (sec : Nat) (t : Int) :
    Fr [.mg] s (lifeAdd s sec t) := by
  unfold lifeAdd
  try dsimp only
  repeat'
    first
    | with_reducible exact Fr.refl _ _
    | with_reducible apply Fr.ite
    | with_reducible apply Fr.step ?_ (modMg_fr ..) ?_
    | exact rfl

theorem lifeLoad_fr (s : State) :
    Fr [.mg] s (lifeLoad s) := by
  unfold lifeLoad
  try dsimp only
  repeat'
    first
    | with_reducible exact Fr.refl _ _
    | with_reducible apply Fr.step ?_ (modMg_fr ..) ?_
    | with_reducible apply Fr.step ?_ (lifeAdd_fr ..) ?_
    | split
    | exact rfl

theorem logLoad_fr (s : State) :
    Fr [.mg] s (logLoad s) := by
  unfold logLoad
  try dsimp only
  repeat'
    first
    | with_reducible exact Fr.refl _ _
    | with_reducible apply Fr.step ?_ (modMg_fr ..) ?_
    | with_reducible apply Fr.foldl ?_ (fun _ _ => ?_)
    | split
    | exact rfl

theorem eraseKeys_fr (s : State) (f : Nat → Bool) :
    Fr [.se, .mg, .cnt, .outs] s (eraseKeys s f) := by
  unfold eraseKeys
  try dsimp only
  repeat'
    first
    | with_reducible exact Fr.refl _ _
    | with_reducible apply Fr.step ?_ (modSe_fr _ _ ?_ ?_) ?_
    | with_reducible apply Fr.step ?_ (countN_fr ..) ?_
    | with_reducible apply Fr.step ?_ (sessClose_fr ..) ?_
    | with_reducible apply Fr.foldl ?_ (fun _ _ => ?_)
    | exact rfl
    | with_reducible exact id
    | with_reducible exact fun _ h => h

theorem raiseAlarm_fr (s : State) (a : Nat) :
    Fr [.pads, .hl, .qs, .mb, .ld, .tm, .tx, .sg, .sk, .tw, .fs, .se, .mg, .objs, .win0, .cnt, .freeIx, .outs] s (raiseAlarm s a) := by
  unfold raiseAlarm
  try dsimp only
  repeat'
    first
    | with_reducible exact Fr.refl _ _
    | with_reducible apply Fr.ite
    | with_reducible apply Fr.step ?_ (modSe_fr _ _ ?_ ?_) ?_
    | with_reducible apply Fr.step ?_ (logAdd_fr ..) ?_
    | with_reducible apply Fr.step ?_ (count_fr ..) ?_
    | with_reducible apply Fr.step ?_ (fault_fr ..) ?_
    | with_reducible apply Fr.step ?_ (eraseKeys_fr ..) ?_
    | with_reducible apply Fr.step ?_ (latchHeld_fr ..) ?_
    | exact fun i h => setBit_keeps _ _ _ h
    | exact fun h => Bool.or_eq_true_iff.mpr (Or.inl h)
    | split
    | exact rfl
    | exact fun _ => rfl

theorem execAlarm_fr (a : Fin 9) (s : State) :
    OFr [.pads, .hl, .qs, .mb, .ld, .tm, .tx, .sg, .sk, .tw, .fs, .se, .mg, .objs, .win0, .cnt, .freeIx, .outs] s (execAlarm a s) := by
  unfold execAlarm
  refine aoRun_fr rfl ?_
  try dsimp only
  repeat'
    first
    | with_reducible exact Fr.refl _ _
    | with_reducible apply Fr.ite
    | with_reducible apply Fr.step ?_ (raiseAlarm_fr ..) ?_
    | exact rfl

theorem execAlarmConditionEnd_fr (a : Fin 9) (s : State) :
    OFr [.pads, .se] s (execAlarmConditionEnd a s) := by
  unfold execAlarmConditionEnd
  refine always_fr rfl ?_
  try dsimp only
  repeat'
    first
    | with_reducible exact Fr.refl _ _
    | with_reducible apply Fr.ite
    | with_reducible apply Fr.step ?_ (modSe_fr _ _ ?_ ?_) ?_
    | exact rfl
    | with_reducible exact id
    | with_reducible exact fun _ h => h

theorem execAlarmStatus_fr (via : Via) (s : State) :
    OFr [.pads, .hl, .mb, .sk, .se, .win0, .cnt, .outs] s (execAlarmStatus via s) := by
  unfold execAlarmStatus
  refine runCmd_fr rfl (fun s r => ?_)
  try dsimp only
  repeat'
    first
    | with_reducible exact Fr.refl _ _
    | with_reducible apply AFr.ok
    | with_reducible apply sized_fr

theorem rejectImage_fr (s : State) (reason : Nat) :
    Fr [.pads, .hl, .qs, .mb, .ld, .tm, .tx, .sg, .sk, .tw, .fs, .se, .mg, .objs, .win0, .cnt, .freeIx, .outs] s (rejectImage s reason) := by
  unfold rejectImage
  try dsimp only
  repeat'
    first
    | with_reducible exact Fr.refl _ _
    | with_reducible apply Fr.ite
    | with_reducible apply Fr.step ?_ (modSe_fr _ _ ?_ ?_) ?_
    | with_reducible apply Fr.step ?_ (count_fr ..) ?_
    | with_reducible apply Fr.step ?_ (fault_fr ..) ?_
    | with_reducible apply Fr.step ?_ (raiseAlarm_fr ..) ?_
    | exact rfl
    | with_reducible exact id
    | with_reducible exact fun _ h => h

theorem acceptImage_fr (s : State) (h : Bytes) (slot : Nat) :
    Fr [.hl, .mb, .se, .objs, .cnt, .outs] s (acceptImage s h slot) := by
  unfold acceptImage
  try dsimp only
  repeat'
    first
    | with_reducible exact Fr.refl _ _
    | with_reducible apply Fr.ite
    | with_reducible apply Fr.step ?_ (setFwReady_fr ..) ?_
    | with_reducible apply Fr.step ?_ (objWrite_fr ..) ?_
    | with_reducible apply Fr.step ?_ (modSe_fr _ _ ?_ ?_) ?_
    | split
    | exact rfl
    | with_reducible exact id
    | with_reducible exact fun _ h => h

theorem startHostLoad_fr (s : State) :
    Fr [.hl, .mb, .se, .cnt, .outs] s (startHostLoad s) := by
  unfold startHostLoad
  try dsimp only
  repeat'
    first
    | with_reducible exact Fr.refl _ _
    | with_reducible apply Fr.step ?_ (setFwReady_fr ..) ?_
    | with_reducible apply Fr.step ?_ (modSe_fr _ _ ?_ ?_) ?_
    | exact rfl
    | with_reducible exact id
    | with_reducible exact fun _ h => h

theorem startSvcLoad_fr (s : State) :
    Fr [.pads, .hl, .qs, .mb, .ld, .tm, .tx, .sg, .sk, .tw, .fs, .se, .mg, .objs, .win0, .cnt, .freeIx, .outs] s (startSvcLoad s) := by
  unfold startSvcLoad
  try dsimp only
  repeat'
    first
    | with_reducible exact Fr.refl _ _
    | with_reducible apply Fr.step ?_ (plan_fr ..) ?_
    | with_reducible apply Fr.step ?_ (modSe_fr _ _ ?_ ?_) ?_
    | exact rfl
    | with_reducible exact id
    | with_reducible exact fun _ h => h

theorem bootStart_fr (s : State) :
    Fr [.pads, .hl, .qs, .mb, .ld, .tm, .tx, .sg, .sk, .tw, .fs, .se, .mg, .objs, .win0, .cnt, .freeIx, .outs] s (bootStart s) := by
  unfold bootStart
  try dsimp only
  repeat'
    first
    | with_reducible exact Fr.refl _ _
    | with_reducible apply Fr.ite
    | with_reducible apply Fr.step ?_ (modSe_fr _ _ ?_ ?_) ?_
    | with_reducible apply Fr.step ?_ (startHostLoad_fr ..) ?_
    | with_reducible apply Fr.step ?_ (startSvcLoad_fr ..) ?_
    | split
    | exact rfl
    | with_reducible exact id
    | with_reducible exact fun _ h => h

theorem bootFallback_fr (s : State) :
    Fr [.pads, .hl, .qs, .mb, .ld, .tm, .tx, .sg, .sk, .tw, .fs, .se, .mg, .objs, .win0, .cnt, .freeIx, .outs] s (bootFallback s) := by
  unfold bootFallback
  try dsimp only
  repeat'
    first
    | with_reducible exact Fr.refl _ _
    | with_reducible apply Fr.ite
    | with_reducible apply Fr.step ?_ (startHostLoad_fr ..) ?_
    | with_reducible apply Fr.step ?_ (modSe_fr _ _ ?_ ?_) ?_
    | with_reducible apply Fr.step ?_ (startSvcLoad_fr ..) ?_
    | exact rfl
    | with_reducible exact id
    | with_reducible exact fun _ h => h

theorem bootSlot_fr (s : State) (k : Nat) (rest : List Nat) (readOk : Bool) :
    Fr [.pads, .hl, .qs, .mb, .ld, .tm, .tx, .sg, .sk, .tw, .fs, .se, .mg, .objs, .win0, .cnt, .freeIx, .outs] s (bootSlot s k rest readOk) := by
  unfold bootSlot
  try dsimp only
  repeat'
    first
    | with_reducible exact Fr.refl _ _
    | with_reducible apply Fr.ite
    | with_reducible apply Fr.step ?_ (modMg_fr ..) ?_
    | with_reducible apply Fr.step ?_ (acceptImage_fr ..) ?_
    | with_reducible apply Fr.step ?_ (rejectImage_fr ..) ?_
    | with_reducible apply Fr.step ?_ (modSe_fr _ _ ?_ ?_) ?_
    | with_reducible apply Fr.step ?_ (bootFallback_fr ..) ?_
    | split
    | exact rfl
    | with_reducible exact id
    | with_reducible exact fun _ h => h

theorem execImageLoaded_fr (readOk : Bool) (s : State) :
    OFr [.pads, .hl, .qs, .mb, .ld, .tm, .tx, .sg, .sk, .tw, .fs, .se, .mg, .objs, .win0, .cnt, .freeIx, .outs] s (execImageLoaded readOk s) := by
  unfold execImageLoaded
  refine run_fr rfl ?_
  try dsimp only
  repeat'
    first
    | with_reducible exact Fr.refl _ _
    | with_reducible apply Fr.ite
    | with_reducible apply Fr.step ?_ (bootSlot_fr ..) ?_
    | with_reducible apply Fr.step ?_ (acceptImage_fr ..) ?_
    | with_reducible apply Fr.step ?_ (bootFallback_fr ..) ?_
    | with_reducible apply Fr.step ?_ (rejectImage_fr ..) ?_
    | split
    | exact rfl

theorem execBootSourceTimeout_fr (s : State) :
    OFr [.pads, .hl, .qs, .mb, .ld, .tm, .tx, .sg, .sk, .tw, .fs, .se, .mg, .objs, .win0, .cnt, .freeIx, .outs] s (execBootSourceTimeout s) := by
  unfold execBootSourceTimeout
  refine run_fr rfl ?_
  try dsimp only
  repeat'
    first
    | with_reducible exact Fr.refl _ _
    | with_reducible apply Fr.ite
    | with_reducible apply Fr.step ?_ (rejectImage_fr ..) ?_
    | with_reducible apply Fr.step ?_ (modMg_fr ..) ?_
    | with_reducible apply Fr.step ?_ (modSe_fr _ _ ?_ ?_) ?_
    | exact rfl
    | with_reducible exact id
    | with_reducible exact fun _ h => h

theorem execBootReq_fr (s : State) :
    OFr [.pads, .freeIx, .outs] s (execBootReq s) := by
  unfold execBootReq
  refine run_fr rfl ?_
  try dsimp only
  repeat'
    first
    | with_reducible exact Fr.refl _ _
    | with_reducible apply Fr.ite
    | with_reducible apply Fr.step ?_ (draw_fr ..) ?_
    | with_reducible apply Fr.step ?_ (svcSend_fr ..) ?_
    | exact rfl

theorem svcTake_fr (s : State) (f : Bytes) (subtype : Nat) (least : Nat) :
    Fr [.cnt, .outs] s (svcTake s f subtype least).2 := by
  unfold svcTake
  try dsimp only
  repeat'
    first
    | with_reducible exact Fr.refl _ _
    | with_reducible apply Fr.ite
    | with_reducible apply Fr.step ?_ (count_fr ..) ?_
    | with_reducible apply Fr.step ?_ (emit_fr ..) ?_
    | split
    | exact rfl

theorem bootAck_fr (s : State) (f : Bytes) (next : Nat) (status : Nat) (reject : Nat) :
    Fr [.outs] s (bootAck s f next status reject) := by
  unfold bootAck
  try dsimp only
  repeat'
    first
    | with_reducible exact Fr.refl _ _
    | with_reducible apply Fr.step ?_ (svcSend_fr ..) ?_
    | exact rfl

theorem bootDataTake_fr (s : State) (f : Bytes) :
    Fr [.pads, .hl, .qs, .mb, .ld, .tm, .tx, .sg, .sk, .tw, .fs, .se, .mg, .objs, .win0, .cnt, .freeIx, .outs] s (bootDataTake s f) := by
  unfold bootDataTake
  try dsimp only
  repeat'
    first
    | with_reducible exact Fr.refl _ _
    | with_reducible apply Fr.ite
    | with_reducible apply Fr.step ?_ (count_fr ..) ?_
    | with_reducible apply Fr.step ?_ (modSe_fr _ _ ?_ ?_) ?_
    | with_reducible apply Fr.step ?_ (bootAck_fr ..) ?_
    | with_reducible apply Fr.step ?_ (acceptImage_fr ..) ?_
    | with_reducible apply Fr.step ?_ (rejectImage_fr ..) ?_
    | exact rfl
    | with_reducible exact id
    | with_reducible exact fun _ h => h

theorem execBootData_fr (frame : Bytes) (s : State) :
    OFr [.pads, .hl, .qs, .mb, .ld, .tm, .tx, .sg, .sk, .tw, .fs, .se, .mg, .objs, .win0, .cnt, .freeIx, .outs] s (execBootData frame s) := by
  unfold execBootData
  refine run_fr rfl ?_
  try dsimp only
  repeat'
    first
    | with_reducible exact Fr.refl _ _
    | with_reducible apply Fr.ite
    | with_reducible apply Fr.step ?_ (svcTake_fr ..) ?_
    | with_reducible apply Fr.step ?_ (bootDataTake_fr ..) ?_
    | exact rfl

theorem execSecProtWrite_fr (image : Bytes) (s : State) :
    OFr [.pads, .objs] s (execSecProtWrite image s) := by
  unfold execSecProtWrite
  refine run_fr rfl ?_
  try dsimp only
  repeat'
    first
    | with_reducible exact Fr.refl _ _
    | with_reducible apply Fr.ite
    | with_reducible apply Fr.step ?_ (objWrite_fr ..) ?_
    | exact rfl

theorem burnFuse_fr (s : State) (k : Nat) :
    Fr [.fuses] s (burnFuse s k) := by
  unfold burnFuse
  try dsimp only
  repeat'
    first
    | with_reducible exact Fr.refl _ _
    | with_reducible apply Fr.ite
    | with_reducible apply Fr.step ?_ (setFuses_fr _ _ ?_) ?_
    | exact FusesRise.owner _
    | exact FusesRise.revoked _
    | exact FusesRise.rollback _ (Nat.le_max_left _ _)
    | exact rfl

theorem cutBurn_fr (s : State) (k : Nat) :
    Fr [.fuses, .freeIx] s (cutBurn s k) := by
  unfold cutBurn
  have h := draw_fr s
  dsimp only
  split
  · exact Fr.step (Fr.mono h rfl) (setFuses_fr _ _ (FusesRise.owner _)) rfl
  · split
    · exact Fr.step (Fr.mono h rfl) (setFuses_fr _ _ (FusesRise.revoked _)) rfl
    · exact Fr.step (Fr.mono h rfl) (setFuses_fr _ _ (FusesRise.rollback _ (Nat.le_add_right _ _))) rfl

theorem cutBurns_fr (s : State) :
    Fr [.fuses, .freeIx] s (cutBurns s) := by
  unfold cutBurns
  try dsimp only
  repeat'
    first
    | with_reducible exact Fr.refl _ _
    | with_reducible apply Fr.ite
    | with_reducible apply Fr.step ?_ (draw_fr ..) ?_
    | with_reducible apply Fr.step ?_ (cutBurn_fr ..) ?_
    | with_reducible apply Fr.step ?_ (burnFuse_fr ..) ?_
    | exact FusesRise.owner _
    | exact FusesRise.revoked _
    | exact FusesRise.rollback _ (Nat.le_add_right _ _)
    | with_reducible apply Fr.foldl ?_ (fun _ _ => ?_)
    | split
    | exact rfl

theorem noCells : Memory.wf objReset [] ∧ Memory.wf win0Reset [] ∧ Memory.wf win1Reset [] := by decide

/-- What the core reset and the loss of power leave: time, flash and the host's queue. -/
theorem bareDie_only (s : State) :
    Only [.pads, .pw, .hl, .qs, .mb, .ld, .tm, .cal, .tx, .rx, .str, .sg, .sk, .tw, .fs, .se, .mg, .fences, .objs, .win0, .win1,
      .cnt] s (bareDie s) := by
  intro g hg; cases g <;> first | rfl | exact absurd hg (by decide)

theorem bareDie_mem (s : State) (h : CanonicalMem s) : CanonicalMem (bareDie s) := ⟨noCells.1, noCells.2.1, noCells.2.2, h.2.2.2⟩

theorem Only.step {a b : List Grp} {s t u : State} (h : Only b s t) (k : Only a t u) (hab : within a b = true) : Only b s u :=
  fun g hg => SameIn.trans (h g hg) (Only.mono k hab g hg)

theorem powerLost_only (s : State) (f : Power → Power) (g : Pads → Pads) :
    Only [.pads, .pw, .hl, .qs, .mb, .ld, .tm, .cal, .tx, .rx, .str, .sg, .sk, .tw, .fs, .se, .fuses, .mg, .fences, .objs, .win0,
      .win1, .cnt, .freeIx] s (interlock (((bareDie (cutBurns s)).modPw f).modPads g)) := by
  refine Only.step (a := [.pads]) ?_ (interlock_fr _).only rfl
  refine Only.step (a := [.pads]) ?_ (modPads_fr _ _).only rfl
  refine Only.step (a := [.pw]) (t := bareDie (cutBurns s)) ?_ (by intro g hg; cases g <;> first | rfl | exact absurd hg (by decide)) rfl
  refine Only.step (a := [.pads, .pw, .hl, .qs, .mb, .ld, .tm, .cal, .tx, .rx, .str, .sg, .sk, .tw, .fs, .se, .mg, .fences, .objs,
    .win0, .win1, .cnt]) ?_ (bareDie_only _) rfl
  exact Only.mono (cutBurns_fr s).only rfl

theorem powerLost_mem (s : State) (f : Power → Power) (g : Pads → Pads) (h : CanonicalMem s) :
    CanonicalMem (interlock (((bareDie (cutBurns s)).modPw f).modPads g)) :=
by
  have k : CanonicalMem (((bareDie (cutBurns s)).modPw f).modPads g) := bareDie_mem (cutBurns s) ((cutBurns_fr s).mem h)
  exact (interlock_fr _).mem k

theorem powerUpRecords_fr (s : State) :
    Fr [.mg, .cnt] s (powerUpRecords s) := by
  unfold powerUpRecords
  try dsimp only
  repeat'
    first
    | with_reducible exact Fr.refl _ _
    | with_reducible apply Fr.ite
    | with_reducible apply Fr.step ?_ (logLoad_fr ..) ?_
    | with_reducible apply Fr.step ?_ (lifeLoad_fr ..) ?_
    | with_reducible apply Fr.step ?_ (logAdd_fr ..) ?_
    | with_reducible apply Fr.step ?_ (modMg_fr ..) ?_
    | exact rfl

theorem startRun_fr (s : State) :
    Fr [.hl, .mb, .se, .mg, .cnt, .outs] s (startRun s) := by
  unfold startRun
  try dsimp only
  repeat'
    first
    | with_reducible exact Fr.refl _ _
    | with_reducible apply Fr.step ?_ (powerUpRecords_fr ..) ?_
    | with_reducible apply Fr.step ?_ (logAdd_fr ..) ?_
    | with_reducible apply Fr.step ?_ (setFwReady_fr ..) ?_
    | with_reducible apply Fr.step ?_ (modSe_fr _ _ ?_ ?_) ?_
    | exact rfl
    | with_reducible exact id
    | with_reducible exact fun _ h => h

theorem setLock_fr (s : State) :
    Fr [.hl, .mb, .se, .mg, .cnt, .outs] s (setLock s) := by
  unfold setLock
  try dsimp only
  repeat'
    first
    | with_reducible exact Fr.refl _ _
    | with_reducible apply Fr.ite
    | with_reducible apply Fr.step ?_ (startRun_fr ..) ?_
    | with_reducible apply Fr.step ?_ (modSe_fr _ _ ?_ ?_) ?_
    | exact rfl
    | with_reducible exact id
    | with_reducible exact fun _ h => h

theorem execSecLock_fr (s : State) :
    OFr [.pads, .hl, .mb, .se, .mg, .cnt, .outs] s (execSecLock s) := by
  unfold execSecLock
  refine run_fr rfl ?_
  try dsimp only
  repeat'
    first
    | with_reducible exact Fr.refl _ _
    | with_reducible apply Fr.step ?_ (setLock_fr ..) ?_
    | exact rfl

theorem execLockTimeout_fr (s : State) :
    OFr [.pads, .hl, .mb, .se, .mg, .cnt, .outs] s (execLockTimeout s) := by
  unfold execLockTimeout
  refine run_fr rfl ?_
  try dsimp only
  repeat'
    first
    | with_reducible exact Fr.refl _ _
    | with_reducible apply Fr.step ?_ (setLock_fr ..) ?_
    | exact rfl

theorem execFuseBurnComplete_fr (s : State) :
    OFr [.pads, .hl, .mb, .se, .fuses, .mg, .cnt, .outs] s (execFuseBurnComplete s) := by
  unfold execFuseBurnComplete
  refine run_fr rfl ?_
  try dsimp only
  repeat'
    first
    | with_reducible exact Fr.refl _ _
    | with_reducible apply Fr.ite
    | with_reducible apply Fr.step ?_ (modSe_fr _ _ ?_ ?_) ?_
    | with_reducible apply Fr.step ?_ (burnFuse_fr ..) ?_
    | with_reducible apply Fr.step ?_ (startRun_fr ..) ?_
    | with_reducible apply Fr.foldl ?_ (fun _ _ => ?_)
    | exact rfl
    | with_reducible exact id
    | with_reducible exact fun _ h => h

theorem freshPns_fr (s : State) (slot : Nat) :
    Fr [.rx] s (freshPns s slot) := by
  unfold freshPns
  try dsimp only
  repeat'
    first
    | with_reducible exact Fr.refl _ _
    | with_reducible apply Fr.ite
    | with_reducible apply Fr.step ?_ (modRx_fr ..) ?_
    | with_reducible apply Fr.foldl ?_ (fun _ _ => ?_)
    | exact rfl

theorem keyLoad_fr (s : State) (r : Request) :
    AFr [.rx, .se] s (keyLoad s r) := by
  unfold keyLoad
  try dsimp only
  repeat'
    first
    | with_reducible exact Fr.refl _ _
    | with_reducible apply Fr.ite
    | with_reducible apply AFr.ite
    | with_reducible apply AFr.no
    | with_reducible apply AFr.ok
    | with_reducible apply sized_fr
    | with_reducible apply badRange_fr
    | with_reducible apply Fr.step ?_ (modSe_fr _ _ ?_ ?_) ?_
    | with_reducible apply Fr.step ?_ (freshPns_fr ..) ?_
    | split
    | exact rfl
    | with_reducible exact id
    | with_reducible exact fun _ h => h

theorem ownKeyLoad_fr (s : State) : Fr [.rx, .se, .freeIx] s (ownKeyLoad s) := by
  unfold ownKeyLoad
  try dsimp only
  split
  next e => exact Fr.step ((draw_fr s).mono (by decide)) ((keyLoad_fr ..).get_ok e) (by decide)
  next => exact (draw_fr s).mono (by decide)

theorem execKeyLoad_fr (via : Via) (s : State) :
    OFr [.pads, .hl, .mb, .rx, .sk, .se, .win0, .cnt, .freeIx, .outs] s (execKeyLoad via s) := by
  unfold execKeyLoad
  split
  · exact run_fr rfl ((ownKeyLoad_fr s).mono (by decide))
  · refine runCmd_fr rfl (fun s r => ?_)
    exact AFr.step (Fr.refl _ _) (keyLoad_fr ..) (by decide)

theorem keyErase_fr (s : State) (r : Request) :
    AFr [.se, .mg, .cnt, .outs] s (keyErase s r) := by
  unfold keyErase
  try dsimp only
  repeat'
    first
    | with_reducible exact Fr.refl _ _
    | with_reducible apply Fr.ite
    | with_reducible apply AFr.ite
    | with_reducible apply AFr.ok
    | with_reducible apply sized_fr
    | with_reducible apply reserved_fr
    | with_reducible apply badRange_fr
    | with_reducible apply Fr.step ?_ (eraseKeys_fr ..) ?_
    | exact rfl

theorem execKeyErase_fr (via : Via) (s : State) :
    OFr [.pads, .hl, .mb, .sk, .se, .mg, .win0, .cnt, .outs] s (execKeyErase via s) := by
  unfold execKeyErase
  refine runCmd_fr rfl (fun s r => ?_)
  try dsimp only
  repeat'
    first
    | with_reducible exact Fr.refl _ _
    | with_reducible apply AFr.step ?_ (keyErase_fr ..) ?_
    | exact rfl

theorem helloTake_fr (s : State) (f : Bytes) :
    Fr [.se, .cnt, .freeIx, .outs] s (helloTake s f) := by
  unfold helloTake
  try dsimp only
  repeat'
    first
    | with_reducible exact Fr.refl _ _
    | with_reducible apply Fr.ite
    | with_reducible apply Fr.step ?_ (draw_fr ..) ?_
    | with_reducible apply Fr.step ?_ (modSess_fr ..) ?_
    | with_reducible apply Fr.step ?_ (svcSend_fr ..) ?_
    | with_reducible apply Fr.step ?_ (count_fr ..) ?_
    | split
    | exact rfl

theorem execSHello_fr (frame : Bytes) (s : State) :
    OFr [.pads, .se, .cnt, .freeIx, .outs] s (execSHello frame s) := by
  unfold execSHello
  refine run_fr rfl ?_
  try dsimp only
  repeat'
    first
    | with_reducible exact Fr.refl _ _
    | with_reducible apply Fr.ite
    | with_reducible apply Fr.step ?_ (svcTake_fr ..) ?_
    | with_reducible apply Fr.step ?_ (helloTake_fr ..) ?_
    | exact rfl

theorem proofFailed_fr (s : State) (k : Nat) :
    Fr [.pads, .hl, .qs, .mb, .ld, .tm, .tx, .sg, .sk, .tw, .fs, .se, .mg, .objs, .win0, .cnt, .freeIx, .outs] s (proofFailed s k) := by
  unfold proofFailed
  try dsimp only
  repeat'
    first
    | with_reducible exact Fr.refl _ _
    | with_reducible apply Fr.ite
    | with_reducible apply Fr.step ?_ (count_fr ..) ?_
    | with_reducible apply Fr.step ?_ (raiseAlarm_fr ..) ?_
    | with_reducible apply Fr.step ?_ (modSess_fr ..) ?_
    | exact rfl

theorem proofTake_fr (s : State) (f : Bytes) :
    Fr [.pads, .hl, .qs, .mb, .ld, .tm, .tx, .sg, .sk, .tw, .fs, .se, .mg, .objs, .win0, .cnt, .freeIx, .outs] s (proofTake s f) := by
  unfold proofTake
  try dsimp only
  repeat'
    first
    | with_reducible exact Fr.refl _ _
    | with_reducible apply Fr.ite
    | with_reducible apply Fr.step ?_ (count_fr ..) ?_
    | with_reducible apply Fr.step ?_ (modSess_fr ..) ?_
    | with_reducible apply Fr.step ?_ (svcSend_fr ..) ?_
    | with_reducible apply Fr.step ?_ (proofFailed_fr ..) ?_
    | split
    | exact rfl

theorem execSProof_fr (frame : Bytes) (s : State) :
    OFr [.pads, .hl, .qs, .mb, .ld, .tm, .tx, .sg, .sk, .tw, .fs, .se, .mg, .objs, .win0, .cnt, .freeIx, .outs] s (execSProof frame s) := by
  unfold execSProof
  refine run_fr rfl ?_
  try dsimp only
  repeat'
    first
    | with_reducible exact Fr.refl _ _
    | with_reducible apply Fr.ite
    | with_reducible apply Fr.step ?_ (svcTake_fr ..) ?_
    | with_reducible apply Fr.step ?_ (proofTake_fr ..) ?_
    | exact rfl

theorem execProofTimeout_fr (k : Fin 8) (s : State) :
    OFr [.pads, .se, .mg, .outs] s (execProofTimeout k s) := by
  unfold execProofTimeout
  refine run_fr rfl ?_
  try dsimp only
  repeat'
    first
    | with_reducible exact Fr.refl _ _
    | with_reducible apply Fr.ite
    | with_reducible apply Fr.step ?_ (sessClose_fr ..) ?_
    | exact rfl

theorem msgTake_fr (s : State) (f : Bytes) :
    Fr [.mb, .se, .mg, .cnt, .outs] s (msgTake s f) := by
  unfold msgTake
  try dsimp only
  repeat'
    first
    | with_reducible exact Fr.refl _ _
    | with_reducible apply Fr.ite
    | with_reducible apply Fr.step ?_ (modSess_fr ..) ?_
    | with_reducible apply Fr.step ?_ (arrive_fr ..) ?_
    | with_reducible apply Fr.step ?_ (count_fr ..) ?_
    | with_reducible apply Fr.step ?_ (sessClose_fr ..) ?_
    | split
    | exact rfl

theorem execSMsg_fr (frame : Bytes) (s : State) :
    OFr [.pads, .mb, .se, .mg, .cnt, .outs] s (execSMsg frame s) := by
  unfold execSMsg
  refine run_fr rfl ?_
  try dsimp only
  repeat'
    first
    | with_reducible exact Fr.refl _ _
    | with_reducible apply Fr.ite
    | with_reducible apply Fr.step ?_ (svcTake_fr ..) ?_
    | with_reducible apply Fr.step ?_ (msgTake_fr ..) ?_
    | exact rfl

theorem closeTake_fr (s : State) (f : Bytes) :
    Fr [.se, .mg, .outs] s (closeTake s f) := by
  unfold closeTake
  try dsimp only
  repeat'
    first
    | with_reducible exact Fr.refl _ _
    | with_reducible apply Fr.ite
    | with_reducible apply Fr.step ?_ (sessClose_fr ..) ?_
    | split
    | exact rfl

theorem execSClose_fr (frame : Bytes) (s : State) :
    OFr [.pads, .se, .mg, .cnt, .outs] s (execSClose frame s) := by
  unfold execSClose
  refine run_fr rfl ?_
  try dsimp only
  repeat'
    first
    | with_reducible exact Fr.refl _ _
    | with_reducible apply Fr.ite
    | with_reducible apply Fr.step ?_ (svcTake_fr ..) ?_
    | with_reducible apply Fr.step ?_ (closeTake_fr ..) ?_
    | exact rfl

theorem execSessionIdle_fr (k : Fin 8) (s : State) :
    OFr [.pads, .se, .mg, .outs] s (execSessionIdle k s) := by
  unfold execSessionIdle
  refine run_fr rfl ?_
  try dsimp only
  repeat'
    first
    | with_reducible exact Fr.refl _ _
    | with_reducible apply Fr.ite
    | with_reducible apply Fr.step ?_ (sessClose_fr ..) ?_
    | exact rfl

theorem execServiceKeyLockoutEnd_fr (k : Fin 8) (s : State) :
    OFr [.pads, .se] s (execServiceKeyLockoutEnd k s) := by
  unfold execServiceKeyLockoutEnd
  refine run_fr rfl ?_
  try dsimp only
  repeat'
    first
    | with_reducible exact Fr.refl _ _
    | with_reducible apply Fr.ite
    | with_reducible apply Fr.step ?_ (modSess_fr ..) ?_
    | exact rfl

theorem execRailsGood_fr (s : State) :
    OFr [.pads, .pw, .fs, .mg] s (execRailsGood s) := by
  unfold execRailsGood
  refine always_fr rfl ?_
  try dsimp only
  repeat'
    first
    | with_reducible exact Fr.refl _ _
    | with_reducible apply Fr.ite
    | with_reducible apply Fr.step ?_ (condOff_fr ..) ?_
    | with_reducible apply Fr.step ?_ (modPw_fr _ _ ?_) ?_
    | with_reducible apply Fr.step ?_ (modMg_fr ..) ?_
    | with_reducible apply Fr.foldl ?_ (fun _ _ => ?_)
    | exact rfl
    | with_reducible exact id

theorem execVddIoGood_fr (s : State) :
    OFr [.pads, .pw, .fs] s (execVddIoGood s) := by
  unfold execVddIoGood
  refine always_fr rfl ?_
  try dsimp only
  repeat'
    first
    | with_reducible exact Fr.refl _ _
    | with_reducible apply Fr.ite
    | with_reducible apply Fr.step ?_ (condOff_fr ..) ?_
    | with_reducible apply Fr.step ?_ (modPw_fr _ _ ?_) ?_
    | with_reducible apply Fr.step ?_ (modPads_fr ..) ?_
    | exact rfl
    | with_reducible exact id

theorem ioLost_fr (s : State) :
    Fr [.pads, .fs] s (ioLost s) := by
  unfold ioLost
  try dsimp only
  repeat'
    first
    | with_reducible exact Fr.refl _ _
    | with_reducible apply Fr.step ?_ (modPads_fr ..) ?_
    | with_reducible apply Fr.step ?_ (setSafeN_fr ..) ?_
    | exact rfl

theorem execRailUndervoltage_fr (rail : Fin 6) (s : State) :
    OFr [.pads, .pw, .hl, .qs, .mb, .ld, .tm, .tx, .sg, .sk, .tw, .fs, .se, .mg, .objs, .win0, .cnt, .freeIx, .outs] s (execRailUndervoltage rail s) := by
  unfold execRailUndervoltage
  refine always_fr rfl ?_
  try dsimp only
  repeat'
    first
    | with_reducible exact Fr.refl _ _
    | with_reducible apply Fr.ite
    | with_reducible apply Fr.step ?_ (modPw_fr _ _ ?_) ?_
    | with_reducible apply Fr.step ?_ (condOn_fr ..) ?_
    | with_reducible apply Fr.step ?_ (ioLost_fr ..) ?_
    | exact rfl
    | with_reducible exact id

theorem execRailOvervoltage_fr (rail : Fin 6) (s : State) :
    OFr [.pads, .hl, .qs, .mb, .ld, .tm, .tx, .sg, .sk, .tw, .fs, .se, .mg, .objs, .win0, .cnt, .freeIx, .outs] s (execRailOvervoltage rail s) := by
  unfold execRailOvervoltage
  refine aoRun_fr rfl ?_
  try dsimp only
  repeat'
    first
    | with_reducible exact Fr.refl _ _
    | with_reducible apply Fr.step ?_ (aoOn_fr ..) ?_
    | with_reducible apply Fr.ite
    | exact rfl

theorem coreReset_fr (s : State) :
    Fr [.pads, .pw, .hl, .qs, .mb, .ld, .tm, .cal, .tx, .rx, .str, .sg, .sk, .tw, .fs, .se, .mg, .fences, .objs, .win0, .win1,
      .cnt] s (coreReset s) :=
  ⟨by intro g hg; cases g <;> first | rfl | exact absurd hg (by decide),
    ⟨id, id, fun _ h => h, id, Nat.le_refl _, fun _ h => h⟩, fun h => ⟨noCells.1, noCells.2.1, noCells.2.2, h.2.2.2⟩⟩

theorem abortAll_fr (s : State) :
    Fr [.pads, .qs, .tx, .sg, .cnt, .freeIx, .outs] s (abortAll s) := by
  unfold abortAll
  try dsimp only
  repeat'
    first
    | with_reducible exact Fr.refl _ _
    | with_reducible apply Fr.ite
    | with_reducible apply Fr.step ?_ (abortLine_fr ..) ?_
    | with_reducible apply Fr.step ?_ (emit_fr ..) ?_
    | with_reducible apply Fr.step ?_ (segQuiet_fr ..) ?_
    | with_reducible apply Fr.step ?_ (laneIdle_fr ..) ?_
    | with_reducible apply Fr.foldl ?_ (fun _ _ => ?_)
    | exact rfl

theorem execResetNRecognised_fr (s : State) :
    OFr [.pads, .pw, .hl, .qs, .mb, .ld, .tm, .cal, .tx, .rx, .str, .sg, .sk, .tw, .fs, .se, .fuses, .mg, .fences, .objs, .win0,
      .win1, .cnt, .freeIx, .outs] s (execResetNRecognised s) := by
  unfold execResetNRecognised
  refine always_fr rfl ?_
  repeat'
    first
    | with_reducible exact Fr.refl _ _
    | with_reducible apply Fr.ite
    | with_reducible apply Fr.step ?_ (coreReset_fr ..) ?_
    | with_reducible apply Fr.step ?_ (cutBurns_fr ..) ?_
    | with_reducible apply Fr.step ?_ (abortAll_fr ..) ?_
    | exact rfl

theorem execResetNRise_fr (s : State) :
    OFr [.pads, .pw] s (execResetNRise s) := by
  unfold execResetNRise
  refine always_fr rfl ?_
  try dsimp only
  repeat'
    first
    | with_reducible exact Fr.refl _ _
    | with_reducible apply Fr.ite
    | with_reducible apply Fr.step ?_ (modPw_fr _ _ ?_) ?_
    | exact rfl
    | with_reducible exact id

theorem execStrapSample_fr (stackId : BitVec 3) (bootSrc : BitVec 2) (testN : Bool) (s : State) :
    OFr [.pads, .pw, .hl, .qs, .mb, .ld, .tm, .tx, .sg, .sk, .tw, .fs, .se, .mg, .objs, .win0, .cnt, .freeIx, .outs] s (execStrapSample stackId bootSrc testN s) := by
  unfold execStrapSample
  refine atExit_fr rfl ?_
  try dsimp only
  repeat'
    first
    | with_reducible exact Fr.refl _ _
    | with_reducible apply Fr.ite
    | with_reducible apply Fr.step ?_ (modPw_fr _ _ ?_) ?_
    | with_reducible apply Fr.step ?_ (raiseAlarm_fr ..) ?_
    | with_reducible apply Fr.step ?_ (modPads_fr ..) ?_
    | exact fun h => Bool.or_eq_true_iff.mpr (Or.inl h)
    | exact rfl

theorem measureRef_fr (s : State) (hz : Nat) :
    Fr [.pads, .pw, .hl, .qs, .mb, .ld, .tm, .tx, .sg, .sk, .tw, .fs, .se, .mg, .objs, .win0, .cnt, .freeIx, .outs] s (measureRef s hz) := by
  unfold measureRef
  try dsimp only
  repeat'
    first
    | with_reducible exact Fr.refl _ _
    | with_reducible apply Fr.step ?_ (condOff_fr ..) ?_
    | with_reducible apply Fr.step ?_ (modPw_fr _ _ ?_) ?_
    | with_reducible apply Fr.step ?_ (condOn_fr ..) ?_
    | split
    | exact rfl
    | with_reducible exact id

theorem execRefclkTimeMeasurement_fr (hz : Nat) (s : State) :
    OFr [.pads, .pw, .hl, .qs, .mb, .ld, .tm, .tx, .sg, .sk, .tw, .fs, .se, .mg, .objs, .win0, .cnt, .freeIx, .outs] s (execRefclkTimeMeasurement hz s) := by
  unfold execRefclkTimeMeasurement
  refine atExit_fr rfl ?_
  try dsimp only
  repeat'
    first
    | with_reducible exact Fr.refl _ _
    | with_reducible apply Fr.ite
    | with_reducible apply Fr.step ?_ (measureRef_fr ..) ?_
    | exact rfl

theorem execPllsLocked_fr (s : State) :
    OFr [.pads, .pw, .hl, .qs, .mb, .ld, .tm, .tx, .sg, .sk, .tw, .fs, .se, .mg, .objs, .win0, .cnt, .freeIx, .outs] s (execPllsLocked s) := by
  unfold execPllsLocked
  refine atExit_fr rfl ?_
  try dsimp only
  repeat'
    first
    | with_reducible exact Fr.refl _ _
    | with_reducible apply Fr.ite
    | with_reducible apply Fr.step ?_ (condOff_fr ..) ?_
    | with_reducible apply Fr.step ?_ (modPw_fr _ _ ?_) ?_
    | with_reducible apply Fr.step ?_ (bootStart_fr ..) ?_
    | exact rfl
    | with_reducible exact id

theorem execGuardXtalStable_fr (s : State) :
    OFr [.pads, .pw] s (execGuardXtalStable s) := by
  unfold execGuardXtalStable
  refine atExit_fr rfl ?_
  try dsimp only
  repeat'
    first
    | with_reducible exact Fr.refl _ _
    | with_reducible apply Fr.ite
    | with_reducible apply Fr.step ?_ (modPw_fr _ _ ?_) ?_
    | exact rfl
    | with_reducible exact id

theorem execSystemPllLossOfLock_fr (s : State) :
    OFr [.pads, .pw, .hl, .qs, .mb, .ld, .tm, .tx, .sg, .sk, .tw, .fs, .se, .mg, .objs, .win0, .cnt, .freeIx, .outs] s (execSystemPllLossOfLock s) := by
  unfold execSystemPllLossOfLock
  refine run_fr rfl ?_
  try dsimp only
  repeat'
    first
    | with_reducible exact Fr.refl _ _
    | with_reducible apply Fr.ite
    | with_reducible apply Fr.step ?_ (condOn_fr ..) ?_
    | with_reducible apply Fr.step ?_ (modPw_fr _ _ ?_) ?_
    | exact rfl
    | with_reducible exact id

theorem execRefclkTimeLost_fr (s : State) :
    OFr [.pads, .pw, .hl, .qs, .mb, .ld, .tm, .tx, .sg, .sk, .tw, .fs, .se, .mg, .objs, .win0, .cnt, .freeIx, .outs] s (execRefclkTimeLost s) := by
  unfold execRefclkTimeLost
  refine atExit_fr rfl ?_
  try dsimp only
  repeat'
    first
    | with_reducible exact Fr.refl _ _
    | with_reducible apply Fr.ite
    | with_reducible apply Fr.step ?_ (condOn_fr ..) ?_
    | with_reducible apply Fr.step ?_ (modPw_fr _ _ ?_) ?_
    | with_reducible apply Fr.step ?_ (modTm_fr ..) ?_
    | with_reducible apply Fr.step ?_ (setTimeState_fr ..) ?_
    | exact rfl
    | with_reducible exact id

theorem execRefclkTimeReturn_fr (hz : Nat) (s : State) :
    OFr [.pads, .pw, .hl, .qs, .mb, .ld, .tm, .tx, .sg, .sk, .tw, .fs, .se, .mg, .objs, .win0, .cnt, .freeIx, .outs] s (execRefclkTimeReturn hz s) := by
  unfold execRefclkTimeReturn
  refine atExit_fr rfl ?_
  try dsimp only
  repeat'
    first
    | with_reducible exact Fr.refl _ _
    | with_reducible apply Fr.ite
    | with_reducible apply Fr.step ?_ (measureRef_fr ..) ?_
    | exact rfl

theorem modSensor_fr (s : State) (i : Nat) (f : Sensor → Sensor) :
    Fr [.mg] s (modSensor s i f) := by
  unfold modSensor
  try dsimp only
  repeat'
    first
    | with_reducible exact Fr.refl _ _
    | with_reducible apply Fr.step ?_ (modMg_fr ..) ?_
    | exact rfl

theorem sensorTake_fr (s : State) (i : Nat) (v : Int) :
    Fr [.mg] s (sensorTake s i v) := by
  unfold sensorTake
  try dsimp only
  repeat'
    first
    | with_reducible exact Fr.refl _ _
    | with_reducible apply Fr.ite
    | with_reducible apply Fr.step ?_ (modSensor_fr ..) ?_
    | exact rfl

theorem sampleTemps_fr (s : State) (temps : List (Option Int)) :
    Fr [.mg] s (sampleTemps s temps) := by
  unfold sampleTemps
  try dsimp only
  repeat'
    first
    | with_reducible exact Fr.refl _ _
    | with_reducible apply Fr.step ?_ (sensorTake_fr ..) ?_
    | with_reducible apply Fr.step ?_ (modSensor_fr ..) ?_
    | with_reducible apply Fr.foldl ?_ (fun _ _ => ?_)
    | split
    | exact rfl

theorem tempTriggers_fr (s : State) :
    Fr [.cal] s (tempTriggers s) := by
  unfold tempTriggers
  try dsimp only
  repeat'
    first
    | with_reducible exact Fr.refl _ _
    | with_reducible apply Fr.ite
    | with_reducible apply Fr.step ?_ (modCalPt_fr ..) ?_
    | with_reducible apply Fr.foldl ?_ (fun _ _ => ?_)
    | exact rfl

theorem execSensorSample_fr (temps : List (Option Int)) (volts : List Int) (s : State) :
    OFr [.pads, .hl, .qs, .mb, .ld, .tm, .cal, .tx, .sg, .sk, .tw, .fs, .se, .mg, .objs, .win0, .cnt, .freeIx, .outs] s (execSensorSample temps volts s) := by
  unfold execSensorSample
  refine run_fr rfl ?_
  try dsimp only
  repeat'
    first
    | with_reducible exact Fr.refl _ _
    | with_reducible apply Fr.ite
    | with_reducible apply Fr.step ?_ (sampleTemps_fr ..) ?_
    | with_reducible apply Fr.step ?_ (sensorTake_fr ..) ?_
    | with_reducible apply Fr.step ?_ (condOn_fr ..) ?_
    | with_reducible apply Fr.step ?_ (condOff_fr ..) ?_
    | with_reducible apply Fr.step ?_ (tempTriggers_fr ..) ?_
    | with_reducible apply Fr.step ?_ (keepPast_fr ..) ?_
    | with_reducible apply Fr.foldl ?_ (fun _ _ => ?_)
    | exact rfl

theorem logLife_fr (s : State) :
    Fr [.mg, .cnt] s (logLife s) := by
  unfold logLife
  try dsimp only
  repeat'
    first
    | with_reducible exact Fr.refl _ _
    | with_reducible apply Fr.step ?_ (logAdd_fr ..) ?_
    | exact rfl

theorem limitCheck_fr (s : State) :
    Fr [.mg, .cnt] s (limitCheck s) := by
  unfold limitCheck
  try dsimp only
  repeat'
    first
    | with_reducible exact Fr.refl _ _
    | with_reducible apply Fr.ite
    | with_reducible apply Fr.step ?_ (logLife_fr ..) ?_
    | with_reducible apply Fr.step ?_ (modMg_fr ..) ?_
    | exact rfl

theorem execWearSample_fr (shifts : List Int) (s : State) :
    OFr [.pads, .mg, .cnt] s (execWearSample shifts s) := by
  unfold execWearSample
  refine run_fr rfl ?_
  try dsimp only
  repeat'
    first
    | with_reducible exact Fr.refl _ _
    | with_reducible apply Fr.step ?_ (limitCheck_fr ..) ?_
    | with_reducible apply Fr.step ?_ (sensorTake_fr ..) ?_
    | with_reducible apply Fr.foldl ?_ (fun _ _ => ?_)
    | exact rfl

theorem execLifeAccumulate_fr (s : State) :
    OFr [.pads, .mg, .cnt, .freeIx] s (execLifeAccumulate s) := by
  unfold execLifeAccumulate
  refine run_fr rfl ?_
  try dsimp only
  repeat'
    first
    | with_reducible exact Fr.refl _ _
    | with_reducible apply Fr.ite
    | with_reducible apply Fr.step ?_ (lifeAdd_fr ..) ?_
    | with_reducible apply Fr.step ?_ (logLife_fr ..) ?_
    | with_reducible apply Fr.step ?_ (limitCheck_fr ..) ?_
    | with_reducible apply Fr.step ?_ (draw_fr ..) ?_
    | split
    | exact rfl

theorem flashFailed_fr (s : State) :
    Fr [.pads, .hl, .qs, .mb, .ld, .tm, .tx, .sg, .sk, .tw, .fs, .se, .mg, .objs, .win0, .cnt, .freeIx, .outs] s (flashFailed s) := by
  unfold flashFailed
  try dsimp only
  repeat'
    first
    | with_reducible exact Fr.refl _ _
    | with_reducible apply Fr.step ?_ (fault_fr ..) ?_
    | with_reducible apply Fr.step ?_ (flashError_fr ..) ?_
    | exact rfl

theorem execWearRecordWrite_fr (ok : Bool) (s : State) :
    OFr [.pads, .hl, .qs, .mb, .ld, .tm, .tx, .sg, .sk, .tw, .fs, .se, .mg, .objs, .win0, .flash, .cnt, .freeIx, .outs] s (execWearRecordWrite ok s) := by
  unfold execWearRecordWrite
  refine run_fr rfl ?_
  try dsimp only
  repeat'
    first
    | with_reducible exact Fr.refl _ _
    | with_reducible apply Fr.ite
    | with_reducible apply Fr.step ?_ (flashFailed_fr ..) ?_
    | with_reducible apply Fr.step ?_ (flashSpoil_fr ..) ?_
    | with_reducible apply Fr.step ?_ (modMg_fr ..) ?_
    | with_reducible apply Fr.step ?_ (writeRecord_fr ..) ?_
    | exact rfl

theorem flushRecord_fr (s : State) (x : Nat × Bytes) :
    Fr [.mg, .flash] s (flushRecord s x) := by
  unfold flushRecord
  try dsimp only
  repeat'
    first
    | with_reducible exact Fr.refl _ _
    | with_reducible apply Fr.ite
    | with_reducible apply Fr.step ?_ (flashWrite_fr ..) ?_
    | with_reducible apply Fr.step ?_ (flashErase_fr ..) ?_
    | with_reducible apply Fr.step ?_ (modMg_fr ..) ?_
    | exact rfl

theorem spoilRecord_fr (s : State) (x : Nat × Bytes) : Fr [.flash, .freeIx] s (spoilRecord s x) := by
  unfold spoilRecord
  repeat'
    first
    | with_reducible exact Fr.refl _ _
    | with_reducible apply Fr.ite
    | with_reducible apply Fr.step ?_ (flashSpoil_fr ..) ?_
    | exact rfl

theorem execLogFlush_fr (ok : Bool) (s : State) :
    OFr [.pads, .hl, .qs, .mb, .ld, .tm, .tx, .sg, .sk, .tw, .fs, .se, .mg, .objs, .win0, .flash, .cnt, .freeIx, .outs] s (execLogFlush ok s) := by
  unfold execLogFlush
  refine run_fr rfl ?_
  try dsimp only
  repeat'
    first
    | with_reducible exact Fr.refl _ _
    | with_reducible apply Fr.ite
    | with_reducible apply Fr.step ?_ (flashFailed_fr ..) ?_
    | with_reducible apply Fr.step ?_ (spoilRecord_fr ..) ?_
    | with_reducible apply Fr.step ?_ (flushRecord_fr ..) ?_
    | with_reducible apply Fr.step ?_ (modMg_fr ..) ?_
    | with_reducible apply Fr.step ?_ (logLoss_fr ..) ?_
    | with_reducible apply Fr.foldl ?_ (fun _ _ => ?_)
    | exact rfl

theorem execSensorRead_fr (via : Via) (s : State) :
    OFr [.pads, .hl, .mb, .sk, .se, .win0, .cnt, .outs] s (execSensorRead via s) := by
  unfold execSensorRead
  refine runCmd_fr rfl (fun s r => ?_)
  try dsimp only
  repeat'
    first
    | with_reducible exact Fr.refl _ _
    | with_reducible apply Fr.ite
    | with_reducible apply AFr.ite
    | with_reducible apply AFr.ok
    | with_reducible apply sized_fr
    | with_reducible apply reserved_fr
    | with_reducible apply badRange_fr

theorem logReadCmd_fr (s : State) (r : Request) :
    AFr [] s (logReadCmd s r) := by
  unfold logReadCmd
  try dsimp only
  repeat'
    first
    | with_reducible exact Fr.refl _ _
    | with_reducible apply Fr.ite
    | with_reducible apply AFr.ite
    | with_reducible apply AFr.ok
    | with_reducible apply AFr.done
    | with_reducible apply sized_fr
    | with_reducible apply reserved_fr

theorem execLogRead_fr (via : Via) (s : State) :
    OFr [.pads, .hl, .mb, .sk, .se, .win0, .cnt, .outs] s (execLogRead via s) := by
  unfold execLogRead
  refine runCmd_fr rfl (fun s r => ?_)
  try dsimp only
  repeat'
    first
    | with_reducible exact Fr.refl _ _
    | with_reducible apply AFr.step ?_ (logReadCmd_fr ..) ?_
    | exact rfl

theorem countersCmd_fr (clear : Bool) (s : State) (r : Request) :
    AFr [.cnt] s (countersCmd clear s r) := by
  unfold countersCmd
  try dsimp only
  repeat'
    first
    | with_reducible exact Fr.refl _ _
    | with_reducible apply Fr.ite
    | with_reducible apply AFr.ite
    | with_reducible apply AFr.no
    | with_reducible apply AFr.ok
    | with_reducible apply sized_fr
    | with_reducible apply Fr.step ?_ (setCnt_fr ..) ?_
    | split
    | exact rfl

theorem execCountersRead_fr (via : Via) (s : State) :
    OFr [.pads, .hl, .mb, .sk, .se, .win0, .cnt, .outs] s (execCountersRead via s) := by
  unfold execCountersRead
  refine runCmd_fr rfl (fun s r => ?_)
  try dsimp only
  repeat'
    first
    | with_reducible exact Fr.refl _ _
    | with_reducible apply AFr.step ?_ (countersCmd_fr ..) ?_
    | exact rfl

theorem execCountersPeek_fr (via : Via) (s : State) :
    OFr [.pads, .hl, .mb, .sk, .se, .win0, .cnt, .outs] s (execCountersPeek via s) := by
  unfold execCountersPeek
  refine runCmd_fr rfl (fun s r => ?_)
  try dsimp only
  repeat'
    first
    | with_reducible exact Fr.refl _ _
    | with_reducible apply AFr.step ?_ (countersCmd_fr ..) ?_
    | exact rfl

theorem logFw_fr (s : State) (op : Nat) (slot : Nat) (status : Nat) (ver : Nat) :
    Fr [.mg, .cnt] s (logFw s op slot status ver) := by
  unfold logFw
  try dsimp only
  repeat'
    first
    | with_reducible exact Fr.refl _ _
    | with_reducible apply Fr.step ?_ (logAdd_fr ..) ?_
    | exact rfl

theorem slotRecFailed_fr (s : State) :
    Fr [.pads, .hl, .qs, .mb, .ld, .tm, .tx, .sg, .sk, .tw, .fs, .se, .mg, .objs, .win0, .flash, .cnt, .freeIx, .outs] s (slotRecFailed s) := by
  unfold slotRecFailed
  try dsimp only
  repeat'
    first
    | with_reducible exact Fr.refl _ _
    | with_reducible apply Fr.step ?_ (flashFailed_fr ..) ?_
    | with_reducible apply Fr.step ?_ (flashSpoil_fr ..) ?_
    | split
    | exact rfl

theorem fwBegin_fr (ok : Bool) (s : State) (r : Request) :
    AFr [.pads, .hl, .qs, .mb, .ld, .tm, .tx, .sg, .sk, .tw, .fs, .se, .mg, .objs, .win0, .flash, .cnt, .freeIx, .outs] s (fwBegin ok s r) := by
  unfold fwBegin
  try dsimp only
  repeat'
    first
    | with_reducible exact Fr.refl _ _
    | with_reducible apply Fr.ite
    | with_reducible apply AFr.ite
    | with_reducible apply AFr.no
    | with_reducible apply AFr.ok
    | with_reducible apply sized_fr
    | with_reducible apply reserved_fr
    | with_reducible apply badRange_fr
    | with_reducible apply Fr.step ?_ (modSe_fr _ _ ?_ ?_) ?_
    | with_reducible apply Fr.step ?_ (modMg_fr ..) ?_
    | with_reducible apply Fr.step ?_ (setVerified_fr ..) ?_
    | with_reducible apply Fr.step ?_ (logFw_fr ..) ?_
    | with_reducible apply Fr.step ?_ (slotRecFailed_fr ..) ?_
    | exact rfl
    | with_reducible exact id
    | with_reducible exact fun _ h => h

theorem execFwBegin_fr (o : FlashOrder) (s : State) :
    OFr [.pads, .hl, .qs, .mb, .ld, .tm, .tx, .sg, .sk, .tw, .fs, .se, .mg, .objs, .win0, .flash, .cnt, .freeIx, .outs] s (execFwBegin o s) := by
  unfold execFwBegin
  refine runCmd_fr rfl (fun s r => ?_)
  try dsimp only
  repeat'
    first
    | with_reducible exact Fr.refl _ _
    | with_reducible apply AFr.step ?_ (fwBegin_fr ..) ?_
    | exact rfl

theorem eraseOn_fr (s : State) (u : Update) :
    Fr [.flash, .freeIx] s (eraseOn s u).2 := by
  unfold eraseOn
  try dsimp only
  repeat'
    first
    | with_reducible exact Fr.refl _ _
    | with_reducible apply Fr.ite
    | with_reducible apply Fr.step ?_ (draw_fr ..) ?_
    | with_reducible apply Fr.step ?_ (flashErase_fr ..) ?_
    | split
    | exact rfl

theorem execSlotEraseComplete_fr (ok : Bool) (s : State) :
    OFr [.pads, .hl, .qs, .mb, .ld, .tm, .tx, .sg, .sk, .tw, .fs, .se, .mg, .objs, .win0, .flash, .cnt, .freeIx, .outs] s (execSlotEraseComplete ok s) := by
  unfold execSlotEraseComplete
  refine run_fr rfl ?_
  try dsimp only
  repeat'
    first
    | with_reducible exact Fr.refl _ _
    | with_reducible apply Fr.ite
    | with_reducible apply Fr.step ?_ (flashErase_fr ..) ?_
    | with_reducible apply Fr.step ?_ (modMg_fr ..) ?_
    | with_reducible apply Fr.step ?_ (flashFailed_fr ..) ?_
    | with_reducible apply Fr.step ?_ (flashSpoil_fr ..) ?_
    | split
    | exact rfl

theorem chunkWrite_fr (s : State) (ok : Bool) (u : Update) (off : Nat) (data : Bytes) :
    Fr [.pads, .hl, .qs, .mb, .ld, .tm, .tx, .sg, .sk, .tw, .fs, .se, .mg, .objs, .win0, .flash, .cnt, .freeIx, .outs] s (chunkWrite s ok u off data) := by
  unfold chunkWrite
  try dsimp only
  repeat'
    first
    | with_reducible exact Fr.refl _ _
    | with_reducible apply Fr.ite
    | with_reducible apply Fr.step ?_ (modMg_fr ..) ?_
    | with_reducible apply Fr.step ?_ (modSe_fr _ _ ?_ ?_) ?_
    | with_reducible apply Fr.step ?_ (flashWrite_fr ..) ?_
    | with_reducible apply Fr.step ?_ (flashFailed_fr ..) ?_
    | with_reducible apply Fr.step ?_ (flashSpoil_fr ..) ?_
    | split
    | exact rfl
    | with_reducible exact id
    | with_reducible exact fun _ h => h

theorem fwChunk_fr (ok : Bool) (s : State) (r : Request) :
    AFr [.pads, .hl, .qs, .mb, .ld, .tm, .tx, .sg, .sk, .tw, .fs, .se, .mg, .objs, .win0, .flash, .cnt, .freeIx, .outs] s (fwChunk ok s r) := by
  unfold fwChunk
  try dsimp only
  repeat'
    first
    | with_reducible exact Fr.refl _ _
    | with_reducible apply AFr.done
    | with_reducible apply Fr.ite
    | with_reducible apply AFr.ite
    | with_reducible apply AFr.no
    | with_reducible apply AFr.ok
    | with_reducible apply badRange_fr
    | with_reducible apply Fr.step ?_ (modMg_fr ..) ?_
    | with_reducible apply Fr.step ?_ (eraseOn_fr ..) ?_
    | with_reducible apply Fr.step ?_ (chunkWrite_fr ..) ?_
    | split
    | exact rfl
    | with_reducible exact id
    | with_reducible exact fun _ h => h

theorem execFwChunk_fr (o : FlashOrder) (s : State) :
    OFr [.pads, .hl, .qs, .mb, .ld, .tm, .tx, .sg, .sk, .tw, .fs, .se, .mg, .objs, .win0, .flash, .cnt, .freeIx, .outs] s (execFwChunk o s) := by
  unfold execFwChunk
  refine runCmd_fr rfl (fun s r => ?_)
  try dsimp only
  repeat'
    first
    | with_reducible exact Fr.refl _ _
    | with_reducible apply AFr.step ?_ (fwChunk_fr ..) ?_
    | exact rfl

theorem finishHost_fr (s : State) (r : Request) :
    AFr [.pads, .hl, .qs, .mb, .ld, .tm, .tx, .sg, .sk, .tw, .fs, .se, .mg, .objs, .win0, .cnt, .freeIx, .outs] s (finishHost s r) := by
  unfold finishHost
  try dsimp only
  repeat'
    first
    | with_reducible exact Fr.refl _ _
    | with_reducible apply Fr.ite
    | with_reducible apply AFr.ite
    | with_reducible apply AFr.done
    | with_reducible apply AFr.later
    | with_reducible apply Fr.step ?_ (modMg_fr ..) ?_
    | with_reducible apply Fr.step ?_ (acceptImage_fr ..) ?_
    | with_reducible apply Fr.step ?_ (respondWith_fr ..) ?_
    | with_reducible apply Fr.step ?_ (rejectImage_fr ..) ?_
    | exact rfl

theorem finishSlot_fr (s : State) (ok : Bool) (u : Update) :
    AFr [.pads, .hl, .qs, .mb, .ld, .tm, .tx, .sg, .sk, .tw, .fs, .se, .mg, .objs, .win0, .flash, .cnt, .freeIx, .outs] s (finishSlot s ok u) := by
  unfold finishSlot
  try dsimp only
  repeat'
    first
    | with_reducible exact Fr.refl _ _
    | with_reducible apply Fr.ite
    | with_reducible apply AFr.ite
    | with_reducible apply AFr.ok
    | with_reducible apply AFr.done
    | with_reducible apply Fr.step ?_ (modMg_fr ..) ?_
    | with_reducible apply Fr.step ?_ (setVerified_fr ..) ?_
    | with_reducible apply Fr.step ?_ (logFw_fr ..) ?_
    | with_reducible apply Fr.step ?_ (count_fr ..) ?_
    | with_reducible apply Fr.step ?_ (raiseAlarm_fr ..) ?_
    | with_reducible apply Fr.step ?_ (flashErase_fr ..) ?_
    | with_reducible apply Fr.step ?_ (slotRecFailed_fr ..) ?_
    | exact rfl

theorem fwFinish_fr (ok : Bool) (s : State) (r : Request) :
    AFr [.pads, .hl, .qs, .mb, .ld, .tm, .tx, .sg, .sk, .tw, .fs, .se, .mg, .objs, .win0, .flash, .cnt, .freeIx, .outs] s (fwFinish ok s r) := by
  unfold fwFinish
  try dsimp only
  repeat'
    first
    | with_reducible exact Fr.refl _ _
    | with_reducible apply Fr.ite
    | with_reducible apply AFr.ite
    | with_reducible apply AFr.no
    | with_reducible apply sized_fr
    | with_reducible apply AFr.step ?_ (finishHost_fr ..) ?_
    | with_reducible apply AFr.step ?_ (finishSlot_fr ..) ?_
    | split
    | exact rfl

theorem execFwFinish_fr (o : FlashOrder) (s : State) :
    OFr [.pads, .hl, .qs, .mb, .ld, .tm, .tx, .sg, .sk, .tw, .fs, .se, .mg, .objs, .win0, .flash, .cnt, .freeIx, .outs] s (execFwFinish o s) := by
  unfold execFwFinish
  refine runCmd_fr rfl (fun s r => ?_)
  try dsimp only
  repeat'
    first
    | with_reducible exact Fr.refl _ _
    | with_reducible apply AFr.step ?_ (fwFinish_fr ..) ?_
    | exact rfl

theorem restartFrom_fr (s : State) (slot : Nat) :
    Fr [.hl, .mb, .ld, .tx, .fs, .se, .mg, .cnt, .outs] s (restartFrom s slot) := by
  unfold restartFrom
  try dsimp only
  repeat'
    first
    | with_reducible exact Fr.refl _ _
    | with_reducible apply Fr.step ?_ (modSe_fr _ _ ?_ ?_) ?_
    | with_reducible apply Fr.step ?_ (gafferReset_fr ..) ?_
    | exact rfl
    | with_reducible exact id
    | with_reducible exact fun _ h => h

theorem fwActivate_fr (ok : Bool) (s : State) (r : Request) :
    AFr [.pads, .hl, .qs, .mb, .ld, .tm, .tx, .sg, .sk, .tw, .fs, .se, .mg, .objs, .win0, .flash, .cnt, .freeIx, .outs] s (fwActivate ok s r) := by
  unfold fwActivate
  try dsimp only
  repeat'
    first
    | with_reducible exact Fr.refl _ _
    | with_reducible apply Fr.ite
    | with_reducible apply AFr.ite
    | with_reducible apply AFr.no
    | with_reducible apply AFr.ok
    | with_reducible apply AFr.later
    | with_reducible apply sized_fr
    | with_reducible apply reserved_fr
    | with_reducible apply badRange_fr
    | with_reducible apply Fr.step ?_ (slotRecWrite_fr ..) ?_
    | with_reducible apply Fr.step ?_ (logFw_fr ..) ?_
    | with_reducible apply Fr.step ?_ (restartFrom_fr ..) ?_
    | with_reducible apply Fr.step ?_ (respondWith_fr ..) ?_
    | with_reducible apply Fr.step ?_ (slotRecFailed_fr ..) ?_
    | exact rfl

theorem execFwActivate_fr (o : FlashOrder) (s : State) :
    OFr [.pads, .hl, .qs, .mb, .ld, .tm, .tx, .sg, .sk, .tw, .fs, .se, .mg, .objs, .win0, .flash, .cnt, .freeIx, .outs] s (execFwActivate o s) := by
  unfold execFwActivate
  refine runCmd_fr rfl (fun s r => ?_)
  try dsimp only
  repeat'
    first
    | with_reducible exact Fr.refl _ _
    | with_reducible apply AFr.step ?_ (fwActivate_fr ..) ?_
    | exact rfl

theorem vote3_fr (s : State) (a : Nat) (b : Nat) (c : Nat) :
    Fr [.pads, .hl, .qs, .mb, .ld, .tm, .tx, .sg, .sk, .tw, .fs, .se, .mg, .objs, .win0, .cnt, .freeIx, .outs] s (vote3 s a b c) := by
  unfold vote3
  try dsimp only
  repeat'
    first
    | with_reducible exact Fr.refl _ _
    | with_reducible apply Fr.ite
    | with_reducible apply Fr.step ?_ (voteFail_fr ..) ?_
    | with_reducible apply Fr.step ?_ (outvote_fr ..) ?_
    | split
    | exact rfl

theorem voteTick_fr (s : State) :
    Fr [.pads, .hl, .qs, .mb, .ld, .tm, .tx, .sg, .sk, .tw, .fs, .se, .mg, .objs, .win0, .cnt, .freeIx, .outs] s (voteTick s) := by
  unfold voteTick
  try dsimp only
  repeat'
    first
    | with_reducible exact Fr.refl _ _
    | with_reducible apply Fr.ite
    | with_reducible apply Fr.step ?_ (vote3_fr ..) ?_
    | with_reducible apply Fr.step ?_ (voteFail_fr ..) ?_
    | split
    | exact rfl

theorem tickChans_fr (s : State) :
    Fr [.tm] s (tickChans s) := by
  unfold tickChans
  try dsimp only
  repeat'
    first
    | with_reducible exact Fr.refl _ _
    | with_reducible apply Fr.ite
    | with_reducible apply Fr.step ?_ (modChan_fr ..) ?_
    | with_reducible apply Fr.foldl ?_ (fun _ _ => ?_)
    | exact rfl

theorem copiesChecked_fr (s : State) :
    Fr [.pads, .hl, .qs, .mb, .ld, .tm, .tx, .sg, .sk, .tw, .fs, .se, .mg, .objs, .win0, .cnt, .freeIx, .outs] s (copiesChecked s) := by
  unfold copiesChecked
  try dsimp only
  repeat'
    first
    | with_reducible exact Fr.refl _ _
    | with_reducible apply Fr.ite
    | with_reducible apply Fr.step ?_ (aoFault_fr ..) ?_
    | split
    | exact rfl

theorem tickAo_fr (s : State) :
    Fr [.pads, .hl, .qs, .mb, .ld, .tm, .tx, .sg, .sk, .tw, .fs, .se, .mg, .objs, .win0, .cnt, .freeIx, .outs] s (tickAo s) := by
  unfold tickAo
  try dsimp only
  repeat'
    first
    | with_reducible exact Fr.refl _ _
    | with_reducible apply Fr.ite
    | with_reducible apply Fr.step ?_ (modFs_fr _ _ ?_) ?_
    | with_reducible apply Fr.step ?_ (copiesChecked_fr ..) ?_
    | exact rfl
    | with_reducible exact id

theorem tick_fr (s : State) :
    Fr [.pads, .hl, .qs, .mb, .ld, .tm, .tx, .sg, .sk, .tw, .fs, .se, .mg, .objs, .win0, .cnt, .clock, .freeIx, .outs] s (tick s) := by
  unfold tick
  try dsimp only
  repeat'
    first
    | with_reducible exact Fr.refl _ _
    | with_reducible apply Fr.ite
    | with_reducible apply Fr.step ?_ (driveSegs_fr ..) ?_
    | with_reducible apply Fr.step ?_ (tickAo_fr ..) ?_
    | with_reducible apply Fr.step ?_ (voteTick_fr ..) ?_
    | with_reducible apply Fr.step ?_ (tickChans_fr ..) ?_
    | with_reducible apply Fr.step ?_ (logSummaries_fr ..) ?_
    | with_reducible apply Fr.step ?_ (interlock_fr ..) ?_
    | with_reducible apply Fr.step ?_ (setClock_fr ..) ?_
    | split
    | exact rfl

end Sys2Proof.Machine
end

