-- ==== Sys2Proof/Laws/Shared.lean ====
section
/-! SUPPORT. What the operations that most commands share leave as it was, field by field, for simp. -/

namespace Sys2Proof.Machine

section emit
variable (s : State) (o : Out)
@[simp] theorem emit_pads : (emit s o).pads = s.pads := (emit_fr ..).only .pads rfl
@[simp] theorem emit_pw : (emit s o).pw = s.pw := (emit_fr ..).only .pw rfl
@[simp] theorem emit_hl : (emit s o).hl = s.hl := (emit_fr ..).only .hl rfl
@[simp] theorem emit_qs : (emit s o).qs = s.qs := (emit_fr ..).only .qs rfl
@[simp] theorem emit_mb : (emit s o).mb = s.mb := (emit_fr ..).only .mb rfl
@[simp] theorem emit_ld : (emit s o).ld = s.ld := (emit_fr ..).only .ld rfl
@[simp] theorem emit_tm : (emit s o).tm = s.tm := (emit_fr ..).only .tm rfl
@[simp] theorem emit_cal : (emit s o).cal = s.cal := (emit_fr ..).only .cal rfl
@[simp] theorem emit_tx : (emit s o).tx = s.tx := (emit_fr ..).only .tx rfl
@[simp] theorem emit_rx : (emit s o).rx = s.rx := (emit_fr ..).only .rx rfl
@[simp] theorem emit_str : (emit s o).str = s.str := (emit_fr ..).only .str rfl
@[simp] theorem emit_sg : (emit s o).sg = s.sg := (emit_fr ..).only .sg rfl
@[simp] theorem emit_sk : (emit s o).sk = s.sk := (emit_fr ..).only .sk rfl
@[simp] theorem emit_tw : (emit s o).tw = s.tw := (emit_fr ..).only .tw rfl
@[simp] theorem emit_fs : (emit s o).fs = s.fs := (emit_fr ..).only .fs rfl
@[simp] theorem emit_se : (emit s o).se = s.se := (emit_fr ..).only .se rfl
@[simp] theorem emit_fuses : (emit s o).fuses = s.fuses := (emit_fr ..).only .fuses rfl
@[simp] theorem emit_mg : (emit s o).mg = s.mg := (emit_fr ..).only .mg rfl
@[simp] theorem emit_fences : (emit s o).fences = s.fences := (emit_fr ..).only .fences rfl
@[simp] theorem emit_objs : (emit s o).objs = s.objs := (emit_fr ..).only .objs rfl
@[simp] theorem emit_win0 : (emit s o).win0 = s.win0 := (emit_fr ..).only .win0 rfl
@[simp] theorem emit_win1 : (emit s o).win1 = s.win1 := (emit_fr ..).only .win1 rfl
@[simp] theorem emit_flash : (emit s o).flash = s.flash := (emit_fr ..).only .flash rfl
@[simp] theorem emit_cnt : (emit s o).cnt = s.cnt := (emit_fr ..).only .cnt rfl
@[simp] theorem emit_clock : (emit s o).clock = s.clock := (emit_fr ..).only .clock rfl
@[simp] theorem emit_freeIx : (emit s o).freeIx = s.freeIx := (emit_fr ..).only .freeIx rfl
@[simp] theorem emit_pending : (emit s o).pending = s.pending := (emit_fr ..).only .pending rfl
end emit

section count
variable (s : State) (block : Nat) (i : Nat)
@[simp] theorem count_pads : (count s block i).pads = s.pads := (count_fr ..).only .pads rfl
@[simp] theorem count_pw : (count s block i).pw = s.pw := (count_fr ..).only .pw rfl
@[simp] theorem count_hl : (count s block i).hl = s.hl := (count_fr ..).only .hl rfl
@[simp] theorem count_qs : (count s block i).qs = s.qs := (count_fr ..).only .qs rfl
@[simp] theorem count_mb : (count s block i).mb = s.mb := (count_fr ..).only .mb rfl
@[simp] theorem count_ld : (count s block i).ld = s.ld := (count_fr ..).only .ld rfl
@[simp] theorem count_tm : (count s block i).tm = s.tm := (count_fr ..).only .tm rfl
@[simp] theorem count_cal : (count s block i).cal = s.cal := (count_fr ..).only .cal rfl
@[simp] theorem count_tx : (count s block i).tx = s.tx := (count_fr ..).only .tx rfl
@[simp] theorem count_rx : (count s block i).rx = s.rx := (count_fr ..).only .rx rfl
@[simp] theorem count_str : (count s block i).str = s.str := (count_fr ..).only .str rfl
@[simp] theorem count_sg : (count s block i).sg = s.sg := (count_fr ..).only .sg rfl
@[simp] theorem count_sk : (count s block i).sk = s.sk := (count_fr ..).only .sk rfl
@[simp] theorem count_tw : (count s block i).tw = s.tw := (count_fr ..).only .tw rfl
@[simp] theorem count_fs : (count s block i).fs = s.fs := (count_fr ..).only .fs rfl
@[simp] theorem count_se : (count s block i).se = s.se := (count_fr ..).only .se rfl
@[simp] theorem count_fuses : (count s block i).fuses = s.fuses := (count_fr ..).only .fuses rfl
@[simp] theorem count_mg : (count s block i).mg = s.mg := (count_fr ..).only .mg rfl
@[simp] theorem count_fences : (count s block i).fences = s.fences := (count_fr ..).only .fences rfl
@[simp] theorem count_objs : (count s block i).objs = s.objs := (count_fr ..).only .objs rfl
@[simp] theorem count_win0 : (count s block i).win0 = s.win0 := (count_fr ..).only .win0 rfl
@[simp] theorem count_win1 : (count s block i).win1 = s.win1 := (count_fr ..).only .win1 rfl
@[simp] theorem count_flash : (count s block i).flash = s.flash := (count_fr ..).only .flash rfl
@[simp] theorem count_clock : (count s block i).clock = s.clock := (count_fr ..).only .clock rfl
@[simp] theorem count_freeIx : (count s block i).freeIx = s.freeIx := (count_fr ..).only .freeIx rfl
@[simp] theorem count_outs : (count s block i).outs = s.outs := (count_fr ..).only .outs rfl
@[simp] theorem count_pending : (count s block i).pending = s.pending := (count_fr ..).only .pending rfl
end count

section countN
variable (s : State) (block : Nat) (i : Nat) (n : Nat)
@[simp] theorem countN_pads : (countN s block i n).pads = s.pads := (countN_fr ..).only .pads rfl
@[simp] theorem countN_pw : (countN s block i n).pw = s.pw := (countN_fr ..).only .pw rfl
@[simp] theorem countN_hl : (countN s block i n).hl = s.hl := (countN_fr ..).only .hl rfl
@[simp] theorem countN_qs : (countN s block i n).qs = s.qs := (countN_fr ..).only .qs rfl
@[simp] theorem countN_mb : (countN s block i n).mb = s.mb := (countN_fr ..).only .mb rfl
@[simp] theorem countN_ld : (countN s block i n).ld = s.ld := (countN_fr ..).only .ld rfl
@[simp] theorem countN_tm : (countN s block i n).tm = s.tm := (countN_fr ..).only .tm rfl
@[simp] theorem countN_cal : (countN s block i n).cal = s.cal := (countN_fr ..).only .cal rfl
@[simp] theorem countN_tx : (countN s block i n).tx = s.tx := (countN_fr ..).only .tx rfl
@[simp] theorem countN_rx : (countN s block i n).rx = s.rx := (countN_fr ..).only .rx rfl
@[simp] theorem countN_str : (countN s block i n).str = s.str := (countN_fr ..).only .str rfl
@[simp] theorem countN_sg : (countN s block i n).sg = s.sg := (countN_fr ..).only .sg rfl
@[simp] theorem countN_sk : (countN s block i n).sk = s.sk := (countN_fr ..).only .sk rfl
@[simp] theorem countN_tw : (countN s block i n).tw = s.tw := (countN_fr ..).only .tw rfl
@[simp] theorem countN_fs : (countN s block i n).fs = s.fs := (countN_fr ..).only .fs rfl
@[simp] theorem countN_se : (countN s block i n).se = s.se := (countN_fr ..).only .se rfl
@[simp] theorem countN_fuses : (countN s block i n).fuses = s.fuses := (countN_fr ..).only .fuses rfl
@[simp] theorem countN_mg : (countN s block i n).mg = s.mg := (countN_fr ..).only .mg rfl
@[simp] theorem countN_fences : (countN s block i n).fences = s.fences := (countN_fr ..).only .fences rfl
@[simp] theorem countN_objs : (countN s block i n).objs = s.objs := (countN_fr ..).only .objs rfl
@[simp] theorem countN_win0 : (countN s block i n).win0 = s.win0 := (countN_fr ..).only .win0 rfl
@[simp] theorem countN_win1 : (countN s block i n).win1 = s.win1 := (countN_fr ..).only .win1 rfl
@[simp] theorem countN_flash : (countN s block i n).flash = s.flash := (countN_fr ..).only .flash rfl
@[simp] theorem countN_clock : (countN s block i n).clock = s.clock := (countN_fr ..).only .clock rfl
@[simp] theorem countN_freeIx : (countN s block i n).freeIx = s.freeIx := (countN_fr ..).only .freeIx rfl
@[simp] theorem countN_outs : (countN s block i n).outs = s.outs := (countN_fr ..).only .outs rfl
@[simp] theorem countN_pending : (countN s block i n).pending = s.pending := (countN_fr ..).only .pending rfl
end countN

section condOn
variable (s : State) (n : Nat)
@[simp] theorem condOn_pw : (condOn s n).pw = s.pw := (condOn_fr ..).only .pw rfl
@[simp] theorem condOn_cal : (condOn s n).cal = s.cal := (condOn_fr ..).only .cal rfl
@[simp] theorem condOn_rx : (condOn s n).rx = s.rx := (condOn_fr ..).only .rx rfl
@[simp] theorem condOn_str : (condOn s n).str = s.str := (condOn_fr ..).only .str rfl
@[simp] theorem condOn_fuses : (condOn s n).fuses = s.fuses := (condOn_fr ..).only .fuses rfl
@[simp] theorem condOn_fences : (condOn s n).fences = s.fences := (condOn_fr ..).only .fences rfl
@[simp] theorem condOn_win1 : (condOn s n).win1 = s.win1 := (condOn_fr ..).only .win1 rfl
@[simp] theorem condOn_flash : (condOn s n).flash = s.flash := (condOn_fr ..).only .flash rfl
@[simp] theorem condOn_clock : (condOn s n).clock = s.clock := (condOn_fr ..).only .clock rfl
@[simp] theorem condOn_pending : (condOn s n).pending = s.pending := (condOn_fr ..).only .pending rfl
end condOn

section condOff
variable (s : State) (n : Nat)
@[simp] theorem condOff_pads : (condOff s n).pads = s.pads := (condOff_fr ..).only .pads rfl
@[simp] theorem condOff_pw : (condOff s n).pw = s.pw := (condOff_fr ..).only .pw rfl
@[simp] theorem condOff_hl : (condOff s n).hl = s.hl := (condOff_fr ..).only .hl rfl
@[simp] theorem condOff_qs : (condOff s n).qs = s.qs := (condOff_fr ..).only .qs rfl
@[simp] theorem condOff_mb : (condOff s n).mb = s.mb := (condOff_fr ..).only .mb rfl
@[simp] theorem condOff_ld : (condOff s n).ld = s.ld := (condOff_fr ..).only .ld rfl
@[simp] theorem condOff_tm : (condOff s n).tm = s.tm := (condOff_fr ..).only .tm rfl
@[simp] theorem condOff_cal : (condOff s n).cal = s.cal := (condOff_fr ..).only .cal rfl
@[simp] theorem condOff_tx : (condOff s n).tx = s.tx := (condOff_fr ..).only .tx rfl
@[simp] theorem condOff_rx : (condOff s n).rx = s.rx := (condOff_fr ..).only .rx rfl
@[simp] theorem condOff_str : (condOff s n).str = s.str := (condOff_fr ..).only .str rfl
@[simp] theorem condOff_sg : (condOff s n).sg = s.sg := (condOff_fr ..).only .sg rfl
@[simp] theorem condOff_sk : (condOff s n).sk = s.sk := (condOff_fr ..).only .sk rfl
@[simp] theorem condOff_tw : (condOff s n).tw = s.tw := (condOff_fr ..).only .tw rfl
@[simp] theorem condOff_se : (condOff s n).se = s.se := (condOff_fr ..).only .se rfl
@[simp] theorem condOff_fuses : (condOff s n).fuses = s.fuses := (condOff_fr ..).only .fuses rfl
@[simp] theorem condOff_mg : (condOff s n).mg = s.mg := (condOff_fr ..).only .mg rfl
@[simp] theorem condOff_fences : (condOff s n).fences = s.fences := (condOff_fr ..).only .fences rfl
@[simp] theorem condOff_objs : (condOff s n).objs = s.objs := (condOff_fr ..).only .objs rfl
@[simp] theorem condOff_win0 : (condOff s n).win0 = s.win0 := (condOff_fr ..).only .win0 rfl
@[simp] theorem condOff_win1 : (condOff s n).win1 = s.win1 := (condOff_fr ..).only .win1 rfl
@[simp] theorem condOff_flash : (condOff s n).flash = s.flash := (condOff_fr ..).only .flash rfl
@[simp] theorem condOff_cnt : (condOff s n).cnt = s.cnt := (condOff_fr ..).only .cnt rfl
@[simp] theorem condOff_clock : (condOff s n).clock = s.clock := (condOff_fr ..).only .clock rfl
@[simp] theorem condOff_freeIx : (condOff s n).freeIx = s.freeIx := (condOff_fr ..).only .freeIx rfl
@[simp] theorem condOff_outs : (condOff s n).outs = s.outs := (condOff_fr ..).only .outs rfl
@[simp] theorem condOff_pending : (condOff s n).pending = s.pending := (condOff_fr ..).only .pending rfl
end condOff

section fault
variable (s : State) (n : Nat)
@[simp] theorem fault_pw : (fault s n).pw = s.pw := (fault_fr ..).only .pw rfl
@[simp] theorem fault_cal : (fault s n).cal = s.cal := (fault_fr ..).only .cal rfl
@[simp] theorem fault_rx : (fault s n).rx = s.rx := (fault_fr ..).only .rx rfl
@[simp] theorem fault_str : (fault s n).str = s.str := (fault_fr ..).only .str rfl
@[simp] theorem fault_fuses : (fault s n).fuses = s.fuses := (fault_fr ..).only .fuses rfl
@[simp] theorem fault_fences : (fault s n).fences = s.fences := (fault_fr ..).only .fences rfl
@[simp] theorem fault_win1 : (fault s n).win1 = s.win1 := (fault_fr ..).only .win1 rfl
@[simp] theorem fault_flash : (fault s n).flash = s.flash := (fault_fr ..).only .flash rfl
@[simp] theorem fault_clock : (fault s n).clock = s.clock := (fault_fr ..).only .clock rfl
@[simp] theorem fault_pending : (fault s n).pending = s.pending := (fault_fr ..).only .pending rfl
end fault

section assertWith
variable (s : State) (n : Nat) (inj : Bool) (ipTable : Bool) (entry : Nat)
@[simp] theorem assertWith_pw : (assertWith s n inj ipTable entry).pw = s.pw := (assertWith_fr ..).only .pw rfl
@[simp] theorem assertWith_cal : (assertWith s n inj ipTable entry).cal = s.cal := (assertWith_fr ..).only .cal rfl
@[simp] theorem assertWith_rx : (assertWith s n inj ipTable entry).rx = s.rx := (assertWith_fr ..).only .rx rfl
@[simp] theorem assertWith_str : (assertWith s n inj ipTable entry).str = s.str := (assertWith_fr ..).only .str rfl
@[simp] theorem assertWith_fuses : (assertWith s n inj ipTable entry).fuses = s.fuses := (assertWith_fr ..).only .fuses rfl
@[simp] theorem assertWith_fences : (assertWith s n inj ipTable entry).fences = s.fences := (assertWith_fr ..).only .fences rfl
@[simp] theorem assertWith_win1 : (assertWith s n inj ipTable entry).win1 = s.win1 := (assertWith_fr ..).only .win1 rfl
@[simp] theorem assertWith_flash : (assertWith s n inj ipTable entry).flash = s.flash := (assertWith_fr ..).only .flash rfl
@[simp] theorem assertWith_clock : (assertWith s n inj ipTable entry).clock = s.clock := (assertWith_fr ..).only .clock rfl
@[simp] theorem assertWith_pending : (assertWith s n inj ipTable entry).pending = s.pending := (assertWith_fr ..).only .pending rfl
end assertWith

section raiseEvent
variable (s : State) (v : Nat)
@[simp] theorem raiseEvent_pads : (raiseEvent s v).pads = s.pads := (raiseEvent_fr ..).only .pads rfl
@[simp] theorem raiseEvent_pw : (raiseEvent s v).pw = s.pw := (raiseEvent_fr ..).only .pw rfl
@[simp] theorem raiseEvent_qs : (raiseEvent s v).qs = s.qs := (raiseEvent_fr ..).only .qs rfl
@[simp] theorem raiseEvent_mb : (raiseEvent s v).mb = s.mb := (raiseEvent_fr ..).only .mb rfl
@[simp] theorem raiseEvent_ld : (raiseEvent s v).ld = s.ld := (raiseEvent_fr ..).only .ld rfl
@[simp] theorem raiseEvent_tm : (raiseEvent s v).tm = s.tm := (raiseEvent_fr ..).only .tm rfl
@[simp] theorem raiseEvent_cal : (raiseEvent s v).cal = s.cal := (raiseEvent_fr ..).only .cal rfl
@[simp] theorem raiseEvent_tx : (raiseEvent s v).tx = s.tx := (raiseEvent_fr ..).only .tx rfl
@[simp] theorem raiseEvent_rx : (raiseEvent s v).rx = s.rx := (raiseEvent_fr ..).only .rx rfl
@[simp] theorem raiseEvent_str : (raiseEvent s v).str = s.str := (raiseEvent_fr ..).only .str rfl
@[simp] theorem raiseEvent_sg : (raiseEvent s v).sg = s.sg := (raiseEvent_fr ..).only .sg rfl
@[simp] theorem raiseEvent_sk : (raiseEvent s v).sk = s.sk := (raiseEvent_fr ..).only .sk rfl
@[simp] theorem raiseEvent_tw : (raiseEvent s v).tw = s.tw := (raiseEvent_fr ..).only .tw rfl
@[simp] theorem raiseEvent_fs : (raiseEvent s v).fs = s.fs := (raiseEvent_fr ..).only .fs rfl
@[simp] theorem raiseEvent_se : (raiseEvent s v).se = s.se := (raiseEvent_fr ..).only .se rfl
@[simp] theorem raiseEvent_fuses : (raiseEvent s v).fuses = s.fuses := (raiseEvent_fr ..).only .fuses rfl
@[simp] theorem raiseEvent_mg : (raiseEvent s v).mg = s.mg := (raiseEvent_fr ..).only .mg rfl
@[simp] theorem raiseEvent_fences : (raiseEvent s v).fences = s.fences := (raiseEvent_fr ..).only .fences rfl
@[simp] theorem raiseEvent_objs : (raiseEvent s v).objs = s.objs := (raiseEvent_fr ..).only .objs rfl
@[simp] theorem raiseEvent_win0 : (raiseEvent s v).win0 = s.win0 := (raiseEvent_fr ..).only .win0 rfl
@[simp] theorem raiseEvent_win1 : (raiseEvent s v).win1 = s.win1 := (raiseEvent_fr ..).only .win1 rfl
@[simp] theorem raiseEvent_flash : (raiseEvent s v).flash = s.flash := (raiseEvent_fr ..).only .flash rfl
@[simp] theorem raiseEvent_clock : (raiseEvent s v).clock = s.clock := (raiseEvent_fr ..).only .clock rfl
@[simp] theorem raiseEvent_freeIx : (raiseEvent s v).freeIx = s.freeIx := (raiseEvent_fr ..).only .freeIx rfl
@[simp] theorem raiseEvent_pending : (raiseEvent s v).pending = s.pending := (raiseEvent_fr ..).only .pending rfl
end raiseEvent

section setFlag
variable (s : State) (bit : Nat)
@[simp] theorem setFlag_pads : (setFlag s bit).pads = s.pads := (setFlag_fr ..).only .pads rfl
@[simp] theorem setFlag_pw : (setFlag s bit).pw = s.pw := (setFlag_fr ..).only .pw rfl
@[simp] theorem setFlag_qs : (setFlag s bit).qs = s.qs := (setFlag_fr ..).only .qs rfl
@[simp] theorem setFlag_mb : (setFlag s bit).mb = s.mb := (setFlag_fr ..).only .mb rfl
@[simp] theorem setFlag_ld : (setFlag s bit).ld = s.ld := (setFlag_fr ..).only .ld rfl
@[simp] theorem setFlag_tm : (setFlag s bit).tm = s.tm := (setFlag_fr ..).only .tm rfl
@[simp] theorem setFlag_cal : (setFlag s bit).cal = s.cal := (setFlag_fr ..).only .cal rfl
@[simp] theorem setFlag_tx : (setFlag s bit).tx = s.tx := (setFlag_fr ..).only .tx rfl
@[simp] theorem setFlag_rx : (setFlag s bit).rx = s.rx := (setFlag_fr ..).only .rx rfl
@[simp] theorem setFlag_str : (setFlag s bit).str = s.str := (setFlag_fr ..).only .str rfl
@[simp] theorem setFlag_sg : (setFlag s bit).sg = s.sg := (setFlag_fr ..).only .sg rfl
@[simp] theorem setFlag_sk : (setFlag s bit).sk = s.sk := (setFlag_fr ..).only .sk rfl
@[simp] theorem setFlag_tw : (setFlag s bit).tw = s.tw := (setFlag_fr ..).only .tw rfl
@[simp] theorem setFlag_fs : (setFlag s bit).fs = s.fs := (setFlag_fr ..).only .fs rfl
@[simp] theorem setFlag_se : (setFlag s bit).se = s.se := (setFlag_fr ..).only .se rfl
@[simp] theorem setFlag_fuses : (setFlag s bit).fuses = s.fuses := (setFlag_fr ..).only .fuses rfl
@[simp] theorem setFlag_mg : (setFlag s bit).mg = s.mg := (setFlag_fr ..).only .mg rfl
@[simp] theorem setFlag_fences : (setFlag s bit).fences = s.fences := (setFlag_fr ..).only .fences rfl
@[simp] theorem setFlag_objs : (setFlag s bit).objs = s.objs := (setFlag_fr ..).only .objs rfl
@[simp] theorem setFlag_win0 : (setFlag s bit).win0 = s.win0 := (setFlag_fr ..).only .win0 rfl
@[simp] theorem setFlag_win1 : (setFlag s bit).win1 = s.win1 := (setFlag_fr ..).only .win1 rfl
@[simp] theorem setFlag_flash : (setFlag s bit).flash = s.flash := (setFlag_fr ..).only .flash rfl
@[simp] theorem setFlag_clock : (setFlag s bit).clock = s.clock := (setFlag_fr ..).only .clock rfl
@[simp] theorem setFlag_freeIx : (setFlag s bit).freeIx = s.freeIx := (setFlag_fr ..).only .freeIx rfl
@[simp] theorem setFlag_pending : (setFlag s bit).pending = s.pending := (setFlag_fr ..).only .pending rfl
end setFlag

section setLinkState
variable (s : State) (v : BitVec 4)
@[simp] theorem setLinkState_pads : (setLinkState s v).pads = s.pads := (setLinkState_fr ..).only .pads rfl
@[simp] theorem setLinkState_pw : (setLinkState s v).pw = s.pw := (setLinkState_fr ..).only .pw rfl
@[simp] theorem setLinkState_qs : (setLinkState s v).qs = s.qs := (setLinkState_fr ..).only .qs rfl
@[simp] theorem setLinkState_mb : (setLinkState s v).mb = s.mb := (setLinkState_fr ..).only .mb rfl
@[simp] theorem setLinkState_ld : (setLinkState s v).ld = s.ld := (setLinkState_fr ..).only .ld rfl
@[simp] theorem setLinkState_tm : (setLinkState s v).tm = s.tm := (setLinkState_fr ..).only .tm rfl
@[simp] theorem setLinkState_cal : (setLinkState s v).cal = s.cal := (setLinkState_fr ..).only .cal rfl
@[simp] theorem setLinkState_tx : (setLinkState s v).tx = s.tx := (setLinkState_fr ..).only .tx rfl
@[simp] theorem setLinkState_rx : (setLinkState s v).rx = s.rx := (setLinkState_fr ..).only .rx rfl
@[simp] theorem setLinkState_str : (setLinkState s v).str = s.str := (setLinkState_fr ..).only .str rfl
@[simp] theorem setLinkState_sg : (setLinkState s v).sg = s.sg := (setLinkState_fr ..).only .sg rfl
@[simp] theorem setLinkState_sk : (setLinkState s v).sk = s.sk := (setLinkState_fr ..).only .sk rfl
@[simp] theorem setLinkState_tw : (setLinkState s v).tw = s.tw := (setLinkState_fr ..).only .tw rfl
@[simp] theorem setLinkState_fs : (setLinkState s v).fs = s.fs := (setLinkState_fr ..).only .fs rfl
@[simp] theorem setLinkState_se : (setLinkState s v).se = s.se := (setLinkState_fr ..).only .se rfl
@[simp] theorem setLinkState_fuses : (setLinkState s v).fuses = s.fuses := (setLinkState_fr ..).only .fuses rfl
@[simp] theorem setLinkState_mg : (setLinkState s v).mg = s.mg := (setLinkState_fr ..).only .mg rfl
@[simp] theorem setLinkState_fences : (setLinkState s v).fences = s.fences := (setLinkState_fr ..).only .fences rfl
@[simp] theorem setLinkState_objs : (setLinkState s v).objs = s.objs := (setLinkState_fr ..).only .objs rfl
@[simp] theorem setLinkState_win0 : (setLinkState s v).win0 = s.win0 := (setLinkState_fr ..).only .win0 rfl
@[simp] theorem setLinkState_win1 : (setLinkState s v).win1 = s.win1 := (setLinkState_fr ..).only .win1 rfl
@[simp] theorem setLinkState_flash : (setLinkState s v).flash = s.flash := (setLinkState_fr ..).only .flash rfl
@[simp] theorem setLinkState_clock : (setLinkState s v).clock = s.clock := (setLinkState_fr ..).only .clock rfl
@[simp] theorem setLinkState_freeIx : (setLinkState s v).freeIx = s.freeIx := (setLinkState_fr ..).only .freeIx rfl
@[simp] theorem setLinkState_pending : (setLinkState s v).pending = s.pending := (setLinkState_fr ..).only .pending rfl
end setLinkState

section sendMsg
variable (s : State) (m : Bytes)
@[simp] theorem sendMsg_pads : (sendMsg s m).pads = s.pads := (sendMsg_fr ..).only .pads rfl
@[simp] theorem sendMsg_pw : (sendMsg s m).pw = s.pw := (sendMsg_fr ..).only .pw rfl
@[simp] theorem sendMsg_qs : (sendMsg s m).qs = s.qs := (sendMsg_fr ..).only .qs rfl
@[simp] theorem sendMsg_mb : (sendMsg s m).mb = s.mb := (sendMsg_fr ..).only .mb rfl
@[simp] theorem sendMsg_ld : (sendMsg s m).ld = s.ld := (sendMsg_fr ..).only .ld rfl
@[simp] theorem sendMsg_tm : (sendMsg s m).tm = s.tm := (sendMsg_fr ..).only .tm rfl
@[simp] theorem sendMsg_cal : (sendMsg s m).cal = s.cal := (sendMsg_fr ..).only .cal rfl
@[simp] theorem sendMsg_tx : (sendMsg s m).tx = s.tx := (sendMsg_fr ..).only .tx rfl
@[simp] theorem sendMsg_rx : (sendMsg s m).rx = s.rx := (sendMsg_fr ..).only .rx rfl
@[simp] theorem sendMsg_str : (sendMsg s m).str = s.str := (sendMsg_fr ..).only .str rfl
@[simp] theorem sendMsg_sg : (sendMsg s m).sg = s.sg := (sendMsg_fr ..).only .sg rfl
@[simp] theorem sendMsg_sk : (sendMsg s m).sk = s.sk := (sendMsg_fr ..).only .sk rfl
@[simp] theorem sendMsg_tw : (sendMsg s m).tw = s.tw := (sendMsg_fr ..).only .tw rfl
@[simp] theorem sendMsg_fs : (sendMsg s m).fs = s.fs := (sendMsg_fr ..).only .fs rfl
@[simp] theorem sendMsg_se : (sendMsg s m).se = s.se := (sendMsg_fr ..).only .se rfl
@[simp] theorem sendMsg_fuses : (sendMsg s m).fuses = s.fuses := (sendMsg_fr ..).only .fuses rfl
@[simp] theorem sendMsg_mg : (sendMsg s m).mg = s.mg := (sendMsg_fr ..).only .mg rfl
@[simp] theorem sendMsg_fences : (sendMsg s m).fences = s.fences := (sendMsg_fr ..).only .fences rfl
@[simp] theorem sendMsg_objs : (sendMsg s m).objs = s.objs := (sendMsg_fr ..).only .objs rfl
@[simp] theorem sendMsg_win0 : (sendMsg s m).win0 = s.win0 := (sendMsg_fr ..).only .win0 rfl
@[simp] theorem sendMsg_win1 : (sendMsg s m).win1 = s.win1 := (sendMsg_fr ..).only .win1 rfl
@[simp] theorem sendMsg_flash : (sendMsg s m).flash = s.flash := (sendMsg_fr ..).only .flash rfl
@[simp] theorem sendMsg_clock : (sendMsg s m).clock = s.clock := (sendMsg_fr ..).only .clock rfl
@[simp] theorem sendMsg_freeIx : (sendMsg s m).freeIx = s.freeIx := (sendMsg_fr ..).only .freeIx rfl
@[simp] theorem sendMsg_pending : (sendMsg s m).pending = s.pending := (sendMsg_fr ..).only .pending rfl
end sendMsg

section pump
variable (s : State)
@[simp] theorem pump_pads : (pump s).pads = s.pads := (pump_fr ..).only .pads rfl
@[simp] theorem pump_pw : (pump s).pw = s.pw := (pump_fr ..).only .pw rfl
@[simp] theorem pump_qs : (pump s).qs = s.qs := (pump_fr ..).only .qs rfl
@[simp] theorem pump_mb : (pump s).mb = s.mb := (pump_fr ..).only .mb rfl
@[simp] theorem pump_ld : (pump s).ld = s.ld := (pump_fr ..).only .ld rfl
@[simp] theorem pump_tm : (pump s).tm = s.tm := (pump_fr ..).only .tm rfl
@[simp] theorem pump_cal : (pump s).cal = s.cal := (pump_fr ..).only .cal rfl
@[simp] theorem pump_tx : (pump s).tx = s.tx := (pump_fr ..).only .tx rfl
@[simp] theorem pump_rx : (pump s).rx = s.rx := (pump_fr ..).only .rx rfl
@[simp] theorem pump_str : (pump s).str = s.str := (pump_fr ..).only .str rfl
@[simp] theorem pump_sg : (pump s).sg = s.sg := (pump_fr ..).only .sg rfl
@[simp] theorem pump_sk : (pump s).sk = s.sk := (pump_fr ..).only .sk rfl
@[simp] theorem pump_tw : (pump s).tw = s.tw := (pump_fr ..).only .tw rfl
@[simp] theorem pump_fs : (pump s).fs = s.fs := (pump_fr ..).only .fs rfl
@[simp] theorem pump_se : (pump s).se = s.se := (pump_fr ..).only .se rfl
@[simp] theorem pump_fuses : (pump s).fuses = s.fuses := (pump_fr ..).only .fuses rfl
@[simp] theorem pump_mg : (pump s).mg = s.mg := (pump_fr ..).only .mg rfl
@[simp] theorem pump_fences : (pump s).fences = s.fences := (pump_fr ..).only .fences rfl
@[simp] theorem pump_objs : (pump s).objs = s.objs := (pump_fr ..).only .objs rfl
@[simp] theorem pump_win0 : (pump s).win0 = s.win0 := (pump_fr ..).only .win0 rfl
@[simp] theorem pump_win1 : (pump s).win1 = s.win1 := (pump_fr ..).only .win1 rfl
@[simp] theorem pump_flash : (pump s).flash = s.flash := (pump_fr ..).only .flash rfl
@[simp] theorem pump_clock : (pump s).clock = s.clock := (pump_fr ..).only .clock rfl
@[simp] theorem pump_freeIx : (pump s).freeIx = s.freeIx := (pump_fr ..).only .freeIx rfl
@[simp] theorem pump_pending : (pump s).pending = s.pending := (pump_fr ..).only .pending rfl
end pump

section noteErr
variable (s : State) (hdr : Bytes)
@[simp] theorem noteErr_pads : (noteErr s hdr).pads = s.pads := (noteErr_fr ..).only .pads rfl
@[simp] theorem noteErr_pw : (noteErr s hdr).pw = s.pw := (noteErr_fr ..).only .pw rfl
@[simp] theorem noteErr_qs : (noteErr s hdr).qs = s.qs := (noteErr_fr ..).only .qs rfl
@[simp] theorem noteErr_mb : (noteErr s hdr).mb = s.mb := (noteErr_fr ..).only .mb rfl
@[simp] theorem noteErr_ld : (noteErr s hdr).ld = s.ld := (noteErr_fr ..).only .ld rfl
@[simp] theorem noteErr_tm : (noteErr s hdr).tm = s.tm := (noteErr_fr ..).only .tm rfl
@[simp] theorem noteErr_cal : (noteErr s hdr).cal = s.cal := (noteErr_fr ..).only .cal rfl
@[simp] theorem noteErr_tx : (noteErr s hdr).tx = s.tx := (noteErr_fr ..).only .tx rfl
@[simp] theorem noteErr_rx : (noteErr s hdr).rx = s.rx := (noteErr_fr ..).only .rx rfl
@[simp] theorem noteErr_str : (noteErr s hdr).str = s.str := (noteErr_fr ..).only .str rfl
@[simp] theorem noteErr_sg : (noteErr s hdr).sg = s.sg := (noteErr_fr ..).only .sg rfl
@[simp] theorem noteErr_sk : (noteErr s hdr).sk = s.sk := (noteErr_fr ..).only .sk rfl
@[simp] theorem noteErr_tw : (noteErr s hdr).tw = s.tw := (noteErr_fr ..).only .tw rfl
@[simp] theorem noteErr_fs : (noteErr s hdr).fs = s.fs := (noteErr_fr ..).only .fs rfl
@[simp] theorem noteErr_se : (noteErr s hdr).se = s.se := (noteErr_fr ..).only .se rfl
@[simp] theorem noteErr_fuses : (noteErr s hdr).fuses = s.fuses := (noteErr_fr ..).only .fuses rfl
@[simp] theorem noteErr_mg : (noteErr s hdr).mg = s.mg := (noteErr_fr ..).only .mg rfl
@[simp] theorem noteErr_fences : (noteErr s hdr).fences = s.fences := (noteErr_fr ..).only .fences rfl
@[simp] theorem noteErr_objs : (noteErr s hdr).objs = s.objs := (noteErr_fr ..).only .objs rfl
@[simp] theorem noteErr_win0 : (noteErr s hdr).win0 = s.win0 := (noteErr_fr ..).only .win0 rfl
@[simp] theorem noteErr_win1 : (noteErr s hdr).win1 = s.win1 := (noteErr_fr ..).only .win1 rfl
@[simp] theorem noteErr_flash : (noteErr s hdr).flash = s.flash := (noteErr_fr ..).only .flash rfl
@[simp] theorem noteErr_cnt : (noteErr s hdr).cnt = s.cnt := (noteErr_fr ..).only .cnt rfl
@[simp] theorem noteErr_clock : (noteErr s hdr).clock = s.clock := (noteErr_fr ..).only .clock rfl
@[simp] theorem noteErr_freeIx : (noteErr s hdr).freeIx = s.freeIx := (noteErr_fr ..).only .freeIx rfl
@[simp] theorem noteErr_outs : (noteErr s hdr).outs = s.outs := (noteErr_fr ..).only .outs rfl
@[simp] theorem noteErr_pending : (noteErr s hdr).pending = s.pending := (noteErr_fr ..).only .pending rfl
end noteErr

section setFwReady
variable (s : State) (v : Bool)
@[simp] theorem setFwReady_pads : (setFwReady s v).pads = s.pads := (setFwReady_fr ..).only .pads rfl
@[simp] theorem setFwReady_pw : (setFwReady s v).pw = s.pw := (setFwReady_fr ..).only .pw rfl
@[simp] theorem setFwReady_qs : (setFwReady s v).qs = s.qs := (setFwReady_fr ..).only .qs rfl
@[simp] theorem setFwReady_ld : (setFwReady s v).ld = s.ld := (setFwReady_fr ..).only .ld rfl
@[simp] theorem setFwReady_tm : (setFwReady s v).tm = s.tm := (setFwReady_fr ..).only .tm rfl
@[simp] theorem setFwReady_cal : (setFwReady s v).cal = s.cal := (setFwReady_fr ..).only .cal rfl
@[simp] theorem setFwReady_tx : (setFwReady s v).tx = s.tx := (setFwReady_fr ..).only .tx rfl
@[simp] theorem setFwReady_rx : (setFwReady s v).rx = s.rx := (setFwReady_fr ..).only .rx rfl
@[simp] theorem setFwReady_str : (setFwReady s v).str = s.str := (setFwReady_fr ..).only .str rfl
@[simp] theorem setFwReady_sg : (setFwReady s v).sg = s.sg := (setFwReady_fr ..).only .sg rfl
@[simp] theorem setFwReady_sk : (setFwReady s v).sk = s.sk := (setFwReady_fr ..).only .sk rfl
@[simp] theorem setFwReady_tw : (setFwReady s v).tw = s.tw := (setFwReady_fr ..).only .tw rfl
@[simp] theorem setFwReady_fs : (setFwReady s v).fs = s.fs := (setFwReady_fr ..).only .fs rfl
@[simp] theorem setFwReady_se : (setFwReady s v).se = s.se := (setFwReady_fr ..).only .se rfl
@[simp] theorem setFwReady_fuses : (setFwReady s v).fuses = s.fuses := (setFwReady_fr ..).only .fuses rfl
@[simp] theorem setFwReady_mg : (setFwReady s v).mg = s.mg := (setFwReady_fr ..).only .mg rfl
@[simp] theorem setFwReady_fences : (setFwReady s v).fences = s.fences := (setFwReady_fr ..).only .fences rfl
@[simp] theorem setFwReady_objs : (setFwReady s v).objs = s.objs := (setFwReady_fr ..).only .objs rfl
@[simp] theorem setFwReady_win0 : (setFwReady s v).win0 = s.win0 := (setFwReady_fr ..).only .win0 rfl
@[simp] theorem setFwReady_win1 : (setFwReady s v).win1 = s.win1 := (setFwReady_fr ..).only .win1 rfl
@[simp] theorem setFwReady_flash : (setFwReady s v).flash = s.flash := (setFwReady_fr ..).only .flash rfl
@[simp] theorem setFwReady_clock : (setFwReady s v).clock = s.clock := (setFwReady_fr ..).only .clock rfl
@[simp] theorem setFwReady_freeIx : (setFwReady s v).freeIx = s.freeIx := (setFwReady_fr ..).only .freeIx rfl
@[simp] theorem setFwReady_pending : (setFwReady s v).pending = s.pending := (setFwReady_fr ..).only .pending rfl
end setFwReady

section modQue
variable (s : State) (q : Nat) (f : Queue → Queue)
@[simp] theorem modQue_pads : (modQue s q f).pads = s.pads := (modQue_fr ..).only .pads rfl
@[simp] theorem modQue_pw : (modQue s q f).pw = s.pw := (modQue_fr ..).only .pw rfl
@[simp] theorem modQue_hl : (modQue s q f).hl = s.hl := (modQue_fr ..).only .hl rfl
@[simp] theorem modQue_mb : (modQue s q f).mb = s.mb := (modQue_fr ..).only .mb rfl
@[simp] theorem modQue_ld : (modQue s q f).ld = s.ld := (modQue_fr ..).only .ld rfl
@[simp] theorem modQue_tm : (modQue s q f).tm = s.tm := (modQue_fr ..).only .tm rfl
@[simp] theorem modQue_cal : (modQue s q f).cal = s.cal := (modQue_fr ..).only .cal rfl
@[simp] theorem modQue_tx : (modQue s q f).tx = s.tx := (modQue_fr ..).only .tx rfl
@[simp] theorem modQue_rx : (modQue s q f).rx = s.rx := (modQue_fr ..).only .rx rfl
@[simp] theorem modQue_str : (modQue s q f).str = s.str := (modQue_fr ..).only .str rfl
@[simp] theorem modQue_sg : (modQue s q f).sg = s.sg := (modQue_fr ..).only .sg rfl
@[simp] theorem modQue_sk : (modQue s q f).sk = s.sk := (modQue_fr ..).only .sk rfl
@[simp] theorem modQue_tw : (modQue s q f).tw = s.tw := (modQue_fr ..).only .tw rfl
@[simp] theorem modQue_fs : (modQue s q f).fs = s.fs := (modQue_fr ..).only .fs rfl
@[simp] theorem modQue_se : (modQue s q f).se = s.se := (modQue_fr ..).only .se rfl
@[simp] theorem modQue_fuses : (modQue s q f).fuses = s.fuses := (modQue_fr ..).only .fuses rfl
@[simp] theorem modQue_mg : (modQue s q f).mg = s.mg := (modQue_fr ..).only .mg rfl
@[simp] theorem modQue_fences : (modQue s q f).fences = s.fences := (modQue_fr ..).only .fences rfl
@[simp] theorem modQue_objs : (modQue s q f).objs = s.objs := (modQue_fr ..).only .objs rfl
@[simp] theorem modQue_win0 : (modQue s q f).win0 = s.win0 := (modQue_fr ..).only .win0 rfl
@[simp] theorem modQue_win1 : (modQue s q f).win1 = s.win1 := (modQue_fr ..).only .win1 rfl
@[simp] theorem modQue_flash : (modQue s q f).flash = s.flash := (modQue_fr ..).only .flash rfl
@[simp] theorem modQue_cnt : (modQue s q f).cnt = s.cnt := (modQue_fr ..).only .cnt rfl
@[simp] theorem modQue_clock : (modQue s q f).clock = s.clock := (modQue_fr ..).only .clock rfl
@[simp] theorem modQue_freeIx : (modQue s q f).freeIx = s.freeIx := (modQue_fr ..).only .freeIx rfl
@[simp] theorem modQue_outs : (modQue s q f).outs = s.outs := (modQue_fr ..).only .outs rfl
@[simp] theorem modQue_pending : (modQue s q f).pending = s.pending := (modQue_fr ..).only .pending rfl
end modQue

section modMbox
variable (s : State) (n : Nat) (f : Channel → Channel)
@[simp] theorem modMbox_pads : (modMbox s n f).pads = s.pads := (modMbox_fr ..).only .pads rfl
@[simp] theorem modMbox_pw : (modMbox s n f).pw = s.pw := (modMbox_fr ..).only .pw rfl
@[simp] theorem modMbox_hl : (modMbox s n f).hl = s.hl := (modMbox_fr ..).only .hl rfl
@[simp] theorem modMbox_qs : (modMbox s n f).qs = s.qs := (modMbox_fr ..).only .qs rfl
@[simp] theorem modMbox_ld : (modMbox s n f).ld = s.ld := (modMbox_fr ..).only .ld rfl
@[simp] theorem modMbox_tm : (modMbox s n f).tm = s.tm := (modMbox_fr ..).only .tm rfl
@[simp] theorem modMbox_cal : (modMbox s n f).cal = s.cal := (modMbox_fr ..).only .cal rfl
@[simp] theorem modMbox_tx : (modMbox s n f).tx = s.tx := (modMbox_fr ..).only .tx rfl
@[simp] theorem modMbox_rx : (modMbox s n f).rx = s.rx := (modMbox_fr ..).only .rx rfl
@[simp] theorem modMbox_str : (modMbox s n f).str = s.str := (modMbox_fr ..).only .str rfl
@[simp] theorem modMbox_sg : (modMbox s n f).sg = s.sg := (modMbox_fr ..).only .sg rfl
@[simp] theorem modMbox_sk : (modMbox s n f).sk = s.sk := (modMbox_fr ..).only .sk rfl
@[simp] theorem modMbox_tw : (modMbox s n f).tw = s.tw := (modMbox_fr ..).only .tw rfl
@[simp] theorem modMbox_fs : (modMbox s n f).fs = s.fs := (modMbox_fr ..).only .fs rfl
@[simp] theorem modMbox_se : (modMbox s n f).se = s.se := (modMbox_fr ..).only .se rfl
@[simp] theorem modMbox_fuses : (modMbox s n f).fuses = s.fuses := (modMbox_fr ..).only .fuses rfl
@[simp] theorem modMbox_mg : (modMbox s n f).mg = s.mg := (modMbox_fr ..).only .mg rfl
@[simp] theorem modMbox_fences : (modMbox s n f).fences = s.fences := (modMbox_fr ..).only .fences rfl
@[simp] theorem modMbox_objs : (modMbox s n f).objs = s.objs := (modMbox_fr ..).only .objs rfl
@[simp] theorem modMbox_win0 : (modMbox s n f).win0 = s.win0 := (modMbox_fr ..).only .win0 rfl
@[simp] theorem modMbox_win1 : (modMbox s n f).win1 = s.win1 := (modMbox_fr ..).only .win1 rfl
@[simp] theorem modMbox_flash : (modMbox s n f).flash = s.flash := (modMbox_fr ..).only .flash rfl
@[simp] theorem modMbox_cnt : (modMbox s n f).cnt = s.cnt := (modMbox_fr ..).only .cnt rfl
@[simp] theorem modMbox_clock : (modMbox s n f).clock = s.clock := (modMbox_fr ..).only .clock rfl
@[simp] theorem modMbox_freeIx : (modMbox s n f).freeIx = s.freeIx := (modMbox_fr ..).only .freeIx rfl
@[simp] theorem modMbox_outs : (modMbox s n f).outs = s.outs := (modMbox_fr ..).only .outs rfl
@[simp] theorem modMbox_pending : (modMbox s n f).pending = s.pending := (modMbox_fr ..).only .pending rfl
end modMbox

section modPrt
variable (s : State) (p : Nat) (f : Port → Port)
@[simp] theorem modPrt_pads : (modPrt s p f).pads = s.pads := (modPrt_fr ..).only .pads rfl
@[simp] theorem modPrt_pw : (modPrt s p f).pw = s.pw := (modPrt_fr ..).only .pw rfl
@[simp] theorem modPrt_hl : (modPrt s p f).hl = s.hl := (modPrt_fr ..).only .hl rfl
@[simp] theorem modPrt_qs : (modPrt s p f).qs = s.qs := (modPrt_fr ..).only .qs rfl
@[simp] theorem modPrt_mb : (modPrt s p f).mb = s.mb := (modPrt_fr ..).only .mb rfl
@[simp] theorem modPrt_ld : (modPrt s p f).ld = s.ld := (modPrt_fr ..).only .ld rfl
@[simp] theorem modPrt_tm : (modPrt s p f).tm = s.tm := (modPrt_fr ..).only .tm rfl
@[simp] theorem modPrt_cal : (modPrt s p f).cal = s.cal := (modPrt_fr ..).only .cal rfl
@[simp] theorem modPrt_rx : (modPrt s p f).rx = s.rx := (modPrt_fr ..).only .rx rfl
@[simp] theorem modPrt_str : (modPrt s p f).str = s.str := (modPrt_fr ..).only .str rfl
@[simp] theorem modPrt_sg : (modPrt s p f).sg = s.sg := (modPrt_fr ..).only .sg rfl
@[simp] theorem modPrt_sk : (modPrt s p f).sk = s.sk := (modPrt_fr ..).only .sk rfl
@[simp] theorem modPrt_tw : (modPrt s p f).tw = s.tw := (modPrt_fr ..).only .tw rfl
@[simp] theorem modPrt_fs : (modPrt s p f).fs = s.fs := (modPrt_fr ..).only .fs rfl
@[simp] theorem modPrt_se : (modPrt s p f).se = s.se := (modPrt_fr ..).only .se rfl
@[simp] theorem modPrt_fuses : (modPrt s p f).fuses = s.fuses := (modPrt_fr ..).only .fuses rfl
@[simp] theorem modPrt_mg : (modPrt s p f).mg = s.mg := (modPrt_fr ..).only .mg rfl
@[simp] theorem modPrt_fences : (modPrt s p f).fences = s.fences := (modPrt_fr ..).only .fences rfl
@[simp] theorem modPrt_objs : (modPrt s p f).objs = s.objs := (modPrt_fr ..).only .objs rfl
@[simp] theorem modPrt_win0 : (modPrt s p f).win0 = s.win0 := (modPrt_fr ..).only .win0 rfl
@[simp] theorem modPrt_win1 : (modPrt s p f).win1 = s.win1 := (modPrt_fr ..).only .win1 rfl
@[simp] theorem modPrt_flash : (modPrt s p f).flash = s.flash := (modPrt_fr ..).only .flash rfl
@[simp] theorem modPrt_cnt : (modPrt s p f).cnt = s.cnt := (modPrt_fr ..).only .cnt rfl
@[simp] theorem modPrt_clock : (modPrt s p f).clock = s.clock := (modPrt_fr ..).only .clock rfl
@[simp] theorem modPrt_freeIx : (modPrt s p f).freeIx = s.freeIx := (modPrt_fr ..).only .freeIx rfl
@[simp] theorem modPrt_outs : (modPrt s p f).outs = s.outs := (modPrt_fr ..).only .outs rfl
@[simp] theorem modPrt_pending : (modPrt s p f).pending = s.pending := (modPrt_fr ..).only .pending rfl
end modPrt

section modDoz
variable (s : State) (u : Nat) (f : Doze → Doze)
@[simp] theorem modDoz_pads : (modDoz s u f).pads = s.pads := (modDoz_fr ..).only .pads rfl
@[simp] theorem modDoz_pw : (modDoz s u f).pw = s.pw := (modDoz_fr ..).only .pw rfl
@[simp] theorem modDoz_hl : (modDoz s u f).hl = s.hl := (modDoz_fr ..).only .hl rfl
@[simp] theorem modDoz_qs : (modDoz s u f).qs = s.qs := (modDoz_fr ..).only .qs rfl
@[simp] theorem modDoz_mb : (modDoz s u f).mb = s.mb := (modDoz_fr ..).only .mb rfl
@[simp] theorem modDoz_tm : (modDoz s u f).tm = s.tm := (modDoz_fr ..).only .tm rfl
@[simp] theorem modDoz_cal : (modDoz s u f).cal = s.cal := (modDoz_fr ..).only .cal rfl
@[simp] theorem modDoz_tx : (modDoz s u f).tx = s.tx := (modDoz_fr ..).only .tx rfl
@[simp] theorem modDoz_rx : (modDoz s u f).rx = s.rx := (modDoz_fr ..).only .rx rfl
@[simp] theorem modDoz_str : (modDoz s u f).str = s.str := (modDoz_fr ..).only .str rfl
@[simp] theorem modDoz_sg : (modDoz s u f).sg = s.sg := (modDoz_fr ..).only .sg rfl
@[simp] theorem modDoz_sk : (modDoz s u f).sk = s.sk := (modDoz_fr ..).only .sk rfl
@[simp] theorem modDoz_tw : (modDoz s u f).tw = s.tw := (modDoz_fr ..).only .tw rfl
@[simp] theorem modDoz_fs : (modDoz s u f).fs = s.fs := (modDoz_fr ..).only .fs rfl
@[simp] theorem modDoz_se : (modDoz s u f).se = s.se := (modDoz_fr ..).only .se rfl
@[simp] theorem modDoz_fuses : (modDoz s u f).fuses = s.fuses := (modDoz_fr ..).only .fuses rfl
@[simp] theorem modDoz_mg : (modDoz s u f).mg = s.mg := (modDoz_fr ..).only .mg rfl
@[simp] theorem modDoz_fences : (modDoz s u f).fences = s.fences := (modDoz_fr ..).only .fences rfl
@[simp] theorem modDoz_objs : (modDoz s u f).objs = s.objs := (modDoz_fr ..).only .objs rfl
@[simp] theorem modDoz_win0 : (modDoz s u f).win0 = s.win0 := (modDoz_fr ..).only .win0 rfl
@[simp] theorem modDoz_win1 : (modDoz s u f).win1 = s.win1 := (modDoz_fr ..).only .win1 rfl
@[simp] theorem modDoz_flash : (modDoz s u f).flash = s.flash := (modDoz_fr ..).only .flash rfl
@[simp] theorem modDoz_cnt : (modDoz s u f).cnt = s.cnt := (modDoz_fr ..).only .cnt rfl
@[simp] theorem modDoz_clock : (modDoz s u f).clock = s.clock := (modDoz_fr ..).only .clock rfl
@[simp] theorem modDoz_freeIx : (modDoz s u f).freeIx = s.freeIx := (modDoz_fr ..).only .freeIx rfl
@[simp] theorem modDoz_outs : (modDoz s u f).outs = s.outs := (modDoz_fr ..).only .outs rfl
@[simp] theorem modDoz_pending : (modDoz s u f).pending = s.pending := (modDoz_fr ..).only .pending rfl
end modDoz

section modSgm
variable (s : State) (i : Nat) (f : Seg → Seg)
@[simp] theorem modSgm_pads : (modSgm s i f).pads = s.pads := (modSgm_fr ..).only .pads rfl
@[simp] theorem modSgm_pw : (modSgm s i f).pw = s.pw := (modSgm_fr ..).only .pw rfl
@[simp] theorem modSgm_hl : (modSgm s i f).hl = s.hl := (modSgm_fr ..).only .hl rfl
@[simp] theorem modSgm_qs : (modSgm s i f).qs = s.qs := (modSgm_fr ..).only .qs rfl
@[simp] theorem modSgm_mb : (modSgm s i f).mb = s.mb := (modSgm_fr ..).only .mb rfl
@[simp] theorem modSgm_ld : (modSgm s i f).ld = s.ld := (modSgm_fr ..).only .ld rfl
@[simp] theorem modSgm_tm : (modSgm s i f).tm = s.tm := (modSgm_fr ..).only .tm rfl
@[simp] theorem modSgm_cal : (modSgm s i f).cal = s.cal := (modSgm_fr ..).only .cal rfl
@[simp] theorem modSgm_tx : (modSgm s i f).tx = s.tx := (modSgm_fr ..).only .tx rfl
@[simp] theorem modSgm_rx : (modSgm s i f).rx = s.rx := (modSgm_fr ..).only .rx rfl
@[simp] theorem modSgm_str : (modSgm s i f).str = s.str := (modSgm_fr ..).only .str rfl
@[simp] theorem modSgm_sk : (modSgm s i f).sk = s.sk := (modSgm_fr ..).only .sk rfl
@[simp] theorem modSgm_tw : (modSgm s i f).tw = s.tw := (modSgm_fr ..).only .tw rfl
@[simp] theorem modSgm_fs : (modSgm s i f).fs = s.fs := (modSgm_fr ..).only .fs rfl
@[simp] theorem modSgm_se : (modSgm s i f).se = s.se := (modSgm_fr ..).only .se rfl
@[simp] theorem modSgm_fuses : (modSgm s i f).fuses = s.fuses := (modSgm_fr ..).only .fuses rfl
@[simp] theorem modSgm_mg : (modSgm s i f).mg = s.mg := (modSgm_fr ..).only .mg rfl
@[simp] theorem modSgm_fences : (modSgm s i f).fences = s.fences := (modSgm_fr ..).only .fences rfl
@[simp] theorem modSgm_objs : (modSgm s i f).objs = s.objs := (modSgm_fr ..).only .objs rfl
@[simp] theorem modSgm_win0 : (modSgm s i f).win0 = s.win0 := (modSgm_fr ..).only .win0 rfl
@[simp] theorem modSgm_win1 : (modSgm s i f).win1 = s.win1 := (modSgm_fr ..).only .win1 rfl
@[simp] theorem modSgm_flash : (modSgm s i f).flash = s.flash := (modSgm_fr ..).only .flash rfl
@[simp] theorem modSgm_cnt : (modSgm s i f).cnt = s.cnt := (modSgm_fr ..).only .cnt rfl
@[simp] theorem modSgm_clock : (modSgm s i f).clock = s.clock := (modSgm_fr ..).only .clock rfl
@[simp] theorem modSgm_freeIx : (modSgm s i f).freeIx = s.freeIx := (modSgm_fr ..).only .freeIx rfl
@[simp] theorem modSgm_outs : (modSgm s i f).outs = s.outs := (modSgm_fr ..).only .outs rfl
@[simp] theorem modSgm_pending : (modSgm s i f).pending = s.pending := (modSgm_fr ..).only .pending rfl
end modSgm

section modChan
variable (s : State) (i : Nat) (f : Chan → Chan)
@[simp] theorem modChan_pads : (modChan s i f).pads = s.pads := (modChan_fr ..).only .pads rfl
@[simp] theorem modChan_pw : (modChan s i f).pw = s.pw := (modChan_fr ..).only .pw rfl
@[simp] theorem modChan_hl : (modChan s i f).hl = s.hl := (modChan_fr ..).only .hl rfl
@[simp] theorem modChan_qs : (modChan s i f).qs = s.qs := (modChan_fr ..).only .qs rfl
@[simp] theorem modChan_mb : (modChan s i f).mb = s.mb := (modChan_fr ..).only .mb rfl
@[simp] theorem modChan_ld : (modChan s i f).ld = s.ld := (modChan_fr ..).only .ld rfl
@[simp] theorem modChan_cal : (modChan s i f).cal = s.cal := (modChan_fr ..).only .cal rfl
@[simp] theorem modChan_tx : (modChan s i f).tx = s.tx := (modChan_fr ..).only .tx rfl
@[simp] theorem modChan_rx : (modChan s i f).rx = s.rx := (modChan_fr ..).only .rx rfl
@[simp] theorem modChan_str : (modChan s i f).str = s.str := (modChan_fr ..).only .str rfl
@[simp] theorem modChan_sg : (modChan s i f).sg = s.sg := (modChan_fr ..).only .sg rfl
@[simp] theorem modChan_sk : (modChan s i f).sk = s.sk := (modChan_fr ..).only .sk rfl
@[simp] theorem modChan_tw : (modChan s i f).tw = s.tw := (modChan_fr ..).only .tw rfl
@[simp] theorem modChan_fs : (modChan s i f).fs = s.fs := (modChan_fr ..).only .fs rfl
@[simp] theorem modChan_se : (modChan s i f).se = s.se := (modChan_fr ..).only .se rfl
@[simp] theorem modChan_fuses : (modChan s i f).fuses = s.fuses := (modChan_fr ..).only .fuses rfl
@[simp] theorem modChan_mg : (modChan s i f).mg = s.mg := (modChan_fr ..).only .mg rfl
@[simp] theorem modChan_fences : (modChan s i f).fences = s.fences := (modChan_fr ..).only .fences rfl
@[simp] theorem modChan_objs : (modChan s i f).objs = s.objs := (modChan_fr ..).only .objs rfl
@[simp] theorem modChan_win0 : (modChan s i f).win0 = s.win0 := (modChan_fr ..).only .win0 rfl
@[simp] theorem modChan_win1 : (modChan s i f).win1 = s.win1 := (modChan_fr ..).only .win1 rfl
@[simp] theorem modChan_flash : (modChan s i f).flash = s.flash := (modChan_fr ..).only .flash rfl
@[simp] theorem modChan_cnt : (modChan s i f).cnt = s.cnt := (modChan_fr ..).only .cnt rfl
@[simp] theorem modChan_clock : (modChan s i f).clock = s.clock := (modChan_fr ..).only .clock rfl
@[simp] theorem modChan_freeIx : (modChan s i f).freeIx = s.freeIx := (modChan_fr ..).only .freeIx rfl
@[simp] theorem modChan_outs : (modChan s i f).outs = s.outs := (modChan_fr ..).only .outs rfl
@[simp] theorem modChan_pending : (modChan s i f).pending = s.pending := (modChan_fr ..).only .pending rfl
end modChan

section setDom
variable (s : State) (d : Nat) (v : Domain)
@[simp] theorem setDom_pads : (setDom s d v).pads = s.pads := (setDom_fr ..).only .pads rfl
@[simp] theorem setDom_pw : (setDom s d v).pw = s.pw := (setDom_fr ..).only .pw rfl
@[simp] theorem setDom_hl : (setDom s d v).hl = s.hl := (setDom_fr ..).only .hl rfl
@[simp] theorem setDom_qs : (setDom s d v).qs = s.qs := (setDom_fr ..).only .qs rfl
@[simp] theorem setDom_mb : (setDom s d v).mb = s.mb := (setDom_fr ..).only .mb rfl
@[simp] theorem setDom_tm : (setDom s d v).tm = s.tm := (setDom_fr ..).only .tm rfl
@[simp] theorem setDom_cal : (setDom s d v).cal = s.cal := (setDom_fr ..).only .cal rfl
@[simp] theorem setDom_tx : (setDom s d v).tx = s.tx := (setDom_fr ..).only .tx rfl
@[simp] theorem setDom_rx : (setDom s d v).rx = s.rx := (setDom_fr ..).only .rx rfl
@[simp] theorem setDom_str : (setDom s d v).str = s.str := (setDom_fr ..).only .str rfl
@[simp] theorem setDom_sg : (setDom s d v).sg = s.sg := (setDom_fr ..).only .sg rfl
@[simp] theorem setDom_sk : (setDom s d v).sk = s.sk := (setDom_fr ..).only .sk rfl
@[simp] theorem setDom_tw : (setDom s d v).tw = s.tw := (setDom_fr ..).only .tw rfl
@[simp] theorem setDom_fs : (setDom s d v).fs = s.fs := (setDom_fr ..).only .fs rfl
@[simp] theorem setDom_se : (setDom s d v).se = s.se := (setDom_fr ..).only .se rfl
@[simp] theorem setDom_fuses : (setDom s d v).fuses = s.fuses := (setDom_fr ..).only .fuses rfl
@[simp] theorem setDom_mg : (setDom s d v).mg = s.mg := (setDom_fr ..).only .mg rfl
@[simp] theorem setDom_fences : (setDom s d v).fences = s.fences := (setDom_fr ..).only .fences rfl
@[simp] theorem setDom_objs : (setDom s d v).objs = s.objs := (setDom_fr ..).only .objs rfl
@[simp] theorem setDom_win0 : (setDom s d v).win0 = s.win0 := (setDom_fr ..).only .win0 rfl
@[simp] theorem setDom_win1 : (setDom s d v).win1 = s.win1 := (setDom_fr ..).only .win1 rfl
@[simp] theorem setDom_flash : (setDom s d v).flash = s.flash := (setDom_fr ..).only .flash rfl
@[simp] theorem setDom_cnt : (setDom s d v).cnt = s.cnt := (setDom_fr ..).only .cnt rfl
@[simp] theorem setDom_clock : (setDom s d v).clock = s.clock := (setDom_fr ..).only .clock rfl
@[simp] theorem setDom_freeIx : (setDom s d v).freeIx = s.freeIx := (setDom_fr ..).only .freeIx rfl
@[simp] theorem setDom_outs : (setDom s d v).outs = s.outs := (setDom_fr ..).only .outs rfl
@[simp] theorem setDom_pending : (setDom s d v).pending = s.pending := (setDom_fr ..).only .pending rfl
end setDom

section logAdd
variable (s : State) (type : Nat) (flags : Nat) (data : Bytes)
@[simp] theorem logAdd_pads : (logAdd s type flags data).pads = s.pads := (logAdd_fr ..).only .pads rfl
@[simp] theorem logAdd_pw : (logAdd s type flags data).pw = s.pw := (logAdd_fr ..).only .pw rfl
@[simp] theorem logAdd_hl : (logAdd s type flags data).hl = s.hl := (logAdd_fr ..).only .hl rfl
@[simp] theorem logAdd_qs : (logAdd s type flags data).qs = s.qs := (logAdd_fr ..).only .qs rfl
@[simp] theorem logAdd_mb : (logAdd s type flags data).mb = s.mb := (logAdd_fr ..).only .mb rfl
@[simp] theorem logAdd_ld : (logAdd s type flags data).ld = s.ld := (logAdd_fr ..).only .ld rfl
@[simp] theorem logAdd_tm : (logAdd s type flags data).tm = s.tm := (logAdd_fr ..).only .tm rfl
@[simp] theorem logAdd_cal : (logAdd s type flags data).cal = s.cal := (logAdd_fr ..).only .cal rfl
@[simp] theorem logAdd_tx : (logAdd s type flags data).tx = s.tx := (logAdd_fr ..).only .tx rfl
@[simp] theorem logAdd_rx : (logAdd s type flags data).rx = s.rx := (logAdd_fr ..).only .rx rfl
@[simp] theorem logAdd_str : (logAdd s type flags data).str = s.str := (logAdd_fr ..).only .str rfl
@[simp] theorem logAdd_sg : (logAdd s type flags data).sg = s.sg := (logAdd_fr ..).only .sg rfl
@[simp] theorem logAdd_sk : (logAdd s type flags data).sk = s.sk := (logAdd_fr ..).only .sk rfl
@[simp] theorem logAdd_tw : (logAdd s type flags data).tw = s.tw := (logAdd_fr ..).only .tw rfl
@[simp] theorem logAdd_fs : (logAdd s type flags data).fs = s.fs := (logAdd_fr ..).only .fs rfl
@[simp] theorem logAdd_se : (logAdd s type flags data).se = s.se := (logAdd_fr ..).only .se rfl
@[simp] theorem logAdd_fuses : (logAdd s type flags data).fuses = s.fuses := (logAdd_fr ..).only .fuses rfl
@[simp] theorem logAdd_fences : (logAdd s type flags data).fences = s.fences := (logAdd_fr ..).only .fences rfl
@[simp] theorem logAdd_objs : (logAdd s type flags data).objs = s.objs := (logAdd_fr ..).only .objs rfl
@[simp] theorem logAdd_win0 : (logAdd s type flags data).win0 = s.win0 := (logAdd_fr ..).only .win0 rfl
@[simp] theorem logAdd_win1 : (logAdd s type flags data).win1 = s.win1 := (logAdd_fr ..).only .win1 rfl
@[simp] theorem logAdd_flash : (logAdd s type flags data).flash = s.flash := (logAdd_fr ..).only .flash rfl
@[simp] theorem logAdd_clock : (logAdd s type flags data).clock = s.clock := (logAdd_fr ..).only .clock rfl
@[simp] theorem logAdd_freeIx : (logAdd s type flags data).freeIx = s.freeIx := (logAdd_fr ..).only .freeIx rfl
@[simp] theorem logAdd_outs : (logAdd s type flags data).outs = s.outs := (logAdd_fr ..).only .outs rfl
@[simp] theorem logAdd_pending : (logAdd s type flags data).pending = s.pending := (logAdd_fr ..).only .pending rfl
end logAdd

section respondWith
variable (s : State) (r : Request) (status : Nat) (staged : Bool) (payload : Bytes)
@[simp] theorem respondWith_pads : (respondWith s r status staged payload).pads = s.pads := (respondWith_fr ..).only .pads rfl
@[simp] theorem respondWith_pw : (respondWith s r status staged payload).pw = s.pw := (respondWith_fr ..).only .pw rfl
@[simp] theorem respondWith_qs : (respondWith s r status staged payload).qs = s.qs := (respondWith_fr ..).only .qs rfl
@[simp] theorem respondWith_ld : (respondWith s r status staged payload).ld = s.ld := (respondWith_fr ..).only .ld rfl
@[simp] theorem respondWith_tm : (respondWith s r status staged payload).tm = s.tm := (respondWith_fr ..).only .tm rfl
@[simp] theorem respondWith_cal : (respondWith s r status staged payload).cal = s.cal := (respondWith_fr ..).only .cal rfl
@[simp] theorem respondWith_tx : (respondWith s r status staged payload).tx = s.tx := (respondWith_fr ..).only .tx rfl
@[simp] theorem respondWith_rx : (respondWith s r status staged payload).rx = s.rx := (respondWith_fr ..).only .rx rfl
@[simp] theorem respondWith_str : (respondWith s r status staged payload).str = s.str := (respondWith_fr ..).only .str rfl
@[simp] theorem respondWith_sg : (respondWith s r status staged payload).sg = s.sg := (respondWith_fr ..).only .sg rfl
@[simp] theorem respondWith_tw : (respondWith s r status staged payload).tw = s.tw := (respondWith_fr ..).only .tw rfl
@[simp] theorem respondWith_fs : (respondWith s r status staged payload).fs = s.fs := (respondWith_fr ..).only .fs rfl
@[simp] theorem respondWith_fuses : (respondWith s r status staged payload).fuses = s.fuses := (respondWith_fr ..).only .fuses rfl
@[simp] theorem respondWith_mg : (respondWith s r status staged payload).mg = s.mg := (respondWith_fr ..).only .mg rfl
@[simp] theorem respondWith_fences : (respondWith s r status staged payload).fences = s.fences := (respondWith_fr ..).only .fences rfl
@[simp] theorem respondWith_objs : (respondWith s r status staged payload).objs = s.objs := (respondWith_fr ..).only .objs rfl
@[simp] theorem respondWith_win1 : (respondWith s r status staged payload).win1 = s.win1 := (respondWith_fr ..).only .win1 rfl
@[simp] theorem respondWith_flash : (respondWith s r status staged payload).flash = s.flash := (respondWith_fr ..).only .flash rfl
@[simp] theorem respondWith_clock : (respondWith s r status staged payload).clock = s.clock := (respondWith_fr ..).only .clock rfl
@[simp] theorem respondWith_freeIx : (respondWith s r status staged payload).freeIx = s.freeIx := (respondWith_fr ..).only .freeIx rfl
@[simp] theorem respondWith_pending : (respondWith s r status staged payload).pending = s.pending := (respondWith_fr ..).only .pending rfl
end respondWith

section endCommit
variable (s : State) (result : Nat) (planes : Nat) (stack : Nat) (segs : Nat) (applied : Nat)
@[simp] theorem endCommit_pads : (endCommit s result planes stack segs applied).pads = s.pads := (endCommit_fr ..).only .pads rfl
@[simp] theorem endCommit_pw : (endCommit s result planes stack segs applied).pw = s.pw := (endCommit_fr ..).only .pw rfl
@[simp] theorem endCommit_qs : (endCommit s result planes stack segs applied).qs = s.qs := (endCommit_fr ..).only .qs rfl
@[simp] theorem endCommit_ld : (endCommit s result planes stack segs applied).ld = s.ld := (endCommit_fr ..).only .ld rfl
@[simp] theorem endCommit_tm : (endCommit s result planes stack segs applied).tm = s.tm := (endCommit_fr ..).only .tm rfl
@[simp] theorem endCommit_cal : (endCommit s result planes stack segs applied).cal = s.cal := (endCommit_fr ..).only .cal rfl
@[simp] theorem endCommit_tx : (endCommit s result planes stack segs applied).tx = s.tx := (endCommit_fr ..).only .tx rfl
@[simp] theorem endCommit_rx : (endCommit s result planes stack segs applied).rx = s.rx := (endCommit_fr ..).only .rx rfl
@[simp] theorem endCommit_str : (endCommit s result planes stack segs applied).str = s.str := (endCommit_fr ..).only .str rfl
@[simp] theorem endCommit_sg : (endCommit s result planes stack segs applied).sg = s.sg := (endCommit_fr ..).only .sg rfl
@[simp] theorem endCommit_tw : (endCommit s result planes stack segs applied).tw = s.tw := (endCommit_fr ..).only .tw rfl
@[simp] theorem endCommit_fs : (endCommit s result planes stack segs applied).fs = s.fs := (endCommit_fr ..).only .fs rfl
@[simp] theorem endCommit_fuses : (endCommit s result planes stack segs applied).fuses = s.fuses := (endCommit_fr ..).only .fuses rfl
@[simp] theorem endCommit_fences : (endCommit s result planes stack segs applied).fences = s.fences := (endCommit_fr ..).only .fences rfl
@[simp] theorem endCommit_objs : (endCommit s result planes stack segs applied).objs = s.objs := (endCommit_fr ..).only .objs rfl
@[simp] theorem endCommit_win1 : (endCommit s result planes stack segs applied).win1 = s.win1 := (endCommit_fr ..).only .win1 rfl
@[simp] theorem endCommit_flash : (endCommit s result planes stack segs applied).flash = s.flash := (endCommit_fr ..).only .flash rfl
@[simp] theorem endCommit_clock : (endCommit s result planes stack segs applied).clock = s.clock := (endCommit_fr ..).only .clock rfl
@[simp] theorem endCommit_freeIx : (endCommit s result planes stack segs applied).freeIx = s.freeIx := (endCommit_fr ..).only .freeIx rfl
@[simp] theorem endCommit_pending : (endCommit s result planes stack segs applied).pending = s.pending := (endCommit_fr ..).only .pending rfl
end endCommit

section abortLine
variable (s : State) (p : Nat) (e : PortEnd)
@[simp] theorem abortLine_pads : (abortLine s p e).pads = s.pads := (abortLine_fr ..).only .pads rfl
@[simp] theorem abortLine_pw : (abortLine s p e).pw = s.pw := (abortLine_fr ..).only .pw rfl
@[simp] theorem abortLine_hl : (abortLine s p e).hl = s.hl := (abortLine_fr ..).only .hl rfl
@[simp] theorem abortLine_mb : (abortLine s p e).mb = s.mb := (abortLine_fr ..).only .mb rfl
@[simp] theorem abortLine_ld : (abortLine s p e).ld = s.ld := (abortLine_fr ..).only .ld rfl
@[simp] theorem abortLine_tm : (abortLine s p e).tm = s.tm := (abortLine_fr ..).only .tm rfl
@[simp] theorem abortLine_cal : (abortLine s p e).cal = s.cal := (abortLine_fr ..).only .cal rfl
@[simp] theorem abortLine_rx : (abortLine s p e).rx = s.rx := (abortLine_fr ..).only .rx rfl
@[simp] theorem abortLine_str : (abortLine s p e).str = s.str := (abortLine_fr ..).only .str rfl
@[simp] theorem abortLine_sg : (abortLine s p e).sg = s.sg := (abortLine_fr ..).only .sg rfl
@[simp] theorem abortLine_sk : (abortLine s p e).sk = s.sk := (abortLine_fr ..).only .sk rfl
@[simp] theorem abortLine_tw : (abortLine s p e).tw = s.tw := (abortLine_fr ..).only .tw rfl
@[simp] theorem abortLine_fs : (abortLine s p e).fs = s.fs := (abortLine_fr ..).only .fs rfl
@[simp] theorem abortLine_se : (abortLine s p e).se = s.se := (abortLine_fr ..).only .se rfl
@[simp] theorem abortLine_fuses : (abortLine s p e).fuses = s.fuses := (abortLine_fr ..).only .fuses rfl
@[simp] theorem abortLine_mg : (abortLine s p e).mg = s.mg := (abortLine_fr ..).only .mg rfl
@[simp] theorem abortLine_fences : (abortLine s p e).fences = s.fences := (abortLine_fr ..).only .fences rfl
@[simp] theorem abortLine_objs : (abortLine s p e).objs = s.objs := (abortLine_fr ..).only .objs rfl
@[simp] theorem abortLine_win0 : (abortLine s p e).win0 = s.win0 := (abortLine_fr ..).only .win0 rfl
@[simp] theorem abortLine_win1 : (abortLine s p e).win1 = s.win1 := (abortLine_fr ..).only .win1 rfl
@[simp] theorem abortLine_flash : (abortLine s p e).flash = s.flash := (abortLine_fr ..).only .flash rfl
@[simp] theorem abortLine_clock : (abortLine s p e).clock = s.clock := (abortLine_fr ..).only .clock rfl
@[simp] theorem abortLine_pending : (abortLine s p e).pending = s.pending := (abortLine_fr ..).only .pending rfl
end abortLine

section silencePort
variable (s : State) (p : Nat) (e : PortEnd)
@[simp] theorem silencePort_pads : (silencePort s p e).pads = s.pads := (silencePort_fr ..).only .pads rfl
@[simp] theorem silencePort_pw : (silencePort s p e).pw = s.pw := (silencePort_fr ..).only .pw rfl
@[simp] theorem silencePort_hl : (silencePort s p e).hl = s.hl := (silencePort_fr ..).only .hl rfl
@[simp] theorem silencePort_mb : (silencePort s p e).mb = s.mb := (silencePort_fr ..).only .mb rfl
@[simp] theorem silencePort_ld : (silencePort s p e).ld = s.ld := (silencePort_fr ..).only .ld rfl
@[simp] theorem silencePort_tm : (silencePort s p e).tm = s.tm := (silencePort_fr ..).only .tm rfl
@[simp] theorem silencePort_cal : (silencePort s p e).cal = s.cal := (silencePort_fr ..).only .cal rfl
@[simp] theorem silencePort_rx : (silencePort s p e).rx = s.rx := (silencePort_fr ..).only .rx rfl
@[simp] theorem silencePort_str : (silencePort s p e).str = s.str := (silencePort_fr ..).only .str rfl
@[simp] theorem silencePort_sg : (silencePort s p e).sg = s.sg := (silencePort_fr ..).only .sg rfl
@[simp] theorem silencePort_sk : (silencePort s p e).sk = s.sk := (silencePort_fr ..).only .sk rfl
@[simp] theorem silencePort_tw : (silencePort s p e).tw = s.tw := (silencePort_fr ..).only .tw rfl
@[simp] theorem silencePort_fs : (silencePort s p e).fs = s.fs := (silencePort_fr ..).only .fs rfl
@[simp] theorem silencePort_se : (silencePort s p e).se = s.se := (silencePort_fr ..).only .se rfl
@[simp] theorem silencePort_fuses : (silencePort s p e).fuses = s.fuses := (silencePort_fr ..).only .fuses rfl
@[simp] theorem silencePort_mg : (silencePort s p e).mg = s.mg := (silencePort_fr ..).only .mg rfl
@[simp] theorem silencePort_fences : (silencePort s p e).fences = s.fences := (silencePort_fr ..).only .fences rfl
@[simp] theorem silencePort_objs : (silencePort s p e).objs = s.objs := (silencePort_fr ..).only .objs rfl
@[simp] theorem silencePort_win0 : (silencePort s p e).win0 = s.win0 := (silencePort_fr ..).only .win0 rfl
@[simp] theorem silencePort_win1 : (silencePort s p e).win1 = s.win1 := (silencePort_fr ..).only .win1 rfl
@[simp] theorem silencePort_flash : (silencePort s p e).flash = s.flash := (silencePort_fr ..).only .flash rfl
@[simp] theorem silencePort_clock : (silencePort s p e).clock = s.clock := (silencePort_fr ..).only .clock rfl
@[simp] theorem silencePort_pending : (silencePort s p e).pending = s.pending := (silencePort_fr ..).only .pending rfl
end silencePort

section segQuiet
variable (s : State) (i : Nat)
@[simp] theorem segQuiet_pw : (segQuiet s i).pw = s.pw := (segQuiet_fr ..).only .pw rfl
@[simp] theorem segQuiet_hl : (segQuiet s i).hl = s.hl := (segQuiet_fr ..).only .hl rfl
@[simp] theorem segQuiet_qs : (segQuiet s i).qs = s.qs := (segQuiet_fr ..).only .qs rfl
@[simp] theorem segQuiet_mb : (segQuiet s i).mb = s.mb := (segQuiet_fr ..).only .mb rfl
@[simp] theorem segQuiet_ld : (segQuiet s i).ld = s.ld := (segQuiet_fr ..).only .ld rfl
@[simp] theorem segQuiet_tm : (segQuiet s i).tm = s.tm := (segQuiet_fr ..).only .tm rfl
@[simp] theorem segQuiet_cal : (segQuiet s i).cal = s.cal := (segQuiet_fr ..).only .cal rfl
@[simp] theorem segQuiet_tx : (segQuiet s i).tx = s.tx := (segQuiet_fr ..).only .tx rfl
@[simp] theorem segQuiet_rx : (segQuiet s i).rx = s.rx := (segQuiet_fr ..).only .rx rfl
@[simp] theorem segQuiet_str : (segQuiet s i).str = s.str := (segQuiet_fr ..).only .str rfl
@[simp] theorem segQuiet_sk : (segQuiet s i).sk = s.sk := (segQuiet_fr ..).only .sk rfl
@[simp] theorem segQuiet_tw : (segQuiet s i).tw = s.tw := (segQuiet_fr ..).only .tw rfl
@[simp] theorem segQuiet_fs : (segQuiet s i).fs = s.fs := (segQuiet_fr ..).only .fs rfl
@[simp] theorem segQuiet_se : (segQuiet s i).se = s.se := (segQuiet_fr ..).only .se rfl
@[simp] theorem segQuiet_fuses : (segQuiet s i).fuses = s.fuses := (segQuiet_fr ..).only .fuses rfl
@[simp] theorem segQuiet_mg : (segQuiet s i).mg = s.mg := (segQuiet_fr ..).only .mg rfl
@[simp] theorem segQuiet_fences : (segQuiet s i).fences = s.fences := (segQuiet_fr ..).only .fences rfl
@[simp] theorem segQuiet_objs : (segQuiet s i).objs = s.objs := (segQuiet_fr ..).only .objs rfl
@[simp] theorem segQuiet_win0 : (segQuiet s i).win0 = s.win0 := (segQuiet_fr ..).only .win0 rfl
@[simp] theorem segQuiet_win1 : (segQuiet s i).win1 = s.win1 := (segQuiet_fr ..).only .win1 rfl
@[simp] theorem segQuiet_flash : (segQuiet s i).flash = s.flash := (segQuiet_fr ..).only .flash rfl
@[simp] theorem segQuiet_cnt : (segQuiet s i).cnt = s.cnt := (segQuiet_fr ..).only .cnt rfl
@[simp] theorem segQuiet_clock : (segQuiet s i).clock = s.clock := (segQuiet_fr ..).only .clock rfl
@[simp] theorem segQuiet_freeIx : (segQuiet s i).freeIx = s.freeIx := (segQuiet_fr ..).only .freeIx rfl
@[simp] theorem segQuiet_pending : (segQuiet s i).pending = s.pending := (segQuiet_fr ..).only .pending rfl
end segQuiet

section reactF3
variable (s : State) (n : Nat)
@[simp] theorem reactF3_pw : (reactF3 s n).pw = s.pw := (reactF3_fr ..).only .pw rfl
@[simp] theorem reactF3_hl : (reactF3 s n).hl = s.hl := (reactF3_fr ..).only .hl rfl
@[simp] theorem reactF3_mb : (reactF3 s n).mb = s.mb := (reactF3_fr ..).only .mb rfl
@[simp] theorem reactF3_ld : (reactF3 s n).ld = s.ld := (reactF3_fr ..).only .ld rfl
@[simp] theorem reactF3_tm : (reactF3 s n).tm = s.tm := (reactF3_fr ..).only .tm rfl
@[simp] theorem reactF3_cal : (reactF3 s n).cal = s.cal := (reactF3_fr ..).only .cal rfl
@[simp] theorem reactF3_rx : (reactF3 s n).rx = s.rx := (reactF3_fr ..).only .rx rfl
@[simp] theorem reactF3_str : (reactF3 s n).str = s.str := (reactF3_fr ..).only .str rfl
@[simp] theorem reactF3_sk : (reactF3 s n).sk = s.sk := (reactF3_fr ..).only .sk rfl
@[simp] theorem reactF3_tw : (reactF3 s n).tw = s.tw := (reactF3_fr ..).only .tw rfl
@[simp] theorem reactF3_se : (reactF3 s n).se = s.se := (reactF3_fr ..).only .se rfl
@[simp] theorem reactF3_fuses : (reactF3 s n).fuses = s.fuses := (reactF3_fr ..).only .fuses rfl
@[simp] theorem reactF3_mg : (reactF3 s n).mg = s.mg := (reactF3_fr ..).only .mg rfl
@[simp] theorem reactF3_fences : (reactF3 s n).fences = s.fences := (reactF3_fr ..).only .fences rfl
@[simp] theorem reactF3_objs : (reactF3 s n).objs = s.objs := (reactF3_fr ..).only .objs rfl
@[simp] theorem reactF3_win0 : (reactF3 s n).win0 = s.win0 := (reactF3_fr ..).only .win0 rfl
@[simp] theorem reactF3_win1 : (reactF3 s n).win1 = s.win1 := (reactF3_fr ..).only .win1 rfl
@[simp] theorem reactF3_flash : (reactF3 s n).flash = s.flash := (reactF3_fr ..).only .flash rfl
@[simp] theorem reactF3_clock : (reactF3 s n).clock = s.clock := (reactF3_fr ..).only .clock rfl
@[simp] theorem reactF3_pending : (reactF3 s n).pending = s.pending := (reactF3_fr ..).only .pending rfl
end reactF3

section reactF4
variable (s : State)
@[simp] theorem reactF4_pw : (reactF4 s).pw = s.pw := (reactF4_fr ..).only .pw rfl
@[simp] theorem reactF4_tm : (reactF4 s).tm = s.tm := (reactF4_fr ..).only .tm rfl
@[simp] theorem reactF4_cal : (reactF4 s).cal = s.cal := (reactF4_fr ..).only .cal rfl
@[simp] theorem reactF4_rx : (reactF4 s).rx = s.rx := (reactF4_fr ..).only .rx rfl
@[simp] theorem reactF4_str : (reactF4 s).str = s.str := (reactF4_fr ..).only .str rfl
@[simp] theorem reactF4_fuses : (reactF4 s).fuses = s.fuses := (reactF4_fr ..).only .fuses rfl
@[simp] theorem reactF4_fences : (reactF4 s).fences = s.fences := (reactF4_fr ..).only .fences rfl
@[simp] theorem reactF4_objs : (reactF4 s).objs = s.objs := (reactF4_fr ..).only .objs rfl
@[simp] theorem reactF4_win1 : (reactF4 s).win1 = s.win1 := (reactF4_fr ..).only .win1 rfl
@[simp] theorem reactF4_flash : (reactF4 s).flash = s.flash := (reactF4_fr ..).only .flash rfl
@[simp] theorem reactF4_clock : (reactF4 s).clock = s.clock := (reactF4_fr ..).only .clock rfl
@[simp] theorem reactF4_pending : (reactF4 s).pending = s.pending := (reactF4_fr ..).only .pending rfl
end reactF4

section latchFault
variable (s : State) (n : Nat) (cls : Nat) (inj : Bool)
@[simp] theorem latchFault_pads : (latchFault s n cls inj).pads = s.pads := (latchFault_fr ..).only .pads rfl
@[simp] theorem latchFault_pw : (latchFault s n cls inj).pw = s.pw := (latchFault_fr ..).only .pw rfl
@[simp] theorem latchFault_hl : (latchFault s n cls inj).hl = s.hl := (latchFault_fr ..).only .hl rfl
@[simp] theorem latchFault_qs : (latchFault s n cls inj).qs = s.qs := (latchFault_fr ..).only .qs rfl
@[simp] theorem latchFault_mb : (latchFault s n cls inj).mb = s.mb := (latchFault_fr ..).only .mb rfl
@[simp] theorem latchFault_ld : (latchFault s n cls inj).ld = s.ld := (latchFault_fr ..).only .ld rfl
@[simp] theorem latchFault_tm : (latchFault s n cls inj).tm = s.tm := (latchFault_fr ..).only .tm rfl
@[simp] theorem latchFault_cal : (latchFault s n cls inj).cal = s.cal := (latchFault_fr ..).only .cal rfl
@[simp] theorem latchFault_tx : (latchFault s n cls inj).tx = s.tx := (latchFault_fr ..).only .tx rfl
@[simp] theorem latchFault_rx : (latchFault s n cls inj).rx = s.rx := (latchFault_fr ..).only .rx rfl
@[simp] theorem latchFault_str : (latchFault s n cls inj).str = s.str := (latchFault_fr ..).only .str rfl
@[simp] theorem latchFault_sg : (latchFault s n cls inj).sg = s.sg := (latchFault_fr ..).only .sg rfl
@[simp] theorem latchFault_sk : (latchFault s n cls inj).sk = s.sk := (latchFault_fr ..).only .sk rfl
@[simp] theorem latchFault_tw : (latchFault s n cls inj).tw = s.tw := (latchFault_fr ..).only .tw rfl
@[simp] theorem latchFault_se : (latchFault s n cls inj).se = s.se := (latchFault_fr ..).only .se rfl
@[simp] theorem latchFault_fuses : (latchFault s n cls inj).fuses = s.fuses := (latchFault_fr ..).only .fuses rfl
@[simp] theorem latchFault_mg : (latchFault s n cls inj).mg = s.mg := (latchFault_fr ..).only .mg rfl
@[simp] theorem latchFault_fences : (latchFault s n cls inj).fences = s.fences := (latchFault_fr ..).only .fences rfl
@[simp] theorem latchFault_objs : (latchFault s n cls inj).objs = s.objs := (latchFault_fr ..).only .objs rfl
@[simp] theorem latchFault_win0 : (latchFault s n cls inj).win0 = s.win0 := (latchFault_fr ..).only .win0 rfl
@[simp] theorem latchFault_win1 : (latchFault s n cls inj).win1 = s.win1 := (latchFault_fr ..).only .win1 rfl
@[simp] theorem latchFault_flash : (latchFault s n cls inj).flash = s.flash := (latchFault_fr ..).only .flash rfl
@[simp] theorem latchFault_cnt : (latchFault s n cls inj).cnt = s.cnt := (latchFault_fr ..).only .cnt rfl
@[simp] theorem latchFault_clock : (latchFault s n cls inj).clock = s.clock := (latchFault_fr ..).only .clock rfl
@[simp] theorem latchFault_freeIx : (latchFault s n cls inj).freeIx = s.freeIx := (latchFault_fr ..).only .freeIx rfl
@[simp] theorem latchFault_outs : (latchFault s n cls inj).outs = s.outs := (latchFault_fr ..).only .outs rfl
@[simp] theorem latchFault_pending : (latchFault s n cls inj).pending = s.pending := (latchFault_fr ..).only .pending rfl
end latchFault

section modSrc
variable (s : State) (n : Nat) (f : Source → Source)
@[simp] theorem modSrc_pads : (modSrc s n f).pads = s.pads := (modSrc_fr ..).only .pads rfl
@[simp] theorem modSrc_pw : (modSrc s n f).pw = s.pw := (modSrc_fr ..).only .pw rfl
@[simp] theorem modSrc_hl : (modSrc s n f).hl = s.hl := (modSrc_fr ..).only .hl rfl
@[simp] theorem modSrc_qs : (modSrc s n f).qs = s.qs := (modSrc_fr ..).only .qs rfl
@[simp] theorem modSrc_mb : (modSrc s n f).mb = s.mb := (modSrc_fr ..).only .mb rfl
@[simp] theorem modSrc_ld : (modSrc s n f).ld = s.ld := (modSrc_fr ..).only .ld rfl
@[simp] theorem modSrc_tm : (modSrc s n f).tm = s.tm := (modSrc_fr ..).only .tm rfl
@[simp] theorem modSrc_cal : (modSrc s n f).cal = s.cal := (modSrc_fr ..).only .cal rfl
@[simp] theorem modSrc_tx : (modSrc s n f).tx = s.tx := (modSrc_fr ..).only .tx rfl
@[simp] theorem modSrc_rx : (modSrc s n f).rx = s.rx := (modSrc_fr ..).only .rx rfl
@[simp] theorem modSrc_str : (modSrc s n f).str = s.str := (modSrc_fr ..).only .str rfl
@[simp] theorem modSrc_sg : (modSrc s n f).sg = s.sg := (modSrc_fr ..).only .sg rfl
@[simp] theorem modSrc_sk : (modSrc s n f).sk = s.sk := (modSrc_fr ..).only .sk rfl
@[simp] theorem modSrc_tw : (modSrc s n f).tw = s.tw := (modSrc_fr ..).only .tw rfl
@[simp] theorem modSrc_se : (modSrc s n f).se = s.se := (modSrc_fr ..).only .se rfl
@[simp] theorem modSrc_fuses : (modSrc s n f).fuses = s.fuses := (modSrc_fr ..).only .fuses rfl
@[simp] theorem modSrc_mg : (modSrc s n f).mg = s.mg := (modSrc_fr ..).only .mg rfl
@[simp] theorem modSrc_fences : (modSrc s n f).fences = s.fences := (modSrc_fr ..).only .fences rfl
@[simp] theorem modSrc_objs : (modSrc s n f).objs = s.objs := (modSrc_fr ..).only .objs rfl
@[simp] theorem modSrc_win0 : (modSrc s n f).win0 = s.win0 := (modSrc_fr ..).only .win0 rfl
@[simp] theorem modSrc_win1 : (modSrc s n f).win1 = s.win1 := (modSrc_fr ..).only .win1 rfl
@[simp] theorem modSrc_flash : (modSrc s n f).flash = s.flash := (modSrc_fr ..).only .flash rfl
@[simp] theorem modSrc_cnt : (modSrc s n f).cnt = s.cnt := (modSrc_fr ..).only .cnt rfl
@[simp] theorem modSrc_clock : (modSrc s n f).clock = s.clock := (modSrc_fr ..).only .clock rfl
@[simp] theorem modSrc_freeIx : (modSrc s n f).freeIx = s.freeIx := (modSrc_fr ..).only .freeIx rfl
@[simp] theorem modSrc_outs : (modSrc s n f).outs = s.outs := (modSrc_fr ..).only .outs rfl
@[simp] theorem modSrc_pending : (modSrc s n f).pending = s.pending := (modSrc_fr ..).only .pending rfl
end modSrc

section setSafeN
variable (s : State) (high : Bool)
@[simp] theorem setSafeN_pw : (setSafeN s high).pw = s.pw := (setSafeN_fr ..).only .pw rfl
@[simp] theorem setSafeN_hl : (setSafeN s high).hl = s.hl := (setSafeN_fr ..).only .hl rfl
@[simp] theorem setSafeN_qs : (setSafeN s high).qs = s.qs := (setSafeN_fr ..).only .qs rfl
@[simp] theorem setSafeN_mb : (setSafeN s high).mb = s.mb := (setSafeN_fr ..).only .mb rfl
@[simp] theorem setSafeN_ld : (setSafeN s high).ld = s.ld := (setSafeN_fr ..).only .ld rfl
@[simp] theorem setSafeN_tm : (setSafeN s high).tm = s.tm := (setSafeN_fr ..).only .tm rfl
@[simp] theorem setSafeN_cal : (setSafeN s high).cal = s.cal := (setSafeN_fr ..).only .cal rfl
@[simp] theorem setSafeN_tx : (setSafeN s high).tx = s.tx := (setSafeN_fr ..).only .tx rfl
@[simp] theorem setSafeN_rx : (setSafeN s high).rx = s.rx := (setSafeN_fr ..).only .rx rfl
@[simp] theorem setSafeN_str : (setSafeN s high).str = s.str := (setSafeN_fr ..).only .str rfl
@[simp] theorem setSafeN_sg : (setSafeN s high).sg = s.sg := (setSafeN_fr ..).only .sg rfl
@[simp] theorem setSafeN_sk : (setSafeN s high).sk = s.sk := (setSafeN_fr ..).only .sk rfl
@[simp] theorem setSafeN_tw : (setSafeN s high).tw = s.tw := (setSafeN_fr ..).only .tw rfl
@[simp] theorem setSafeN_se : (setSafeN s high).se = s.se := (setSafeN_fr ..).only .se rfl
@[simp] theorem setSafeN_fuses : (setSafeN s high).fuses = s.fuses := (setSafeN_fr ..).only .fuses rfl
@[simp] theorem setSafeN_mg : (setSafeN s high).mg = s.mg := (setSafeN_fr ..).only .mg rfl
@[simp] theorem setSafeN_fences : (setSafeN s high).fences = s.fences := (setSafeN_fr ..).only .fences rfl
@[simp] theorem setSafeN_objs : (setSafeN s high).objs = s.objs := (setSafeN_fr ..).only .objs rfl
@[simp] theorem setSafeN_win0 : (setSafeN s high).win0 = s.win0 := (setSafeN_fr ..).only .win0 rfl
@[simp] theorem setSafeN_win1 : (setSafeN s high).win1 = s.win1 := (setSafeN_fr ..).only .win1 rfl
@[simp] theorem setSafeN_flash : (setSafeN s high).flash = s.flash := (setSafeN_fr ..).only .flash rfl
@[simp] theorem setSafeN_cnt : (setSafeN s high).cnt = s.cnt := (setSafeN_fr ..).only .cnt rfl
@[simp] theorem setSafeN_clock : (setSafeN s high).clock = s.clock := (setSafeN_fr ..).only .clock rfl
@[simp] theorem setSafeN_freeIx : (setSafeN s high).freeIx = s.freeIx := (setSafeN_fr ..).only .freeIx rfl
@[simp] theorem setSafeN_outs : (setSafeN s high).outs = s.outs := (setSafeN_fr ..).only .outs rfl
@[simp] theorem setSafeN_pending : (setSafeN s high).pending = s.pending := (setSafeN_fr ..).only .pending rfl
end setSafeN

section raiseAlarm
variable (s : State) (a : Nat)
@[simp] theorem raiseAlarm_pw : (raiseAlarm s a).pw = s.pw := (raiseAlarm_fr ..).only .pw rfl
@[simp] theorem raiseAlarm_cal : (raiseAlarm s a).cal = s.cal := (raiseAlarm_fr ..).only .cal rfl
@[simp] theorem raiseAlarm_rx : (raiseAlarm s a).rx = s.rx := (raiseAlarm_fr ..).only .rx rfl
@[simp] theorem raiseAlarm_str : (raiseAlarm s a).str = s.str := (raiseAlarm_fr ..).only .str rfl
@[simp] theorem raiseAlarm_fuses : (raiseAlarm s a).fuses = s.fuses := (raiseAlarm_fr ..).only .fuses rfl
@[simp] theorem raiseAlarm_fences : (raiseAlarm s a).fences = s.fences := (raiseAlarm_fr ..).only .fences rfl
@[simp] theorem raiseAlarm_win1 : (raiseAlarm s a).win1 = s.win1 := (raiseAlarm_fr ..).only .win1 rfl
@[simp] theorem raiseAlarm_flash : (raiseAlarm s a).flash = s.flash := (raiseAlarm_fr ..).only .flash rfl
@[simp] theorem raiseAlarm_clock : (raiseAlarm s a).clock = s.clock := (raiseAlarm_fr ..).only .clock rfl
@[simp] theorem raiseAlarm_pending : (raiseAlarm s a).pending = s.pending := (raiseAlarm_fr ..).only .pending rfl
end raiseAlarm

section burnFuse
variable (s : State) (k : Nat)
@[simp] theorem burnFuse_pads : (burnFuse s k).pads = s.pads := (burnFuse_fr ..).only .pads rfl
@[simp] theorem burnFuse_pw : (burnFuse s k).pw = s.pw := (burnFuse_fr ..).only .pw rfl
@[simp] theorem burnFuse_hl : (burnFuse s k).hl = s.hl := (burnFuse_fr ..).only .hl rfl
@[simp] theorem burnFuse_qs : (burnFuse s k).qs = s.qs := (burnFuse_fr ..).only .qs rfl
@[simp] theorem burnFuse_mb : (burnFuse s k).mb = s.mb := (burnFuse_fr ..).only .mb rfl
@[simp] theorem burnFuse_ld : (burnFuse s k).ld = s.ld := (burnFuse_fr ..).only .ld rfl
@[simp] theorem burnFuse_tm : (burnFuse s k).tm = s.tm := (burnFuse_fr ..).only .tm rfl
@[simp] theorem burnFuse_cal : (burnFuse s k).cal = s.cal := (burnFuse_fr ..).only .cal rfl
@[simp] theorem burnFuse_tx : (burnFuse s k).tx = s.tx := (burnFuse_fr ..).only .tx rfl
@[simp] theorem burnFuse_rx : (burnFuse s k).rx = s.rx := (burnFuse_fr ..).only .rx rfl
@[simp] theorem burnFuse_str : (burnFuse s k).str = s.str := (burnFuse_fr ..).only .str rfl
@[simp] theorem burnFuse_sg : (burnFuse s k).sg = s.sg := (burnFuse_fr ..).only .sg rfl
@[simp] theorem burnFuse_sk : (burnFuse s k).sk = s.sk := (burnFuse_fr ..).only .sk rfl
@[simp] theorem burnFuse_tw : (burnFuse s k).tw = s.tw := (burnFuse_fr ..).only .tw rfl
@[simp] theorem burnFuse_fs : (burnFuse s k).fs = s.fs := (burnFuse_fr ..).only .fs rfl
@[simp] theorem burnFuse_se : (burnFuse s k).se = s.se := (burnFuse_fr ..).only .se rfl
@[simp] theorem burnFuse_mg : (burnFuse s k).mg = s.mg := (burnFuse_fr ..).only .mg rfl
@[simp] theorem burnFuse_fences : (burnFuse s k).fences = s.fences := (burnFuse_fr ..).only .fences rfl
@[simp] theorem burnFuse_objs : (burnFuse s k).objs = s.objs := (burnFuse_fr ..).only .objs rfl
@[simp] theorem burnFuse_win0 : (burnFuse s k).win0 = s.win0 := (burnFuse_fr ..).only .win0 rfl
@[simp] theorem burnFuse_win1 : (burnFuse s k).win1 = s.win1 := (burnFuse_fr ..).only .win1 rfl
@[simp] theorem burnFuse_flash : (burnFuse s k).flash = s.flash := (burnFuse_fr ..).only .flash rfl
@[simp] theorem burnFuse_cnt : (burnFuse s k).cnt = s.cnt := (burnFuse_fr ..).only .cnt rfl
@[simp] theorem burnFuse_clock : (burnFuse s k).clock = s.clock := (burnFuse_fr ..).only .clock rfl
@[simp] theorem burnFuse_freeIx : (burnFuse s k).freeIx = s.freeIx := (burnFuse_fr ..).only .freeIx rfl
@[simp] theorem burnFuse_outs : (burnFuse s k).outs = s.outs := (burnFuse_fr ..).only .outs rfl
@[simp] theorem burnFuse_pending : (burnFuse s k).pending = s.pending := (burnFuse_fr ..).only .pending rfl
end burnFuse

section objWrite
variable (s : State) (oid : Nat) (off : Nat) (b : Bytes)
@[simp] theorem objWrite_pads : (objWrite s oid off b).pads = s.pads := (objWrite_fr ..).only .pads rfl
@[simp] theorem objWrite_pw : (objWrite s oid off b).pw = s.pw := (objWrite_fr ..).only .pw rfl
@[simp] theorem objWrite_hl : (objWrite s oid off b).hl = s.hl := (objWrite_fr ..).only .hl rfl
@[simp] theorem objWrite_qs : (objWrite s oid off b).qs = s.qs := (objWrite_fr ..).only .qs rfl
@[simp] theorem objWrite_mb : (objWrite s oid off b).mb = s.mb := (objWrite_fr ..).only .mb rfl
@[simp] theorem objWrite_ld : (objWrite s oid off b).ld = s.ld := (objWrite_fr ..).only .ld rfl
@[simp] theorem objWrite_tm : (objWrite s oid off b).tm = s.tm := (objWrite_fr ..).only .tm rfl
@[simp] theorem objWrite_cal : (objWrite s oid off b).cal = s.cal := (objWrite_fr ..).only .cal rfl
@[simp] theorem objWrite_tx : (objWrite s oid off b).tx = s.tx := (objWrite_fr ..).only .tx rfl
@[simp] theorem objWrite_rx : (objWrite s oid off b).rx = s.rx := (objWrite_fr ..).only .rx rfl
@[simp] theorem objWrite_str : (objWrite s oid off b).str = s.str := (objWrite_fr ..).only .str rfl
@[simp] theorem objWrite_sg : (objWrite s oid off b).sg = s.sg := (objWrite_fr ..).only .sg rfl
@[simp] theorem objWrite_sk : (objWrite s oid off b).sk = s.sk := (objWrite_fr ..).only .sk rfl
@[simp] theorem objWrite_tw : (objWrite s oid off b).tw = s.tw := (objWrite_fr ..).only .tw rfl
@[simp] theorem objWrite_fs : (objWrite s oid off b).fs = s.fs := (objWrite_fr ..).only .fs rfl
@[simp] theorem objWrite_se : (objWrite s oid off b).se = s.se := (objWrite_fr ..).only .se rfl
@[simp] theorem objWrite_fuses : (objWrite s oid off b).fuses = s.fuses := (objWrite_fr ..).only .fuses rfl
@[simp] theorem objWrite_mg : (objWrite s oid off b).mg = s.mg := (objWrite_fr ..).only .mg rfl
@[simp] theorem objWrite_fences : (objWrite s oid off b).fences = s.fences := (objWrite_fr ..).only .fences rfl
@[simp] theorem objWrite_win0 : (objWrite s oid off b).win0 = s.win0 := (objWrite_fr ..).only .win0 rfl
@[simp] theorem objWrite_win1 : (objWrite s oid off b).win1 = s.win1 := (objWrite_fr ..).only .win1 rfl
@[simp] theorem objWrite_flash : (objWrite s oid off b).flash = s.flash := (objWrite_fr ..).only .flash rfl
@[simp] theorem objWrite_cnt : (objWrite s oid off b).cnt = s.cnt := (objWrite_fr ..).only .cnt rfl
@[simp] theorem objWrite_clock : (objWrite s oid off b).clock = s.clock := (objWrite_fr ..).only .clock rfl
@[simp] theorem objWrite_freeIx : (objWrite s oid off b).freeIx = s.freeIx := (objWrite_fr ..).only .freeIx rfl
@[simp] theorem objWrite_outs : (objWrite s oid off b).outs = s.outs := (objWrite_fr ..).only .outs rfl
@[simp] theorem objWrite_pending : (objWrite s oid off b).pending = s.pending := (objWrite_fr ..).only .pending rfl
end objWrite

section plan
variable (s : State) (l : List (Bool × Nat × Move))
@[simp] theorem plan_pw : (plan s l).pw = s.pw := (plan_fr ..).only .pw rfl
@[simp] theorem plan_cal : (plan s l).cal = s.cal := (plan_fr ..).only .cal rfl
@[simp] theorem plan_rx : (plan s l).rx = s.rx := (plan_fr ..).only .rx rfl
@[simp] theorem plan_str : (plan s l).str = s.str := (plan_fr ..).only .str rfl
@[simp] theorem plan_fuses : (plan s l).fuses = s.fuses := (plan_fr ..).only .fuses rfl
@[simp] theorem plan_fences : (plan s l).fences = s.fences := (plan_fr ..).only .fences rfl
@[simp] theorem plan_win1 : (plan s l).win1 = s.win1 := (plan_fr ..).only .win1 rfl
@[simp] theorem plan_flash : (plan s l).flash = s.flash := (plan_fr ..).only .flash rfl
@[simp] theorem plan_clock : (plan s l).clock = s.clock := (plan_fr ..).only .clock rfl
@[simp] theorem plan_pending : (plan s l).pending = s.pending := (plan_fr ..).only .pending rfl
end plan

section advance
variable (s : State)
@[simp] theorem advance_pw : (advance s).pw = s.pw := (advance_fr ..).only .pw rfl
@[simp] theorem advance_cal : (advance s).cal = s.cal := (advance_fr ..).only .cal rfl
@[simp] theorem advance_rx : (advance s).rx = s.rx := (advance_fr ..).only .rx rfl
@[simp] theorem advance_str : (advance s).str = s.str := (advance_fr ..).only .str rfl
@[simp] theorem advance_fuses : (advance s).fuses = s.fuses := (advance_fr ..).only .fuses rfl
@[simp] theorem advance_fences : (advance s).fences = s.fences := (advance_fr ..).only .fences rfl
@[simp] theorem advance_win1 : (advance s).win1 = s.win1 := (advance_fr ..).only .win1 rfl
@[simp] theorem advance_flash : (advance s).flash = s.flash := (advance_fr ..).only .flash rfl
@[simp] theorem advance_clock : (advance s).clock = s.clock := (advance_fr ..).only .clock rfl
@[simp] theorem advance_pending : (advance s).pending = s.pending := (advance_fr ..).only .pending rfl
end advance

section gafferReset
variable (s : State)
@[simp] theorem gafferReset_pads : (gafferReset s).pads = s.pads := (gafferReset_fr ..).only .pads rfl
@[simp] theorem gafferReset_pw : (gafferReset s).pw = s.pw := (gafferReset_fr ..).only .pw rfl
@[simp] theorem gafferReset_qs : (gafferReset s).qs = s.qs := (gafferReset_fr ..).only .qs rfl
@[simp] theorem gafferReset_tm : (gafferReset s).tm = s.tm := (gafferReset_fr ..).only .tm rfl
@[simp] theorem gafferReset_cal : (gafferReset s).cal = s.cal := (gafferReset_fr ..).only .cal rfl
@[simp] theorem gafferReset_rx : (gafferReset s).rx = s.rx := (gafferReset_fr ..).only .rx rfl
@[simp] theorem gafferReset_str : (gafferReset s).str = s.str := (gafferReset_fr ..).only .str rfl
@[simp] theorem gafferReset_sg : (gafferReset s).sg = s.sg := (gafferReset_fr ..).only .sg rfl
@[simp] theorem gafferReset_sk : (gafferReset s).sk = s.sk := (gafferReset_fr ..).only .sk rfl
@[simp] theorem gafferReset_tw : (gafferReset s).tw = s.tw := (gafferReset_fr ..).only .tw rfl
@[simp] theorem gafferReset_fuses : (gafferReset s).fuses = s.fuses := (gafferReset_fr ..).only .fuses rfl
@[simp] theorem gafferReset_fences : (gafferReset s).fences = s.fences := (gafferReset_fr ..).only .fences rfl
@[simp] theorem gafferReset_objs : (gafferReset s).objs = s.objs := (gafferReset_fr ..).only .objs rfl
@[simp] theorem gafferReset_win0 : (gafferReset s).win0 = s.win0 := (gafferReset_fr ..).only .win0 rfl
@[simp] theorem gafferReset_win1 : (gafferReset s).win1 = s.win1 := (gafferReset_fr ..).only .win1 rfl
@[simp] theorem gafferReset_flash : (gafferReset s).flash = s.flash := (gafferReset_fr ..).only .flash rfl
@[simp] theorem gafferReset_clock : (gafferReset s).clock = s.clock := (gafferReset_fr ..).only .clock rfl
@[simp] theorem gafferReset_freeIx : (gafferReset s).freeIx = s.freeIx := (gafferReset_fr ..).only .freeIx rfl
@[simp] theorem gafferReset_pending : (gafferReset s).pending = s.pending := (gafferReset_fr ..).only .pending rfl
end gafferReset

section loseStage
variable (s : State)
@[simp] theorem loseStage_pads : (loseStage s).pads = s.pads := (loseStage_fr ..).only .pads rfl
@[simp] theorem loseStage_pw : (loseStage s).pw = s.pw := (loseStage_fr ..).only .pw rfl
@[simp] theorem loseStage_hl : (loseStage s).hl = s.hl := (loseStage_fr ..).only .hl rfl
@[simp] theorem loseStage_qs : (loseStage s).qs = s.qs := (loseStage_fr ..).only .qs rfl
@[simp] theorem loseStage_tm : (loseStage s).tm = s.tm := (loseStage_fr ..).only .tm rfl
@[simp] theorem loseStage_cal : (loseStage s).cal = s.cal := (loseStage_fr ..).only .cal rfl
@[simp] theorem loseStage_rx : (loseStage s).rx = s.rx := (loseStage_fr ..).only .rx rfl
@[simp] theorem loseStage_str : (loseStage s).str = s.str := (loseStage_fr ..).only .str rfl
@[simp] theorem loseStage_sg : (loseStage s).sg = s.sg := (loseStage_fr ..).only .sg rfl
@[simp] theorem loseStage_sk : (loseStage s).sk = s.sk := (loseStage_fr ..).only .sk rfl
@[simp] theorem loseStage_tw : (loseStage s).tw = s.tw := (loseStage_fr ..).only .tw rfl
@[simp] theorem loseStage_se : (loseStage s).se = s.se := (loseStage_fr ..).only .se rfl
@[simp] theorem loseStage_fuses : (loseStage s).fuses = s.fuses := (loseStage_fr ..).only .fuses rfl
@[simp] theorem loseStage_mg : (loseStage s).mg = s.mg := (loseStage_fr ..).only .mg rfl
@[simp] theorem loseStage_fences : (loseStage s).fences = s.fences := (loseStage_fr ..).only .fences rfl
@[simp] theorem loseStage_objs : (loseStage s).objs = s.objs := (loseStage_fr ..).only .objs rfl
@[simp] theorem loseStage_win0 : (loseStage s).win0 = s.win0 := (loseStage_fr ..).only .win0 rfl
@[simp] theorem loseStage_win1 : (loseStage s).win1 = s.win1 := (loseStage_fr ..).only .win1 rfl
@[simp] theorem loseStage_flash : (loseStage s).flash = s.flash := (loseStage_fr ..).only .flash rfl
@[simp] theorem loseStage_cnt : (loseStage s).cnt = s.cnt := (loseStage_fr ..).only .cnt rfl
@[simp] theorem loseStage_clock : (loseStage s).clock = s.clock := (loseStage_fr ..).only .clock rfl
@[simp] theorem loseStage_freeIx : (loseStage s).freeIx = s.freeIx := (loseStage_fr ..).only .freeIx rfl
@[simp] theorem loseStage_outs : (loseStage s).outs = s.outs := (loseStage_fr ..).only .outs rfl
@[simp] theorem loseStage_pending : (loseStage s).pending = s.pending := (loseStage_fr ..).only .pending rfl
end loseStage

section undoMoves
variable (s : State)
@[simp] theorem undoMoves_pads : (undoMoves s).pads = s.pads := (undoMoves_fr ..).only .pads rfl
@[simp] theorem undoMoves_pw : (undoMoves s).pw = s.pw := (undoMoves_fr ..).only .pw rfl
@[simp] theorem undoMoves_hl : (undoMoves s).hl = s.hl := (undoMoves_fr ..).only .hl rfl
@[simp] theorem undoMoves_qs : (undoMoves s).qs = s.qs := (undoMoves_fr ..).only .qs rfl
@[simp] theorem undoMoves_mb : (undoMoves s).mb = s.mb := (undoMoves_fr ..).only .mb rfl
@[simp] theorem undoMoves_tm : (undoMoves s).tm = s.tm := (undoMoves_fr ..).only .tm rfl
@[simp] theorem undoMoves_cal : (undoMoves s).cal = s.cal := (undoMoves_fr ..).only .cal rfl
@[simp] theorem undoMoves_tx : (undoMoves s).tx = s.tx := (undoMoves_fr ..).only .tx rfl
@[simp] theorem undoMoves_rx : (undoMoves s).rx = s.rx := (undoMoves_fr ..).only .rx rfl
@[simp] theorem undoMoves_str : (undoMoves s).str = s.str := (undoMoves_fr ..).only .str rfl
@[simp] theorem undoMoves_sg : (undoMoves s).sg = s.sg := (undoMoves_fr ..).only .sg rfl
@[simp] theorem undoMoves_sk : (undoMoves s).sk = s.sk := (undoMoves_fr ..).only .sk rfl
@[simp] theorem undoMoves_tw : (undoMoves s).tw = s.tw := (undoMoves_fr ..).only .tw rfl
@[simp] theorem undoMoves_fs : (undoMoves s).fs = s.fs := (undoMoves_fr ..).only .fs rfl
@[simp] theorem undoMoves_se : (undoMoves s).se = s.se := (undoMoves_fr ..).only .se rfl
@[simp] theorem undoMoves_fuses : (undoMoves s).fuses = s.fuses := (undoMoves_fr ..).only .fuses rfl
@[simp] theorem undoMoves_mg : (undoMoves s).mg = s.mg := (undoMoves_fr ..).only .mg rfl
@[simp] theorem undoMoves_fences : (undoMoves s).fences = s.fences := (undoMoves_fr ..).only .fences rfl
@[simp] theorem undoMoves_objs : (undoMoves s).objs = s.objs := (undoMoves_fr ..).only .objs rfl
@[simp] theorem undoMoves_win0 : (undoMoves s).win0 = s.win0 := (undoMoves_fr ..).only .win0 rfl
@[simp] theorem undoMoves_win1 : (undoMoves s).win1 = s.win1 := (undoMoves_fr ..).only .win1 rfl
@[simp] theorem undoMoves_flash : (undoMoves s).flash = s.flash := (undoMoves_fr ..).only .flash rfl
@[simp] theorem undoMoves_cnt : (undoMoves s).cnt = s.cnt := (undoMoves_fr ..).only .cnt rfl
@[simp] theorem undoMoves_clock : (undoMoves s).clock = s.clock := (undoMoves_fr ..).only .clock rfl
@[simp] theorem undoMoves_freeIx : (undoMoves s).freeIx = s.freeIx := (undoMoves_fr ..).only .freeIx rfl
@[simp] theorem undoMoves_outs : (undoMoves s).outs = s.outs := (undoMoves_fr ..).only .outs rfl
@[simp] theorem undoMoves_pending : (undoMoves s).pending = s.pending := (undoMoves_fr ..).only .pending rfl
end undoMoves


end Sys2Proof.Machine
end

