-- ==== Sys2Proof/Laws/Link.lean ====
section
/-! SUPPORT. What sending toward the host keeps: the registers a host reads are not touched by a
message on its way out, but for the bits of events that a write-back sent on the way is (R86). -/

namespace Sys2Proof.Machine

/-- What two states of the link share that no sending changes; a bit of EV_PEND that was set stays set. -/
structure SameRegs (a b : Link) : Prop where
  state : b.state = a.state
  flags : b.flags = a.flags
  ctrl : b.ctrl = a.ctrl
  evMask : b.evMask = a.evMask
  evPend : ∀ v, a.evPend.getLsbD v = true → b.evPend.getLsbD v = true
  trained : b.trained = a.trained
  training : b.training = a.training
  hostLost : b.hostLost = a.hostLost
  fwReady : b.fwReady = a.fwReady
  quiesce : b.quiesce = a.quiesce
  detach : b.detach = a.detach
  detachVia : b.detachVia = a.detachVia
  rate : b.rate = a.rate
  width : b.width = a.width
  half : b.half = a.half
  retrains : b.retrains = a.retrains
  losses : b.losses = a.losses
  dmaSaved : b.dmaSaved = a.dmaSaved
  cplTimeout : b.cplTimeout = a.cplTimeout
  err : b.err = a.err
  errHeld : b.errHeld = a.errHeld
  asked : b.asked = a.asked

theorem SameRegs.refl (a : Link) : SameRegs a a := by constructor <;> first | rfl | exact fun _ h => h

theorem SameRegs.trans {a b c : Link} (h : SameRegs a b) (k : SameRegs b c) : SameRegs a c := by
  cases h; cases k; constructor <;> simp_all

theorem takeCredit_same (l : Link) (m : Bytes) : SameRegs l (takeCredit l m) := by
  unfold takeCredit; split <;> constructor <;> first | rfl | exact fun _ h => h

theorem sendNumbered_same (s : State) (ty first : Nat) (area : Bytes) (ack : Nat) (v : Bool) :
    SameRegs s.hl (sendNumbered s ty first area ack v).hl := by constructor <;> first | rfl | exact fun _ h => h

theorem sendFlits_same (l : List Bytes) (s : State) (first : Nat) : SameRegs s.hl (sendFlits s first l).hl := by
  induction l generalizing s first with
  | nil => exact .refl _
  | cons a l ih => exact (sendNumbered_same ..).trans (ih _ _)

theorem evtLeft_same (s : State) (m : Bytes) : SameRegs s.hl (evtLeft s m).hl := by
  unfold evtLeft; split <;> constructor <;> first | rfl | exact fun _ h => h

theorem evtFree_same (s : State) (v : Nat) : SameRegs s.hl (evtFree s v).hl := by
  constructor <;> first | rfl | exact fun _ h => h

theorem queueMsg_same (s : State) (m : Bytes) (vec : Option Nat) : SameRegs s.hl (queueMsg s m vec).hl := by
  unfold queueMsg
  dsimp only
  split
  · constructor <;> first | rfl | exact fun _ h => h
  · exact .refl _

theorem evtQueue_same (s : State) (v : Nat) : SameRegs s.hl (evtQueue s v).hl := by
  unfold evtQueue
  split
  · exact evtFree_same ..
  · exact (evtFree_same ..).trans (queueMsg_same ..)

section go
variable {go : State → Nat → State} (hg : ∀ s v, SameRegs s.hl (go s v).hl)
include hg

theorem evtTryBy_same (s : State) (v : Nat) : SameRegs s.hl (evtTryBy go s v).hl := by
  unfold evtTryBy
  split
  · exact .refl _
  · dsimp only
    split
    · exact hg ..
    · constructor <;> first | rfl | exact fun _ h => h

/-- Raising an event keeps the registers, and sets the bit of its vector. -/
theorem raiseBy_same (s : State) (v : Nat) :
    SameRegs s.hl (raiseBy go s v).hl ∧ (v < 128 → (raiseBy go s v).hl.evPend.getLsbD v = true) := by
  unfold raiseBy
  split
  · rename_i h
    exact ⟨by constructor <;> first | rfl | exact fun _ h => h, fun _ => h⟩
  · have h := evtTryBy_same hg (s.modHl fun l =>
      { l with evPend := setBit l.evPend v true, evAgain := setBit l.evAgain v false,
               evSetAt := tset (fun _ => 0) l.evSetAt v (now48 s).toNat }) v
    refine ⟨.trans ?_ h, fun hv => h.evPend v (setBit_same _ _ _ hv)⟩
    constructor <;> first | rfl | exact fun w k => setBit_keeps _ _ _ k

end go

theorem msgLeft_same (s : State) (w : Waiting) : SameRegs s.hl (msgLeft s w).hl := by
  unfold msgLeft
  split
  · exact (evtLeft_same ..).trans (raiseBy_same evtQueue_same ..).1
  · exact evtLeft_same ..

theorem pumpFuel_same (k : Nat) (s : State) : SameRegs s.hl (pumpFuel k s).hl := by
  induction k generalizing s with
  | zero => exact .refl _
  | succ k ih =>
    unfold pumpFuel
    split
    · exact .refl _
    · split
      · exact .refl _
      · dsimp only
        split
        · exact .trans (by constructor <;> first | rfl | exact fun _ h => h) (ih _)
        · split
          · exact .refl _
          · refine .trans (.trans ?_ (sendFlits_same ..)) (.trans (msgLeft_same ..) (ih _))
            exact .trans (by constructor <;> first | rfl | exact fun _ h => h) (takeCredit_same ..)

theorem sendNak_same (s : State) : SameRegs s.hl (sendNak s).hl := by
  unfold sendNak
  split
  · constructor <;> first | rfl | exact fun _ h => h
  · rw [count_hl]
    exact .trans (by constructor <;> first | rfl | exact fun _ h => h) (sendNumbered_same ..)

theorem pump_same (s : State) : SameRegs s.hl (pump s).hl := by
  unfold pump
  refine .trans ?_ (pumpFuel_same ..)
  split
  · exact sendNak_same s
  · exact .refl _

theorem sendVec_same (s : State) (m : Bytes) (vec : Option Nat) : SameRegs s.hl (sendVec s m vec).hl := by
  unfold sendVec
  split
  · exact (queueMsg_same ..).trans (pump_same ..)
  · exact .refl _

theorem sendMsg_same (s : State) (m : Bytes) : SameRegs s.hl (sendMsg s m).hl := sendVec_same ..

theorem evtNow_same (s : State) (v : Nat) : SameRegs s.hl (evtNow s v).hl := by
  unfold evtNow
  split
  · exact evtFree_same ..
  · exact (evtFree_same ..).trans (sendMsg_same ..)

theorem evtTry_same (s : State) (v : Nat) : SameRegs s.hl (evtTry s v).hl := evtTryBy_same evtNow_same ..

/-- After an event the bit of its vector is set, and the registers of the link are as they were. -/
theorem raiseEvent_regs (s : State) (v : Nat) (hv : v < 128) :
    (raiseEvent s v).hl.evPend.getLsbD v = true ∧ (raiseEvent s v).hl.state = s.hl.state ∧
    (raiseEvent s v).hl.flags = s.hl.flags ∧ (raiseEvent s v).hl.ctrl = s.hl.ctrl ∧
    (raiseEvent s v).hl.trained = s.hl.trained ∧ (raiseEvent s v).hl.training = s.hl.training ∧
    (raiseEvent s v).hl.hostLost = s.hl.hostLost ∧ (raiseEvent s v).hl.fwReady = s.hl.fwReady ∧
    (raiseEvent s v).hl.quiesce = s.hl.quiesce := by
  have h := raiseBy_same evtNow_same s v
  exact ⟨h.2 hv, h.1.state, h.1.flags, h.1.ctrl, h.1.trained, h.1.training, h.1.hostLost, h.1.fwReady, h.1.quiesce⟩

end Sys2Proof.Machine
end

