-- ==== Sys2Proof/Laws/Faults.lean ====
section
/-! SUPPORT. What an assertion leaves in the fault collector: its source's bits and counts, the record
and the ring are those of the latch, whatever its class's reaction does (R451–R453); class F4 latches. -/

namespace Sys2Proof.Machine

/-- The collector's record, ring and sources are the same, but for the two sources of the ledger's excess (FS065,
FS066), which end with it. -/
structure SameRecord (a b : Faults) : Prop where
  srcs : ∀ k, k ≠ 65 → k ≠ 66 → tget srcReset b.srcs k = tget srcReset a.srcs k
  recValid : b.recValid = a.recValid
  recOver : b.recOver = a.recOver
  recInj : b.recInj = a.recInj
  recSrc : b.recSrc = a.recSrc
  recCls : b.recCls = a.recCls
  recRaw : b.recRaw = a.recRaw
  ring : b.ring = a.ring
  ringAt : b.ringAt = a.ringAt
  ringLost : b.ringLost = a.ringLost

theorem SameRecord.refl (a : Faults) : SameRecord a a := by constructor <;> first | rfl | exact fun _ _ _ => rfl

theorem SameRecord.trans {a b c : Faults} (h : SameRecord a b) (k : SameRecord b c) : SameRecord a c := by
  cases h; cases k; constructor <;> simp_all

theorem SameRecord.of_eq {a b : Faults} (h : b = a) : SameRecord a b := h ▸ .refl a

theorem Fr.fs_eq {l : List Grp} {s t : State} (h : Fr l s t) (hl : l.contains .fs = false) : t.fs = s.fs := h.only .fs hl

theorem foldl_fs {α : Type} (l : List α) (f : State → α → State) (s : State) (h : ∀ s x, (f s x).fs = s.fs) :
    (l.foldl f s).fs = s.fs := by
  induction l generalizing s with
  | nil => rfl
  | cons x l ih => exact (ih _).trans (h _ _)

theorem reactF3_record (s : State) (n : Nat) : SameRecord s.fs (reactF3 s n).fs ∧ (reactF3 s n).fs.f4 = s.fs.f4 := by
  unfold reactF3
  generalize f3Targets n = l
  induction l generalizing s with
  | nil => exact ⟨.refl _, rfl⟩
  | cons t l ih =>
    rw [List.foldl_cons]
    dsimp only
    refine ⟨.trans ?_ (ih _).1, (ih _).2.trans ?_⟩
    · rw [(f3Silence_fr _ t).fs_eq (by decide)]
      split
      · exact .refl _
      · constructor <;> first | rfl | exact fun _ _ _ => rfl
    · rw [(f3Silence_fr _ t).fs_eq (by decide)]
      split <;> rfl

theorem reactF3_srcs (s : State) (n : Nat) : (reactF3 s n).fs.srcs = s.fs.srcs := by
  unfold reactF3
  generalize f3Targets n = l
  induction l generalizing s with
  | nil => rfl
  | cons t l ih =>
    rw [List.foldl_cons]
    refine (ih _).trans ?_
    dsimp only
    rw [(f3Silence_fr _ t).fs_eq (by decide)]
    split <;> rfl

/-- The F4 latch holds after the reaction, SAFE_N is withdrawn, and the record is as it was. -/
theorem reactF4_record (s : State) : SameRecord s.fs (reactF4 s).fs ∧ (reactF4 s).fs.f4 = true ∧
    (s.fs.f4 = false → (reactF4 s).fs.released = false) ∧ (reactF4 s).fs.srcs = s.fs.srcs := by
  unfold reactF4
  split
  · rename_i h; exact ⟨.refl _, h, fun k => by simp [h] at k, rfl⟩
  · dsimp only
    rw [State.modMb_fs, (endCommit_fr ..).fs_eq (by decide), (undoMoves_fr _).fs_eq (by decide), (raiseEvent_fr ..).fs_eq (by decide)]
    rw [State.modTw_fs, foldl_fs _ _ _ (fun s q => by split <;> rfl)]
    rw [State.modPads_fs]
    have k : ∀ s : State, SameRecord s.fs (setSafeN s false).fs ∧ (setSafeN s false).fs.f4 = s.fs.f4 ∧
        (setSafeN s false).fs.released = false := fun s => ⟨by constructor <;> first | rfl | exact fun _ _ _ => rfl, rfl, rfl⟩
    have ks : ∀ s : State, (setSafeN s false).fs.srcs = s.fs.srcs := fun _ => rfl
    refine ⟨.trans ?_ (k _).1, (k _).2.1.trans ?_, fun _ => (k _).2.2, (ks _).trans ?_⟩
    all_goals
      rw [foldl_fs _ _ _ (fun s i => by split <;> rfl), foldl_fs _ _ _ (fun s i => (segQuiet_fr s i).fs_eq (by decide)),
        foldl_fs _ _ _ (fun s p => by split <;> rfl), foldl_fs _ _ _ (fun s p => (silencePort_fr s p .safe).fs_eq (by decide))]
    · constructor <;> first | rfl | exact fun _ _ _ => rfl
    · rfl
    · rfl

/-- The end of the condition of FS065 or FS066 leaves the rest of the collector. -/
theorem condOff_record (s : State) (n : Nat) (h : n = 65 ∨ n = 66) :
    SameRecord s.fs (condOff s n).fs ∧ (condOff s n).fs.f4 = s.fs.f4 := by
  refine ⟨?_, rfl⟩
  constructor <;> first | rfl | skip
  intro k h1 h2
  have hk : k ≠ n := by omega
  simp [condOff, modSrc, tget_tmod_ne _ _ _ hk]

theorem underCeil_record (s : State) : SameRecord s.fs (underCeil s).fs ∧ (underCeil s).fs.f4 = s.fs.f4 := by
  unfold underCeil
  split
  · have a := condOff_record (s.modLd fun l => { l with exceeds := false, exhausted := false }) 65 (.inl rfl)
    have b := condOff_record (condOff (s.modLd fun l => { l with exceeds := false, exhausted := false }) 65) 66 (.inr rfl)
    exact ⟨.trans a.1 b.1, b.2.trans a.2⟩
  · exact ⟨.refl _, rfl⟩

/-- A reset of the Gaffer core leaves the collector, but for FS065 and FS066. -/
theorem gafferReset_record (s : State) : SameRecord s.fs (gafferReset s).fs ∧ (gafferReset s).fs.f4 = s.fs.f4 := by
  have k : SameRecord s.fs (loseStage s).fs ∧ (loseStage s).fs.f4 = s.fs.f4 := by
    unfold loseStage
    split
    · exact ⟨.refl _, rfl⟩
    · split
      · exact ⟨.refl _, rfl⟩
      · have e : ∀ f g, (((undoMoves s).modTx f).modMb g).fs = s.fs := fun _ _ => (undoMoves_fr s).fs_eq (by decide)
        have h := underCeil_record (((undoMoves s).modTx fun t => { t with phase := 0, agree := {}, follow := {}, member := {} }).modMb
          fun m => { m with stage := [], frozen := [], boundary := none, commit := none, displaced := [], displacedCount := 0,
                            frozenDisp := [], frozenDispCount := 0, selfBad := false,
                            report := reportOf (m.boundary.getD 0) stState 0 0 0 0 [] 0 })
        rw [e] at h
        exact h
  have e : (gafferReset s).fs = (loseStage s).fs := by
    unfold gafferReset
    dsimp only
    split
    · exact (setFwReady_fr (loseStage s) false).fs_eq (by decide)
    · split
      · exact ((setFwReady_fr _ true).fs_eq (by decide)).trans ((setFwReady_fr (loseStage s) false).fs_eq (by decide))
      · exact (setFwReady_fr (loseStage s) false).fs_eq (by decide)
  exact e ▸ k

theorem reactF2_record (s : State) (n : Nat) (t : Bool) (e : Nat) :
    SameRecord s.fs (reactF2 s n t e).fs ∧ (reactF2 s n t e).fs.f4 = s.fs.f4 ∧
    tget srcReset (reactF2 s n t e).fs.srcs n = tget srcReset s.fs.srcs n := by
  unfold reactF2
  have k : ∀ u : State, u.fs = s.fs → SameRecord s.fs u.fs ∧ u.fs.f4 = s.fs.f4 ∧
      tget srcReset u.fs.srcs n = tget srcReset s.fs.srcs n := fun u h => h ▸ ⟨.refl _, rfl, rfl⟩
  split
  · exact k _ ((modChan_fr ..).fs_eq (by decide))
  · split
    · have h := gafferReset_record s
      exact ⟨h.1, h.2, h.1.srcs n (by omega) (by omega)⟩
    · split
      · exact k _ ((dropEntry_fr ..).fs_eq (by decide))
      · split
        · exact k _ ((modPrt_fr ..).fs_eq (by decide))
        · exact k _ rfl

/-- An assertion leaves in the collector what its latch leaves; class F4 sets the F4 latch. -/
theorem assertWith_record (s : State) (n : Nat) (inj t : Bool) (e : Nat) :
    SameRecord (latchFault s n (clsOf s n) inj).fs (assertWith s n inj t e).fs ∧
    (clsOf s n = 4 → inj = false → (assertWith s n inj t e).fs.f4 = true) ∧
    (clsOf s n ≠ 4 → (assertWith s n inj t e).fs.f4 = s.fs.f4) ∧
    tget srcReset (assertWith s n inj t e).fs.srcs n = tget srcReset (latchFault s n (clsOf s n) inj).fs.srcs n := by
  unfold assertWith
  dsimp only
  generalize hz : (if clsOf s n ≥ 1 then raiseEvent (logFault (latchFault s n (clsOf s n) inj) n (clsOf s n) inj) 120
    else logFault (latchFault s n (clsOf s n) inj) n (clsOf s n) inj) = z
  have h : z.fs = (latchFault s n (clsOf s n) inj).fs := by
    subst hz
    split
    · rw [(raiseEvent_fr ..).fs_eq (by decide), (logFault_fr ..).fs_eq (by decide)]
    · rw [(logFault_fr ..).fs_eq (by decide)]
  have h4 : z.fs.f4 = s.fs.f4 := by
    rw [h]; unfold latchFault; exact (ringAdd_f4 _ _).trans (recordFault_f4 _ _ _ _ _ _)
  split
  · rename_i hi
    exact ⟨.of_eq h, fun _ hj => by simp [hj] at hi, fun _ => h4, by rw [h]⟩
  · split
    · rename_i hc
      have e := reactF2_record z n t e
      exact ⟨.trans (.of_eq h) e.1, fun k => absurd (hc.symm.trans k) (by decide), fun _ => e.2.1.trans h4, by rw [e.2.2, h]⟩
    · split
      · rename_i hc
        exact ⟨.trans (.of_eq h) (reactF3_record z n).1, fun k => absurd (hc.symm.trans k) (by decide),
          fun _ => (reactF3_record z n).2.trans h4, by rw [reactF3_srcs, h]⟩
      · split
        · rename_i hc
          exact ⟨.trans (.of_eq h) (reactF4_record z).1, fun _ _ => (reactF4_record z).2.1, fun k => absurd hc k,
            by rw [(reactF4_record z).2.2.2, h]⟩
        · rename_i hc
          exact ⟨.of_eq h, fun k => absurd k hc, fun _ => h4, by rw [h]⟩

/-- The status bits and counts of a source after a real assertion. -/
theorem fault_src (s : State) (n : Nat) :
    (srcOf (fault s n) n).sticky = true ∧ (srcOf (fault s n) n).cond = (srcOf s n).cond ∧
    (srcOf (fault s n) n).real = satAdd 65535 (srcOf s n).real 1 := by
  have h := (assertWith_record s n false false 0).2.2.2
  have e : srcOf (fault s n) n = srcOf (latchFault s n (clsOf s n) false) n := by
    unfold srcOf fault; rw [h]
  rw [e]
  unfold latchFault modSrc srcOf
  have r : ∀ f : Faults, ∀ c i r k, (recordFault f n c i r k).srcs = f.srcs := by
    intro f c i r k; unfold recordFault; split
    · rfl
    · split <;> rfl
  have g : ∀ f : Faults, ∀ e, (ringAdd f e).srcs = f.srcs := by
    intro f e; unfold ringAdd; split <;> rfl
  simp [g, r]

/-- After its rise the condition of a level source is held. -/
theorem condOn_cond (s : State) (n : Nat) : (srcOf (condOn s n) n).cond = true := by
  unfold condOn
  split
  · assumption
  · rw [(fault_src _ n).2.1]
    simp [srcOf, modSrc]

/-- The rise of a condition in class F4 sets the F4 latch. -/
theorem condOn_f4 (s : State) (n : Nat) (h : (srcOf s n).cond = false) (hc : clsOf s n = 4) :
    (condOn s n).fs.f4 = true := by
  unfold condOn
  rw [if_neg (by simp [h])]
  refine (assertWith_record _ n false false 0).2.1 ?_ rfl
  have e : clsOf (modSrc s n fun x => { x with cond := true }) n = clsOf s n := by
    simp [clsOf, srcOf, modSrc]
  exact e.trans hc

theorem condOff_cond (s : State) (n : Nat) : (srcOf (condOff s n) n).cond = false := by
  simp [condOff, srcOf, modSrc]

end Sys2Proof.Machine
end

