-- ==== Sys2Proof/WellFormed.lean ====
section
/-! DEFINITION. Which commands are well formed: the sizes that a wire or a sensor fixes before the
block sees the command. -/

namespace Sys2Proof

/-- A frame as a receiver delimits it: at least its addresses and its FCS. -/
def frameSized (f : Bytes) : Bool := decide (18 ≤ f.length) && decide (f.length ≤ 9728)

/-- A service frame: at least 64 bytes with FCS. -/
def svcSized (f : Bytes) : Bool := decide (64 ≤ f.length)

/-- The command is well formed. -/
def WellFormed (i : Instr) : Bool :=
  match i with
  | .flitReceive f => decide (f.length = 256)
  | .mwr m => decide (m.data.length = m.length.toNat)
  | .mrd m => m.data.isEmpty
  | .dcpld c => decide (c.data.length = c.length.toNat)
  | .dcpl c => c.data.isEmpty
  | .timedCapWrite _ _ image => decide (image.length = 24)
  | .secProtWrite image => decide (image.length = 64)
  | .laneRelock _ g => [1, 10, 25].contains g
  | .discover _ d => frameSized d.frame && d.far.all fun r => decide (r.pos < 8)
  | .ackReceive _ f => frameSized f
  | .timeReq _ f => frameSized f
  | .timeResp _ f => frameSized f
  | .command _ f => frameSized f
  | .response _ f => frameSized f
  | .stackAgree _ f => frameSized f
  | .trafficUp _ u => frameSized u.frame
  | .trafficDown _ f => frameSized f
  | .txDone _ f => frameSized f
  | .assign _ f => frameSized f
  | .mirror _ f => frameSized f
  | .region _ f => frameSized f
  | .heartbeat (.cascade _) f => frameSized f
  | .heartbeat (.plane _) b => decide (b.length = 46)
  | .bootData f => svcSized f
  | .sHello f => svcSized f
  | .sProof f => svcSized f
  | .sMsg f => svcSized f
  | .sClose f => svcSized f
  | .sensorSample temps volts => decide (temps.length = 8) && decide (volts.length = 7)
  | .wearSample shifts => decide (shifts.length = 4)
  | .ktbFrameReceive _ l _ _ _ => decide (l.length ≤ 40000)
  | _ => true

end Sys2Proof
end

