-- ==== Sys2Proof/Tests/Slice0.lean ====
section
/-! SUPPORT. Tests: for each statement with hypotheses a concrete state and operands that meet them, clause
by clause; ill-formed commands; worked values of the spec; a few single steps. -/

namespace Sys2Proof.Tests

set_option linter.unusedVariables false
set_option Elab.async false

open Machine

/-- The state after reset with the islands clocked, so that the core runs. -/
def live : State := { pw := { clocked := true } }

/-- A request of agent `v` for `op` with a payload, CRC good and reserved bits 0. -/
def rq (v : Via) (op oid : Nat) (pl : Bytes) : Request :=
  { via := v, opcode := BitVec.ofNat 16 op, tag := 7, word6 := 0, oid := BitVec.ofNat 32 oid, length := pl.length,
    payload := pl, crcOk := true, busy := false, at_ := 0 }

/-- A state with one taken request. -/
def tk (r : Request) (s : State) : State := s.modMb fun m => { m with taken := [r] }

/-- Domains ENABLED by MB1. -/
def ons (l : List Nat) (s : State) : State := l.foldl (fun s d => setDom s d { state := 2, agent := 0x11, rank := 3 }) s

/-- The voter and the three channels enabled and in the vote. -/
def timed (s : State) : State :=
  [0, 1, 2].foldl (fun s i => modChan s i fun c => { c with inVote := true }) (ons [65, 66, 67, 68] s)

/-- Port p with its lane, MAC and neighbours in function. -/
def port (p : Nat) (s : State) : State := modPrt (ons [p, 6 + p, 12 + p, 18 + p, 48, 49, 62] s) p fun x => { x with up := true }

/-- Both cascade links in function and up. -/
def casc (s : State) : State :=
  [0, 1].foldl (fun s k => modKlink s k fun l => { l with up := true }) (ons [24, 25, 26, 27] s)

/-- A link in LINK_ACTIVE with DMA enabled. -/
def link (s : State) : State := (ons [48] s).modHl fun l => { l with trained := true, state := lsActive, ctrl := 1, fwReady := true }

/-- A backbone protocol frame of a subtype. -/
def kin (st : Nat) (b : Bytes) : Bytes := withFcs (padTo 60 (zz 12 ++ [0x88, 0xB6] ++ toLe 1 st ++ [1] ++ b))

/-- A frame to the service address of position 0. -/
def svc (st : Nat) (b : Bytes) : Bytes :=
  withFcs (padTo 60 ([0x02, 0x4B, 0x59, 0x4D, 0x20, 0, 2, 0, 0, 0, 0, 9, 0x88, 0xB6] ++ toLe 1 st ++ [1] ++ toBe 2 b.length ++ b))

/-- A cascade frame from position 1 to position 0. -/
def kfr (kind : Nat) (b : Bytes) : Bytes := withFcs (kFrame kind 1 0 7 1 0 b)

/-- What `Admitted` asks, as a test. -/
def admits (s : State) (v : Via) (op : Nat) (r : Request) : Bool :=
  held s == false && decide (s.mb.taken.find? (fun r => r.via == v && r.opcode.toNat == op && !r.served) = some r) &&
    decide (authCheck s v op = none) && (s.fs.f4 == false || graveServed op r.oid.toNat) && decide (oidCheck op r.oid.toNat = none)

theorem admitted_of {s : State} {v : Via} {op : Nat} {r : Request} (h : admits s v op r = true) : Admitted s v op r := by
  simp only [admits, Bool.and_eq_true, Bool.or_eq_true, beq_iff_eq, decide_eq_true_eq] at h
  exact ⟨h.1.1.1.1, h.1.1.1.2, h.1.1.2, h.1.2, h.2⟩

/-- The state and payload of a staged answer. -/
def stagedParts : Answer → Option (State × Bytes)
  | .staged s p => some (s, p)
  | _ => none

theorem staged_of {a : Answer} (h : (stagedParts a).isSome = true) : ∃ u p, a = .staged u p := by
  cases a <;> simp [stagedParts] at h ⊢

/-- A TX record of descriptor 0 in a phase. -/
def txr (ph : TxPhase) : TxRec :=
  { idx := 0, desc := zz 32, phase := ph, data := [], seq := 0, launch := 0, todo := 0, sent := 0, sentLate := false, late := 0,
    safe := false, down := false, stamps := [], lost := 0, member := none, withheld := false, assigned := false, cellsOn := 0, fail := 0 }

/-- A gate list of one open entry for port p in mode m. -/
def gcl (m p : Nat) (s : State) : State :=
  objWrite (objWrite s (oMode m) (8 + 2 * p) [1, 0]) (oGcl m p) 0 (toLe 3 250000 ++ [0, 0xFF, 0, 0, 0])

/-- An order of MB1. -/
def ord (op oid : Nat) (pl : Bytes) : Order :=
  { agent := 0x11, rank := 3, tag := 1, at_ := 0, opcode := BitVec.ofNat 16 op, oid := BitVec.ofNat 32 oid, payload := pl,
    domains := [], cells := none }

/-- A stamp, a frame of the device's own, and a frame of 60 bytes on the line. -/
def st0 : Stamp := { port := 0, at48 := 0, cls := 0 }
def frm : EgFrame := { id := 1, tc := 0, data := zz 60, src := .own }
def onl (lvl : Nat) (n : Nat) : OnLine :=
  { frame := { frm with data := zz n }, lvl := lvl, wire := zz n, gone := 0, count := 0, frag := 0, stomp := false, stamp := st0,
    smd := 0xD5, ct := false, sec := none }

/-- A state with MAC merge active on port p and a frame on its line. -/
def lined (p : Nat) (l : OnLine) (s : State) : State := modPrt (port p s) p fun x => { x with line := some l }

/-- A frame with its FCS. -/
def eth (da sa rest : Bytes) : Bytes := withFcs (padTo 60 (da ++ sa ++ rest))

/-- Port p with a list of one entry in mode 0. -/
def gated (p op : Nat) (s : State) : State := objWrite (gcl 0 p s) (oGcl 0 p) 3 [BitVec.ofNat 8 op]

/-- A loop head, a state that holds it, a port with an address, and a frame to that address. -/
def lhd : LoopHead := { port := 0, len := 64, plain := zz 60, tci := 0, sci := zz 8, epoch := 0, view := 0, stamp := st0, at_ := 0 }
def looped : State := { live with rx := { loop := [lhd] } }
def addressed (p : Nat) (s : State) : State := objWrite (objWrite (port p s) (oAcc p) 0 [2, 0, 0, 0, 0, 7]) (oAcc p) 8 [0xEE, 5]
def toMe : Bytes := eth [2, 0, 0, 0, 0, 7] [2, 0, 0, 0, 0, 9] []

/-- What the port and the classifier make of a frame to this port. -/
def rxP (s : State) (p : Nat) (f : Bytes) : Stamp × State := rxStamp s p f.length
def clP (s : State) (p : Nat) (f : Bytes) : Verdict × State :=
  classify (countN (count (rxP s p f).2 (cPort p 0) 0) (cPort p 0) 1 f.length) p s.rx.active (f.take (f.length - 4)) none none

/-- A looped frame that ends inside its VLAN tag, on a port that drops such frames. -/
def lcut : LoopHead := { lhd with plain := zz 12 ++ [0x81, 0] }
def loopCut : State := objWrite { live with rx := { loop := [lcut] } } (oAcc 0) 10 [3, 3]

/-- Segment 15 in function in a cycle, with one entry of a kind and an owner in mode 0. -/
def seg (kind owner : Nat) (s : State) : State :=
  modSgm (objWrite (objWrite (ons [45, 71] (timed s)) (oSegMode 0 15) 4 [1]) (oSegSlot 0 15) 4 ([0xFF, 0xFF] ++ toLe 1 kind ++ toLe 1 owner)) 15
    fun g => { g with runs := true, head := 1, sends := true }

/-- The same with CI07 running. -/
def guarded (s : State) : State := s.modPw fun p => { p with guardRuns := true }

/-- A NODE frame of node 9 for entry 0, for a segment with the configuration after reset. -/
def nodeF : Bytes :=
  withFcs (padTo 60 (zz 12 ++ toBe 2 (segEtype {} 15) ++ [1, 3, 9, 0, 0, 0, 0, 0, 0, 4, 0, 0, 0, 0, 0, 0]))

/-- A voting replica of port p, and a stream slot. -/
def rep (p : Nat) (d : BitVec 64) : Replica :=
  { port := p, digest := d, frame := zz 60, dest := none, tc := 0, colour := 0, tag := 0, epoch := 0, stamp := st0, seq := 0, num := 1 }
def vslot (phase outcome : Nat) (votes : List Replica) : Slot :=
  { id := 1, handle := 16383, seq := 7, votes := votes, pend := [], reserved := true, phase := phase, outcome := outcome, digest := none, decidedAt := 0 }
def voting (x : Slot) : State := { live with str := { slots := [x] } }

def stagedU (a : Answer) : State := ((stagedParts a).map (·.1)).getD live
def stagedP (a : Answer) : Bytes := ((stagedParts a).map (·.2)).getD []

theorem staged_eq {a : Answer} (h : (stagedParts a).isSome = true) : a = .staged (stagedU a) (stagedP a) := by
  cases a <;> first | rfl | simp [stagedParts] at h

theorem took_eq {x : Bool × State} (h : x.1 = true) : x = (true, x.2) := by
  rw [← h]

/-- Both neighbours known; a stack of two with position m as master in configuration c. -/
def stack (m c : Nat) (s : State) : State :=
  (modKlink (modKlink (casc s) 0 fun l => { l with nbr := some (zz 60) }) 1 fun l => { l with nbr := some (zz 60) }).modSk fun x =>
    { x with complete := true, master := m, config := c }

/-- A stack whose only other position is 1. -/
def pairOf (m c : Nat) (s : State) : State :=
  (modKlink (casc s) 0 fun l => { l with nbr := some (List.replicate 12 0 ++ [1, 0, 9, 9, 9, 9, 9, 9] ++ zz 40) }).modSk fun x =>
    { x with complete := true, master := m, config := c }

/-- A twin unit in a role with position 1 as its partner over K1. -/
def twn (role : Nat) (s : State) : State :=
  { stack 0 3 (ons [49] s) with tw := { on := true, partner := 1, link := 1, role := role, missed := 3 } }

/-- A heartbeat of the partner. -/
def hb (role : Nat) : Bytes := [0x40, 1, 1, 0] ++ toLe 1 role ++ [1, 0, 0, 0, 1] ++ toBe 8 5 ++ zz 12
def hears (s : State) : State := s.modSk fun x => { x with serials := [(1, 5)] }

/-- Region 7 of 4 bytes. -/
def mirrored (s : State) : State := s.modTw fun t => { t with regions := [(7, { on := true, addr := 0x1000, size := 4 })] }

/-- An open update of slot 1 by MB1; a slot record with slot 0 active and slot 1 verified; SEC_PROT with a byte written. -/
def upd : Update := { agent := 0x11, slot := 1, size := 4, erased := true, sectors := 128, got := [(0, 4)], failed := false }
def updating (u : Update) : State := { live with mg := { update := some u } }
def slots (v : Nat) : State := slotRecWrite live ⟨0, v, 1, 1⟩
def prot (off : Nat) (b : Byte) (s : State) : State := objWrite s 0x0A000001 off [b]

/-- A key, and session 7 in a state with it. -/
def key0 : Key := { key := zz 32, wrapped := false, agent := 0x11, ssci := zz 4, salt := zz 12 }
def session (st : Nat) : State :=
  { ons [29] live with se := { sess := [(7, { state := st, id := 5, sk := zz 32 })], keys := [(0x207, some key0)] } }

/-- An S_MSG of 16 bytes, an S_CLOSE and an S_PROOF of session 5 under a key of zeros; the tags are HMAC-SHA-256 worked out
outside the model. -/
def sMsg : Bytes :=
  svc 0x54 (toBe 2 5 ++ toBe 4 1 ++ zz 16 ++
    [0xDD, 0xC9, 0xBE, 0xBB, 0xB3, 0xD7, 0x29, 0xEB, 0x00, 0x08, 0x9E, 0xA1, 0x5F, 0x3E, 0x77, 0x6B,
     0x41, 0x30, 0xEB, 0x96, 0x8E, 0xDB, 0x5F, 0x3F, 0xA4, 0x63, 0x25, 0xA4, 0x38, 0xF4, 0x80, 0x29])
def sClose : Bytes :=
  svc 0x55 (toBe 2 5 ++ [1] ++
    [0xC8, 0x71, 0xAF, 0xAD, 0x61, 0xA0, 0x6C, 0x35, 0x89, 0x6A, 0xF9, 0x60, 0x38, 0xCC, 0x38, 0x05,
     0xBB, 0x22, 0x62, 0x5D, 0xF7, 0x27, 0x89, 0x60, 0xE4, 0xDB, 0x3B, 0x9C, 0xDC, 0xF4, 0xD8, 0x06])
def sProof : Bytes :=
  svc 0x52 (toBe 2 5 ++
    [0xCD, 0xFE, 0x8E, 0x5F, 0x8F, 0xAB, 0x01, 0x7C, 0x4B, 0x98, 0xA5, 0xD4, 0xF2, 0x22, 0xC3, 0x06,
     0xDA, 0xAE, 0xA2, 0x57, 0x45, 0xA0, 0xF5, 0x2B, 0xC8, 0x43, 0x59, 0xD9, 0x4C, 0x97, 0xC2, 0x0C])

/-- MACsec on for port 5, one receive channel without encryption under a key of zeros, and a frame of it. -/
def sealed : State :=
  { objWrite (objWrite (ons [17, 64] (port 5 live)) (oidOf 0x050A 5 0) 0 [1]) (oidOf 0x050B 5 0) 0
      (zz 7 ++ [1] ++ toLe 2 3 ++ zz 6 ++ [1] ++ zz 3) with se := { keys := [(3, some key0)] } }
def secf : Bytes := zz 12 ++ [0x88, 0xE5, 0x20, 0, 0, 0, 0, 1] ++ zz 7 ++ [1] ++ [8, 0] ++ zz 62

/-- The boot stage with the domains ENABLED that domain d depends on, and d itself not. -/
def bs (d : Nat) : State :=
  setDom (ons (deps d ++ if d = 68 then [65, 66] else []) { live with se := { phase := 2 } }) d {}

theorem bs_ok : ∀ d : Fin 78, held (bs d.val) = false ∧ (bs d.val).se.phase = 2 ∧ (bs d.val).se.locked = false ∧
    (bs d.val).fs.f4 = false ∧ enabled (bs d.val) d.val = false ∧ (bs d.val).ld.moving = none ∧
    depsMet (enabled (bs d.val)) d.val = true ∧ pinConflict (bs d.val) d.val = none ∧ (bs d.val).ld.exceeds = false ∧
    cost d.val ≤ headroom (bs d.val) := by decide +kernel

theorem bs_free : ∀ d : Fin 78, (bs d.val).freeIx = 0 := by decide +kernel

theorem draw_bs (d : Fin 78) : draw (bs d.val) = (Config.freeNat 0, (draw (bs d.val)).2) := by
  rw [← bs_free d]; rfl

/-- A node of which nothing has come. -/
def silentNode : State := modSgm (guarded (seg 3 9 live)) 15 fun g => { g with nodeCfg := [(72, 9)] }

theorem no_got : (sgm silentNode 15).got = none := by decide +kernel

/-! Well-formedness: an ill-formed command for each check, which the check refuses, and a well-formed neighbour. -/

theorem test_flit_size : WellFormed (.flitReceive (zz 255)) = false ∧ WellFormed (.flitReceive (zz 256)) = true := by decide +kernel

theorem test_mwr_length :
    WellFormed (.mwr { attr := 0, tag := 0, length := 4, resv6 := 0, offset := 0, window := 0, resv13 := 0, data := zz 3 }) = false ∧
    WellFormed (.mwr { attr := 0, tag := 0, length := 4, resv6 := 0, offset := 0, window := 0, resv13 := 0, data := zz 4 }) = true := by
  decide

theorem test_mrd_has_no_data :
    WellFormed (.mrd { attr := 0, tag := 0, length := 4, resv6 := 0, offset := 0, window := 0, resv13 := 0, data := zz 4 }) = false := by
  decide

theorem test_dcpld_length :
    WellFormed (.dcpld { attr := 0, tag := 0, length := 8, status := 0, byteOffset := 0, resv12 := 0, data := zz 4 }) = false := by decide

theorem test_dcpl_has_no_data :
    WellFormed (.dcpl { attr := 0, tag := 0, length := 0, status := 1, byteOffset := 0, resv12 := 0, data := zz 1 }) = false := by decide

theorem test_cap_image_size : WellFormed (.timedCapWrite (.mb 1) 0 (zz 23)) = false := by decide

theorem test_prot_image_size : WellFormed (.secProtWrite (zz 63)) = false := by decide

theorem test_lane_rate : WellFormed (.laneRelock 0 100) = false ∧ WellFormed (.laneRelock 0 25) = true := by decide

theorem test_cascade_frame_sizes :
    ∀ f ∈ [zz 17, zz 9729],
      WellFormed (.discover 0 ⟨f, []⟩) = false ∧ WellFormed (.ackReceive 0 f) = false ∧ WellFormed (.timeReq 0 f) = false ∧
      WellFormed (.timeResp 0 f) = false ∧ WellFormed (.command 0 f) = false ∧ WellFormed (.response 0 f) = false ∧
      WellFormed (.stackAgree 0 f) = false ∧ WellFormed (.trafficUp 0 ⟨f, 0⟩) = false ∧ WellFormed (.trafficDown 0 f) = false ∧
      WellFormed (.txDone 0 f) = false ∧ WellFormed (.assign 0 f) = false ∧ WellFormed (.mirror 0 f) = false ∧
      WellFormed (.region 0 f) = false := by
  decide +kernel

theorem test_heartbeat_sizes :
    WellFormed (.heartbeat (.cascade 0) (zz 17)) = false ∧ WellFormed (.heartbeat (.plane 0) (zz 45)) = false ∧
    WellFormed (.heartbeat (.plane 0) (zz 46)) = true := by decide

theorem test_service_frame_sizes :
    WellFormed (.bootData (zz 63)) = false ∧ WellFormed (.sHello (zz 63)) = false ∧ WellFormed (.sProof (zz 63)) = false ∧
    WellFormed (.sMsg (zz 63)) = false ∧ WellFormed (.sClose (zz 63)) = false := by decide +kernel

theorem test_sensor_counts :
    WellFormed (.sensorSample (List.replicate 7 none) (List.replicate 7 0)) = false ∧
    WellFormed (.sensorSample (List.replicate 8 none) (List.replicate 6 0)) = false ∧
    WellFormed (.wearSample [1, 2, 3]) = false := by decide

theorem test_ktb_size : WellFormed (.ktbFrameReceive 0 (List.replicate 40001 true) 0 false false) = false := by decide +kernel

theorem test_deepen_position :
    WellFormed (.discover 0 ⟨zz 64, [{ pos := 8, first := 0, count := 0 }]⟩) = false ∧
    WellFormed (.discover 0 ⟨zz 64, [{ pos := 7, first := 0, count := 0 }]⟩) = true := by decide +kernel

/-! Values that the spec works out, and published vectors of the functions that it names. -/

/-- The ASCII string 123456789, for which the spec gives two check values. -/
def digits : Bytes := [0x31, 0x32, 0x33, 0x34, 0x35, 0x36, 0x37, 0x38, 0x39]

/-- Check value of CRC-32 (R299). -/
theorem test_crc32_check : crc32 digits = 0xCBF43926 := by decide +kernel

/-- Check value of CRC-64 (R350). -/
theorem test_crc64_check : crc64 digits = 0x6C40DF5F0B497347 := by decide +kernel

/-- The example of corrected time in chapter 5 (R167). -/
theorem test_corrected_time_example :
    corrAt { off := 0x10000 * 1750000000000012345, rate := 109951, anchor := 0x10000 * 4999999488 } (0x10000 * 5999999488) =
      0x10000 * 1750000006000011932 + 65526 := by decide +kernel

/-- The example of the life estimate in chapter 14 (R506): 296,165 h, limited by hot time. -/
theorem test_life_example :
    let s : State := { mg := { powered := 8766 * 3600, hot := 504 * 3600, equiv := 10243 * 3600 * 2 ^ 32, cycles := 0 } }
    lifeHours s = 296165 ∧ lifeLimit s = 2 := by decide +kernel

/-- AF(85) is 1, and AF(108) is 3.930 in the example of chapter 14 (R504). -/
theorem test_acceleration_example : accel 850 = fpOne ∧ (accel 1080 * 10000 / fpOne + 5) / 10 = 3930 := by decide +kernel

/-- SHA-256 of the three bytes abc (FIPS 180-4). -/
theorem test_sha256_abc :
    (sha256 [0x61, 0x62, 0x63]).take 8 = [0xBA, 0x78, 0x16, 0xBF, 0x8F, 0x01, 0xCF, 0xEA] := by decide +kernel

/-- R368: a transmission reads back as the frame that it carries; without ESDOK, or cut off, it is discarded. -/
theorem test_line_code :
    let f : Bytes := [0x00, 0x1F, 0xA5, 0xFF]
    ktbRead (ktbLine f) = some f ∧ ktbRead ((ktbLine f).dropLast) = none ∧
    ktbRead (dme false (((opening ++ (nibbles f).map fiveOf ++ [cgEsd, cgEsdErr])).flatMap groupBits)) = none := by
  decide +kernel

/-! Single steps. -/

/-- The state after a step that answers one. -/
def after (s : State) : State :=
  match step s with
  | .next t => t
  | _ => {}

/-- R164, log entry 2: an idle step advances the clock by 2 ns, and the raw counts with it. -/
theorem test_idle_tick :
    (after (timed live)).clock = 2 ∧ ((after (timed live)).tm.chans.map fun x => x.2.raw) = [0x20000, 0x20000, 0x20000] := by
  decide +kernel

/-- R165, R181: a rate is applied from the point of the adjustment, and the corrected time does not jump. -/
theorem test_adjustment_keeps_time :
    let s : State := { timed live with clock := 4096 }
    corrAt { (chan s 0) with raw := 0x30000000, rate := 5, anchor := 0x30000000 } 0x30000000 = 0x30000000 := by decide +kernel

/-- Table 2-8, R94: after power-up every event is masked, and nothing is pending. -/
theorem test_reset_masks : State.reset.hl.evMask = BitVec.allOnes 128 ∧ State.reset.hl.evPend = 0 := by decide +kernel

/-- R32, R34: the straps are sampled, and TEST_N low is test mode. -/
theorem test_test_mode_strap :
    let s := after { pending := [.strapSample 5 2 false] }
    s.pw.stackPos = 5 ∧ s.pw.bootSrc = 2 ∧ s.pw.testMode = true := by decide +kernel

/-- R463, R464: with an F4 the lanes go to electrical idle, EVT is low and the modules are disabled. -/
theorem test_grave_pins :
    let s := after { live with pads := { laneIdle := 0, modTxdis := 0, evt := 0xFF }, pending := [.faultSourceAssert 24 false 0] }
    s.fs.f4 = true ∧ s.pads.laneIdle = 0x1FF ∧ s.pads.modTxdis = 0x3F ∧ s.pads.evt = 0 := by decide +kernel

/-! Witnesses. Each theorem names its statement; its parts are the statement's clauses that have hypotheses, in their order. -/

set_option maxRecDepth 100000 in
/-- The hypotheses of each clause of ResetCommands can be met. -/
theorem wit_ResetCommands :
    (∃ (s : State), s.pw.aoRuns = true) ∧
    (∃ (s : State), s.pw.aoRuns = true ∧ s.pw.resetLow = false) ∧
    (∃ (s : State), s.pw.aoRuns = true ∧ s.pw.resetLow = true) :=
  ⟨ ⟨live, by decide +kernel⟩,
   ⟨live, by decide +kernel⟩,
   ⟨{ pw := { resetLow := true } }, by decide +kernel⟩⟩

set_option maxRecDepth 100000 in
/-- The hypotheses of each clause of PowerAndClocks can be met. -/
theorem wit_PowerAndClocks :
    (∃ (s : State), s.pw.aoRuns = true) ∧
    (∃ (s : State), s.pw.aoRuns = true ∧ s.pads.ioDriven = false) ∧
    (∃ (s : State) (rail : Fin 6), s.pw.aoRuns = true ∧ s.pw.resetLow = false ∧ (srcOf s rail.val).cond = false ∧ clsOf s
      rail.val = 4) ∧
    (∃ (s : State) (rail : Fin 6), s.pw.aoRuns = true ∧ s.pw.resetLow = true) ∧
    (∃ (s : State) (rail : Fin 6), s.pw.aoRuns = true ∧ (srcOf s (6 + rail.val)).cond = false) ∧
    (∃ (s : State) (id : BitVec 3) (src : BitVec 2), inReset s = false ∧ s.pw.strapped = false) ∧
    (∃ (s : State) (id : BitVec 3) (src : BitVec 2), inReset s = false ∧ s.pw.strapped = false) ∧
    (∃ (s : State) (id : BitVec 3) (src : BitVec 2) (testN : Bool), inReset s = false ∧ s.pw.strapped = true) ∧
    (∃ (s : State) (hz m : Nat), inReset s = false ∧ s.pw.strapped = true ∧ s.pw.refMHz = 0 ∧ m ∈ [10, 20, 25] ∧ ((hz : Int) - m
      * 1000000).natAbs ≤ m * 500) ∧
    (∃ (s : State) (hz : Nat), inReset s = false ∧ s.pw.strapped = true ∧ s.pw.refMHz = 0 ∧ (∀ m : Nat, m ∈ [10, 20, 25] → m *
      500 < ((hz : Int) - m * 1000000).natAbs)) ∧
    (∃ (s : State) (hz : Nat), inReset s = false ∧ s.pw.refMHz ≠ 0) ∧
    (∃ (s : State) (hz m : Nat), inReset s = false ∧ s.pw.refLost = true ∧ m ∈ [10, 20, 25] ∧ ((hz : Int) - m * 1000000).natAbs
      ≤ m * 500) ∧
    (∃ (s : State), inReset s = false ∧ s.pw.strapped = true ∧ s.pw.refMHz ≠ 0 ∧ s.se.phase ≠ 0) ∧
    (∃ (s : State), inReset s = false ∧ s.pw.strapped = true ∧ s.pw.refMHz ≠ 0 ∧ s.se.phase = 0 ∧ s.pw.bootSrc = 0) ∧
    (∃ (s : State), inReset s = false ∧ s.pw.strapped = true ∧ s.pw.refMHz ≠ 0 ∧ s.se.phase = 0 ∧ s.pw.bootSrc = 1) ∧
    (∃ (s : State), held s = false) ∧
    (∃ (s : State), inReset s = false ∧ s.pads.xtalOut = true) ∧
    (∃ (s : State), held s = false ∧ s.pw.sysPll = true) ∧
    (∃ (s : State), inReset s = false ∧ s.pw.refMHz ≠ 0) :=
  ⟨ ⟨live, by decide +kernel⟩,
   ⟨{ live with pads := { ioDriven := false } }, by decide +kernel⟩,
   ⟨live, 5, by decide +kernel⟩,
   ⟨{ live with pw := { live.pw with resetLow := true } }, 0, by decide +kernel⟩,
   ⟨live, 5, by decide +kernel⟩,
   ⟨live, 7, 3, by decide +kernel⟩,
   ⟨live, 7, 3, by decide +kernel⟩,
   ⟨{ pw := { strapped := true } }, 7, 3, false, by decide +kernel⟩,
   ⟨{ live with pw := { live.pw with strapped := true } }, 10005000, 10, by decide +kernel⟩,
   by refine ⟨{ live with pw := { live.pw with strapped := true } }, 25012501, ?_, ?_, ?_, ?_⟩ <;> decide +kernel,
   ⟨{ pw := { strapped := true, refMHz := 25 } }, 10000000, by decide +kernel⟩,
   ⟨{ live with pw := { live.pw with refLost := true } }, 24987500, 25, by decide +kernel⟩,
   ⟨{ live with pw := { live.pw with strapped := true, refMHz := 10 }, se := { phase := 3 } }, by decide +kernel⟩,
   ⟨{ live with pw := { live.pw with strapped := true, refMHz := 10 } }, by decide +kernel⟩,
   ⟨{ live with pw := { live.pw with strapped := true, refMHz := 10, bootSrc := 1 } }, by decide +kernel⟩,
   ⟨live, by decide +kernel⟩,
   ⟨{ pads := { xtalOut := true } }, by decide +kernel⟩,
   ⟨{ live with pw := { live.pw with sysPll := true } }, by decide +kernel⟩,
   ⟨{ live with pw := { live.pw with refMHz := 10 } }, by decide +kernel⟩⟩

set_option maxRecDepth 100000 in
/-- The hypotheses of each clause of LinkAndFlits can be met. -/
theorem wit_LinkAndFlits :
    (∃ (s : State), held s = false ∧ s.pw.ucieReady = true ∧ s.hl.training = false) ∧
    (∃ (s : State) (r : Fin 4) (half : Fin 3), held s = false ∧ s.hl.training = true ∧ s.hl.leaving = false) ∧
    (∃ (s : State) (c : Instr), held s = false ∧ clsOf s 52 = 1 ∧ ((c = .retrainTimeout ∧ s.hl.asked = true) ∨ ((c =
      .flitReceiveTimeout ∨ c = .adapterLinkDown) ∧ s.hl.trained = true))) ∧
    (∃ (s : State), held s = false ∧ s.hl.trained = true) ∧
    (∃ (s : State) (seq : BitVec 12), held s = false ∧ s.hl.trained = true ∧ s.hl.waiting = [] ∧ s.hl.replay = [] ∧ s.hl.nakDue
      = false ∧ s.hl.leaving = false) ∧
    (∃ (s : State) (a : HeldFlit) (l : List HeldFlit), held s = false ∧ s.hl.trained = true ∧ s.hl.waiting = [] ∧ s.hl.nakDue =
      false ∧ s.hl.leaving = false ∧ s.hl.replay = a :: l ∧ (∀ x ∈ a :: l, x.seq ≠ a.seq - 1 ∧ x.replays < 3)) ∧
    (∃ (s : State) (a : HeldFlit) (l : List HeldFlit), held s = false ∧ s.hl.trained = true ∧ s.hl.waiting = [] ∧ s.hl.nakDue =
      false ∧ s.hl.leaving = false ∧ s.hl.replay = a :: l ∧ s.hl.asked = false ∧ (∀ x ∈ a :: l, x.seq ≠ a.seq - 1) ∧ (∃ x ∈ a ::
      l, 3 ≤ x.replays)) ∧
    (∃ (s : State) (f : Bytes), held s = false ∧ s.hl.trained = true ∧ s.hl.waiting = [] ∧ s.hl.nakDue = false ∧ s.hl.leaving =
      false ∧ s.hl.rxBad = false ∧ le f 252 4 = crc32c (f.take 252) ∧ le f 0 2 / 4096 = 0 ∧ bitN (le f 248 2) 15 = false) ∧
    (∃ (s : State) (f : Bytes), held s = false ∧ s.hl.trained = true ∧ s.hl.rxBad = false ∧ s.hl.replay.length < 64 ∧ le f 252 4
      ≠ crc32c (f.take 252)) ∧
    (∃ (s : State) (f : Bytes), held s = false ∧ s.hl.trained = true ∧ s.hl.rxBad = false ∧ 64 ≤ s.hl.replay.length ∧ le f 252 4
      ≠ crc32c (f.take 252)) :=
  ⟨ ⟨{ live with pw := { live.pw with ucieReady := true } }, by decide +kernel⟩,
   ⟨{ live with hl := { training := true } }, 3, 2, by decide +kernel⟩,
   ⟨{ live with hl := { asked := true }, fs := { srcs := [(52, { cls := some 1 })] } }, .retrainTimeout, by decide +kernel,
     by decide +kernel, .inl ⟨rfl, by decide +kernel⟩⟩,
   ⟨link live, by decide +kernel⟩,
   ⟨link live, 4095, by decide +kernel⟩,
   ⟨{ live with hl := { trained := true, replay := [⟨5, zz 256, 2⟩] } }, ⟨5, zz 256, 2⟩, [], by decide +kernel⟩,
   ⟨{ live with hl := { trained := true, replay := [⟨5, zz 256, 3⟩] } }, ⟨5, zz 256, 3⟩, [], by decide +kernel⟩,
   ⟨link live, (zz 252 ++ toLe 4 (crc32c (zz 252))), by decide +kernel⟩,
   ⟨link live, zz 256, by decide +kernel⟩,
   ⟨(link live).modHl fun l => { l with replay := List.replicate 64 ⟨5, [], 0⟩ }, zz 256, by decide +kernel⟩⟩

set_option maxRecDepth 100000 in
/-- The hypotheses of each clause of HostRegisters can be met. -/
theorem wit_HostRegisters :
    (∃ (s : State), held s = false ∧ s.hl.trained = true ∧ s.hl.leaving = false ∧ (s.hl.state = lsActive ∨ s.hl.state =
      lsQuiescing)) ∧
    (∃ (s : State) (v : BitVec 32), held s = false ∧ s.hl.state ≠ lsDetached ∧ s.hl.waiting = [] ∧ s.hl.nakDue = false) ∧
    (∃ (s : State) (v : BitVec 32), held s = false ∧ v.toNat / 128 % 32 ≠ 0) ∧
    (∃ (s : State) (w : Fin 4) (v : BitVec 32), held s = false) ∧
    (∃ (s : State) (w : Fin 4) (v : BitVec 32), held s = false ∧ s.hl.evAgain = 0) ∧
    (∃ (s : State) (vec : Fin 128), held s = false ∧ s.hl.evWait.getLsbD vec.val = true) ∧
    (∃ (s : State), held s = false ∧ s.hl.state = lsDetached ∧ s.hl.detach.toNat / 65536 ≠ 0) :=
  ⟨ ⟨link live, by decide +kernel, by decide +kernel, by decide +kernel, .inl (by decide +kernel)⟩,
   ⟨link live, 0xFFFFFFFF, by decide +kernel⟩,
   ⟨live, 0x80, by decide +kernel⟩,
   ⟨live, 3, 1, by decide +kernel⟩,
   ⟨live, 3, 0xFFFFFFFF, by decide +kernel⟩,
   ⟨{ live with hl := { evWait := 1 <<< 127 } }, 127, by decide +kernel⟩,
   ⟨{ live with hl := { detach := 0x10000, state := lsDetached } }, by decide +kernel⟩⟩

set_option maxRecDepth 100000 in
/-- The hypotheses of each clause of MemoryMessages can be met. -/
theorem wit_MemoryMessages :
    (∃ (s : State) (m : WinMsg), held s = false ∧ s.hl.trained = true ∧ winMalformed true m = false ∧ m.attr.getLsbD 0 = false ∧
      winLegal m = true ∧ winHeld s m = false) ∧
    (∃ (s : State) (m : WinMsg) (n : Fin 4), held s = false ∧ s.hl.trained = true ∧ winMalformed true m = false ∧ m.attr.getLsbD
      0 = false ∧ winLegal m = true ∧ m.window = 0 ∧ m.data.length = m.length.toNat ∧ reqBuf n.val ≤ m.offset.toNat ∧
      m.offset.toNat + m.length.toNat ≤ reqBuf n.val + 0x1000 ∧ (mbox s n.val).state ≠ 2 ∧ (mbox s n.val).state ≠ 3) ∧
    (∃ (s : State) (v : Nat), held s = false ∧ s.hl.trained = true ∧ 1 ≤ v ∧ v ≤ 1000) ∧
    (∃ (s : State) (m : WinMsg), held s = false ∧ s.hl.trained = true ∧ winMalformed false m = false ∧ m.attr.getLsbD 0 = false)
      ∧
    (∃ (s : State) (c : CplMsg) (d : Dmrd), held s = false ∧ s.hl.trained = true ∧ s.hl.waiting = [] ∧ s.hl.nakDue = false ∧
      cplReserved c = false ∧ c.length ≠ 0 ∧ c.length.toNat ≤ 256 ∧ c.status = 0 ∧ c.attr.getLsbD 0 = false ∧ s.hl.dmrds.find?
      (·.tag == c.tag.toNat) = some d ∧ pieceOk d c = true ∧ d.got.length + c.data.length ≠ d.len) ∧
    (∃ (s : State) (c : CplMsg) (d : Dmrd) (q idx : Nat), held s = false ∧ s.hl.trained = true ∧ cplReserved c = false ∧
      c.length ≠ 0 ∧ c.length.toNat ≤ 256 ∧ c.status = 0 ∧ c.attr.getLsbD 0 = false ∧ s.hl.dmrds = [d] ∧ d.tag = c.tag.toNat ∧
      pieceOk d c = true ∧ d.got.length + c.data.length = d.len ∧ d.bad = false ∧ d.use = .rxDesc q idx ∧ (que s (64 +
      q)).enable = true ∧ (que s (64 + q)).bufs = [] ∧ le (d.got ++ c.data) 8 2 % 64 = 0 ∧ 256 ≤ le (d.got ++ c.data) 8 2 ∧ le
      (d.got ++ c.data) 8 2 ≤ 16384 ∧ allZero ((d.got ++ c.data).drop 10) = true) ∧
    (∃ (s : State) (c : CplMsg) (d : Dmrd) (q idx : Nat), held s = false ∧ s.hl.trained = true ∧ s.hl.waiting = [] ∧ cplReserved
      c = false ∧ c.length = 0 ∧ clsOf s 49 ≤ 1 ∧ s.hl.dmrds.find? (·.tag == c.tag.toNat) = some d ∧ d.use = .txDesc q idx ∧
      (que s q).enable = true) ∧
    (∃ (s : State) (tag : BitVec 10) (d : Dmrd) (q idx : Nat), held s = false ∧ clsOf s 50 ≤ 1 ∧ s.hl.dmrds.find? (·.tag ==
      tag.toNat) = some d ∧ d.use = .rxDesc q idx ∧ (que s (64 + q)).enable = true) :=
  ⟨ ⟨link live, { attr := 0, tag := 0, length := 4, resv6 := 0, offset := 0xFFFC, window := 0, resv13 := 0, data := zz 4 },
     by decide +kernel⟩,
   ⟨link live, { attr := 0, tag := 0, length := 64, resv6 := 0, offset := 0xEFC0, window := 0, resv13 := 0, data := zz 64 }, 3,
     by decide +kernel⟩,
   ⟨link live, 1000, by decide +kernel⟩,
   ⟨link live, { attr := 0, tag := 1023, length := 64, resv6 := 0, offset := 0x7FFC0, window := 1, resv13 := 0, data := [] },
     by decide +kernel⟩,
   ⟨{ live with hl := { trained := true, dmrds := [{ tag := 3, use := .txDesc 0 0, addr := 0, len := 128, got := [], bad := false, at_ := 0 }] } },
     { attr := 0, tag := 3, length := 64, status := 0, byteOffset := 0, resv12 := 0, data := zz 64 },
     { tag := 3, use := .txDesc 0 0, addr := 0, len := 128, got := [], bad := false, at_ := 0 }, by decide +kernel⟩,
   ⟨{ live with hl := { trained := true, dmrds := [{ tag := 3, use := .rxDesc 0 4, addr := 0, len := 64, got := [], bad := false, at_ := 0 }] }, qs := [(64, { enable := true })] },
     { attr := 0, tag := 3, length := 64, status := 0, byteOffset := 0, resv12 := 0, data := zz 8 ++ [0, 1] ++ zz 54 },
     { tag := 3, use := .rxDesc 0 4, addr := 0, len := 64, got := [], bad := false, at_ := 0 }, 0, 4, by decide +kernel⟩,
   ⟨{ live with hl := { trained := true, dmrds := [{ tag := 3, use := .txDesc 63 0, addr := 0, len := 64, got := [], bad := false, at_ := 0 }] }, qs := [(63, { enable := true })], fs := { srcs := [(49, { cls := some 1 })] } },
     { attr := 0, tag := 3, length := 0, status := 1, byteOffset := 0, resv12 := 0, data := [] },
     { tag := 3, use := .txDesc 63 0, addr := 0, len := 64, got := [], bad := false, at_ := 0 }, 63, 0, by decide +kernel⟩,
   ⟨{ live with hl := { dmrds := [{ tag := 3, use := .rxDesc 0 4, addr := 0, len := 64, got := [], bad := false, at_ := 0 }] }, qs := [(64, { enable := true })], fs := { srcs := [(50, { cls := some 1 })] } },
     3, { tag := 3, use := .rxDesc 0 4, addr := 0, len := 64, got := [], bad := false, at_ := 0 }, 0, 4, by decide +kernel⟩⟩

set_option maxRecDepth 100000 in
/-- The hypotheses of each clause of QueueRegisters can be met. -/
theorem wit_QueueRegisters :
    (∃ (s : State) (q : Fin 64) (v : BitVec 32), held s = false ∧ queuesOpen s = true ∧ ((que s q.val).enable = false ∨ v.toNat
      % 4096 < (que s q.val).size.toNat)) ∧
    (∃ (s : State) (q : Fin 64) (v : BitVec 32), held s = false ∧ queuesOpen s = true ∧ ((que s (64 + q.val)).enable = false ∨
      v.toNat % 4096 < (que s (64 + q.val)).size.toNat)) ∧
    (∃ (s : State) (q : Fin 64) (v : BitVec 32), held s = false ∧ queuesOpen s = true ∧ (que s q.val).enable = true ∧ (que s
      q.val).stopped = false ∧ (que s q.val).closing = false ∧ (que s q.val).size.toNat ≤ v.toNat % 4096) ∧
    (∃ (s : State) (d : Dir) (q : Fin 64) (v : BitVec 32), held s = false ∧ queuesOpen s = true ∧ (que s (queIx d q.val)).enable
      = false ∧ (que s (queIx d q.val)).stamped = false ∧ v.getLsbD 31 = true ∧ v.getLsbD 30 = false ∧ (que s (queIx d
      q.val)).base.toNat % 4096 = 0 ∧ (que s (queIx d q.val)).size.toNat ∈ [16, 32, 64, 128, 256, 512, 1024, 2048, 4096] ∧ (que
      s (queIx d q.val)).tail.toNat < (que s (queIx d q.val)).size.toNat) ∧
    (∃ (s : State) (d : Dir) (q : Fin 64) (v : BitVec 32), held s = false ∧ queuesOpen s = true ∧ (que s (queIx d q.val)).enable
      = false ∧ (que s (queIx d q.val)).stamped = v.getLsbD 30 ∧ v.getLsbD 31 = true ∧ (que s (queIx d q.val)).base.toNat % 4096
      ≠ 0) ∧
    (∃ (s : State) (d : Dir) (q : Fin 64) (v : BitVec 32), held s = false ∧ queuesOpen s = true ∧ (que s (queIx d q.val)).enable
      = true ∧ v.getLsbD 31 = false) :=
  ⟨ ⟨link live, 63, 4095, by decide +kernel, by decide +kernel, .inl (by decide +kernel)⟩,
   ⟨link live, 63, 4095, by decide +kernel, by decide +kernel, .inl (by decide +kernel)⟩,
   ⟨modQue (link live) 63 fun u => { u with enable := true, size := 16 }, 63, 16, by decide +kernel⟩,
   ⟨modQue (link live) 127 fun u => { u with base := 0x1000, size := 4096, tail := 4095 }, .rx, 63, 0x80000077,
     by decide +kernel⟩,
   ⟨modQue (link live) 0 fun u => { u with base := 0xFFF, size := 16 }, .tx, 0, 0x80000000, by decide +kernel⟩,
   ⟨modQue (link live) 64 fun u => { u with enable := true }, .rx, 0, 0, by decide +kernel⟩⟩

set_option maxRecDepth 100000 in
/-- The hypotheses of each clause of Stamping can be met. -/
theorem wit_Stamping :
    (∃ (s : State) (d : Dir) (q : Fin 64) (v : BitVec 32), held s = false ∧ queuesOpen s = true ∧ (que s (queIx d q.val)).enable
      = false ∧ (que s (queIx d q.val)).stamped = false ∧ v.getLsbD 31 = false ∧ v.getLsbD 30 = true ∧ 8 ≤ stampedCount s (64 ≤
      queIx d q.val)) ∧
    (∃ (s : State) (d : Dir) (q : Fin 64) (v : BitVec 32), held s = false ∧ queuesOpen s = true ∧ (que s (queIx d q.val)).enable
      = false ∧ (que s (queIx d q.val)).stamped = false ∧ v.getLsbD 31 = false ∧ v.getLsbD 30 = true ∧ stampedCount s (64 ≤
      queIx d q.val) < 8) ∧
    (∃ (s : State) (d : Dir) (q : Fin 64) (v : BitVec 32), held s = false ∧ queuesOpen s = true ∧ (que s (queIx d q.val)).enable
      = false ∧ (que s (queIx d q.val)).stamped = false ∧ v.getLsbD 31 = true ∧ v.getLsbD 30 = true) ∧
    (∃ (s t : State) (d : Dir) (q : Fin 64) (v : BitVec 32) (rx : Bool), stampedCount s rx ≤ 8 ∧ (exec (.stampedWrite d q v) s =
      .next t ∨ exec (.queueEnable d q v) s = .next t)) ∧
    (∃ (s : State) (d : Dir) (q : Fin 64) (v : BitVec 32), held s = false ∧ queuesOpen s = true ∧ (que s (queIx d q.val)).enable
      = false ∧ (que s (queIx d q.val)).stamped = true ∧ v.getLsbD 31 = true ∧ v.getLsbD 30 = true ∧ (que s (queIx d
      q.val)).base.toNat % 4096 = 0 ∧ (que s (queIx d q.val)).size.toNat ∈ [16, 32, 64, 128, 256, 512, 1024, 2048, 4096] ∧ (que
      s (queIx d q.val)).tail.toNat < (que s (queIx d q.val)).size.toNat) :=
  ⟨ ⟨[0, 1, 2, 3, 4, 5, 6, 7].foldl (fun s q => modQue s q fun u => { u with stamped := true }) (link live), .tx, 63,
     0x40000000, by decide +kernel⟩,
   ⟨[0, 1, 2, 3, 4, 5, 6].foldl (fun s q => modQue s q fun u => { u with stamped := true }) (link live), .tx, 63, 0x40000000,
     by decide +kernel⟩,
   ⟨link live, .rx, 63, 0xC0000000, by decide +kernel⟩,
   ⟨live, _, .tx, 0, 0, false, by decide +kernel, .inl rfl⟩,
   ⟨modQue (link live) 64 fun u => { u with stamped := true, base := 0x1000, size := 16 }, .rx, 0, 0xC0000000,
     by decide +kernel⟩⟩

set_option maxRecDepth 100000 in
/-- The hypotheses of each clause of DmaCommands can be met. -/
theorem wit_DmaCommands :
    (∃ (s : State) (q : Fin 64) (tag : Nat), held s = false ∧ fetches s q.val = true ∧ findTag s 1024 s.hl.nextTag = some tag) ∧
    (∃ (s : State) (q : Fin 64) (tag : Nat), held s = false ∧ fetches s (64 + q.val) = true ∧ findTag s 1024 s.hl.nextTag = some
      tag) ∧
    (∃ (s : State) (q : Fin 64) (r : TxRec), held s = false ∧ dmaOk s = true ∧ s.hl.state = lsActive ∧ s.fs.f4 = false ∧ (que s
      q.val).enable = true ∧ (que s q.val).stopped = false ∧ (que s q.val).closing = false ∧ (que s q.val).recs = [r] ∧ r.phase
      = .read ∧ r.dest = none ∧ r.todo ≠ 0 ∧ (∀ p ∈ ones r.todo, downFor s p = true) ∧ descLaunch r.desc = false ∧ (s.tw.on =
      false ∨ descHandle r.desc = none)) ∧
    (∃ (s : State) (q : Fin 64) (r : TxRec) (p : Fin 6) (n tag : Nat), held s = false ∧ dmaOk s = true ∧ s.hl.state = lsActive ∧
      s.fs.f4 = false ∧ (que s q.val).enable = true ∧ (que s q.val).stopped = false ∧ (que s q.val).closing = false ∧ (que s
      q.val).recs = [r] ∧ r.phase = .read ∧ r.dest = none ∧ ones r.todo = [p.val] ∧ downFor s p.val = false ∧ descLaunch r.desc
      = false ∧ cellsFit s r [p.val] = true ∧ pieces (maxRead s) (le r.desc 0 8) (descLen r.desc) = [(0, n)] ∧ 4 ≤ n ∧ findTag s
      1024 s.hl.nextTag = some tag) ∧
    (∃ (s : State) (q : Fin 64) (r : TxRec) (l : List TxRec) (v : BitVec 8), held s = false ∧ dmaOk s = true ∧ postedOk s = true
      ∧ (que s q.val).recs = r :: l ∧ r.phase = .done v ∧ (que s q.val).stamped = false) ∧
    (∃ (s : State) (q : Fin 64) (w : RxWb) (l : List RxWb), held s = false ∧ dmaOk s = true ∧ postedOk s = true ∧ s.fs.f4 =
      false ∧ (que s (64 + q.val)).wbs = w :: l) ∧
    (∃ (s : State) (d : Dir) (q : Fin 64), held s = false ∧ (que s (queIx d q.val)).closing = true ∧ reads s (queIx d q.val) =
      false ∧ anyStarted s (queIx d q.val) = false ∧ (que s (queIx d q.val)).recs = [] ∧ (que s (queIx d q.val)).wbs = []) ∧
    (∃ (s : State) (q : Fin 64) (r : TxRec) (l : List TxRec) (v : BitVec 8) (a : Nat), held s = false ∧ dmaOk s = true ∧
      postedOk s = true ∧ (que s q.val).recs = r :: l ∧ r.phase = .done v ∧ (que s q.val).stamped = false ∧ s.hl.trained = true
      ∧ s.hl.waiting = [] ∧ s.hl.nakDue = false ∧ s.hl.replay.length < 64 ∧ a = (que s q.val).base.toNat + 32 * r.idx) ∧
    (∃ (s : State) (q : Fin 64) (w : RxWb) (l : List RxWb) (a : Nat), held s = false ∧ dmaOk s = true ∧ postedOk s = true ∧
      s.fs.f4 = false ∧ (que s (64 + q.val)).wbs = w :: l ∧ w.data = [] ∧ w.wb.length = 32 ∧ s.hl.trained = true ∧ s.hl.waiting
      = [] ∧ s.hl.nakDue = false ∧ s.hl.replay.length < 64 ∧ a = (que s (64 + q.val)).base.toNat + 32 * w.idx) ∧
    (∃ (s : State) (q : Fin 64) (w : RxWb) (l : List RxWb) (a n : Nat), held s = false ∧ dmaOk s = true ∧ 2 ≤ s.hl.crP ∧ 2 ≤
      s.hl.crPD ∧ s.fs.f4 = false ∧ (que s (64 + q.val)).wbs = w :: l ∧ w.data.length = n ∧ 0 < n ∧ n ≤ 64 ∧ pieces (maxWrite s)
      w.addr n = [(0, n)] ∧ w.wb.length = 32 ∧ s.hl.trained = true ∧ s.hl.waiting = [] ∧ s.hl.nakDue = false ∧
      s.hl.replay.length < 63 ∧ a = (que s (64 + q.val)).base.toNat + 32 * w.idx) :=
  ⟨ ⟨modQue (link live) 63 fun u => { u with enable := true, size := 16, tail := 1 }, 63, 0, by decide +kernel⟩,
   ⟨modQue (link live) 127 fun u => { u with enable := true, size := 16, tail := 1 }, 63, 0, by decide +kernel⟩,
   ⟨modQue (link live) 3 fun u => { u with enable := true, size := 16, recs := [{ txr .read with todo := 1 }] }, 3,
     { txr .read with todo := 1 }, by decide +kernel⟩,
   ⟨modQue (objWrite (port 5 (link live)) (oTxs 5) 12 [1, 0]) 3 fun u =>
     { u with enable := true, size := 16, recs := [{ txr .read with desc := zz 22 ++ [64, 0] ++ zz 8, todo := 32 }] }, 3,
     { txr .read with desc := zz 22 ++ [64, 0] ++ zz 8, todo := 32 }, 5, 64, 0, by decide +kernel⟩,
   ⟨modQue (link live) 3 fun u => { u with recs := [txr (.done 0)] }, 3, txr (.done 0), [], 0, by decide +kernel⟩,
   ⟨modQue (link live) 67 fun u =>
     { u with wbs := [{ idx := 0, addr := 0, data := [], poison := false, wb := zz 16, record := [], recIx := 0 }] }, 3,
     { idx := 0, addr := 0, data := [], poison := false, wb := zz 16, record := [], recIx := 0 }, [], by decide +kernel⟩,
   ⟨modQue (link live) 67 fun u => { u with closing := true }, .rx, 3, by decide +kernel⟩,
   ⟨modQue (link live) 3 fun u => { u with recs := [txr (.done 0)] }, 3, txr (.done 0), [], 0, 0, by decide +kernel⟩,
   ⟨modQue (link live) 67 fun u =>
     { u with wbs := [{ idx := 0, addr := 0, data := [], poison := false, wb := zz 32, record := [], recIx := 0 }] }, 3,
     { idx := 0, addr := 0, data := [], poison := false, wb := zz 32, record := [], recIx := 0 }, [], 0, by decide +kernel⟩,
   ⟨(modQue (link live) 67 fun u =>
     { u with wbs := [{ idx := 0, addr := 0, data := zz 64, poison := false, wb := zz 32, record := [], recIx := 0 }] }).modHl
     fun l => { l with crP := 2, crPD := 2 }, 3,
     { idx := 0, addr := 0, data := zz 64, poison := false, wb := zz 32, record := [], recIx := 0 }, [], 0, 64,
     by decide +kernel⟩⟩

set_option maxRecDepth 100000 in
/-- The hypotheses of each clause of MailboxChannels can be met. -/
theorem wit_MailboxChannels :
    (∃ (s : State) (n : Fin 4), held s = false ∧ ((mbox s n.val).state = 1 ∨ (mbox s n.val).state = 4)) ∧
    (∃ (s : State) (n : Fin 4), held s = false ∧ (mbox s n.val).state = 4) ∧
    (∃ (s : State) (n : Fin 4), held s = false ∧ (mbox s n.val).state = 2) ∧
    (∃ (s : State) (n : Fin 4), held s = false ∧ (mbox s n.val).state ≠ 1 ∧ (mbox s n.val).state ≠ 4) ∧
    (∃ (s : State) (n : Fin 4), held s = false ∧ (mbox s n.val).state ≠ 4) ∧
    (∃ (s : State) (n : Fin 4), held s = false ∧ (mbox s n.val).state ≠ 2) ∧
    (∃ (s : State), held s = false ∧ (mbox s 0).state = 2) ∧
    (∃ (s : State) (r : Request), held s = false ∧ (∀ n < 4, (mbox s n).state ≠ 2) ∧ s.mb.remote = [r]) ∧
    (∃ (s : State) (r : Request), earlyCheck s r = none) ∧
    (∃ (s : State) (r : Request) (st : Nat) (p : Bytes), earlyCheck s r = some (st, p)) ∧
    (∃ (s : State) (r : Request), 4080 < r.length) ∧
    (∃ (s : State) (r : Request), r.length ≤ 4080 ∧ r.crcOk = false) ∧
    (∃ (s : State) (r : Request), r.length ≤ 4080 ∧ r.crcOk = true ∧ r.busy = true) ∧
    (∃ (s : State) (r : Request), r.length ≤ 4080 ∧ r.crcOk = true ∧ r.busy = false ∧ s.se.hostLoad = false ∧ opcodes.contains
      r.opcode.toNat = false) ∧
    (∃ (s : State) (r : Request), r.length ≤ 4080 ∧ r.crcOk = true ∧ r.busy = false ∧ s.se.hostLoad = false ∧ opcodes.contains
      r.opcode.toNat = true ∧ 2 ≤ r.word6.toNat) :=
  ⟨ ⟨modMbox live 3 fun c => { c with state := 4 }, 3, by decide +kernel, .inr (by decide +kernel)⟩,
   ⟨modMbox live 3 fun c => { c with state := 4 }, 3, by decide +kernel⟩,
   ⟨modMbox live 0 fun c => { c with state := 2 }, 0, by decide +kernel⟩,
   ⟨modMbox live 2 fun c => { c with state := 3 }, 2, by decide +kernel⟩,
   ⟨modMbox live 2 fun c => { c with state := 3 }, 2, by decide +kernel⟩,
   ⟨modMbox live 2 fun c => { c with state := 3 }, 2, by decide +kernel⟩,
   ⟨modMbox live 0 fun c => { c with state := 2 }, by decide +kernel⟩,
   ⟨{ live with mb := { remote := [rq (.session 0) 1 0 []] } }, rq (.session 0) 1 0 [], by decide +kernel⟩,
   ⟨live, rq (.mb 1) 1 0 [], by decide +kernel⟩,
   ⟨live, { rq (.mb 1) 1 0 [] with length := 4081 }, _, _, rfl⟩,
   ⟨live, { rq (.mb 1) 1 0 [] with length := 4081 }, by decide +kernel⟩,
   ⟨live, { rq (.mb 1) 1 0 [] with length := 4080, crcOk := false }, by decide +kernel⟩,
   ⟨live, { rq (.mb 1) 1 0 [] with busy := true }, by decide +kernel⟩,
   ⟨live, rq (.mb 1) 3 0 [], by decide +kernel⟩,
   ⟨live, { rq (.mb 1) 1 0 [] with word6 := 2 }, by decide +kernel⟩⟩

set_option maxRecDepth 100000 in
/-- The hypotheses of each clause of RequestOutcomes can be met. -/
theorem wit_RequestOutcomes :
    (∃ (s : State) (r : Request) (n : Fin 4) (status : Nat) (staged : Bool) (p : Bytes), r.via = .mb n ∧ status < 256) ∧
    (∃ (s : State) (r : Request) (f : State → Request → Answer) (st : Nat), authCheck s r.via r.opcode.toNat = some st ∧
      sizeFirst r = false) ∧
    (∃ (s : State) (r : Request) (f : State → Request → Answer), authCheck s r.via r.opcode.toNat = none ∧ s.fs.f4 = true ∧
      graveServed r.opcode.toNat r.oid.toNat = false ∧ withdraws r = false) ∧
    (∃ (s : State) (r : Request) (f : State → Request → Answer) (st : Nat) (p : Bytes), authCheck s r.via r.opcode.toNat = none
      ∧ s.fs.f4 = false ∧ oidCheck r.opcode.toNat r.oid.toNat = some (st, p)) ∧
    (∃ (s : State) (v : Via) (op : Nat), opAllowed s v op = false ∧ (s.se.hostLoad && loadServes v op) = false) ∧
    (∃ (s : State) (v : Via) (op : Nat), opAllowed s v op = true ∧ (op = 0x90 ∨ op = 0x91) ∧ keyAgent s v = false) ∧
    (∃ (s : State) (v : Via), opAllowed s v 0x62 = true ∧ protFlag s 3 = true) ∧
    (∃ (s : State) (v : Via) (op : Nat), opAllowed s v op = true ∧ 0xA0 ≤ op ∧ op ≤ 0xA3 ∧ protFlag s 6 = true ∧ s.se.hostLoad =
      false) ∧
    (∃ (s : State) (v : Via) (r : Request) (i : Instr) (op : Nat) (f : State → Request → Answer), (∀ s, exec i s = runCmd v op f
      s) ∧ Admitted s v op r) ∧
    (∃ (s : State) (r : Request) (f : State → Request → Answer) (st : Nat), authCheck s r.via r.opcode.toNat = some st ∧
      sizeFirst r = true) ∧
    (∃ (s : State) (r : Request) (f : State → Request → Answer), authCheck s r.via r.opcode.toNat = none ∧ withdraws r = true ∧
      oidCheck r.opcode.toNat r.oid.toNat = none) ∧
    (∃ (s : State) (v : Via) (op : Nat), s.se.hostLoad = true ∧ loadServes v op = true ∧ op < 0x90 ∧ op ≠ 0x62) :=
  ⟨ ⟨live, rq (.mb 3) 1 0 [], 3, 255, false, [], by decide +kernel⟩,
   ⟨live, rq (.mb 0) 1 0 [], fun s _ => .ok s [], stAuth, by decide +kernel⟩,
   ⟨{ live with fs := { f4 := true } }, rq (.mb 1) 0x31 0 [], fun s _ => .ok s [], by decide +kernel⟩,
   ⟨live, rq (.mb 1) 0x10 0xFFFFFFFF [], fun s _ => .ok s [], _, _, by decide +kernel, by decide +kernel, rfl⟩,
   ⟨live, .mb 0, 1, by decide +kernel⟩,
   ⟨objWrite live 0x0A000001 2 [0], .mb 1, 0x90, by decide +kernel⟩,
   ⟨objWrite live 0x0A000001 0 [8], .mb 1, by decide +kernel⟩,
   ⟨objWrite live 0x0A000001 0 [64], .mb 1, 0xA3, by decide +kernel⟩,
   ⟨tk (rq (.mb 1) 0x92 0 []) live, .mb 1, rq (.mb 1) 0x92 0 [], .alarmStatus (.mb 1), 0x92, _, fun _ => rfl, admitted_of
     (by decide +kernel)⟩,
   ⟨live, rq (.mb 0) 0xA0 0 (toLe 4 492033 ++ [1, 0, 0, 0]), fun _ _ => .no 0 [], stAuth, by decide +kernel⟩,
   ⟨live, rq (.mb 1) 0x11 0x09000001 [1, 0, 0, 0, 0, 0, 0, 0], fun _ _ => .no 0 [], by decide +kernel⟩,
   ⟨{ live with se := { hostLoad := true } }, .mb 0, 2, by decide +kernel⟩⟩

set_option maxRecDepth 100000 in
/-- The hypotheses of each clause of ServiceOrders can be met. -/
theorem wit_ServiceOrders :
    (∃ (s : State) (v : Via) (r : Request), Admitted s v 0xC0 r ∧ checkOnly r = false ∧ r.length = 0 ∧ s.hl.state = lsActive) ∧
    (∃ (s : State) (v : Via) (r : Request), Admitted s v 0xC0 r ∧ checkOnly r = false ∧ r.length = 0 ∧ s.hl.state ≠ lsActive) ∧
    (∃ (s : State), held s = false ∧ s.hl.state = lsQuiescing ∧ s.hl.dmrds = [] ∧ s.hl.leaving = false ∧ s.hl.trained = true ∧
      (∀ x ∈ s.hl.waiting, dmaHeld s.hl x.msg = true ∧ x.cls ≠ .linkMgmt) ∧ s.hl.nakDue = false ∧ 1 ≤ s.hl.crLM ∧
      s.hl.replay.length < 64 ∧ (s.hl.quiesce = true ∨ (s.hl.detachVia = none ∧ s.hl.evMask.getLsbD 126 = true ∧ ∀ i < 128, (que
      s i).recs = [] ∧ (que s i).wbs = []))) ∧
    (∃ (s : State), held s = false ∧ s.hl.state = lsQuiescing ∧ s.hl.dmrds = [] ∧ s.hl.leaving = false ∧ s.hl.trained = true ∧
      s.hl.waiting = [] ∧ s.hl.nakDue = false ∧ s.hl.crLM = 0 ∧ s.hl.quiesce = true) ∧
    (∃ (s : State) (v : Via) (r : Request), Admitted s v 0xC1 r ∧ checkOnly r = false ∧ r.length = 0 ∧ s.hl.state = lsDetached ∧
      s.hl.trained = true) ∧
    (∃ (s : State), held s = false ∧ clsOf s 57 = 1) ∧
    (∃ (s : State) (v : Via) (r : Request), Admitted s v 0x01 r ∧ checkOnly r = false ∧ r.length ≤ 64) ∧
    (∃ (s : State) (v : Via) (r : Request), Admitted s v 0x01 r ∧ checkOnly r = false ∧ 64 < r.length) ∧
    (∃ (s : State) (v : Via) (r : Request), Admitted s v 0x02 r ∧ checkOnly r = false ∧ r.length = 0 ∧ s.se.hostLoad = false) :=
  ⟨ ⟨tk (rq (.mb 0) 0xC0 0 []) (link live), .mb 0, rq (.mb 0) 0xC0 0 [], admitted_of (by decide +kernel), by decide +kernel⟩,
   ⟨tk (rq (.mb 0) 0xC0 0 []) ({ live with hl := { state := lsDetached } }), .mb 0, rq (.mb 0) 0xC0 0 [], admitted_of
     (by decide +kernel), by decide +kernel⟩,
   by refine ⟨{ live with hl := { state := lsQuiescing, trained := true, crLM := 1, quiesce := true } }, ?_, ?_, ?_, ?_, ?_, ?_,
     ?_, ?_, ?_, .inl (by decide +kernel)⟩ <;> decide +kernel,
   ⟨{ live with hl := { state := lsQuiescing, trained := true, crLM := 0, quiesce := true } }, by decide +kernel⟩,
   ⟨tk (rq (.mb 1) 0xC1 0 []) ({ live with hl := { state := lsDetached, trained := true } }), .mb 1, rq (.mb 1) 0xC1 0 [],
     admitted_of (by decide +kernel), by decide +kernel⟩,
   ⟨{ live with fs := { srcs := [(57, { cls := some 1 })] } }, by decide +kernel⟩,
   ⟨tk (rq (.mb 1) 0x01 0 (zz 64)) (live), .mb 1, rq (.mb 1) 0x01 0 (zz 64), admitted_of (by decide +kernel),
     by decide +kernel⟩,
   ⟨tk (rq (.mb 1) 0x01 0 (zz 65)) (live), .mb 1, rq (.mb 1) 0x01 0 (zz 65), admitted_of (by decide +kernel),
     by decide +kernel⟩,
   ⟨tk (rq (.mb 1) 0x02 0 []) live, .mb 1, rq (.mb 1) 0x02 0 [], admitted_of (by decide +kernel), by decide +kernel⟩⟩

set_option maxRecDepth 100000 in
/-- The hypotheses of each clause of ObjectOrders can be met. -/
theorem wit_ObjectOrders :
    (∃ (s : State) (v : Via) (r : Request) (d : Desc), Admitted s v 0x11 r ∧ checkOnly r = false ∧ descOf r.oid.toNat = some d ∧
      d.kind = .immediate ∧ r.oid.toNat / 0x10000 ∉ [0x0103, 0x0206, 0x0300, 0x0900] ∧ r.oid.toNat ≠ 0x02000002 ∧ 8 ≤ r.length ∧
      r.length ≤ 132 ∧ wordsOutside d r.payload = false ∧ needsMet s r.oid.toNat d 0 1 = true ∧ imageIllegal r.oid.toNat d
      r.payload (mergeImage d r.payload (objRead s (physOid s r.oid.toNat) 0 d.size)) = none ∧ attrRefusal (onTaken s r) (acted
      r) r.oid.toNat (mergeImage d r.payload (objRead s (physOid s r.oid.toNat) 0 d.size)) = none) ∧
    (∃ (s : State) (v : Via) (r : Request) (d : Desc), Admitted s v 0x11 r ∧ checkOnly r = false ∧ descOf r.oid.toNat = some d ∧
      d.kind = .immediate ∧ r.oid.toNat / 0x10000 = 0x0300 ∧ 8 ≤ r.length ∧ r.length ≤ 132 ∧ wordsOutside d r.payload = false ∧
      needsMet s r.oid.toNat d 0 1 = true ∧ imageIllegal r.oid.toNat d r.payload (mergeImage d r.payload (objRead s (physOid s
      r.oid.toNat) 0 d.size)) = none) ∧
    (∃ (s : State) (v : Via) (r : Request) (d : Desc), Admitted s v 0x11 r ∧ checkOnly r = false ∧ descOf r.oid.toNat = some d ∧
      d.kind = .immediate ∧ 8 ≤ r.length ∧ r.length ≤ 132 ∧ wordsOutside d r.payload = false ∧ needsMet s r.oid.toNat d 0 1 =
      false) ∧
    (∃ (s : State) (v : Via) (r : Request) (d : Desc), Admitted s v 0x11 r ∧ checkOnly r = false ∧ descOf r.oid.toNat = some d ∧
      d.kind = .readOnly) ∧
    (∃ (s : State) (v : Via) (r : Request) (d : Desc), Admitted s v 0x10 r ∧ checkOnly r = false ∧ descOf r.oid.toNat = some d ∧
      r.oid.toNat % 16 ≠ 15 ∧ r.length = 4 ∧ by_ r.payload 0 ≤ 1 ∧ by_ r.payload 1 = 0 ∧ by_ r.payload 2 = 0 ∧ by_ r.payload 3 =
      0 ∧ needsMet s r.oid.toNat d 0 1 = true) ∧
    (∃ (s : State) (oid off x n : Nat) (b : Bytes), (x + n ≤ off ∨ off + b.length ≤ x)) ∧
    (∃ (s : State) (v : Via) (r : Request) (d : Desc), Admitted s v 0x20 r ∧ checkOnly r = false ∧ descOf r.oid.toNat = some d ∧
      d.kind = .immediate ∧ r.oid.toNat / 0x10000 ≠ 0x0803 ∧ le r.payload 0 4 + le r.payload 4 2 ≤ d.entries ∧ 0 < le r.payload
      4 2 ∧ le r.payload 6 2 = d.size ∧ r.length = 8 + le r.payload 4 2 * d.size ∧ entriesIllegal (onTaken s r) r.oid.toNat d
      ((List.range (le r.payload 4 2)).map fun k => sub r.payload (8 + k * d.size) d.size) = none ∧ needsMet s r.oid.toNat d (le
      r.payload 0 4) (le r.payload 4 2) = true ∧ tableRefusal (onTaken s r) (acted r) r.oid.toNat (le r.payload 0 4)
      ((List.range (le r.payload 4 2)).map fun k => sub r.payload (8 + k * d.size) d.size) false = none) ∧
    (∃ (s : State) (v : Via) (r : Request) (d : Desc), Admitted s v 0x21 r ∧ checkOnly r = false ∧ descOf r.oid.toNat = some d ∧
      r.length = 8 ∧ le r.payload 0 4 < d.entries ∧ by_ r.payload 6 ≤ 1 ∧ by_ r.payload 7 = 0 ∧ needsMet s r.oid.toNat d (le
      r.payload 0 4) (min (le r.payload 4 2) (min (d.entries - le r.payload 0 4) (4076 / d.size))) = true) ∧
    (∃ (s : State) (v : Via) (r : Request) (d : Desc), Admitted s v 0x22 r ∧ checkOnly r = false ∧ descOf r.oid.toNat = some d ∧
      d.kind = .immediate ∧ r.oid.toNat / 0x10000 ≠ 0x0803 ∧ r.length = 8 ∧ le r.payload 0 4 < d.entries ∧ le r.payload 4 4 = 0
      ∧ needsMet s r.oid.toNat d (le r.payload 0 4) (d.entries - le r.payload 0 4) = true ∧ tableRefusal (onTaken s r) (acted r)
      r.oid.toNat (le r.payload 0 4) (List.replicate (d.entries - le r.payload 0 4) d.reset) true = none) :=
  ⟨ ⟨tk (rq (.mb 1) 0x11 0x02020000 [1, 0, 0, 0, 5, 0, 0xFD, 3]) (ons [68] live), .mb 1, rq (.mb 1) 0x11 0x02020000 [1, 0, 0, 0,
     5, 0, 0xFD, 3], ((descOf 0x02020000).getD (rog [] 0)), admitted_of (by decide +kernel), by decide +kernel⟩,
   ⟨tk (rq (.mb 1) 0x11 0x03000000 [1, 0, 0, 0, 1, 1, 0, 0]) (ons [6, 70] live), .mb 1, rq (.mb 1) 0x11 0x03000000 [1, 0, 0, 0,
     1, 1, 0, 0], ((descOf 0x03000000).getD (rog [] 0)), admitted_of (by decide +kernel), by decide +kernel⟩,
   ⟨tk (rq (.mb 1) 0x11 0x04040000 ([1, 0, 0, 0] ++ zz 4)) live, .mb 1, rq (.mb 1) 0x11 0x04040000 ([1, 0, 0, 0] ++ zz 4),
     ((descOf 0x04040000).getD (rog [] 0)), admitted_of (by decide +kernel), by decide +kernel⟩,
   ⟨tk (rq (.mb 1) 0x11 0x01000000 []) live, .mb 1, rq (.mb 1) 0x11 0x01000000 [], ((descOf 0x01000000).getD (rog [] 0)),
     admitted_of (by decide +kernel), by decide +kernel⟩,
   ⟨tk (rq (.mb 1) 0x10 0x01000000 [1, 0, 0, 0]) live, .mb 1, rq (.mb 1) 0x10 0x01000000 [1, 0, 0, 0], ((descOf 0x01000000).getD
     (rog [] 0)), admitted_of (by decide +kernel), by decide +kernel⟩,
   ⟨live, 0x04040000, 4, 8, 4, [1, 2, 3, 4], .inr (by decide +kernel)⟩,
   ⟨tk (rq (.mb 1) 0x20 0x04050000 (toLe 4 31 ++ toLe 2 1 ++ toLe 2 8 ++ zz 8)) (ons [49] live), .mb 1, rq (.mb 1) 0x20
     0x04050000 (toLe 4 31 ++ toLe 2 1 ++ toLe 2 8 ++ zz 8), ((descOf 0x04050000).getD (rog [] 0)), admitted_of
     (by decide +kernel), by decide +kernel⟩,
   ⟨tk (rq (.mb 1) 0x21 0x04050000 (toLe 4 31 ++ toLe 2 1 ++ [1, 0])) (ons [49] live), .mb 1, rq (.mb 1) 0x21 0x04050000 (toLe 4
     31 ++ toLe 2 1 ++ [1, 0]), ((descOf 0x04050000).getD (rog [] 0)), admitted_of (by decide +kernel), by decide +kernel⟩,
   ⟨tk (rq (.mb 1) 0x22 0x04050000 (toLe 4 31 ++ zz 4)) (ons [49] live), .mb 1, rq (.mb 1) 0x22 0x04050000 (toLe 4 31 ++ zz 4),
     ((descOf 0x04050000).getD (rog [] 0)), admitted_of (by decide +kernel), by decide +kernel⟩⟩

set_option maxRecDepth 100000 in
/-- The hypotheses of each clause of StageOrders can be met. -/
theorem wit_StageOrders :
    (∃ (s : State) (v : Via) (r : Request), Admitted s v 0x30 r ∧ checkOnly r = false ∧ r.length = 4 ∧ by_ r.payload 0 ≤ 7 ∧ by_
      r.payload 1 = 0 ∧ by_ r.payload 2 = 0 ∧ by_ r.payload 3 = 0 ∧ modeFail (onTaken s r) [] (by_ r.payload 0) true = none ∧
      s.mb.stage = [] ∧ s.mb.frozen = [] ∧ s.sk.config = 0) ∧
    (∃ (s : State) (v : Via) (r : Request), Admitted s v 0x32 r ∧ checkOnly r = false ∧ r.length = 8 ∧ by_ r.payload 0 ≤ 2 ∧ by_
      r.payload 1 = 0 ∧ by_ r.payload 2 = 0 ∧ by_ r.payload 3 = 0 ∧ (s.mb.stage.filter (abortSel r)) ≠ []) ∧
    (∃ (s : State) (v : Via) (r : Request), Admitted s v 0x32 r ∧ checkOnly r = false ∧ r.length = 8 ∧ by_ r.payload 0 ≤ 2 ∧ by_
      r.payload 1 = 0 ∧ by_ r.payload 2 = 0 ∧ by_ r.payload 3 = 0 ∧ (s.mb.stage.filter (abortSel r)) = []) ∧
    (∃ (s : State) (v : Via), commitPeriod s ≠ 0) ∧
    (∃ (s : State) (v : Via) (r : Request) (b : Nat), Admitted s v 0x31 r ∧ checkOnly r = false ∧ r.length = 8 ∧ s.mb.boundary =
      none ∧ timeOk s = true ∧ chooseBoundary s r.via (le r.payload 0 8) = some b ∧ periodFits s s.mb.stage (commitPeriod s) =
      true ∧ s.sk.config = 0 ∧ modeOf s.mb.stage = none ∧ freezeBad s s.mb.stage = false ∧ freezeDomains s s.mb.stage = []) ∧
    (∃ (s : State) (v : Via) (r : Request), Admitted s v 0x31 r ∧ checkOnly r = false ∧ r.length = 8 ∧ (s.mb.boundary.isSome ||
      !timeOk s) = true) ∧
    (∃ (s : State) (v : Via) (r : Request), Admitted s v 0x31 r ∧ checkOnly r = false ∧ r.length = 8 ∧ s.mb.boundary = none ∧
      timeOk s = true ∧ chooseBoundary s r.via (le r.payload 0 8) = none) :=
  ⟨ ⟨tk (rq (.mb 1) 0x30 0 [7, 0, 0, 0]) (gcl 7 5 (ons [49] live)), .mb 1, rq (.mb 1) 0x30 0 [7, 0, 0, 0], admitted_of
     (by decide +kernel), by decide +kernel⟩,
   ⟨tk (rq (.mb 1) 0x32 0 (zz 8)) ({ live with mb := { stage := [ord 0x11 0x04000000 []] } }), .mb 1, rq (.mb 1) 0x32 0 (zz 8),
     admitted_of (by decide +kernel), by decide +kernel⟩,
   ⟨tk (rq (.mb 1) 0x32 0 (zz 8)) live, .mb 1, rq (.mb 1) 0x32 0 (zz 8), admitted_of (by decide +kernel), by decide +kernel⟩,
   ⟨live, .mb 1, by decide +kernel⟩,
   by refine ⟨tk (rq (.mb 1) 0x31 0 (zz 8)) (timed live), .mb 1, rq (.mb 1) 0x31 0 (zz 8), _, admitted_of (by decide +kernel),
     ?_, ?_, ?_, ?_, rfl, ?_⟩ <;> decide +kernel,
   ⟨tk (rq (.mb 1) 0x31 0 (zz 8)) live, .mb 1, rq (.mb 1) 0x31 0 (zz 8), admitted_of (by decide +kernel), by decide +kernel⟩,
   ⟨tk (rq (.mb 1) 0x31 0 (toLe 8 1)) (timed live), .mb 1, rq (.mb 1) 0x31 0 (toLe 8 1), admitted_of (by decide +kernel),
     by decide +kernel⟩⟩

set_option maxRecDepth 100000 in
/-- The hypotheses of each clause of CommitMoments can be met. -/
theorem wit_CommitMoments :
    (∃ (s : State) (m : Nat), held s = false ∧ undecided s = some m ∧ s.tx.phase = 1 ∧ planesMissing s = 0 ∧ stackMissing s = 0
      ∧ s.mb.selfBad = false ∧ segsMissing s m = 0) ∧
    (∃ (s : State) (m : Nat), held s = false ∧ undecided s = some m ∧ s.tx.phase = 1 ∧ planesMissing s ≠ 0) ∧
    (∃ (s : State), held s = false ∧ s.tx.phase = 1) ∧
    (∃ (s : State), held s = false ∧ s.tx.phase = 3 ∧ s.tx.agree.boundary < nowNs s + repeatNs s) ∧
    (∃ (s : State) (b : Nat), held s = false ∧ undecided s = none ∧ s.mb.boundary = some b ∧ s.mb.held = false ∧ s.mb.selfBad =
      false ∧ planned s .commit = false ∧ agreementGap s b = none) ∧
    (∃ (s : State) (b pm sm : Nat), held s = false ∧ undecided s = none ∧ s.mb.boundary = some b ∧ s.mb.held = false ∧
      s.mb.selfBad = false ∧ planned s .commit = false ∧ agreementGap s b = some (pm, sm)) ∧
    (∃ (s : State) (b : Nat), held s = false ∧ s.mb.boundary = some b ∧ s.mb.held = true ∧ now80 s < b * 65536) ∧
    (∃ (s : State) (b : Nat), held s = false ∧ timeOk s = true ∧ s.mb.boundary = some b ∧ s.mb.held = true ∧ b * 65536 ≤ now80
      s) ∧
    (∃ (s : State), held s = false ∧ timeOk s = true ∧ s.mb.boundary = none ∧ s.mb.lastBoundary < nowNs s / commitPeriod s *
      commitPeriod s) :=
  ⟨ ⟨{ live with mb := { boundary := some 20000000, frozen := [ord 0x30 0 [3, 0, 0, 0]] }, tx := { phase := 1 } }, 3,
     by decide +kernel⟩,
   ⟨{ live with mb := { boundary := some 20000000, frozen := [ord 0x30 0 [3, 0, 0, 0]] }, tx := { phase := 1, agree := { planes := 1 } }, objs := (gcl 0 0 (objWrite live 0x04050000 0 [1, 2, 3, 4, 5, 6, 3, 0])).objs },
     3, by decide +kernel⟩,
   ⟨{ live with tx := { phase := 1 } }, by decide +kernel⟩,
   ⟨{ live with tx := { phase := 3 } }, by decide +kernel⟩,
   ⟨{ live with mb := { boundary := some 20000000 } }, 20000000, by decide +kernel⟩,
   by refine
     ⟨{ live with mb := { boundary := some 20000000, frozen := [ord 0x30 0 [3, 0, 0, 0]] }, tx := { agree := { decided := true } } },
     20000000, _, _, ?_, ?_, ?_, ?_, ?_, ?_, rfl⟩ <;> decide +kernel,
   ⟨{ live with mb := { boundary := some 1000, held := true } }, 1000, by decide +kernel⟩,
   ⟨{ timed live with mb := { boundary := some 0, held := true } }, 0, by decide +kernel⟩,
   ⟨modChan (modChan (modChan (timed live) 0 fun c => { c with raw := 0x100000000000 }) 1 fun c =>
     { c with raw := 0x100000000000 }) 2 fun c => { c with raw := 0x100000000000 }, by decide +kernel⟩⟩

set_option maxRecDepth 100000 in
/-- The hypotheses of each clause of AgreementFrames can be met. -/
theorem wit_AgreementFrames :
    (∃ (s : State) (p : Fin 6) (f : Bytes), held s = false ∧ on s (6 + p.val) = true ∧ (prt s p.val).up = true ∧ isKin f 0x20 =
      true ∧ on s 49 = true ∧ portSilent s p.val = false) ∧
    (∃ (s : State) (p : Fin 6) (f : Bytes), held s = false ∧ on s (6 + p.val) = true ∧ (prt s p.val).up = true ∧ isKin f 0x20 =
      true ∧ on s 49 = true ∧ proposeResult s p.val f = 0 ∧ s.tx.follow.state = 0) ∧
    (∃ (s : State) (p : Fin 6) (f : Bytes) (e : Nat) (req : Bool), held s = false ∧ on s (6 + p.val) = true ∧ (prt s p.val).up =
      true ∧ isKin f 0x21 = true ∧ on s 49 = true ∧ s.tx.phase = 1 ∧ s.tx.agree.result ≠ 0 ∧ s.tx.agree.planes.getLsbD (p.val /
      2) = true ∧ be f 16 2 = s.tx.agree.id.toNat ∧ sub f 18 6 = portAddr s (2 * (p.val / 2)) ∧ participant s (p.val / 2) (sub f
      6 6) = some (e, req) ∧ by_ f 38 = 0 ∧ by_ f 24 = p.val / 2 ∧ by_ f 25 = s.tx.agree.mode ∧ be f 26 8 = s.tx.agree.boundary
      ∧ be f 34 4 = s.tx.agree.tag.toNat) ∧
    (∃ (s : State) (p : Fin 6) (f : Bytes), held s = false ∧ on s (6 + p.val) = true ∧ (prt s p.val).up = true ∧ isKin f 0x21 =
      true ∧ on s 49 = true ∧ participant s (p.val / 2) (sub f 6 6) = none) ∧
    (∃ (s : State) (p : Fin 6) (f : Bytes), held s = false ∧ on s (6 + p.val) = true ∧ (prt s p.val).up = true ∧ isKin f 0x22 =
      true ∧ on s 49 = true ∧ ourProposal s p.val f = true ∧ s.tx.follow.cancelled = false ∧ nowNs s + 1000000 <
      s.tx.follow.boundary) ∧
    (∃ (s : State) (p : Fin 6) (f : Bytes), held s = false ∧ on s (6 + p.val) = true ∧ (prt s p.val).up = true ∧ isKin f 0x23 =
      true ∧ on s 49 = true ∧ ourProposal s p.val f = true ∧ s.mb.held = false) ∧
    (∃ (s : State) (p : Fin 6) (f : Bytes) (b m : Nat), held s = false ∧ on s (6 + p.val) = true ∧ (prt s p.val).up = true ∧
      isKin f 0x23 = true ∧ on s 49 = true ∧ ourProposal s p.val f = true ∧ s.mb.held = true ∧ s.mb.boundary = some b ∧ nowNs s
      < b ∧ modeOf s.mb.frozen = some m ∧ s.sk.config = 0 ∧ agreeProposes s = false ∧ agreeFollows s = true) ∧
    (∃ (s : State) (p : Fin 6) (f : Bytes) (e : Nat) (req : Bool), held s = false ∧ on s (6 + p.val) = true ∧ (prt s p.val).up =
      true ∧ isKin f 0x21 = true ∧ on s 49 = true ∧ s.tx.phase = 1 ∧ s.tx.agree.result ≠ 0 ∧ s.tx.agree.planes.getLsbD (p.val /
      2) = true ∧ be f 16 2 = s.tx.agree.id.toNat ∧ sub f 18 6 = portAddr s (2 * (p.val / 2)) ∧ participant s (p.val / 2) (sub f
      6 6) = some (e, req) ∧ ¬(by_ f 38 = 0 ∧ by_ f 24 = p.val / 2 ∧ by_ f 25 = s.tx.agree.mode ∧ be f 26 8 =
      s.tx.agree.boundary ∧ be f 34 4 = s.tx.agree.tag.toNat)) :=
  ⟨ ⟨port 5 live, 5, (kin 0x20 ([])), by decide +kernel⟩,
   ⟨(let s := gcl 3 0 (objWrite (port 5 live) 0x04040000 1 [1]);
     { s with mb := { boundary := some 20000000, frozen := [ord 0x30 0 [3, 0, 0, 0]] } }), 5, (kin 0x20 (toBe 2 5 ++ zz 6 ++ [2,
     3] ++ toBe 8 20000000 ++ toBe 4 0)), by decide +kernel⟩,
   ⟨(let s := objWrite (port 5 live) 0x04050020 0 (zz 6 ++ [3, 0]); s.modTx fun t =>
     { t with phase := 1, agree := { id := 5, mode := 3, result := 1, boundary := 20000000, tag := 9, planes := 7 } }), 5, (kin
     0x21 (toBe 2 5 ++ portAddr live 0 ++ [2, 3] ++ toBe 8 20000000 ++ toBe 4 9 ++ [0])), 0, true, by decide +kernel⟩,
   ⟨port 0 live, 0, (kin 0x21 ([])), by decide +kernel⟩,
   ⟨(port 0 live).modTx fun t => { t with follow := { state := 1, id := 5, mode := 3, boundary := 20000000 } }, 0, (kin 0x22
     (toBe 2 5 ++ zz 6 ++ [0, 3] ++ toBe 8 20000000)), by decide +kernel⟩,
   ⟨(port 0 live).modTx fun t => { t with follow := { state := 1, id := 5, mode := 3, boundary := 20000000 } }, 0, (kin 0x23
     (toBe 2 5 ++ zz 6 ++ [0, 3] ++ toBe 8 20000000)), by decide +kernel⟩,
   ⟨{ ((objWrite (port 0 live) oAgree 0 [0, 1]).modTx fun t => { t with follow := { state := 1, id := 5, mode := 3, boundary := 20000000 } }) with mb := { boundary := some 20000000, held := true, frozen := [ord 0x30 0 [3, 0, 0, 0]] } },
     0, (kin 0x23 (toBe 2 5 ++ zz 6 ++ [0, 3] ++ toBe 8 20000000)), 20000000, 3, by decide +kernel⟩,
   ⟨(let s := objWrite (port 5 live) 0x04050020 0 (zz 6 ++ [3, 0]); s.modTx fun t =>
     { t with phase := 1, agree := { id := 5, mode := 3, result := 1, boundary := 20000000, tag := 9, planes := 7 } }), 5, (kin
     0x21 (toBe 2 5 ++ portAddr live 0 ++ [2, 3] ++ toBe 8 20000000 ++ toBe 4 9 ++ [1])), 0, true, by decide +kernel⟩⟩

set_option maxRecDepth 100000 in
/-- The hypotheses of each clause of DomainOrders can be met. -/
theorem wit_DomainOrders :
    (∃ (s : State) (v : Via) (r : Request) (d : Nat), Admitted s v 0x40 r ∧ v ≠ .boot ∧ checkOnly r = false ∧ r.length = 4 ∧ by_
      r.payload 0 = d ∧ by_ r.payload 1 = 0 ∧ by_ r.payload 2 = 0 ∧ by_ r.payload 3 = 0 ∧ d ≤ 77 ∧ enabled s d = false ∧
      s.ld.moving = none ∧ depsMet (enabled s) d = true ∧ pinConflict s d = none ∧ s.ld.exceeds = false ∧ cost d ≤ headroom s) ∧
    (∃ (s : State) (v : Via) (r : Request) (d : Nat), Admitted s v 0x40 r ∧ v ≠ .boot ∧ checkOnly r = false ∧ r.length = 4 ∧ by_
      r.payload 0 = d ∧ by_ r.payload 1 = 0 ∧ by_ r.payload 2 = 0 ∧ by_ r.payload 3 = 0 ∧ d ≤ 77 ∧ enabled s d = false ∧
      s.ld.moving = none ∧ depsMet (enabled s) d = true ∧ pinConflict s d = none ∧ (s.ld.exceeds = true ∨ headroom s < cost d))
      ∧
    (∃ (s : State) (v : Via) (r : Request) (d : Nat), Admitted s v 0x40 r ∧ v ≠ .boot ∧ checkOnly r = false ∧ r.length = 4 ∧ by_
      r.payload 0 = d ∧ by_ r.payload 1 = 0 ∧ by_ r.payload 2 = 0 ∧ by_ r.payload 3 = 0 ∧ d ≤ 77 ∧ enabled s d = true) ∧
    (∃ (s : State) (v : Via) (r : Request) (d : Nat), Admitted s v 0x41 r ∧ checkOnly r = false ∧ r.length = 4 ∧ by_ r.payload 0
      = d ∧ by_ r.payload 1 = 0 ∧ by_ r.payload 2 = 0 ∧ by_ r.payload 3 = 0 ∧ d ≤ 77 ∧ (d < 65 ∨ 68 < d) ∧ (dom s d).state ≠ 0 ∧
      neverOff d = false ∧ rankOf r.via ≤ (dom s d).rank ∧ s.ld.moving = none ∧ needed s d = false ∧ disableConflict s d = none)
      ∧
    (∃ (s : State) (v : Via) (r : Request) (d : Nat), Admitted s v 0x41 r ∧ checkOnly r = false ∧ r.length = 4 ∧ by_ r.payload 0
      = d ∧ by_ r.payload 1 = 0 ∧ by_ r.payload 2 = 0 ∧ by_ r.payload 3 = 0 ∧ 65 ≤ d ∧ d ≤ 68 ∧ (dom s d).state ≠ 0 ∧ neverOff d
      = false ∧ rankOf r.via ≤ (dom s d).rank ∧ s.ld.moving = none ∧ needed s d = false ∧ disableConflict s d = none) ∧
    (∃ (s : State) (v : Via) (r : Request) (d : Nat), Admitted s v 0x41 r ∧ checkOnly r = false ∧ r.length = 4 ∧ by_ r.payload 0
      = d ∧ by_ r.payload 1 = 0 ∧ by_ r.payload 2 = 0 ∧ by_ r.payload 3 = 0 ∧ d ≤ 77 ∧ (dom s d).state ≠ 0 ∧ neverOff d = false
      ∧ (dom s d).rank < rankOf r.via) ∧
    (∃ (s : State) (v : Via) (r : Request) (d : Nat), Admitted s v 0x41 r ∧ checkOnly r = false ∧ r.length = 4 ∧ by_ r.payload 0
      = d ∧ by_ r.payload 1 = 0 ∧ by_ r.payload 2 = 0 ∧ by_ r.payload 3 = 0 ∧ d ≤ 77 ∧ (dom s d).state ≠ 0 ∧ neverOff d = true)
      ∧
    (∃ (s : State) (d : Fin 78) (v : Via), held s = false ∧ s.ld.moving = some (d.val, .order v) ∧ (dom s d.val).state = 1) ∧
    (∃ (s : State) (d : Fin 78) (v : Via), held s = false ∧ s.ld.moving = some (d.val, .order v) ∧ (dom s d.val).state = 1 ∧
      s.ld.plan = [] ∧ s.mb.taken = [] ∧ clsOf s 64 = 1 ∧ clsOf s 65 = 1) ∧
    (∃ (s : State) (d : Fin 78) (v : Via), held s = false ∧ s.ld.moving = some (d.val, .order v) ∧ (dom s d.val).state = 3) ∧
    (∃ (s s' : State) (x : Nat), held s = false ∧ s.se.phase = 2 ∧ s.se.locked = false ∧ s.fs.f4 = false ∧ draw s = (x, s') ∧
      enabled s (x % 78) = false ∧ s.ld.moving = none ∧ depsMet (enabled s) (x % 78) = true ∧ pinConflict s (x % 78) = none ∧
      s.ld.exceeds = false ∧ cost (x % 78) ≤ headroom s) :=
  ⟨ ⟨tk (rq (.mb 1) 0x40 0 [5, 0, 0, 0]) live, .mb 1, rq (.mb 1) 0x40 0 [5, 0, 0, 0], 5, admitted_of (by decide +kernel),
     by decide +kernel⟩,
   ⟨tk (rq (.mb 1) 0x40 0 [5, 0, 0, 0]) ({ live with ld := { exceeds := true } }), .mb 1, rq (.mb 1) 0x40 0 [5, 0, 0, 0], 5,
     admitted_of (by decide +kernel), by decide +kernel⟩,
   ⟨tk (rq (.mb 1) 0x40 0 [77, 0, 0, 0]) live, .mb 1, rq (.mb 1) 0x40 0 [77, 0, 0, 0], 77, admitted_of (by decide +kernel),
     by decide +kernel⟩,
   ⟨tk (rq (.mb 1) 0x41 0 [0, 0, 0, 0]) (ons [0] live), .mb 1, rq (.mb 1) 0x41 0 [0, 0, 0, 0], 0, admitted_of
     (by decide +kernel), by decide +kernel⟩,
   ⟨tk (rq (.mb 1) 0x41 0 [66, 0, 0, 0]) (ons [66] live), .mb 1, rq (.mb 1) 0x41 0 [66, 0, 0, 0], 66, admitted_of
     (by decide +kernel), by decide +kernel⟩,
   ⟨tk (rq (.mb 1) 0x41 0 [76, 0, 0, 0]) live, .mb 1, rq (.mb 1) 0x41 0 [76, 0, 0, 0], 76, admitted_of (by decide +kernel),
     by decide +kernel⟩,
   ⟨tk (rq (.mb 1) 0x41 0 [77, 0, 0, 0]) live, .mb 1, rq (.mb 1) 0x41 0 [77, 0, 0, 0], 77, admitted_of (by decide +kernel),
     by decide +kernel⟩,
   ⟨{ live with ld := { moving := some (5, .order (.mb 1)), doms := [(5, { state := 1 })] } }, 5, .mb 1, by decide +kernel⟩,
   ⟨{ live with ld := { moving := some (5, .order (.mb 1)), doms := [(5, { state := 1 })] }, fs := { srcs := [(64, { cls := some 1 }), (65, { cls := some 1 })] } },
     5, .mb 1, by decide +kernel⟩,
   ⟨{ live with ld := { moving := some (77, .order (.mb 1)), doms := [(77, { state := 3 })] } }, 77, .mb 1, by decide +kernel⟩,
   (fun h => ⟨bs (Config.freeNat 0 % 78), (draw (bs (Config.freeNat 0 % 78))).2, Config.freeNat 0, h.1, h.2.1, h.2.2.1,
     h.2.2.2.1, draw_bs ⟨_, Nat.mod_lt _ (by decide)⟩, h.2.2.2.2⟩) (bs_ok ⟨_, Nat.mod_lt _ (by decide)⟩)⟩

set_option maxRecDepth 100000 in
/-- The hypotheses of each clause of LedgerCommands can be met. -/
theorem wit_LedgerCommands :
    (∃ (s : State) (v : Via) (r : Request), Admitted s v 0x42 r ∧ checkOnly r = false ∧ r.length = 0) ∧
    (∃ (s : State) (v : BitVec 32), held s = false ∧ s.se.locked = false ∧ 1000 ≤ v.toNat % 8192 ∧ v.toNat % 8192 ≤ 7200 ∧
      v.toNat % 8192 % 10 = 0) ∧
    (∃ (s : State) (v : BitVec 32), held s = false ∧ (s.se.locked = true ∨ v.toNat % 8192 < 1000 ∨ 7200 < v.toNat % 8192 ∨
      v.toNat % 8192 % 10 ≠ 0)) ∧
    (∃ (s : State), held s = false ∧ clsOf s 65 = 1 ∧ hottest s ≤ 1050) ∧
    (∃ (s : State), held s = false ∧ clsOf s 15 = 1 ∧ clsOf s 65 = 1 ∧ 1150 < hottest s ∧ hottest s < 1220) ∧
    (∃ (s : State) (d : Nat), held s = false ∧ s.ld.moving = none ∧ s.ld.exceeds = true ∧ (srcOf s 65).cond = true ∧ ceiling s <
      chargedTotal s ∧ shedNext s = some d) ∧
    (∃ (s : State), held s = false ∧ s.ld.moving = none ∧ s.ld.exceeds = true ∧ (srcOf s 65).cond = true ∧ ceiling s <
      chargedTotal s ∧ shedNext s = none) ∧
    (∃ (s : State), held s = false) ∧
    (∃ (l : List (Nat × Nat)) (now new : Nat), (∀ x ∈ l, new ≤ x.2)) ∧
    (∃ (at_ c now new : Nat), c < new) ∧
    (∃ (at_ c x c' now new : Nat), at_ + 1000000000 ≤ now) :=
  ⟨ ⟨tk (rq (.mb 1) 0x42 0 []) live, .mb 1, rq (.mb 1) 0x42 0 [], admitted_of (by decide +kernel), by decide +kernel⟩,
   ⟨live, 7200, by decide +kernel⟩,
   ⟨live, 999, by decide +kernel, .inr (.inl (by decide +kernel))⟩,
   ⟨{ live with ld := { tj := 1050 }, fs := { srcs := [(65, { cls := some 1 })] } }, by decide +kernel⟩,
   ⟨{ live with ld := { tj := 1219 }, fs := { srcs := [(15, { cls := some 1 }), (65, { cls := some 1 })] } },
     by decide +kernel⟩,
   ⟨objWrite
     { ons [0] live with ld := { (ons [0] live).ld with exceeds := true, bootCeil := 1000 }, fs := { srcs := [(65, { cond := true })] } }
     0x01000001 0 [0, 0xFF], 0, by decide +kernel⟩,
   ⟨objWrite
     { ons [0] live with ld := { (ons [0] live).ld with exceeds := true, bootCeil := 1000 }, fs := { srcs := [(65, { cond := true })] } }
     0x01000001 0 [0xFF], by decide +kernel⟩,
   ⟨live, by decide +kernel⟩,
   ⟨[(0, 7200)], 5, 7200, by decide +kernel⟩,
   ⟨0, 5800, 5, 7200, by decide +kernel⟩,
   ⟨0, 5800, 1, 6000, 1000000000, 7200, by decide +kernel⟩⟩

set_option maxRecDepth 100000 in
/-- The hypotheses of each clause of DozeAndFences can be met. -/
theorem wit_DozeAndFences :
    (∃ (s : State) (i : Fin 16) (u : Fin 32), held s = false ∧ u.val = 16 + i.val ∧ (doz s u.val).status = 0 ∧ (dom s (30 +
      i.val)).state = 2 ∧ s.ld.moving = none ∧ s.ld.plan = []) ∧
    (∃ (s : State) (u : Fin 32), held s = false ∧ dozeUnit u.val = true ∧ (doz s u.val).status = 2 ∧ s.fs.f4 = false) ∧
    (∃ (s : State) (p : Fin 6), held s = false ∧ (doz s p.val).status = 2 ∧ on s (18 + p.val) = true) ∧
    (∃ (s : State) (i : Fin 16), held s = false ∧ (doz s (16 + i.val)).status = 2) ∧
    (∃ (s : State) (i : Fin 16), s.fs.f4 = false ∧ (doz s (16 + i.val)).held = [30 + i.val] ∧ s.ld.exceeds = false ∧ 6 ≤
      headroom s ∧ (dom s (30 + i.val)).state = 0 ∧ depsMet (enabled s) (30 + i.val) = true ∧ s.ld.moving = none ∧ s.ld.plan =
      []) ∧
    (∃ (s : State) (v : Via) (r : Request), Admitted s v 0xC2 r ∧ checkOnly r = false ∧ r.length = 4 ∧ by_ r.payload 0 = 1 ∧ by_
      r.payload 1 ≤ 3 ∧ by_ r.payload 2 ≤ (if by_ r.payload 1 = 1 then 5 else if by_ r.payload 1 = 2 then 2 else if by_
      r.payload 1 = 3 then 15 else 255) ∧ by_ r.payload 3 = 0) ∧
    (∃ (s : State) (v : Via) (r : Request), Admitted s v 0xC2 r ∧ checkOnly r = false ∧ r.length = 4 ∧ by_ r.payload 0 = 0 ∧ by_
      r.payload 1 ≤ 3 ∧ by_ r.payload 2 ≤ (if by_ r.payload 1 = 1 then 5 else if by_ r.payload 1 = 2 then 2 else if by_
      r.payload 1 = 3 then 15 else 255) ∧ by_ r.payload 3 = 0 ∧ fenceHeld s (by_ r.payload 1) (by_ r.payload 2) = true) ∧
    (∃ (s : State) (v : Via) (r : Request), Admitted s v 0xC2 r ∧ checkOnly r = false ∧ r.length = 4 ∧ by_ r.payload 0 = 0 ∧ by_
      r.payload 1 ≤ 3 ∧ by_ r.payload 2 ≤ (if by_ r.payload 1 = 1 then 5 else if by_ r.payload 1 = 2 then 2 else if by_
      r.payload 1 = 3 then 15 else 255) ∧ by_ r.payload 3 = 0 ∧ fenceHeld s (by_ r.payload 1) (by_ r.payload 2) = false) ∧
    (∃ (s : State) (v : Via) (r : Request), Admitted s v 0xC2 r ∧ checkOnly r = false ∧ r.length = 4 ∧ 1 < by_ r.payload 0) ∧
    (∃ (s : State) (u : Nat), s.fs.f4 = true) :=
  ⟨ ⟨ons [45] live, 15, 31, by decide +kernel⟩,
   ⟨{ live with ld := { doze := [(5, { status := 2 })] } }, 5, by decide +kernel⟩,
   ⟨{ live with ld := { doze := [(5, { status := 2 })], doms := [(23, { state := 2 })] } }, 5, by decide +kernel⟩,
   ⟨{ live with ld := { doze := [(31, { status := 2 })] } }, 15, by decide +kernel⟩,
   ⟨{ live with ld := { doze := [(31, { status := 2, held := [45] })], doms := [(68, { state := 2 })] } }, 15,
     by decide +kernel⟩,
   ⟨tk (rq (.mb 0) 0xC2 0 [1, 1, 5, 0]) live, .mb 0, rq (.mb 0) 0xC2 0 [1, 1, 5, 0], admitted_of (by decide +kernel),
     by decide +kernel⟩,
   ⟨tk (rq (.mb 0) 0xC2 0 [0, 2, 2, 0]) ({ live with fs := { f3 := [(2, 100)] } }), .mb 0, rq (.mb 0) 0xC2 0 [0, 2, 2, 0],
     admitted_of (by decide +kernel), by decide +kernel⟩,
   ⟨tk (rq (.mb 0) 0xC2 0 [0, 3, 15, 0]) live, .mb 0, rq (.mb 0) 0xC2 0 [0, 3, 15, 0], admitted_of (by decide +kernel),
     by decide +kernel⟩,
   ⟨tk (rq (.mb 0) 0xC2 0 [2, 0, 0, 0]) live, .mb 0, rq (.mb 0) 0xC2 0 [2, 0, 0, 0], admitted_of (by decide +kernel),
     by decide +kernel⟩,
   ⟨{ live with fs := { f4 := true } }, 31, by decide +kernel⟩⟩

set_option maxRecDepth 100000 in
/-- The hypotheses of each clause of RawCounts can be met. -/
theorem wit_RawCounts :
    (∃ (s : State) (i : Fin 3), s.pending = [] ∧ on s 68 = true ∧ on s (65 + i.val) = true) ∧
    (∃ (s : State) (i : Fin 3), s.pending = [] ∧ (on s 68 = false ∨ on s (65 + i.val) = false)) :=
  ⟨ ⟨timed live, 2, by decide +kernel⟩,
   ⟨live, 0, by decide +kernel, .inl (by decide +kernel)⟩⟩

set_option maxRecDepth 100000 in
/-- The hypotheses of each clause of TimeRequests can be met. -/
theorem wit_TimeRequests :
    (∃ (s : State) (v : Via) (r : Request), Admitted s v 0x50 r ∧ checkOnly r = false ∧ r.length = 0 ∧ timeOk s = true) ∧
    (∃ (s : State) (v : Via) (r : Request), Admitted s v 0x50 r ∧ checkOnly r = false ∧ r.length = 0 ∧ timeOk s = false) ∧
    (∃ (s : State) (v : Via) (r : Request), Admitted s v 0x51 r ∧ checkOnly r = false ∧ r.length = 24 ∧ by_ r.payload 0 = 1 ∧ (∀
      o ∈ [1, 2, 3, 18, 19, 20, 21, 22, 23], by_ r.payload o = 0) ∧ mayAdjust s r.via = true ∧ on s 68 = true ∧ s.tm.pending =
      none ∧ (sgn 32 (le r.payload 4 4) - rateNow s).natAbs ≤ rateStepLimit s) ∧
    (∃ (s : State) (v : Via) (r : Request), Admitted s v 0x51 r ∧ checkOnly r = false ∧ r.length = 24 ∧ by_ r.payload 0 = 2 ∧ (∀
      o ∈ [1, 2, 3, 18, 19, 20, 21, 22, 23], by_ r.payload o = 0) ∧ mayAdjust s r.via = true ∧ on s 68 = true ∧ s.tm.pending =
      none ∧ jumpLimit s * 65536 < (sgn 80 (le r.payload 8 10)).natAbs) ∧
    (∃ (s : State) (v : Via) (r : Request), Admitted s v 0x51 r ∧ checkOnly r = false ∧ r.length = 24 ∧ by_ r.payload 0 = 6 ∧ (∀
      o ∈ [1, 2, 3, 18, 19, 20, 21, 22, 23], by_ r.payload o = 0) ∧ mayAdjust s r.via = true ∧ on s 68 = true ∧ s.tm.pending =
      none ∧ jumpLimit s * 65536 < (sgn 80 (le r.payload 8 10)).natAbs ∧ s.tm.permit ≠ 0) ∧
    (∃ (s : State) (v : Via) (r : Request), Admitted s v 0x51 r ∧ checkOnly r = false ∧ r.length = 24 ∧ by_ r.payload 0 < 8 ∧ (∀
      o ∈ [1, 2, 3, 18, 19, 20, 21, 22, 23], by_ r.payload o = 0) ∧ mayAdjust s r.via = false) ∧
    (∃ (s : State) (v : Via) (r : Request), Admitted s v 0x51 r ∧ checkOnly r = false ∧ r.length = 24 ∧ by_ r.payload 0 < 8 ∧ (∀
      o ∈ [1, 2, 3, 18, 19, 20, 21, 22, 23], by_ r.payload o = 0) ∧ mayAdjust s r.via = true ∧ s.tm.pending ≠ none) :=
  ⟨ ⟨tk (rq (.mb 1) 0x50 0 []) (timed live), .mb 1, rq (.mb 1) 0x50 0 [], admitted_of (by decide +kernel), by decide +kernel⟩,
   ⟨tk (rq (.mb 1) 0x50 0 []) live, .mb 1, rq (.mb 1) 0x50 0 [], admitted_of (by decide +kernel), by decide +kernel⟩,
   ⟨tk (rq (.mb 1) 0x51 0 ([1, 0, 0, 0] ++ toLe 4 5 ++ zz 16)) (objWrite (timed live) 0x02010000 0 [1]), .mb 1, rq (.mb 1) 0x51
     0 ([1, 0, 0, 0] ++ toLe 4 5 ++ zz 16), admitted_of (by decide +kernel), by decide +kernel⟩,
   ⟨tk (rq (.mb 1) 0x51 0 ([2, 0, 0, 0] ++ zz 4 ++ toLe 10 1000000000000 ++ zz 6)) (objWrite (timed live) 0x02010000 0 [1]), .mb
     1, rq (.mb 1) 0x51 0 ([2, 0, 0, 0] ++ zz 4 ++ toLe 10 1000000000000 ++ zz 6), admitted_of (by decide +kernel),
     by decide +kernel⟩,
   ⟨tk (rq (.mb 1) 0x51 0 ([6, 0, 0, 0] ++ zz 4 ++ toLe 10 1000000000000 ++ zz 6)) ((objWrite (timed live) 0x02010000 0
     [1]).modTm fun t => { t with permit := 1 }), .mb 1, rq (.mb 1) 0x51 0 ([6, 0, 0, 0] ++ zz 4 ++ toLe 10 1000000000000 ++ zz
     6), admitted_of (by decide +kernel), by decide +kernel⟩,
   ⟨tk (rq (.mb 1) 0x51 0 (7 :: zz 23)) live, .mb 1, rq (.mb 1) 0x51 0 (7 :: zz 23), admitted_of (by decide +kernel),
     by decide +kernel⟩,
   ⟨tk (rq (.mb 1) 0x51 0 (7 :: zz 23)) (objWrite
     { live with tm := { pending := some { rate := none, step := none, permit := false, via := none, servo := false, at_ := 0 } } }
     0x02010000 0 [1]), .mb 1, rq (.mb 1) 0x51 0 (7 :: zz 23), admitted_of (by decide +kernel), by decide +kernel⟩⟩

set_option maxRecDepth 100000 in
/-- The hypotheses of each clause of Adjustment can be met. -/
theorem wit_Adjustment :
    (∃ (s : State) (a : Adjust), held s = false ∧ s.tm.pending = some a ∧ timeOk s = true ∧ atPoint s a = true ∧ a.permit =
      false ∧ a.step = none) ∧
    (∃ (s : State) (a : Adjust), held s = false ∧ s.tm.pending = some a ∧ timeOk s = true ∧ atPoint s a = true ∧ a.permit =
      false ∧ a.step.getD 0 < 0) ∧
    (∃ (s : State) (a : Adjust), held s = false ∧ s.tm.pending = some a ∧ timeOk s = true ∧ atPoint s a = false) ∧
    (∃ (a : Adjust) (c : Chan) (p : Nat), a.step = none ∧ p < 2 ^ 80 ∧ -2 ^ 79 ≤ c.off.toInt + c.rate.toInt * ((p : Int) -
      c.anchor.toNat) / 2 ^ 40 ∧ c.off.toInt + c.rate.toInt * ((p : Int) - c.anchor.toNat) / 2 ^ 40 < 2 ^ 79) ∧
    (∃ (s : State) (a : Adjust) (o : Int), held s = false ∧ s.tm.pending = some a ∧ timeOk s = true ∧ atPoint s a = true ∧
      a.permit = false ∧ a.step = some o ∧ (o < 0 ∨ (s.mb.boundary = none ∧ ∀ i < 3, (chan s i).resync = false))) ∧
    (∃ (a : Adjust) (o : Int) (c : Chan) (p : Nat), a.step = some o) :=
  ⟨
     ⟨{ ([0, 1, 2].foldl (fun s i => modChan s i fun c => { c with raw := 2048 * 65536 }) (timed live)) with tm := { ([0, 1, 2].foldl (fun s i => modChan s i fun c => { c with raw := 2048 * 65536 }) (timed live)).tm with pending := some { rate := some 5, step := none, permit := false, via := none, servo := false, at_ := 0 } } },
     { rate := some 5, step := none, permit := false, via := none, servo := false, at_ := 0 }, by decide +kernel⟩,
   ⟨{ ([0, 1, 2].foldl (fun s i => modChan s i fun c => { c with raw := 2048 * 65536 }) (timed live)) with tm := { ([0, 1, 2].foldl (fun s i => modChan s i fun c => { c with raw := 2048 * 65536 }) (timed live)).tm with pending := some { rate := none, step := some (-5), permit := false, via := none, servo := false, at_ := 0 } } },
     { rate := none, step := some (-5), permit := false, via := none, servo := false, at_ := 0 }, by decide +kernel⟩,
   ⟨{ ([0, 1, 2].foldl (fun s i => modChan s i fun c => { c with raw := 1024 * 65536 }) (timed live)) with tm := { ([0, 1, 2].foldl (fun s i => modChan s i fun c => { c with raw := 1024 * 65536 }) (timed live)).tm with pending := some { rate := some 5, step := none, permit := false, via := none, servo := false, at_ := 0 } } },
     { rate := some 5, step := none, permit := false, via := none, servo := false, at_ := 0 }, by decide +kernel⟩,
   ⟨{ rate := some 5, step := none, permit := false, via := none, servo := false, at_ := 0 }, {}, 2 ^ 80 - 1,
     by decide +kernel⟩,
   by refine
     ⟨{ ([0, 1, 2].foldl (fun s i => modChan s i fun c => { c with raw := 2048 * 65536 }) (timed live)) with tm := { ([0, 1, 2].foldl (fun s i => modChan s i fun c => { c with raw := 2048 * 65536 }) (timed live)).tm with pending := some { rate := none, step := some (-5), permit := false, via := none, servo := false, at_ := 0 } } },
     { rate := none, step := some (-5), permit := false, via := none, servo := false, at_ := 0 }, -5, ?_, ?_, ?_, ?_, ?_, ?_,
     .inl (by decide)⟩ <;> decide +kernel,
   ⟨{ rate := none, step := some (-5), permit := false, via := none, servo := false, at_ := 0 }, -5, {}, 0, by decide +kernel⟩⟩

set_option maxRecDepth 100000 in
/-- The hypotheses of each clause of PermitAndVote can be met. -/
theorem wit_PermitAndVote :
    (∃ (s : State) (v : Via), held s = false ∧ on s 68 = true ∧ opAllowed s v 0x11 = true ∧ rankOf v ≤ 3) ∧
    (∃ (s : State), held s = false ∧ s.tm.permit = 1) ∧
    (∃ (s : State) (ch : Fin 3) (vals : BitVec 8), held s = false ∧ timeOk s = true ∧ (voters s).length = 3 ∧ clsOf s (32 +
      ch.val) = 2 ∧ (chan s ch.val).times = []) ∧
    (∃ (s : State) (ch : Fin 3) (vals : BitVec 8), held s = false ∧ timeOk s = true ∧ (voters s).length = 3 ∧ clsOf s (32 +
      ch.val) = 2 ∧ clsOf s 36 = 1 ∧ 2 ≤ ((chan s ch.val).times.filter fun t => s.clock < t + 86400000000000).length) ∧
    (∃ (s : State) (ch : Fin 3) (vals : BitVec 8), held s = false ∧ timeOk s = true ∧ (voters s).length = 2 ∧ (chan s
      ch.val).inVote = true ∧ clsOf s 35 = 4) ∧
    (∃ (s : State), held s = false ∧ on s 68 = true ∧ s.tm.lostVote = false ∧ clsOf s 35 = 4) ∧
    (∃ (s : State) (x y z : ChanOut), on s 68 = true ∧ s.tm.lostVote = false ∧ voters s = [0, 1, 2] ∧ chanOut s (chan s 0) = x ∧
      chanOut s (chan s 1) = y ∧ chanOut s (chan s 2) = z) ∧
    (∃ (s : State) (a b : Nat), on s 68 = true ∧ s.tm.lostVote = false ∧ voters s = [a, b] ∧ outDiff (chanOut s (chan s a))
      (chanOut s (chan s b)) ≠ 0) :=
  ⟨ ⟨ons [68] live, .mb 1, by decide +kernel⟩,
   ⟨{ live with tm := { permit := 1 } }, by decide +kernel⟩,
   ⟨timed { live with fs := { srcs := [(34, { cls := some 2 })] } }, 2, 7, by decide +kernel⟩,
   ⟨modChan (timed { live with fs := { srcs := [(34, { cls := some 2 }), (36, { cls := some 1 })] } }) 2 fun c =>
     { c with times := [0, 0] }, 2, 7, by decide +kernel⟩,
   ⟨modChan (timed live) 2 fun c => { c with inVote := false }, 0, 7, by decide +kernel⟩,
   ⟨timed live, by decide +kernel⟩,
   ⟨timed live, _, _, _, by decide +kernel, by decide +kernel, by decide +kernel, rfl, rfl, rfl⟩,
   ⟨modChan (modChan (timed live) 2 fun c => { c with inVote := false }) 1 fun c => { c with raw := 1 }, 0, 1,
     by decide +kernel⟩⟩

set_option maxRecDepth 100000 in
/-- The hypotheses of each clause of ServoCommands can be met. -/
theorem wit_ServoCommands :
    (∃ (s : State) (p : Fin 3) (o : BitVec 80), held s = false ∧ timeOk s = true ∧ servoRuns s = false ∧ (plane s p.val).settle
      = 0) ∧
    (∃ (s : State) (p : Fin 3) (id : BitVec 64), held s = false ∧ on s 68 = true ∧ (plane s p.val).gm ≠ id ∧ clsOf s 38 ≤ 1 ∧
      clsOf s 41 ≤ 1 ∧ clsOf s 42 ≤ 1) ∧
    (∃ (s : State) (p : Fin 3), held s = false ∧ on s 68 = true ∧ clsOf s 38 ≤ 1 ∧ clsOf s 42 ≤ 1) ∧
    (∃ (s : State), held s = false ∧ timeOk s = true ∧ s.tm.state = 0 ∧ servoOwner s = 1) ∧
    (∃ (s : State), held s = false ∧ timeOk s = true ∧ s.tm.state = 1 ∧ clsOf s 43 ≤ 1) :=
  ⟨ ⟨timed live, 2, 5, by decide +kernel⟩,
   ⟨timed live, 2, 5, by decide +kernel⟩,
   ⟨timed live, 2, by decide +kernel⟩,
   ⟨(objWrite (timed live) 0x02010000 0 [1]).modTm fun t => { t with state := 0 }, by decide +kernel⟩,
   ⟨(timed live).modTm fun t => { t with state := 1 }, by decide +kernel⟩⟩

set_option maxRecDepth 100000 in
/-- The hypotheses of each clause of TimedPins can be met. -/
theorem wit_TimedPins :
    (∃ (s : State) (v : Via) (r : Request) (n : Nat), Admitted s v 0x52 r ∧ checkOnly r = false ∧ r.length = 24 ∧ by_ r.payload
      0 = n ∧ n ≤ 7 ∧ by_ r.payload 1 = 1 ∧ by_ r.payload 2 ≤ 1 ∧ (∀ o ∈ [3, 14, 15], by_ r.payload o = 0) ∧ 100 ≤ le r.payload
      16 4 ∧ le r.payload 16 4 ≤ 1000000000 ∧ 4 ≤ le r.payload 20 4 ∧ le r.payload 20 4 ≤ 1000000000 ∧ on s 68 = true ∧ on s 72
      = true ∧ now80 s + 10000 * 65536 ≤ le r.payload 4 10 ∧ compRefusal (onTaken s r) (oTout n) 1 = none ∧ s.fs.f4 = false) ∧
    (∃ (s : State) (v : Via) (r : Request) (n : Nat), Admitted s v 0x52 r ∧ checkOnly r = false ∧ r.length = 24 ∧ by_ r.payload
      0 = n ∧ n ≤ 7 ∧ by_ r.payload 1 = 0 ∧ by_ r.payload 2 ≤ 1 ∧ (∀ o ∈ [3, 14, 15], by_ r.payload o = 0) ∧ on s 68 = true ∧ on
      s 72 = true) ∧
    (∃ (s : State) (n : Fin 8), held s = false ∧ on s 72 = true ∧ timeOk s = true ∧ s.fs.f4 = false ∧ (tout s n.val).mode = 2 ∧
      (tout s n.val).state ≠ 3 ∧ (tout s n.val).last = 0) ∧
    (∃ (s : State) (v : Via) (n : Fin 4), held s = false ∧ on s 68 = true ∧ on s 72 = true ∧ opAllowed s v 0x11 = true) ∧
    (∃ (s : State) (n : Fin 4) (rising : Bool) (sub : BitVec 7), held s = false ∧ on s 72 = true ∧ timeOk s = true ∧ capOn s
      n.val = true ∧ (cap s n.val).shut = false ∧ bitN (cfg s (oTcap n.val) 1 1) (if rising then 0 else 1) = true ∧ capWindowed
      s n.val = false ∧ (cap s n.val).last = 0 ∧ (cap s n.val).stamps.length < 16) ∧
    (∃ (s : State) (n : Fin 4) (rising : Bool) (sub : BitVec 7), held s = false ∧ on s 72 = true ∧ timeOk s = true ∧ capOn s
      n.val = true ∧ (cap s n.val).shut = false ∧ bitN (cfg s (oTcap n.val) 1 1) (if rising then 0 else 1) = true ∧ capWindowed
      s n.val = false ∧ (cap s n.val).last = 0 ∧ 16 ≤ (cap s n.val).stamps.length) ∧
    (∃ (s : State) (n : Fin 4), held s = false ∧ on s 72 = true ∧ capOn s n.val = true ∧ capWindowed s n.val = true) ∧
    (∃ (s : State) (v : Via) (r : Request) (n : Nat), Admitted s v 0x53 r ∧ checkOnly r = false ∧ r.length = 4 ∧ by_ r.payload 0
      = n ∧ n ≤ 3 ∧ by_ r.payload 1 = 0 ∧ by_ r.payload 2 = 0 ∧ by_ r.payload 3 = 0 ∧ on s 68 = true ∧ on s 72 = true ∧ capOn s
      n = true) :=
  ⟨ ⟨tk (rq (.mb 1) 0x52 0 ([7, 1, 1, 0] ++ toLe 10 (10000 * 65536) ++ [0, 0] ++ toLe 4 100 ++ toLe 4 4)) (ons [72] (timed
     live)), .mb 1, rq (.mb 1) 0x52 0 ([7, 1, 1, 0] ++ toLe 10 (10000 * 65536) ++ [0, 0] ++ toLe 4 100 ++ toLe 4 4), 7,
     admitted_of (by decide +kernel), by decide +kernel⟩,
   ⟨tk (rq (.mb 1) 0x52 0 ([7, 0, 1, 0] ++ zz 20)) (ons [72] (timed live)), .mb 1, rq (.mb 1) 0x52 0 ([7, 0, 1, 0] ++ zz 20), 7,
     admitted_of (by decide +kernel), by decide +kernel⟩,
   ⟨(ons [72] (timed live)).modTm fun t => { t with outs := [(7, { mode := 2, state := 1 })] }, 7, by decide +kernel⟩,
   ⟨ons [68, 72] live, .mb 1, 3, by decide +kernel⟩,
   ⟨objWrite (ons [72] (timed live)) (oTcap 3) 0 [1, 3], 3, true, 127, by decide +kernel⟩,
   ⟨(objWrite (ons [72] (timed live)) (oTcap 3) 0 [1, 3]).modTm fun t =>
     { t with caps := [(3, { stamps := List.replicate 16 { port := 0, at48 := 0, cls := 0 } })] }, 3, true, 127,
     by decide +kernel⟩,
   ⟨objWrite (ons [72] (timed live)) (oTcap 3) 0 [1, 3, 1], 3, by decide +kernel⟩,
   ⟨tk (rq (.mb 1) 0x53 0 [3, 0, 0, 0]) (objWrite (ons [72] (timed live)) (oTcap 3) 0 [1, 3]), .mb 1, rq (.mb 1) 0x53 0 [3, 0,
     0, 0], 3, admitted_of (by decide +kernel), by decide +kernel⟩⟩

set_option maxRecDepth 100000 in
/-- The hypotheses of each clause of Calibration can be met. -/
theorem wit_Calibration :
    (∃ (s : State) (conv : Fin 8) (ok : Bool), held s = false ∧ on s 70 = true) ∧
    (∃ (s : State) (pt : Fin 49), held s = false ∧ on s 70 = true ∧ on s (ptDomain pt.val) = true ∧ (calPt s pt.val).running =
      false ∧ (ptDue s pt.val).isSome = true ∧ (pt.val = 48 ∨ (calPort s (calInst pt.val)).suspended = false) ∧ aheadOf s pt.val
      < freeConv s) ∧
    (∃ (s : State) (pt : Fin 49), held s = false ∧ on s 70 = true ∧ on s (ptDomain pt.val) = true ∧ (calPt s pt.val).running =
      false ∧ (ptDue s pt.val).isSome = true ∧ (pt.val = 48 ∨ (calPort s (calInst pt.val)).suspended = false) ∧ freeConv s ≤
      aheadOf s pt.val ∧ (calPt s pt.val).waits = none) ∧
    (∃ (s : State) (pt : Fin 49) (w : Nat), held s = false ∧ on s 70 = true ∧ on s (ptDomain pt.val) = true ∧ (calPt s
      pt.val).running = false ∧ (ptDue s pt.val).isSome = true ∧ (pt.val = 48 ∨ (calPort s (calInst pt.val)).suspended = false)
      ∧ freeConv s ≤ aheadOf s pt.val ∧ (calPt s pt.val).waits = some w ∧ w + ptLimit s pt.val ≤ s.clock) ∧
    (∃ (s : State) (pt : Fin 49), held s = false ∧ on s 70 = true ∧ on s (ptDomain pt.val) = true ∧ (calPt s pt.val).running =
      false ∧ (ptDue s pt.val).isSome = true ∧ pt.val ≠ 48 ∧ (calPort s (calInst pt.val)).suspended = true) ∧
    (∃ (s : State) (pt : Fin 49) (xs : List Int), held s = false ∧ (calPt s pt.val).running = true ∧ xs.length = 64 ∧ (central
      xs).getLastD 0 - (central xs).headD 0 ≤ 40 ∧ (calPt s pt.val).held = none ∧ (calPt s pt.val).delay = none ∧ 16 ≤ pt.val ∧
      pt.val ≠ 48) ∧
    (∃ (s : State) (pt : Fin 49) (xs : List Int), held s = false ∧ (calPt s pt.val).running = true ∧ xs.length = 64 ∧ 40 <
      (central xs).getLastD 0 - (central xs).headD 0) ∧
    (∃ (s : State) (pt : Fin 49) (xs : List Int), held s = false ∧ (calPt s pt.val).running = true ∧ xs.length < 16) ∧
    (∃ (s : State) (pt : Fin 49) (xs : List Int) (d : Int), held s = false ∧ (calPt s pt.val).running = true ∧ xs.length = 64 ∧
      (central xs).getLastD 0 - (central xs).headD 0 ≤ 40 ∧ (calPt s pt.val).held = none ∧ (calPt s pt.val).delay = some d ∧
      (calPt s pt.val).steady = true ∧ 200 < (sumI (central xs) / (central xs).length - d).natAbs) ∧
    (∃ (s : State) (pt : Fin 49), held s = false ∧ ptUp s pt.val = true ∧ (calPt s pt.val).stale = false ∧ ptOld s pt.val = true
      ∧ pt.val < 12) ∧
    (∃ (s : State) (v : Via) (r : Request) (d : Nat), Admitted s v 0x58 r ∧ checkOnly r = false ∧ r.length = 4 ∧ calDomain (by_
      r.payload 0) = some d ∧ (∀ o ∈ [1, 2, 3], by_ r.payload o = 0) ∧ on s d = true) ∧
    (∃ (s : State) (v : Via) (r : Request) (d : Nat), Admitted s v 0x58 r ∧ checkOnly r = false ∧ r.length = 4 ∧ calDomain (by_
      r.payload 0) = some d ∧ (∀ o ∈ [1, 2, 3], by_ r.payload o = 0) ∧ on s d = false) ∧
    (∃ (s : State) (v : Via) (r : Request) (d : Nat), Admitted s v 0x59 r ∧ checkOnly r = false ∧ r.length = 4 ∧ calDomain (by_
      r.payload 0) = some d ∧ on s d = true ∧ by_ r.payload 1 ≤ 2 ∧ 5 ≤ by_ r.payload 2 ∧ by_ r.payload 2 ≤ 100 ∧ by_ r.payload
      3 = 0 ∧ by_ r.payload 0 < 32 ∧ (by_ r.payload 1 = 1 → ∀ pt ∈ ptsOf (by_ r.payload 0), (calPt s pt).due.getLsbD 1 = false))
      ∧
    (∃ (s : State) (i trig : Nat), i < 32) ∧
    (∃ (s : State) (p : Fin 6) (d : Int), (calPt s (2 * p.val)).delay = some d) ∧
    (∃ (s : State) (t pt : Nat), (s.cal.past.find? fun x => decide (t < x.till)) = none ∧ pt ≠ 48) :=
  ⟨ ⟨ons [70] live, 7, true, by decide +kernel⟩,
   ⟨ons [45, 70] live, 47, by decide +kernel⟩,
   by refine ⟨ons [45, 70] { live with cal := { convBad := 255 } }, 47, ?_, ?_, ?_, ?_, ?_, .inr (by decide +kernel), ?_⟩
     <;> decide +kernel,
   by refine ⟨ons [45, 70] { live with clock := 60000000000, cal := { convBad := 255, points := [(47, { waits := some 0 })] } },
     47, 0, ?_, ?_, ?_, ?_, ?_, .inr (by decide +kernel), ?_⟩ <;> decide +kernel,
   ⟨{ ons [45, 70] live with cal := { ports := [(31, { suspended := true })] } }, 47, by decide +kernel⟩,
   ⟨modCalPt (ons [6, 70] live) 47 fun c => { c with running := true }, 47, List.replicate 64 40, by decide +kernel⟩,
   ⟨modCalPt (ons [6, 70] live) 47 fun c => { c with running := true }, 47, List.replicate 32 0 ++ List.replicate 32 41,
     by decide +kernel⟩,
   ⟨modCalPt (ons [6, 70] live) 48 fun c => { c with running := true }, 48, List.replicate 15 0, by decide +kernel⟩,
   ⟨modCalPt (ons [6, 70] live) 47 fun c => { c with running := true, delay := some 0, steady := true }, 47, List.replicate 64
     201, 0, by decide +kernel⟩,
   ⟨{ port 5 live with clock := 60000000000 }, 11, by decide +kernel⟩,
   ⟨tk (rq (.mb 1) 0x58 0 [31, 0, 0, 0]) (ons [45] live), .mb 1, rq (.mb 1) 0x58 0 [31, 0, 0, 0], 45, admitted_of
     (by decide +kernel), by decide +kernel⟩,
   ⟨tk (rq (.mb 1) 0x58 0 [31, 0, 0, 0]) live, .mb 1, rq (.mb 1) 0x58 0 [31, 0, 0, 0], 45, admitted_of (by decide +kernel),
     by decide +kernel⟩,
   ⟨tk (rq (.mb 1) 0x59 0 [31, 1, 100, 0]) (ons [45] live), .mb 1, rq (.mb 1) 0x59 0 [31, 1, 100, 0], 45, admitted_of
     (by decide +kernel), by decide +kernel⟩,
   ⟨live, 31, 5, by decide +kernel⟩,
   ⟨modCalPt live 10 fun c => { c with delay := some 5 }, 5, 5, by decide +kernel⟩,
   ⟨live, 5, 47, by decide +kernel⟩⟩

set_option maxRecDepth 100000 in
/-- The hypotheses of each clause of Probes can be met. -/
theorem wit_Probes :
    (∃ (s : State) (p : Fin 6), held s = false ∧ cfg s (oidOf 0x0300 p.val 0) 0 1 ≠ 0 ∧ (calPort s p.val).suspended = false ∧ on
      s (6 + p.val) = true ∧ noBrim s p.val = false ∧ probeFits s p.val = true ∧ probeRests s p.val = false ∧ (∀ b ∈ (calPort s
      p.val).out, b.told = true ∨ s.clock ≤ b.at_ + 1000000) ∧ (calPort s p.val).probes < 64 ∧ secOn s p.val = false) ∧
    (∃ (s : State) (p : Fin 6), held s = false ∧ (calPort s p.val).suspended = true) ∧
    (∃ (s : State) (p : Fin 6), held s = false ∧ (calPort s p.val).out = [] ∧ noBrim s p.val = false ∧ probeRests s p.val =
      true) ∧
    (∃ (s : State) (p : Fin 6), held s = false ∧ cfg s (oidOf 0x0300 p.val 0) 0 1 ≠ 0 ∧ (calPort s p.val).suspended = false ∧ on
      s (6 + p.val) = true ∧ noBrim s p.val = true ∧ (calPort s p.val).deferred = false ∧ (calPort s p.val).out = []) ∧
    (∃ (s : State) (p : Fin 6) (f : Bytes), held s = false ∧ on s (6 + p.val) = true ∧ (prt s p.val).up = true ∧ isKin f 0x10 =
      true ∧ secRx s p.val = false) ∧
    (∃ (s : State) (p : Fin 6) (f : Bytes), held s = false ∧ on s (6 + p.val) = true ∧ (prt s p.val).up = true ∧ secRx s p.val =
      true) ∧
    (∃ (s : State) (p : Fin 6) (f : Bytes) (t2 : BitVec 48) (at_ : Nat), held s = false ∧ (calPort s p.val).echo = some (f, t2,
      at_) ∧ s.clock ≤ at_ + 1000000 ∧ echoFits s p.val = true ∧ secOn s p.val = false) ∧
    (∃ (s : State) (p : Fin 6) (f : Bytes) (t2 : BitVec 48) (at_ : Nat), held s = false ∧ (calPort s p.val).echo = some (f, t2,
      at_) ∧ at_ + 1000000 < s.clock) ∧
    (∃ (s : State) (p : Fin 6) (f : Bytes) (b : Probe), held s = false ∧ on s (6 + p.val) = true ∧ (prt s p.val).up = true ∧
      isKin f 0x11 = true ∧ secRx s p.val = false ∧ (calPort s p.val).suspended = false ∧ ((calPort s p.val).out.find? fun b =>
      be f 16 2 == b.seq.toNat && BitVec.ofNat 48 (be f 20 6) == b.t1) = some b ∧ b.locked = true ∧ bitN (by_ f 18) 7 = true ∧
      bitN (by_ f 18) 4 = false ∧ steppedSince s b.at_ = false ∧ (BitVec.ofNat 48 (be f 32 6) - BitVec.ofNat 48 (be f 26
      6)).toNat ≤ 65536000000 ∧ (calPort s p.val).pairs.length < 15) ∧
    (∃ (s : State) (p : Fin 6) (f : Bytes) (b : Probe), held s = false ∧ on s (6 + p.val) = true ∧ (prt s p.val).up = true ∧
      isKin f 0x11 = true ∧ secRx s p.val = false ∧ (calPort s p.val).suspended = false ∧ ((calPort s p.val).out.find? fun b =>
      be f 16 2 == b.seq.toNat && BitVec.ofNat 48 (be f 20 6) == b.t1) = some b ∧ b.locked = false) ∧
    (∃ (s : State) (p : Fin 6) (b : Probe), (calPort s p.val).out = [b] ∧ b.told = false ∧ b.at_ + 1000000 < s.clock ∧ (calPort
      s p.val).unanswered < 3) ∧
    (∃ (s : State) (p : Fin 6) (b : Probe), (calPort s p.val).out = [b] ∧ b.told = false ∧ b.at_ + 1000000 < s.clock ∧ 3 ≤
      (calPort s p.val).unanswered ∧ (calPort s p.val).partner ≠ 2) :=
  ⟨ ⟨{ objWrite (port 5 (timed live)) (oidOf 0x0300 5 0) 0 [1] with clock := 200 }, 5, by decide +kernel⟩,
   ⟨{ live with cal := { ports := [(5, { suspended := true })] } }, 5, by decide +kernel⟩,
   ⟨{ live with cal := { ports := [(5, { partner := 2, probeAt := 1 })] } }, 5, by decide +kernel⟩,
   ⟨objWrite (gated 5 0 (port 5 (timed live))) (oidOf 0x0300 5 0) 0 [1], 5, by decide +kernel⟩,
   ⟨port 5 live, 5, (kin 0x10 ([])), by decide +kernel⟩,
   ⟨objWrite (port 5 live) (oidOf 0x050A 5 0) 0 [1], 5, [], by decide +kernel⟩,
   ⟨{ port 5 (timed live) with clock := 2200, cal := { ports := [(5, { echo := some ([], 0, 200) })] } }, 5, [], 0, 200,
     by decide +kernel⟩,
   ⟨{ live with clock := 1000001, cal := { ports := [(5, { echo := some ([], 0, 0) })] } }, 5, [], 0, 0, by decide +kernel⟩,
   ⟨{ port 5 live with cal := { ports := [(5, { out := [{ seq := 5, t1 := 9, locked := true, at_ := 0, told := false }] })] } },
     5, (kin 0x11 (toBe 2 5 ++ [0x80, 0] ++ toBe 6 9 ++ toBe 6 0 ++ toBe 6 65536000000)),
     { seq := 5, t1 := 9, locked := true, at_ := 0, told := false }, by decide +kernel⟩,
   ⟨{ port 5 live with cal := { ports := [(5, { out := [{ seq := 5, t1 := 9, locked := false, at_ := 0, told := false }] })] } },
     5, (kin 0x11 (toBe 2 5 ++ [0x80, 0] ++ toBe 6 9)), { seq := 5, t1 := 9, locked := false, at_ := 0, told := false },
     by decide +kernel⟩,
   ⟨{ live with clock := 1000001, cal := { ports := [(5, { out := [{ seq := 5, t1 := 9, locked := true, at_ := 0, told := false }], unanswered := 2 })] } },
     5, { seq := 5, t1 := 9, locked := true, at_ := 0, told := false }, by decide +kernel⟩,
   ⟨{ live with clock := 1000001, cal := { ports := [(5, { out := [{ seq := 5, t1 := 9, locked := true, at_ := 0, told := false }], unanswered := 3 })] } },
     5, { seq := 5, t1 := 9, locked := true, at_ := 0, told := false }, by decide +kernel⟩⟩

set_option maxRecDepth 100000 in
/-- The hypotheses of each clause of LanesAndLoop can be met. -/
theorem wit_LanesAndLoop :
    (∃ (s : State) (p : Fin 6) (gbps : Nat), held s = false ∧ on s p.val = true ∧ on s (6 + p.val) = true ∧ s.pw.testMode =
      false ∧ (prt s p.val).ctxs = []) ∧
    (∃ (s : State) (p : Fin 6) (gbps : Nat), held s = false ∧ on s p.val = true ∧ on s (6 + p.val) = true ∧ s.pw.testMode =
      false ∧ cfg s (oMerge p.val) 0 1 = 0) ∧
    (∃ (s : State) (k : Fin 2) (gbps : Nat), held s = false ∧ on s (24 + k.val) = true ∧ on s (26 + k.val) = true) ∧
    (∃ (s w : State) (h : LoopHead) (rest : List LoopHead) (v : Verdict), held s = false ∧ s.rx.loop = h :: rest ∧ s.fs.f4 =
      false ∧ classify (s.modRx fun r => { r with loop := rest }) h.port h.view h.plain (some ⟨h.tci, h.sci⟩) none = (v, w) ∧
      h.whole = true ∧ v.drop = true) ∧
    (∃ (s w : State) (h : LoopHead) (rest : List LoopHead) (v : Verdict), held s = false ∧ s.rx.loop = h :: rest ∧ s.fs.f4 =
      false ∧ classify (s.modRx fun r => { r with loop := rest }) h.port h.view h.plain (some ⟨h.tci, h.sci⟩) none = (v, w) ∧
      h.whole = true) ∧
    (∃ (s : State) (h : LoopHead) (rest : List LoopHead), held s = false ∧ s.rx.loop = h :: rest ∧ s.fs.f4 = false ∧ h.whole =
      false) ∧
    (∃ (s : State) (h : LoopHead) (rest : List LoopHead), held s = false ∧ s.rx.loop = h :: rest) ∧
    (∃ (s : State) (p : Fin 6), held s = false ∧ (prt s p.val).up = true) ∧
    (∃ (s : State), held s = false) :=
  ⟨ ⟨ons [5, 11] live, 5, 10, by decide +kernel⟩,
   ⟨ons [5, 11] live, 5, 10, by decide +kernel⟩,
   ⟨ons [25, 27] live, 1, 10, by decide +kernel⟩,
   ⟨loopCut, (classify (loopCut.modRx fun r => { r with loop := [] }) lcut.port lcut.view lcut.plain (some ⟨lcut.tci, lcut.sci⟩)
     none).2, lcut, [], (classify (loopCut.modRx fun r => { r with loop := [] }) lcut.port lcut.view lcut.plain (some ⟨lcut.tci,
     lcut.sci⟩) none).1, by decide +kernel, by decide +kernel, by decide +kernel, rfl, by decide +kernel⟩,
   ⟨looped, (classify (looped.modRx fun r => { r with loop := [] }) lhd.port lhd.view lhd.plain (some ⟨lhd.tci, lhd.sci⟩)
     none).2, lhd, [], (classify (looped.modRx fun r => { r with loop := [] }) lhd.port lhd.view lhd.plain (some ⟨lhd.tci,
     lhd.sci⟩) none).1, by decide +kernel, by decide +kernel, by decide +kernel, rfl, by decide +kernel⟩,
   ⟨{ live with rx := { loop := [{ lhd with whole := false }] } }, { lhd with whole := false }, [], by decide +kernel⟩,
   ⟨{ live with rx := { loop := [{ port := 0, len := 64, plain := zz 60, tci := 0, sci := zz 8, epoch := 0, view := 0, stamp := st0, at_ := 0 }] } },
     { port := 0, len := 64, plain := zz 60, tci := 0, sci := zz 8, epoch := 0, view := 0, stamp := st0, at_ := 0 }, [],
     by decide +kernel⟩,
   ⟨port 5 live, 5, by decide +kernel⟩,
   ⟨live, by decide +kernel⟩⟩

set_option maxRecDepth 100000 in
/-- The hypotheses of each clause of Transmissions can be met. -/
theorem wit_Transmissions :
    (∃ (s : State) (p : Fin 6) (f : EgFrame), held s = false ∧ (prt s p.val).line = none ∧ portSilent s p.val = false ∧ (prt s
      p.val).up = true ∧ on s (6 + p.val) = true ∧ (prt s p.val).smds = [] ∧ secOn s p.val = false ∧ pick (keepBack (cbsUpdate s
      p.val) p.val) p.val (nowPs s) = .new f) ∧
    (∃ (s : State) (p : Fin 6) (l : OnLine), held s = false ∧ (prt s p.val).line = some l ∧ l.frame.whole = true ∧ l.stomp =
      false ∧ l.frame.bad = false ∧ l.short = false) ∧
    (∃ (s : State) (p : Fin 6) (l : OnLine), held s = false ∧ (prt s p.val).line = some l ∧ l.frame.whole = true ∧ (l.stomp ||
      l.frame.bad) = true ∧ l.short = false) ∧
    (∃ (s : State) (p : Fin 6) (l : OnLine) (n : Nat), held s = false ∧ (prt s p.val).line = some l ∧ l.frame.whole = true ∧
      l.stomp = true ∧ l.short = true ∧ firstLegal l 0 = some n) ∧
    (∃ (s : State) (p : Fin 6) (f : Bytes) (q : Nat), held s = false ∧ on s (6 + p.val) = true ∧ (prt s p.val).up = true ∧ fcsOk
      f = true ∧ be f 12 2 = 0x8808 ∧ be f 14 2 = 0x0001 ∧ be f 16 2 ≠ 0 ∧ q < 8) ∧
    (∃ (s : State) (p : Fin 6) (f : Bytes) (q : Nat), held s = false ∧ on s (6 + p.val) = true ∧ (prt s p.val).up = true ∧ fcsOk
      f = true ∧ be f 12 2 = 0x8808 ∧ be f 14 2 = 0x0101 ∧ q < 8 ∧ be f (18 + 2 * q) 2 ≠ 0) ∧
    (∃ (s : State) (p : Fin 6) (tc : Fin 8), held s = false) :=
  ⟨ ⟨modPrt (port 5 live) 5 fun x => { x with eg := [frm] }, 5, frm, by decide +kernel⟩,
   ⟨lined 5 (onl 0 60) live, 5, onl 0 60, by decide +kernel⟩,
   ⟨lined 5 { onl 0 60 with stomp := true } live, 5, { onl 0 60 with stomp := true }, by decide +kernel⟩,
   ⟨lined 5 { onl 1 200 with stomp := true, short := true } live, 5, { onl 1 200 with stomp := true, short := true }, 64,
     by decide +kernel⟩,
   ⟨port 5 live, 5, eth (zz 6) (zz 6) [0x88, 8, 0, 1, 0, 1], 7, by decide +kernel⟩,
   ⟨port 5 live, 5, eth (zz 6) (zz 6) ([0x88, 8, 1, 1, 0, 0xFF] ++ zz 14 ++ [0, 1]), 7, by decide +kernel⟩,
   ⟨live, 5, 7, by decide +kernel⟩⟩

set_option maxRecDepth 100000 in
/-- The hypotheses of each clause of Gates can be met. -/
theorem wit_Gates :
    (∃ (s : State) (p : Fin 6) (sent n : Nat) (l : OnLine), held s = false ∧ (prt s p.val).line = some l ∧ l.lvl ≠ 0 ∧ cutPoint
      (cbsUpdate s p.val) p.val l sent = some n ∧ l.stomp = false) ∧
    (∃ (s : State) (p : Fin 6) (sent : Nat) (l : OnLine), held s = false ∧ (prt s p.val).line = some l ∧ l.lvl ≠ 0 ∧ cutPoint
      (cbsUpdate s p.val) p.val l sent = none) ∧
    (∃ (s : State) (p : Fin 6) (sent n : Nat) (l : OnLine), held s = false ∧ (prt s p.val).line = some l ∧ l.lvl ≠ 0 ∧
      firstLegal l sent = some n ∧ l.stomp = false) ∧
    (∃ (s : State) (p : Fin 6) (sent : Nat) (l : OnLine), held s = false ∧ (prt s p.val).line = some l ∧ l.lvl ≠ 0 ∧ firstLegal
      l sent = none) ∧
    (∃ (s : State) (p : Fin 6) (n : Nat) (l : OnLine), held s = false ∧ (prt s p.val).line = some l ∧ l.lvl = 0 ∧ l.ct = false)
      ∧
    (∃ (s : State) (p : Fin 6) (n : Nat) (l : OnLine), held s = false ∧ (prt s p.val).line = some l ∧ l.lvl = 0 ∧ l.ct = true) ∧
    (∃ (s : State) (p : Fin 6), held s = false ∧ on s (6 + p.val) = true ∧ timeOk s = true ∧ gates s p.val ≠ [] ∧ clsOf s (80 +
      8 * p.val + 2) = 2) ∧
    (∃ (s : State) (p : Fin 6) (k : Nat), held s = false ∧ on s (6 + p.val) = true ∧ timeOk s = true ∧ gates s p.val ≠ [] ∧
      mergeOn s p.val = true ∧ (entryAt (gates s p.val) (cyclePos s (nowPs s))).1 = k) ∧
    (∃ (s : State) (p : Fin 6) (c : Bool), held s = false ∧ on s (6 + p.val) = true ∧ timeOk s = true ∧ gates s p.val = []) ∧
    (∃ (s : State) (p : Fin 6), held s = false ∧ on s (6 + p.val) = true ∧ mergeOn s p.val = true ∧ timeOk s = true ∧ holdNear s
      p.val = true) :=
  ⟨ ⟨modPrt (lined 5 { onl 1 200 with frame := { frm with data := zz 200, whole := false } } live) 5 fun x =>
     { x with merge := 2 }, 5, 64, 200, { onl 1 200 with frame := { frm with data := zz 200, whole := false } },
     by decide +kernel⟩,
   ⟨modPrt (lined 5 (onl 1 200) live) 5 fun x => { x with merge := 2 }, 5, 64, onl 1 200, by decide +kernel⟩,
   ⟨lined 5 (onl 1 200) live, 5, 64, 64, onl 1 200, by decide +kernel⟩,
   ⟨lined 5 (onl 1 200) live, 5, 190, onl 1 200, by decide +kernel⟩,
   ⟨lined 5 (onl 0 60) live, 5, 3, onl 0 60, by decide +kernel⟩,
   ⟨lined 5 { onl 0 60 with ct := true } live, 5, 3, { onl 0 60 with ct := true }, by decide +kernel⟩,
   ⟨{ gated 5 0 (port 5 (timed live)) with fs := { srcs := [(122, { cls := some 2 })] } }, 5, by decide +kernel⟩,
   ⟨modPrt (gated 5 0 (port 5 (timed live))) 5 fun x => { x with merge := 2 }, 5, 0, by decide +kernel⟩,
   ⟨port 5 (timed live), 5, false, by decide +kernel⟩,
   ⟨modPrt (gated 5 1 (port 5 (timed live))) 5 fun x => { x with merge := 2 }, 5, by decide +kernel⟩⟩

set_option maxRecDepth 100000 in
/-- The hypotheses of each clause of Parisons can be met. -/
theorem wit_Parisons :
    (∃ (s : State) (q : Fin 64) (idx : BitVec 12) (p : Fin 6) (a i : Nat) (r : TxRec), held s = false ∧ whichRec s q.val
      idx.toNat = some (a, i) ∧ recOf s a i = some r ∧ r.todo.getLsbD p.val = true ∧ r.phase = .staged ∧ r.withheld = false ∧ (∀
      f ∈ (prt s p.val).eg, mine a i f = false) ∧ started s a i p.val = false ∧ behind s a i p.val r = false ∧ (∀ x ∈ (que s
      a).recs, x.ripe.getLsbD p.val = false) ∧ standsBy s = false ∧ (s.hl.state == lsDetached && beyondOverlap s r) = false ∧
      downFor s p.val = false ∧ r.cellsOn.getLsbD p.val = true ∧ f3Holds s (p.val / 2) = false ∧ r.late.getLsbD p.val = false ∧
      neverFits s p.val { id := 0, tc := descTc r.desc, data := parison r, src := .host a i } = false) ∧
    (∃ (s : State) (q : Fin 64) (idx : BitVec 12) (p : Fin 6) (a i : Nat) (r : TxRec), held s = false ∧ whichRec s q.val
      idx.toNat = some (a, i) ∧ recOf s a i = some r ∧ r.todo.getLsbD p.val = true ∧ r.phase = .staged ∧ r.withheld = false ∧ (∀
      f ∈ (prt s p.val).eg, mine a i f = false) ∧ started s a i p.val = false ∧ behind s a i p.val r = false ∧ standsBy s =
      false ∧ (s.hl.state == lsDetached && beyondOverlap s r) = false ∧ downFor s p.val = true) ∧
    (∃ (s : State) (q : Fin 64) (idx : BitVec 12) (p : Fin 6) (a i : Nat) (r : TxRec), held s = false ∧ whichRec s q.val
      idx.toNat = some (a, i) ∧ recOf s a i = some r ∧ r.phase = .staged ∧ behind s a i p.val r = true ∧ (∀ x ∈ (que s a).recs,
      x.ripe.getLsbD p.val = false)) ∧
    (∃ (s : State) (q : Fin 64) (idx : BitVec 12) (p : Fin 6) (a i : Nat) (r : TxRec), held s = false ∧ whichRec s q.val
      idx.toNat = some (a, i) ∧ recOf s a i = some r ∧ descLaunch r.desc = true ∧ r.todo.getLsbD p.val = true ∧ r.late.getLsbD
      p.val = false ∧ started s a i p.val = false ∧ r.withheld = false ∧ standsBy s = false ∧ (∀ x ∈ (que s a).recs,
      x.ripe.getLsbD p.val = false) ∧ latePolicy s a i r.desc ≠ 2 ∧ latePolicy s a i r.desc ≠ 3) ∧
    (∃ (s : State) (q : Fin 64) (idx : BitVec 12) (p : Fin 6) (a i : Nat) (r : TxRec), held s = false ∧ whichRec s q.val
      idx.toNat = some (a, i) ∧ recOf s a i = some r ∧ descLaunch r.desc = true ∧ r.todo.getLsbD p.val = true ∧ r.late.getLsbD
      p.val = false ∧ started s a i p.val = false ∧ r.withheld = false ∧ standsBy s = false ∧ (∀ x ∈ (que s a).recs,
      x.ripe.getLsbD p.val = false) ∧ latePolicy s a i r.desc = 2) ∧
    (∃ (s : State) (q : Fin 64) (idx : BitVec 12) (p : Fin 6) (a i : Nat) (r : TxRec), held s = false ∧ whichRec s q.val
      idx.toNat = some (a, i) ∧ recOf s a i = some r ∧ r.todo.getLsbD p.val = true ∧ r.phase = .staged ∧ r.withheld = false ∧ (∀
      f ∈ (prt s p.val).eg, mine a i f = false) ∧ started s a i p.val = false ∧ behind s a i p.val r = false ∧ standsBy s =
      false ∧ s.hl.state = lsDetached ∧ beyondOverlap s r = true) :=
  ⟨ ⟨modQue (objWrite (port 5 live) (oTxs 5) 12 [1, 0]) 63 fun u =>
     { u with enable := true, size := 16, recs := [{ txr .staged with desc := zz 22 ++ [64, 0] ++ zz 8, data := zz 60, todo := 32, cellsOn := 32 }] },
     63, 0, 5, 63, 0, { txr .staged with desc := zz 22 ++ [64, 0] ++ zz 8, data := zz 60, todo := 32, cellsOn := 32 },
     by decide +kernel⟩,
   ⟨modQue live 63 fun u =>
     { u with recs := [{ txr .staged with desc := zz 22 ++ [64, 0] ++ zz 8, data := zz 60, todo := 32 }] }, 63, 0, 5, 63, 0,
     { txr .staged with desc := zz 22 ++ [64, 0] ++ zz 8, data := zz 60, todo := 32 }, by decide +kernel⟩,
   ⟨modQue live 63 fun u => { u with recs := [{ txr .staged with todo := 32 }, { txr .staged with idx := 1, todo := 32 }] }, 63,
     1, 5, 63, 1, { txr .staged with idx := 1, todo := 32 }, by decide +kernel⟩,
   ⟨modQue (objWrite (port 5 live) (oTxs 5) 12 [1, 0]) 63 fun u =>
     { u with enable := true, size := 16, recs := [{ txr .staged with desc := zz 22 ++ [64, 0, 0, 0, 0, 32] ++ zz 4, data := zz 60, todo := 32, launch := 100 }] },
     63, 0, 5, 63, 0,
     { txr .staged with desc := zz 22 ++ [64, 0, 0, 0, 0, 32] ++ zz 4, data := zz 60, todo := 32, launch := 100 },
     by decide +kernel⟩,
   ⟨modQue (objWrite (port 5 live) (oTxs 5) 12 [1, 0]) 63 fun u =>
     { u with enable := true, size := 16, recs := [{ txr .staged with desc := zz 22 ++ [64, 0, 0, 0, 0, 48] ++ zz 4, data := zz 60, todo := 32, launch := 100 }] },
     63, 0, 5, 63, 0,
     { txr .staged with desc := zz 22 ++ [64, 0, 0, 0, 0, 48] ++ zz 4, data := zz 60, todo := 32, launch := 100 },
     by decide +kernel⟩,
   ⟨modQue { live with hl := { live.hl with state := lsDetached }, tw := { on := true, role := 1 } } 63 fun u =>
     { u with recs := [{ txr .staged with desc := zz 22 ++ [64, 0, 0, 128, 0, 32] ++ zz 4, data := zz 60, todo := 32, launch := 65537 }] },
     63, 0, 5, 63, 0,
     { txr .staged with desc := zz 22 ++ [64, 0, 0, 128, 0, 32] ++ zz 4, data := zz 60, todo := 32, launch := 65537 },
     by decide +kernel⟩⟩

set_option maxRecDepth 100000 in
/-- The hypotheses of each clause of Preemption can be met. -/
theorem wit_Preemption :
    (∃ (s : State) (p : Fin 6), held s = false ∧ on s (6 + p.val) = true ∧ (prt s p.val).up = true ∧ cfg s (oMerge p.val) 0 1 =
      1) ∧
    (∃ (s : State) (p : Fin 6) (a : Fin 4), held s = false ∧ on s (6 + p.val) = true ∧ (prt s p.val).up = true ∧ cfg s (oMerge
      p.val) 0 1 = 1 ∧ (prt s p.val).merge = 1 ∧ cfg s (oMerge p.val) 4 1 ≠ 1) ∧
    (∃ (s : State) (p : Fin 6) (a : Fin 4), held s = false ∧ on s (6 + p.val) = true ∧ (prt s p.val).up = true ∧ cfg s (oMerge
      p.val) 0 1 = 1 ∧ (prt s p.val).merge ≠ 1) ∧
    (∃ (s : State) (p : Fin 6) (a : Fin 4), held s = false ∧ on s (6 + p.val) = true ∧ (prt s p.val).up = true ∧ cfg s (oMerge
      p.val) 0 1 = 1 ∧ (prt s p.val).merge = 1 ∧ cfg s (oMerge p.val) 4 1 = 1) ∧
    (∃ (s : State) (p : Fin 6), held s = false ∧ (prt s p.val).merge = 1 ∧ (prt s p.val).tries < 3) ∧
    (∃ (s : State) (p : Fin 6), held s = false ∧ (prt s p.val).merge = 1 ∧ 3 ≤ (prt s p.val).tries) ∧
    (∃ (s : State) (p : Fin 6) (f : Bytes), held s = false ∧ on s (6 + p.val) = true ∧ (prt s p.val).up = true ∧ isKin f 0x30 =
      true ∧ portSilent s p.val = false) ∧
    (∃ (s : State) (p : Fin 6) (f : Bytes), held s = false ∧ on s (6 + p.val) = true ∧ (prt s p.val).up = true ∧ isKin f 0x31 =
      true ∧ (prt s p.val).sp = 1 ∧ be f 16 2 = (prt s p.val).nonce.toNat ∧ by_ f 18 = 3 ∧ (prt s p.val).susp = [] ∧ (prt s
      p.val).line = none) ∧
    (∃ (s : State) (p : Fin 6) (f : Bytes), held s = false ∧ on s (6 + p.val) = true ∧ (prt s p.val).up = true ∧ isKin f 0x31 =
      true ∧ (prt s p.val).sp = 1 ∧ be f 16 2 = (prt s p.val).nonce.toNat ∧ by_ f 18 = 0) ∧
    (∃ (s : State) (p : Fin 6), held s = false ∧ (prt s p.val).sp = 1 ∧ cfg s (oMerge p.val) 5 1 ≤ (prt s p.val).spTries) ∧
    (∃ (s : State) (p : Fin 6), held s = false ∧ (prt s p.val).sp = 1 ∧ (prt s p.val).spTries < cfg s (oMerge p.val) 5 1) :=
  ⟨ ⟨objWrite (port 5 live) (oMerge 5) 0 [1], 5, by decide +kernel⟩,
   ⟨modPrt (objWrite (port 5 live) (oMerge 5) 0 [1]) 5 fun x => { x with merge := 1 }, 5, 3, by decide +kernel⟩,
   ⟨modPrt (objWrite (port 5 live) (oMerge 5) 0 [1]) 5 fun x => { x with merge := 2 }, 5, 3, by decide +kernel⟩,
   ⟨modPrt (objWrite (objWrite (port 5 live) (oMerge 5) 0 [1]) (oMerge 5) 4 [1]) 5 fun x => { x with merge := 1 }, 5, 3,
     by decide +kernel⟩,
   ⟨modPrt live 5 fun x => { x with merge := 1, tries := 2 }, 5, by decide +kernel⟩,
   ⟨modPrt live 5 fun x => { x with merge := 1, tries := 3 }, 5, by decide +kernel⟩,
   ⟨port 5 live, 5, kin 0x30 [], by decide +kernel⟩,
   ⟨modPrt (port 5 live) 5 fun x => { x with sp := 1, nonce := 7 }, 5, kin 0x31 [0, 7, 3], by decide +kernel⟩,
   ⟨modPrt (port 5 live) 5 fun x => { x with sp := 1, nonce := 7 }, 5, kin 0x31 [0, 7, 0], by decide +kernel⟩,
   ⟨modPrt (objWrite live (oMerge 5) 5 [3]) 5 fun x => { x with sp := 1, spTries := 3 }, 5, by decide +kernel⟩,
   ⟨modPrt (objWrite live (oMerge 5) 5 [3]) 5 fun x => { x with sp := 1, spTries := 2 }, 5, by decide +kernel⟩⟩

set_option maxRecDepth 100000 in
/-- The hypotheses of each clause of Reception can be met. -/
theorem wit_Reception :
    (∃ (s u : State) (p : Fin 6) (f : Bytes) (ce : Bool) (k : Nat) (st : Stamp), held s = false ∧ receives s p.val = true ∧ (prt
      s p.val).early = [] ∧ openHeads s p.val = [] ∧ rxStamp s p.val f.length = (st, u) ∧ macFail s p.val f ce = some k) ∧
    (∃ (s u : State) (p : Fin 6) (f : Bytes) (st : Stamp), held s = false ∧ receives s p.val = true ∧ (prt s p.val).early = [] ∧
      openHeads s p.val = [] ∧ rxStamp s p.val f.length = (st, u) ∧ macFail s p.val f false = none ∧ s.fs.f4 = false ∧ be
      (f.take (f.length - 4)) 12 2 ≠ 0x8808 ∧ ownFrame s p.val (sub (f.take (f.length - 4)) 6 6) = true) ∧
    (∃ (s u w : State) (p : Fin 6) (f : Bytes) (v : Verdict) (st : Stamp), held s = false ∧ receives s p.val = true ∧ (prt s
      p.val).early = [] ∧ openHeads s p.val = [] ∧ macFail s p.val f false = none ∧ s.fs.f4 = false ∧ be (f.take (f.length - 4))
      12 2 ≠ 0x8808 ∧ ownFrame s p.val (sub (f.take (f.length - 4)) 6 6) = false ∧ on s 62 = true ∧ secRx s p.val = false ∧
      rxStamp s p.val f.length = (st, u) ∧ classify (countN (count u (cPort p.val 0) 0) (cPort p.val 0) 1 f.length) p.val
      s.rx.active (f.take (f.length - 4)) none none = (v, w) ∧ v.drop = false ∧ v.meter = none ∧ v.handle = none ∧ v.fwd = false
      ∧ v.servo = false ∧ v.device = 0 ∧ v.dest = some none) ∧
    (∃ (s u : State) (p : Fin 6) (smd cnt : BitVec 8) (d : Bytes) (c : Nat) (st : Stamp), held s = false ∧ receives s p.val =
      true ∧ cfg s (oMerge p.val) 0 1 = 1 ∧ (prt s p.val).ctxs = [] ∧ codeOf smdS smd.toNat = some c ∧ 64 * (1 + cfg s (oMerge
      p.val) 3 1) ≤ d.length + 4 ∧ rxStamp s p.val (d.length + 4) = (st, u)) ∧
    (∃ (s : State) (p : Fin 6) (smd cnt : BitVec 8) (d b : Bytes) (c k : Nat) (st : Stamp), held s = false ∧ receives s p.val =
      true ∧ cfg s (oMerge p.val) 0 1 = 1 ∧ (prt s p.val).ctxs = [⟨c, k, b, st⟩] ∧ codeOf smdS smd.toNat = none ∧ codeOf smdC
      smd.toNat = some c ∧ codeOf fragCode cnt.toNat = some k) ∧
    (∃ (s u w : State) (p : Fin 6) (f : Bytes) (e : Bool) (v : Verdict) (st : Stamp) (n : Nat), held s = false ∧ receives s
      p.val = true ∧ on s 62 = true ∧ s.fs.f4 = false ∧ be f 12 2 ≠ 0x8808 ∧ ownFrame s p.val (sub f 6 6) = false ∧ secRx s
      p.val = false ∧ rxStamp s p.val f.length = (st, u) ∧ n = (lenEarly u f.length).1 ∧ classify (lenEarly u f.length).2 p.val
      s.rx.active f none (some n) = (v, w) ∧ v.fwd = false) ∧
    (∃ (s u : State) (p : Fin 6) (f plain : Bytes) (e : Bool) (st : Stamp), held s = false ∧ receives s p.val = true ∧ on s 62 =
      true ∧ s.fs.f4 = false ∧ be f 12 2 = 0x88E5 ∧ ownFrame s p.val (sub f 6 6) = false ∧ secRx s p.val = true ∧ rxStamp s
      p.val f.length = (st, u) ∧ secPeek s p.val f (passSet s p.val) = some plain ∧ loopOpen s = true) ∧
    (∃ (s u w : State) (p : Fin 6) (f : Bytes) (v : Verdict) (st : Stamp), held s = false ∧ receives s p.val = true ∧ (prt s
      p.val).early = [] ∧ openHeads s p.val = [] ∧ macFail s p.val f false = none ∧ s.fs.f4 = false ∧ be (f.take (f.length - 4))
      12 2 ≠ 0x8808 ∧ ownFrame s p.val (sub (f.take (f.length - 4)) 6 6) = false ∧ on s 62 = true ∧ secRx s p.val = false ∧
      rxStamp s p.val f.length = (st, u) ∧ classify (countN (count u (cPort p.val 0) 0) (cPort p.val 0) 1 f.length) p.val
      s.rx.active (f.take (f.length - 4)) none none = (v, w)) ∧
    (∃ (s : State) (dev : DevFn) (p : Nat) (v : Verdict) (b : Bytes) (n : Nat) (st : Stamp) (ep : BitVec 16), v.drop = true) ∧
    (∃ (s u : State) (dev : DevFn) (p : Nat) (v : Verdict) (b : Bytes) (n : Nat) (st : Stamp) (ep : BitVec 16), v.drop = false ∧
      v.meter = none ∧ v.handle = none ∧ v.device = 0 ∧ u = count s (cPort p 2) 28) ∧
    (∃ (s : State) (p : Nat) (v : Verdict) (b : Bytes) (st : Stamp), f3Holds s (egressOf p / 2) = false ∧ s.fs.f4 = false ∧
      fwdDown s (egressOf p) = false ∧ (prt s (egressOf p)).fwdCells + fwdCellsOf b.length ≤ fwdLimit s (egressOf p) ∧
      fwdCellsOf b.length ≤ cellsFree s) ∧
    (∃ (s : State) (p : Nat) (v : Verdict) (b : Bytes) (st : Stamp), f3Holds s (egressOf p / 2) = false ∧ s.fs.f4 = false ∧
      fwdDown s (egressOf p) = true) ∧
    (∃ (s : State) (q : Nat) (m : RxMeta) (f : Bytes) (b : RxBuf) (l : List RxBuf), q < 64 ∧ s.fs.f4 = false ∧ s.sk.config = 0 ∧
      s.hl.state ≠ lsQuiescing ∧ s.hl.state ≠ lsDetached ∧ s.hl.ctrl.getLsbD 0 = true ∧ (que s (64 + q)).enable = true ∧ (que s
      (64 + q)).closing = false ∧ (que s (64 + q)).stamped = false ∧ (que s (64 + q)).bufs = b :: l ∧ (∀ x ∈ l, x.bad = false) ∧
      m.ecc = false ∧ m.inPort < 9 ∧ f.length ≤ b.size ∧ f.length < 65536) ∧
    (∃ (s : State) (q : Nat) (m : RxMeta) (f : Bytes), s.fs.f4 = false ∧ s.sk.config = 0 ∧ s.hl.state ≠ lsQuiescing ∧ s.hl.state
      ≠ lsDetached ∧ (que s (64 + q)).bufs = []) ∧
    (∃ (s : State) (p h : Nat) (v : Verdict) (dest : Option Nat) (c : Nat) (b : Bytes) (st : Stamp) (ep : BitVec 16), v.handle =
      some h ∧ cfg s (oListen h) 0 1 = 1 ∧ on s 69 = true) :=
  ⟨ by refine ⟨port 5 live, _, 5, zz 63, false, 4, _, ?_, ?_, ?_, ?_, rfl, ?_⟩ <;> decide +kernel,
   by refine ⟨objWrite (objWrite (port 5 live) (oAcc 5) 0 [2, 0, 0, 0, 0, 9]) (oAcc 5) 8 [0xEE, 5], _, 5, eth (zz 6) [2, 0, 0,
     0, 0, 9] [], _, ?_, ?_, ?_, ?_, rfl, ?_⟩ <;> decide +kernel,
   by refine ⟨(objWrite (addressed 5 live) (oidOf 0x0507 1 0) 87 [3]), (rxP (objWrite (addressed 5 live) (oidOf 0x0507 1 0) 87
     [3]) 5 toMe).2, (clP (objWrite (addressed 5 live) (oidOf 0x0507 1 0) 87 [3]) 5 toMe).2, 5, toMe, (clP (objWrite (addressed
     5 live) (oidOf 0x0507 1 0) 87 [3]) 5 toMe).1, (rxP (objWrite (addressed 5 live) (oidOf 0x0507 1 0) 87 [3]) 5 toMe).1, ?_,
     ?_, ?_, ?_, ?_, ?_, ?_, ?_, ?_, ?_, by unfold rxP; rfl, by unfold clP; rfl, ?_⟩ <;> decide +kernel,
   by refine ⟨objWrite (port 5 live) (oMerge 5) 0 [1], _, 5, 0xE6, 0, zz 64, 0, _, ?_, ?_, ?_, ?_, ?_, ?_, rfl⟩
     <;> decide +kernel,
   ⟨modPrt (objWrite (port 5 live) (oMerge 5) 0 [1]) 5 fun x => { x with ctxs := [⟨3, 2, zz 64, st0⟩] }, 5, 0x2A, 0x7F, zz 64,
     zz 64, 3, 2, st0, by decide +kernel⟩,
   by refine ⟨addressed 5 live, _, _, 5, toMe.take 60, false, _, _, _, ?_, ?_, ?_, ?_, ?_, ?_, ?_, rfl, rfl, rfl, ?_⟩
     <;> decide +kernel,
   by refine ⟨sealed, _, 5, secf, zz 12 ++ [8, 0] ++ zz 46, false, _, ?_, ?_, ?_, ?_, ?_, ?_, ?_, rfl, ?_⟩ <;> decide +kernel,
   by refine ⟨(objWrite (addressed 5 live) (oidOf 0x0507 1 0) 87 [3]), (rxP (objWrite (addressed 5 live) (oidOf 0x0507 1 0) 87
     [3]) 5 toMe).2, (clP (objWrite (addressed 5 live) (oidOf 0x0507 1 0) 87 [3]) 5 toMe).2, 5, toMe, (clP (objWrite (addressed
     5 live) (oidOf 0x0507 1 0) 87 [3]) 5 toMe).1, (rxP (objWrite (addressed 5 live) (oidOf 0x0507 1 0) 87 [3]) 5 toMe).1, ?_,
     ?_, ?_, ?_, ?_, ?_, ?_, ?_, ?_, ?_, by unfold rxP; rfl, by unfold clP; rfl⟩ <;> decide +kernel,
   ⟨live, devTake, 5, { (clP (objWrite (addressed 5 live) (oidOf 0x0507 1 0) 87 [3]) 5 toMe).1 with drop := true }, zz 60, 64,
     st0, 0, by decide +kernel⟩,
   by refine ⟨live, _, devTake, 5, (clP (objWrite (addressed 5 live) (oidOf 0x0507 1 0) 87 [3]) 5 toMe).1, zz 60, 64, st0, 0,
     ?_, ?_, ?_, ?_, rfl⟩ <;> decide +kernel,
   ⟨ons [50] (port 5 live), 4, (clP (objWrite (addressed 5 live) (oidOf 0x0507 1 0) 87 [3]) 5 toMe).1, zz 60, st0,
     by decide +kernel⟩,
   ⟨live, 4, (clP (objWrite (addressed 5 live) (oidOf 0x0507 1 0) 87 [3]) 5 toMe).1, zz 60, st0, by decide +kernel⟩,
   ⟨modQue (link live) 127 fun u => { u with enable := true, bufs := [{ idx := 0, addr := 0, size := 64, bad := false }] }, 63,
     { inPort := 8, handle := none, seq := 0, colour := 0, tc := 0, planes := 0, outcome := 0, epoch := 0, tag := 0, ecc := false, stamps := [] },
     zz 64, { idx := 0, addr := 0, size := 64, bad := false }, [], by decide +kernel⟩,
   ⟨link live, 63,
     { inPort := 8, handle := none, seq := 0, colour := 0, tc := 0, planes := 0, outcome := 0, epoch := 0, tag := 0, ecc := false, stamps := [] },
     zz 64, by decide +kernel⟩,
   ⟨objWrite (ons [69] live) (oListen 16383) 0 [1], 5, 16383,
     { (clP (objWrite (addressed 5 live) (oidOf 0x0507 1 0) 87 [3]) 5 toMe).1 with handle := some 16383 }, none, 0, zz 60, st0,
     0, by decide +kernel⟩⟩

set_option maxRecDepth 100000 in
/-- The hypotheses of each clause of EpochsAndVotes can be met. -/
theorem wit_EpochsAndVotes :
    (∃ (s : State) (v : Via) (r : Request), Admitted s v 0x38 r ∧ checkOnly r = false ∧ r.length = 0 ∧ on s 62 = true ∧
      s.rx.draining = none ∧ shadowComplete s = true) ∧
    (∃ (s : State) (v : Via) (r : Request), Admitted s v 0x38 r ∧ checkOnly r = false ∧ r.length = 0 ∧ s.rx.draining.isSome =
      true) ∧
    (∃ (s : State) (v : Via) (r : Request), Admitted s v 0x38 r ∧ checkOnly r = false ∧ r.length = 0 ∧ s.rx.draining = none ∧
      (on s 62 = false ∨ shadowComplete s = false)) ∧
    (∃ (s : State) (v : Via) (r : Request), Admitted s v 0x39 r ∧ checkOnly r = false ∧ r.length = 0) ∧
    (∃ (s : State) (h : Fin 16384) (seq : BitVec 16) (x : Slot) (d : BitVec 64), held s = false ∧ (slotsOf s h.val seq).find?
      (!·.inHold) = some x ∧ x.phase = 0 ∧ winner x.votes = some d) ∧
    (∃ (s : State) (h : Fin 16384) (seq : BitVec 16) (x : Slot), held s = false ∧ (slotsOf s h.val seq).find? (!·.inHold) = some
      x ∧ x.phase = 0 ∧ winner x.votes = none ∧ unvotedPolicy s x.handle = 2) ∧
    (∃ (s : State) (h : Fin 16384) (seq : BitVec 16) (x : Slot), held s = false ∧ (slotsOf s h.val seq).find? (!·.inHold) = some
      x ∧ x.phase = 0 ∧ winner x.votes = none ∧ unvotedPolicy s x.handle ≠ 2) ∧
    (∃ (s : State) (h : Fin 16384) (seq : BitVec 16) (x : Slot), held s = false ∧ (slotsOf s h.val seq).find? (!·.inHold) = some
      x ∧ x.phase = 2) ∧
    (∃ (s : State) (h : Fin 16384) (seq : BitVec 16) (x : Slot), held s = false ∧ (slotsOf s h.val seq).find? (·.inHold) = some
      x ∧ x.phase = 1) ∧
    (∃ (s : State) (h : Fin 16384) (seq : BitVec 16) (x : Slot), held s = false ∧ (slotsOf s h.val seq).find? (·.inHold) = some
      x ∧ x.phase = 2) ∧
    (∃ (s : State) (h : Fin 16384), held s = false ∧ on s 49 = true ∧ on s 69 = true ∧ cfg s (oListen h.val) 0 1 = 1 ∧ (recovOf
      s h.val).takeAny = false) ∧
    (∃ (s : State) (x : Slot) (a r : Replica), cfg s (oListen x.handle) 1 1 = 1 ∧ x.phase = 0 ∧ x.votes = [a] ∧ a.port / 2 ≠
      r.port / 2 ∧ a.port < 6 ∧ r.port < 6) :=
  ⟨ ⟨tk (rq (.mb 1) 0x38 0x05030000 []) (ons [62] live), .mb 1, rq (.mb 1) 0x38 0x05030000 [], admitted_of (by decide +kernel),
     by decide +kernel⟩,
   ⟨tk (rq (.mb 1) 0x38 0x05030000 []) ({ ons [62] live with rx := { draining := some 1 } }), .mb 1, rq (.mb 1) 0x38 0x05030000
     [], admitted_of (by decide +kernel), by decide +kernel⟩,
   ⟨tk (rq (.mb 1) 0x38 0x05030000 []) (objWrite (ons [62] live) (oidOf 0x0504 0 0) 8 [3]), .mb 1, rq (.mb 1) 0x38 0x05030000
     [], admitted_of (by decide +kernel), by decide +kernel⟩,
   ⟨tk (rq (.mb 1) 0x39 0x05030000 []) (ons [62] live), .mb 1, rq (.mb 1) 0x39 0x05030000 [], admitted_of (by decide +kernel),
     by decide +kernel⟩,
   ⟨voting (vslot 0 0 [rep 0 5, rep 2 5]), 16383, 7, (vslot 0 0 [rep 0 5, rep 2 5]), 5, by decide +kernel⟩,
   ⟨objWrite (voting (vslot 0 0 [rep 0 5, rep 2 6])) (oListen 16383) 11 [2], 16383, 7, (vslot 0 0 [rep 0 5, rep 2 6]),
     by decide +kernel⟩,
   ⟨voting (vslot 0 0 [rep 0 5, rep 2 6]), 16383, 7, (vslot 0 0 [rep 0 5, rep 2 6]), by decide +kernel⟩,
   ⟨voting (vslot 2 1 []), 16383, 7, (vslot 2 1 []), by decide +kernel⟩,
   ⟨voting { vslot 1 1 [] with inHold := true }, 16383, 7, { vslot 1 1 [] with inHold := true }, by decide +kernel⟩,
   ⟨voting { vslot 2 5 [] with inHold := true }, 16383, 7, { vslot 2 5 [] with inHold := true }, by decide +kernel⟩,
   ⟨modRecov (objWrite (ons [49, 69] live) (oListen 4095) 0 [1]) 4095 fun r => { r with takeAny := false }, 4095,
     by decide +kernel⟩,
   ⟨objWrite live (oListen 16383) 1 [1], vslot 0 0 [rep 0 5], rep 0 5, rep 2 6, by decide +kernel⟩⟩

set_option maxRecDepth 100000 in
/-- The hypotheses of each clause of SegmentCycles can be met. -/
theorem wit_SegmentCycles :
    (∃ (s : State) (i : Fin 16), held s = false ∧ segOn s i.val = true ∧ (sgm s i.val).calReq = none ∧ (sgm s i.val).runs =
      false ∧ (sgm s i.val).head = 0 ∧ (sgm s i.val).listened < (sgm s i.val).listen ∧ segCycleNs s i.val ≠ 0 ∧ nowNs s ≤
      segCycleAt s i.val + 2) ∧
    (∃ (s : State) (i : Fin 16), held s = false ∧ segOn s i.val = true ∧ (sgm s i.val).calReq = none ∧ (sgm s i.val).runs = true
      ∧ (sgm s i.val).head = 0 ∧ (sgm s i.val).heard = true ∧ (sgm s i.val).listen ≤ (sgm s i.val).listened ∧ segCycleNs s i.val
      ≠ 0 ∧ nowNs s ≤ segCycleAt s i.val + 2 ∧ (sgm s i.val).start ≠ segCycleAt s i.val) ∧
    (∃ (s : State) (i : Fin 16) (e : Fin 64) (x : SlotEntry), held s = false ∧ segOn s i.val = true ∧ (sgm s i.val).runs = true
      ∧ (sgm s i.val).stopped = false ∧ (segTable s i.val)[e.val]? = some x ∧ x.owner = segOwn s i.val ∧ x.kind = 1 ∧ (sgm s
      i.val).sends = true ∧ ((sgm s i.val).head = 1 ∨ (sgm s i.val).head = 2) ∧ fencedSeg s i.val = false ∧ f3Holds s (16 +
      i.val) = false ∧ (sgm s i.val).ran.contains e.val = false ∧ (sgm s i.val).calReq = none ∧ gauntOpen s i.val (riseOf s
      i.val x) = true) ∧
    (∃ (s : State) (i : Fin 16) (e : Fin 64) (x : SlotEntry), held s = false ∧ segOn s i.val = true ∧ (sgm s i.val).runs = true
      ∧ (sgm s i.val).stopped = false ∧ (segTable s i.val)[e.val]? = some x ∧ x.owner = segOwn s i.val ∧ x.kind = 1 ∧ (sgm s
      i.val).sends = true ∧ ((sgm s i.val).head = 1 ∨ (sgm s i.val).head = 2) ∧ fencedSeg s i.val = false ∧ f3Holds s (16 +
      i.val) = false ∧ (sgm s i.val).ran.contains e.val = false ∧ (sgm s i.val).calReq = none ∧ gauntOpen s i.val (riseOf s
      i.val x) = false) ∧
    (∃ (s : State) (i : Fin 16) (e : Nat), held s = false ∧ (sgm s i.val).sending = some e ∧ (sgm s i.val).head ≠ 1 ∧ (sgm s
      i.val).head ≠ 2) ∧
    (∃ (s : State) (i : Fin 16) (e : Nat) (x : SlotEntry), held s = false ∧ (sgm s i.val).sending = some e ∧ (sgm s i.val).head
      = 1 ∧ (segTable s i.val)[e]? = some x ∧ x.kind = 1 ∧ (sgm s i.val).coldCol < 2) ∧
    (∃ (s : State) (i t : Nat), (on s 71 = false ∨ s.pw.guardRuns = false ∨ s.sg.diverged = true ∨ s.sg.markerLost = true ∨
      f3Holds s (16 + i) = true ∨ s.sg.own = none ∨ (∀ x, windowsAt s i x = none))) ∧
    (∃ (s : State) (i t : Nat) (w : Windows) (v : Nat × Nat) (own : Int), on s 71 = true ∧ s.pw.guardRuns = true ∧ s.sg.diverged
      = false ∧ s.sg.markerLost = false ∧ f3Holds s (16 + i) = false ∧ gauntTime s = some own ∧ windowsAt s i ((own + ((t *
      65536 : Nat) : Int) - ((now80 s : Nat) : Int)) / 65536) = some w ∧ w.cycle ≠ 0 ∧ v ∈ w.wins ∧ v.1 ≤ (((own + ((t * 65536 :
      Nat) : Int) - ((now80 s : Nat) : Int)) / 65536) % w.cycle).toNat ∧ (((own + ((t * 65536 : Nat) : Int) - ((now80 s : Nat) :
      Int)) / 65536) % w.cycle).toNat < v.2) ∧
    (∃ (s : State) (i : Fin 16), held s = false ∧ segCycleAt s i.val + 2 < nowNs s) ∧
    (∃ (s : State) (i : Nat), segCycleNs s i ≠ 0) ∧
    (∃ (s z : State) (i : Fin 16) (e : Fin 64) (x : SlotEntry), held s = false ∧ segOn s i.val = true ∧ (sgm s i.val).runs =
      true ∧ (sgm s i.val).stopped = false ∧ (segTable s i.val)[e.val]? = some x ∧ x.owner = segOwn s i.val ∧ x.kind = 2 ∧ (sgm
      s i.val).sends = true ∧ ((sgm s i.val).head = 1 ∨ (sgm s i.val).head = 2) ∧ fencedSeg s i.val = false ∧ f3Holds s (16 +
      i.val) = false ∧ (sgm s i.val).ran.contains e.val = false ∧ (sgm s i.val).calReq = none ∧ gauntOpen s i.val (riseOf s
      i.val x) = true ∧ z = (if (sgm s i.val).held = false ∧ (sgm s i.val).safe = false then snapshot s i.val else s)) ∧
    (∃ (s : State) (i : Fin 16) (e : Fin 64) (x : SlotEntry) (n : Nat), held s = false ∧ segOn s i.val = true ∧ (sgm s
      i.val).runs = true ∧ (sgm s i.val).stopped = false ∧ (segTable s i.val)[e.val]? = some x ∧ x.owner = segOwn s i.val ∧
      x.kind = 4 ∧ (sgm s i.val).sends = true ∧ ((sgm s i.val).head = 1 ∨ (sgm s i.val).head = 2) ∧ fencedSeg s i.val = false ∧
      f3Holds s (16 + i.val) = false ∧ (sgm s i.val).ran.contains e.val = false ∧ (sgm s i.val).calReq = none ∧ gauntOpen s
      i.val (riseOf s i.val x) = true ∧ calNext (sgm s i.val) = some n) ∧
    (∃ (s : State) (i n : Nat), n < 32) ∧
    (∃ (g : Seg) (n : Nat), nodeFlag g n 0 = true ∧ nodeFlag g n 2 = true) :=
  ⟨ ⟨modSgm (guarded (seg 1 0 live)) 15 fun g => { g with head := 0, runs := false }, 15, by decide +kernel⟩,
   ⟨modSgm (guarded (seg 1 0 live)) 15 fun g => { g with head := 0, heard := true, listened := 2, start := 5 }, 15,
     by decide +kernel⟩,
   ⟨(guarded (seg 1 0 live)).modSg fun x => { x with own := some (0, 0), wins := [(15, some ⟨1000000, [(0, 1000000)]⟩)] }, 15,
     0, { start := 0, len := 6553500, kind := 1, owner := 0 }, by decide +kernel⟩,
   ⟨seg 1 0 live, 15, 0, { start := 0, len := 6553500, kind := 1, owner := 0 }, by decide +kernel⟩,
   ⟨modSgm (guarded (seg 1 0 live)) 15 fun g => { g with head := 3, sending := some 0 }, 15, 0, by decide +kernel⟩,
   ⟨modSgm (guarded (seg 1 0 live)) 15 fun g => { g with sending := some 0, coldCol := 1 }, 15, 0,
     { start := 0, len := 6553500, kind := 1, owner := 0 }, by decide +kernel⟩,
   ⟨live, 15, 0, .inr (.inl (by decide +kernel))⟩,
   by refine ⟨(guarded (seg 1 0 live)).modSg fun x =>
     { x with own := some (0, 0), wins := [(15, some ⟨1000000, [(0, 1000000)]⟩)] }, 15, 0, ⟨1000000, [(0, 1000000)]⟩, (0,
     1000000), _, ?_, ?_, ?_, ?_, ?_, rfl, ?_⟩ <;> decide +kernel,
   ⟨([0, 1, 2].foldl (fun s i => modChan s i fun c => { c with raw := 1024 * 65536 }) (timed live)), 15, by decide +kernel⟩,
   ⟨seg 1 0 live, 15, by decide +kernel⟩,
   by refine ⟨(guarded (seg 2 0 live)).modSg fun x =>
     { x with own := some (0, 0), wins := [(15, some ⟨1000000, [(0, 1000000)]⟩)] }, _, 15, 0,
     { start := 0, len := 6553500, kind := 2, owner := 0 }, ?_, ?_, ?_, ?_, ?_, ?_, ?_, ?_, ?_, ?_, ?_, ?_, ?_, ?_, rfl⟩
     <;> decide +kernel,
   ⟨(modSgm (guarded (seg 4 0 live)) 15 fun g =>
     { g with nodes := tmod nodeReset g.nodes 9 fun n => { n with integrated := true } }).modSg fun x =>
     { x with own := some (0, 0), wins := [(15, some ⟨1000000, [(0, 1000000)]⟩)] }, 15, 0,
     { start := 0, len := 6553500, kind := 4, owner := 0 }, 9, by decide +kernel⟩,
   ⟨live, 15, 31, by decide +kernel⟩,
   ⟨{ sgm live 15 with nodeCfg := [(248, 5)] }, 31, by decide +kernel⟩⟩

set_option maxRecDepth 100000 in
/-- The hypotheses of each clause of SegmentFrames can be met. -/
theorem wit_SegmentFrames :
    (∃ (s : State) (i : Fin 16) (l : List Bool) (m : Int) (b o : Bool), held s = false ∧ segOn s i.val = true ∧ (ktbHeard b
      l).all (fun f => !fcsOk f || decide (f.length < 64) || decide (300 < f.length)) = true) ∧
    (∃ (s : State) (i : Fin 16) (l : List Bool) (f : Bytes) (m : Int) (o : Bool) (k : Nat) (x : SlotEntry), held s = false ∧
      ktbRead l = some f ∧ segOn s i.val = true ∧ (sgm s i.val).runs = true ∧ fcsOk f = true ∧ 64 ≤ f.length ∧ f.length ≤ 300 ∧
      ktbIgnored s i.val f = false ∧ by_ f 15 = 3 ∧ entryOf s i.val m = some (k, x) ∧ x.kind = 3 ∧ (sgm s i.val).got = none) ∧
    (∃ (s : State) (i : Fin 16) (l : List Bool) (f : Bytes) (m : Int) (o : Bool) (k : Nat) (x : SlotEntry), held s = false ∧
      ktbRead l = some f ∧ segOn s i.val = true ∧ (sgm s i.val).runs = true ∧ fcsOk f = true ∧ 64 ≤ f.length ∧ f.length ≤ 300 ∧
      ktbIgnored s i.val f = false ∧ by_ f 15 = 3 ∧ entryOf s i.val m = some (k, x) ∧ x.kind = 3 ∧ (sgm s i.val).got.isSome =
      true) ∧
    (∃ (s : State) (i : Fin 16) (e : Fin 64) (x : SlotEntry), held s = false ∧ segOn s i.val = true ∧ (sgm s i.val).runs = true
      ∧ (sgm s i.val).stopped = false ∧ (segTable s i.val)[e.val]? = some x ∧ x.kind = 3 ∧ (sgm s i.val).ran.contains e.val =
      false ∧ (sgm s i.val).got = none ∧ nodeFlag (sgm s i.val) x.owner 0 = true ∧ nodeFlag (sgm s i.val) x.owner 3 = false ∧
      (node (sgm s i.val) x.owner).integrated = false) ∧
    (∃ (s : State) (i : Fin 16) (e : Fin 64) (x : SlotEntry) (m : Int) (f : Bytes), held s = false ∧ segOn s i.val = true ∧ (sgm
      s i.val).runs = true ∧ (sgm s i.val).stopped = false ∧ (segTable s i.val)[e.val]? = some x ∧ x.kind = 3 ∧ (sgm s
      i.val).ran.contains e.val = false ∧ (sgm s i.val).got = some (m, false, f) ∧ (entryOf s i.val m).map (·.1) = some e.val ∧
      by_ f 15 = 3 ∧ by_ f 16 = x.owner ∧ by_ f 18 = e.val ∧ (m - ((markNs (segBrim s i.val) x * 1000 + tget (fun _ => 0) (sgm s
      i.val).delays x.owner : Nat) : Int)).natAbs ≤ segAccept s i.val * 1000 ∧ nodeFlag (sgm s i.val) x.owner 0 = true) ∧
    (∃ (s : State) (i : Fin 16), held s = false ∧ segOn s i.val = true ∧ (sgm s i.val).runs = true ∧ (segTable s i.val).isEmpty
      = false ∧ cfg s (oSeg i.val) 9 1 ≠ 1) ∧
    (∃ (s : State) (x d : Int), held s = false ∧ on s 71 = true ∧ s.pw.guardRuns = true ∧ timeOk s = true ∧ gauntDelta s x = d ∧
      d.natAbs ≤ 1000 * 65536 ∧ s.sg.goodSince = none) ∧
    (∃ (s : State) (x d : Int), gauntDelta s x = d) ∧
    (∃ (s : State) (x d : Int), held s = false ∧ on s 71 = true ∧ s.pw.guardRuns = true ∧ timeOk s = true ∧ gauntDelta s x = d ∧
      1000 * 65536 < d.natAbs ∧ d.natAbs ≤ 5000 * 65536) ∧
    (∃ (s : State) (x d : Int), held s = false ∧ on s 71 = true ∧ s.pw.guardRuns = true ∧ timeOk s = true ∧ gauntDelta s x = d ∧
      5000 * 65536 < d.natAbs ∧ clsOf s 139 = 1) ∧
    (∃ (s : State), held s = false ∧ on s 71 = true ∧ s.pw.guardRuns = true) ∧
    (∃ (s : State) (i : Fin 16), held s = false ∧ segOn s i.val = true ∧ (sgm s i.val).runs = true ∧ (sgm s i.val).blocked =
      true) ∧
    (∃ (s : State) (i : Fin 16) (l : List Bool) (f : Bytes) (m : Int) (o : Bool), held s = false ∧ segOn s i.val = true ∧
      ktbRead l = some f ∧ fcsOk f = true ∧ 64 ≤ f.length ∧ f.length ≤ 300 ∧ ktbIgnored s i.val f = true) ∧
    (∃ (s : State) (i e : Nat) (x : SlotEntry) (m : Int) (o : Bool) (f : Bytes), (sgm s i).got = some (m, o, f)) ∧
    (∃ (s : State) (i e : Nat) (x : SlotEntry), (sgm s i).got = none) ∧
    (∃ (s : State) (i : Fin 16) (e : Fin 64) (x : SlotEntry) (j : Nat), held s = false ∧ segOn s i.val = true ∧ (sgm s
      i.val).runs = true ∧ (sgm s i.val).stopped = false ∧ (segTable s i.val)[e.val]? = some x ∧ x.kind = 3 ∧ (sgm s
      i.val).ran.contains e.val = false ∧ (∀ y, (sgm s i.val).got = some y → (entryOf s i.val y.1).map (·.1) = some e.val) ∧
      clsOf s (fsSeg i.val 1) ≤ 1 ∧ judgeEntry s i.val e.val x = j ∧ j ≠ 3 ∧ nodeFlag (sgm s i.val) x.owner 0 = true ∧ nodeFlag
      (sgm s i.val) x.owner 3 = true ∧ (node (sgm s i.val) x.owner).integrated = false) ∧
    (∃ (s : State) (i : Fin 16) (e : Fin 64) (x : SlotEntry) (m : Int) (f : Bytes), held s = false ∧ segOn s i.val = true ∧ (sgm
      s i.val).runs = true ∧ (sgm s i.val).stopped = false ∧ (segTable s i.val)[e.val]? = some x ∧ x.kind = 3 ∧ (sgm s
      i.val).ran.contains e.val = false ∧ (sgm s i.val).got = some (m, false, f) ∧ (entryOf s i.val m).map (·.1) = some e.val ∧
      judgeEntry s i.val e.val x = 3 ∧ nodeFlag (sgm s i.val) x.owner 3 = true ∧ by_ f 23 ≤ 116) ∧
    (∃ (s : State) (x : Int), gauntTime s = none) ∧
    (∃ (s : State) (x own : Int), gauntTime s = some own) :=
  ⟨ ⟨(guarded (seg 3 9 live)), 15, [], 0, true, false, by decide +kernel⟩,
   ⟨(guarded (seg 3 9 live)), 15, ktbLine nodeF, nodeF, 20000000, false, 0,
     { start := 0, len := 6553500, kind := 3, owner := 9 }, by decide +kernel⟩,
   ⟨modSgm (guarded (seg 3 9 live)) 15 fun g => { g with got := some (1, false, nodeF) }, 15, ktbLine nodeF, nodeF, 20000000,
     false, 0, { start := 0, len := 6553500, kind := 3, owner := 9 }, by decide +kernel⟩,
   ⟨modSgm (guarded (seg 3 9 live)) 15 fun g => { g with nodeCfg := [(72, 1)] }, 15, 0,
     { start := 0, len := 6553500, kind := 3, owner := 9 }, by decide +kernel⟩,
   ⟨modSgm (guarded (seg 3 9 live)) 15 fun g =>
     { g with nodeCfg := [(72, 1)], got := some ((markNs (segBrim (seg 3 9 live) 15) { start := 0, len := 6553500, kind := 3, owner := 9 } * 1000 : Nat), false, nodeF) },
     15, 0, { start := 0, len := 6553500, kind := 3, owner := 9 }, ((markNs (segBrim (seg 3 9 live) 15)
     { start := 0, len := 6553500, kind := 3, owner := 9 } * 1000 : Nat) : Int), nodeF, by decide +kernel⟩,
   ⟨(guarded (seg 3 9 live)), 15, by decide +kernel⟩,
   by refine ⟨guarded (ons [71] (timed live)), 1000, _, ?_, ?_, ?_, ?_, rfl, ?_⟩ <;> decide +kernel,
   ⟨live, 0, _, rfl⟩,
   by refine ⟨guarded (ons [71] (timed live)), -5000, _, ?_, ?_, ?_, ?_, rfl, ?_⟩ <;> decide +kernel,
   by refine ⟨(guarded (ons [71] (timed live))).modFs fun f => { f with srcs := [(139, { cls := some 1 })] }, -5001, _, ?_, ?_,
     ?_, ?_, rfl, ?_⟩ <;> decide +kernel,
   ⟨guarded (ons [71, 68] live), by decide +kernel⟩,
   ⟨modSgm (guarded (seg 3 9 live)) 15 fun g => { g with blocked := true }, 15, by decide +kernel⟩,
   ⟨guarded (seg 3 9 live), 15, ktbLine (withFcs (zz 60)), withFcs (zz 60), 0, false, by decide +kernel⟩,
   ⟨modSgm live 15 fun g => { g with got := some (1, false, nodeF) }, 15, 0,
     { start := 0, len := 6553500, kind := 3, owner := 9 }, 1, false, nodeF, by decide +kernel⟩,
   ⟨live, 15, 0, { start := 0, len := 6553500, kind := 3, owner := 9 }, by decide +kernel⟩,
   by refine ⟨silentNode, 15, 0, { start := 0, len := 6553500, kind := 3, owner := 9 }, 4, ?_, ?_, ?_, ?_, ?_, ?_, ?_, fun y h
     => absurd (no_got.symm.trans h) (by simp), ?_⟩ <;> decide +kernel,
   ⟨modSgm (guarded (seg 3 9 live)) 15 fun g =>
     { g with nodeCfg := [(72, 9)], got := some ((markNs (segBrim (seg 3 9 live) 15) { start := 0, len := 6553500, kind := 3, owner := 9 } * 1000 : Nat), false, nodeF) },
     15, 0, { start := 0, len := 6553500, kind := 3, owner := 9 }, ((markNs (segBrim (seg 3 9 live) 15)
     { start := 0, len := 6553500, kind := 3, owner := 9 } * 1000 : Nat) : Int), nodeF, by decide +kernel⟩,
   ⟨live, 5, by decide +kernel⟩,
   ⟨live.modSg fun x => { x with own := some (7, 0) }, 5, 7, by decide +kernel⟩⟩

set_option maxRecDepth 100000 in
/-- The hypotheses of each clause of CascadeCommands can be met. -/
theorem wit_CascadeCommands :
    (∃ (s : State) (k kind : Nat) (f : Bytes), kRuns s k = true ∧ s.fs.f4 = false ∧ 64 ≤ f.length ∧ f.length ≤ 9728 ∧ fcsOk f =
      true ∧ by_ f 0 = 1 ∧ by_ f 1 = kind ∧ kReliable kind = true ∧ bitN (by_ f 5) 1 = false ∧ be f 6 2 = (klink s
      k).rxSeq.toNat ∧ by_ f 2 % 8 ≠ pos s ∧ by_ f 3 = pos s ∧ dupAt s (by_ f 2 % 8) = false ∧ dupAt s (pos s) = false) ∧
    (∃ (s : State) (k kind : Nat) (f : Bytes), kRuns s k = true ∧ s.fs.f4 = false ∧ 64 ≤ f.length ∧ f.length ≤ 9728 ∧ fcsOk f =
      true ∧ by_ f 0 = 1 ∧ by_ f 1 = kind ∧ kReliable kind = true ∧ bitN (by_ f 5) 1 = false ∧ be f 6 2 ≠ (klink s
      k).rxSeq.toNat) ∧
    (∃ (s : State) (k : Fin 2), held s = false ∧ kRuns s k.val = true) ∧
    (∃ (s : State) (k : Fin 2) (f : Bytes) (i : Nat) (x : KFrame), held s = false ∧ kRuns s k.val = true ∧ s.fs.f4 = false ∧ 64
      ≤ f.length ∧ f.length ≤ 9728 ∧ fcsOk f = true ∧ by_ f 0 = 1 ∧ by_ f 1 = 0x05 ∧ bitN (by_ f 5) 1 = true ∧ findIx (fun x :
      KFrame => x.seq == BitVec.ofNat 16 (be f 8 2)) (klink s k.val).held = some (i, x) ∧ (klink s k.val).queue = []) ∧
    (∃ (s : State) (k : Fin 2), held s = false ∧ (klink s k.val).up = true ∧ (klink s k.val).held ≠ [] ∧ (klink s k.val).resends
      < 16) ∧
    (∃ (s : State) (k : Fin 2), held s = false ∧ (klink s k.val).up = true ∧ (klink s k.val).held ≠ [] ∧ 16 ≤ (klink s
      k.val).resends) ∧
    (∃ (s : State) (k : Fin 2), held s = false ∧ (klink s k.val).up = true) ∧
    (∃ (s : State) (k : Nat), k < 2 ∧ clsOf s (128 + k) = 1 ∧ clsOf s 132 = 1) ∧
    (∃ (s : State), held s = false ∧ kRuns s 0 = true ∧ kRuns s 1 = false) ∧
    (∃ (s : State), held s = false ∧ kRuns s 0 = false ∧ kRuns s 1 = true) ∧
    (∃ (s u : State) (k : Fin 2) (f : Bytes) (far : List DeepRange), held s = false ∧ kTake s k.val 0x01 f = (true, u) ∧ clsOf u
      131 = 1 ∧ clsOf u 132 = 1) ∧
    (∃ (s : State), held s = false ∧ (on s 26 || on s 27) = true ∧ isRing s = true) ∧
    (∃ (s : State), held s = false ∧ s.sk.complete = true ∧ s.sk.master ≠ pos s ∧ s.sk.master < 8 ∧ s.fs.f4 = false ∧ kRuns s
      (linkTo s s.sk.master) = true ∧ (klink s (linkTo s s.sk.master)).up = true) ∧
    (∃ (s u v w : State) (k : Fin 2) (f : Bytes) (t2 t3 : Stamp), held s = false ∧ kTake s k.val 0x02 f = (true, u) ∧ rxStampAt
      u (6 + k.val) f.length (fun _ => 0) = (t2, v) ∧ txStamp v (6 + k.val) = (t3, w)) ∧
    (∃ (s u v : State) (k : Fin 2) (f : Bytes) (t4 : Stamp) (q : Probe), held s = false ∧ kTake s k.val 0x03 f = (true, u) ∧
      rxStampAt u (6 + k.val) f.length (fun _ => 0) = (t4, v) ∧ v.sk.timeReq = some (k.val, q) ∧ be (kBody f) 0 2 = q.seq.toNat
      ∧ be (kBody f) 2 6 = q.t1.toNat) ∧
    (∃ (s u v : State) (k : Fin 2) (f : Bytes) (t4 : Stamp), held s = false ∧ kTake s k.val 0x03 f = (true, u) ∧ rxStampAt u (6
      + k.val) f.length (fun _ => 0) = (t4, v) ∧ v.sk.timeReq = none) ∧
    (∃ (s : State) (k : Nat) (q : Probe) (b : Bytes) (t4 : BitVec 48), s.sk.config ≠ 3 ∧ cfg s 0x02010000 1 1 ≠ 1 ∧ q.locked =
      true ∧ bitN (by_ b 20) 7 = true ∧ bitN (by_ b 20) 4 = false ∧ steppedSince s q.at_ = false ∧ (BitVec.ofNat 48 (be b 14 6)
      - BitVec.ofNat 48 (be b 8 6)).toNat ≤ 65536000000) ∧
    (∃ (was s : State), stackView was ≠ stackView s) ∧
    (∃ (was s : State), stackView was = stackView s) :=
  ⟨ ⟨casc live, 1, 0x10, kfr 0x10 [], by decide +kernel⟩,
   ⟨modKlink (casc live) 1 fun l => { l with rxSeq := 5 }, 1, 0x10, kfr 0x10 [], by decide +kernel⟩,
   ⟨casc live, 1, by decide +kernel⟩,
   ⟨modKlink (casc live) 1 fun l => { l with held := [⟨0, []⟩] }, 1, withFcs (kFrame 5 1 0 7 2 0 []), 0, ⟨0, []⟩,
     by decide +kernel⟩,
   ⟨modKlink (casc live) 1 fun l => { l with held := [⟨0, []⟩], resends := 15 }, 1, by decide +kernel⟩,
   ⟨modKlink (casc live) 1 fun l => { l with held := [⟨0, []⟩], resends := 16 }, 1, by decide +kernel⟩,
   ⟨casc live, 1, by decide +kernel⟩,
   ⟨{ live with fs := { srcs := [(129, { cls := some 1 }), (132, { cls := some 1 })] } }, 1, by decide +kernel⟩,
   ⟨ons [24, 26] live, by decide +kernel⟩,
   ⟨ons [25, 27] live, by decide +kernel⟩,
   ⟨{ casc live with fs := { srcs := [(131, { cls := some 1 }), (132, { cls := some 1 })] } }, (kTake
     { casc live with fs := { srcs := [(131, { cls := some 1 }), (132, { cls := some 1 })] } } 1 0x01 (kfr 0x01 (zz 24))).2, 1,
     kfr 0x01 (zz 24), [], by decide +kernel, Prod.ext (by decide +kernel) rfl, by decide +kernel⟩,
   ⟨modKlink (modKlink (casc live) 0 fun l => { l with nbr := some (zz 60) }) 1 fun l => { l with nbr := some (zz 60) },
     by decide +kernel⟩,
   ⟨{ (modKlink (modKlink (casc live) 0 fun l => { l with nbr := some (zz 60) }) 1 fun l => { l with nbr := some (zz 60) }) with sk := { (modKlink (modKlink (casc live) 0 fun l => { l with nbr := some (zz 60) }) 1 fun l => { l with nbr := some (zz 60) }).sk with complete := true, master := 7 } },
     by decide +kernel⟩,
   ⟨casc live, _, _, _, 1, kfr 0x02 (zz 24), _, _, by decide +kernel, took_eq (by decide +kernel), rfl, rfl⟩,
   ⟨(casc live).modSk fun x => { x with timeReq := some (1, { seq := 0, t1 := 0, locked := true, at_ := 0 }) }, _, _, 1, kfr
     0x03 (zz 24), _, { seq := 0, t1 := 0, locked := true, at_ := 0 }, by decide +kernel, took_eq (by decide +kernel), rfl,
     by decide +kernel⟩,
   ⟨casc live, _, _, 1, kfr 0x03 (zz 24), _, by decide +kernel, took_eq (by decide +kernel), rfl, by decide +kernel⟩,
   ⟨live, 1, { seq := 0, t1 := 0, locked := true, at_ := 0 }, zz 14 ++ toBe 6 65536000000 ++ [0x80], 0, by decide +kernel⟩,
   ⟨live, { live with sk := { complete := true } }, by decide +kernel⟩,
   ⟨live, live, by decide +kernel⟩⟩

set_option maxRecDepth 100000 in
/-- The hypotheses of each clause of StackOrders can be met. -/
theorem wit_StackOrders :
    (∃ (s u : State) (k : Fin 2) (f : Bytes) (v : Via), held s = false ∧ kTake s k.val 0x10 f = (true, u) ∧ kAgent u ⟨by_ f 2 %
      8, Nat.mod_lt _ (by decide)⟩ = some v ∧ u.hl.fwReady = true) ∧
    (∃ (s u : State) (k : Fin 2) (f : Bytes), held s = false ∧ kTake s k.val 0x10 f = (true, u) ∧ kAgent u ⟨by_ f 2 % 8,
      Nat.mod_lt _ (by decide)⟩ = none ∧ u.hl.fwReady = true) ∧
    (∃ (s u : State) (k : Fin 2) (f : Bytes), held s = false ∧ kTake s k.val 0x11 f = (true, u) ∧ (relay u (by_ f 2 % 8)).state
      = 1 ∧ le (kBody f) 2 2 = (relay u (by_ f 2 % 8)).tag.toNat) ∧
    (∃ (s : State) (p : Fin 8), held s = false ∧ (relay s p.val).state = 1) ∧
    (∃ (s : State) (v : Via) (p : Fin 8) (d : Bytes), held s = false ∧ opAllowed s v 0x20 = true ∧ rankOf v ≤ 3 ∧ isMaster s =
      true ∧ (members s).contains p.val = true ∧ (relay s p.val).state = 0 ∧ d ≠ [] ∧ (∃ x, descOf (oidOf 0x0803 p.val 0) = some
      x ∧ needsMet s (oidOf 0x0803 p.val 0) x 0 1 = true) ∧ d.length < 16) ∧
    (∃ (s : State) (v : Via) (p : Fin 8) (d : Bytes), held s = false ∧ opAllowed s v 0x20 = true ∧ rankOf v ≤ 3 ∧ isMaster s =
      true ∧ (members s).contains p.val = true ∧ (relay s p.val).state = 0 ∧ (∃ x, descOf (oidOf 0x0803 p.val 0) = some x ∧
      needsMet s (oidOf 0x0803 p.val 0) x 0 1 = true) ∧ 16 ≤ d.length ∧ d.length ≤ 4096 ∧ d.length = 16 + le d 4 2) ∧
    (∃ (s u : State) (k : Fin 2) (f : Bytes), held s = false ∧ kTake s k.val 0x12 f = (true, u) ∧ on u 49 = true ∧ by_ (kBody f)
      0 = 0 ∧ isMember u = true ∧ u.sk.master = by_ f 2 % 8) ∧
    (∃ (s u : State) (k : Fin 2) (f : Bytes), held s = false ∧ kTake s k.val 0x12 f = (true, u) ∧ on u 49 = true ∧ by_ (kBody f)
      0 = 2 ∧ isMember u = true ∧ u.sk.master = by_ f 2 % 8 ∧ nowNs u + 1000000 < be (kBody f) 4 8) ∧
    (∃ (s u : State) (k : Fin 2) (f : Bytes), held s = false ∧ kTake s k.val 0x12 f = (true, u) ∧ on u 49 = true ∧ by_ (kBody f)
      0 = 3 ∧ isMember u = true ∧ u.sk.master = by_ f 2 % 8 ∧ u.tx.member.state ≠ 2) ∧
    (∃ (s u : State) (k : Fin 2) (f : Bytes), held s = false ∧ kTake s k.val 0x12 f = (true, u) ∧ on u 49 = true ∧ by_ (kBody f)
      0 = 1 ∧ isMaster u = true ∧ u.tx.phase = 1 ∧ u.tx.agree.members.getLsbD (by_ f 2 % 8) = true ∧ be (kBody f) 2 2 =
      u.tx.agree.id.toNat ∧ by_ (kBody f) 1 = u.tx.agree.mode ∧ be (kBody f) 4 8 = u.tx.agree.boundary ∧ be (kBody f) 12 4 =
      u.tx.agree.tag.toNat) ∧
    (∃ (s : State), held s = false ∧ isMember s = true ∧ s.tx.member.state = 1 ∧ nowNs s < s.tx.member.decide) :=
  ⟨ ⟨(stack 1 1 live).modHl fun h => { h with fwReady := true }, _, 1, kfr 0x10 (zz 16), .master 1, by decide +kernel, took_eq
     (by decide +kernel), by decide +kernel⟩,
   ⟨(stack 3 1 live).modHl fun h => { h with fwReady := true }, _, 1, kfr 0x10 (zz 16), by decide +kernel, took_eq
     (by decide +kernel), by decide +kernel⟩,
   ⟨modRelay (casc live) 1 fun r => { r with state := 1, tag := 7 }, _, 1, kfr 0x11 ([0, 0, 7, 0]), by decide +kernel, took_eq
     (by decide +kernel), by decide +kernel⟩,
   ⟨modRelay (casc live) 7 fun r => { r with state := 1, tag := 7 }, 7, by decide +kernel⟩,
   by refine ⟨stack 0 1 (ons [49] live), .mb 1, 1, zz 15, ?_, ?_, ?_, ?_, ?_, ?_, ?_, ⟨(descOf (oidOf 0x0803 1 0)).getD (rog []
     0), ?_, ?_⟩, ?_⟩ <;> decide +kernel,
   by refine ⟨stack 0 1 (ons [49] live), .mb 1, 1, zz 16, ?_, ?_, ?_, ?_, ?_, ?_, ⟨(descOf (oidOf 0x0803 1 0)).getD (rog [] 0),
     ?_, ?_⟩, ?_⟩ <;> decide +kernel,
   ⟨stack 1 1 (ons [49] live), _, 1, kfr 0x12 ([0, 3] ++ zz 30), by decide +kernel, took_eq (by decide +kernel),
     by decide +kernel⟩,
   ⟨stack 1 1 (ons [49] live), _, 1, kfr 0x12 ([2, 3, 0, 0] ++ toBe 8 2000000 ++ zz 20), by decide +kernel, took_eq
     (by decide +kernel), by decide +kernel⟩,
   ⟨stack 1 1 (ons [49] live), _, 1, kfr 0x12 ([3, 3] ++ zz 30), by decide +kernel, took_eq (by decide +kernel),
     by decide +kernel⟩,
   ⟨(stack 0 1 (ons [49] live)).modTx fun t =>
     { t with phase := 1, agree := { id := 5, mode := 3, boundary := 20000000, tag := 9, members := 2 } }, _, 1, kfr 0x12 ([1,
     3] ++ toBe 2 5 ++ toBe 8 20000000 ++ toBe 4 9 ++ zz 16), by decide +kernel, took_eq (by decide +kernel),
     by decide +kernel⟩,
   ⟨(stack 1 1 (ons [49] live)).modTx fun t => { t with member := { state := 1, decide := 500000 } }, by decide +kernel⟩⟩

set_option maxRecDepth 100000 in
/-- The hypotheses of each clause of StackAndTwinOrders can be met. -/
theorem wit_StackAndTwinOrders :
    (∃ (s u : State) (k : Fin 2) (f : Bytes) (q : Fin 64), held s = false ∧ kTake s k.val 0x30 f = (true, u) ∧ isMaster u = true
      ∧ (u.sk.config = 1 ∨ u.sk.config = 2) ∧ 32 + le (kBody f) 8 2 ≤ (kBody f).length) ∧
    (∃ (s : State) (q k : Nat) (wb f : Bytes) (b : RxBuf) (rest : List RxBuf), s.hl.state = lsActive ∧ s.hl.ctrl.getLsbD 0 =
      true ∧ (que s (64 + q)).enable = true ∧ (que s (64 + q)).closing = false ∧ (que s (64 + q)).bufs = b :: rest ∧ (que s (64
      + q)).stamped = false ∧ by_ wb 15 = 0 ∧ f.length ≤ b.size ∧ rest = []) ∧
    (∃ (s u : State) (k : Fin 2) (f : Bytes), held s = false ∧ kTake s k.val 0x31 f = (true, u) ∧ u.sk.complete = true ∧
      u.sk.master = by_ f 2 % 8 ∧ (u.sk.config = 1 ∨ u.sk.config = 2)) ∧
    (∃ (s u : State) (k : Fin 2) (f : Bytes) (r : TxRec), held s = false ∧ kTake s k.val 0x32 f = (true, u) ∧ by_ (kBody f) 0 <
      64 ∧ recOf u (by_ (kBody f) 0) (be (kBody f) 2 2) = some r ∧ r.phase = .away) ∧
    (∃ (s : State) (v : Via) (r : Request), Admitted s v 0x88 r ∧ checkOnly r = false ∧ r.length = 0) ∧
    (∃ (s u : State) (v : Via) (r : Request) (p : Bytes), Admitted s v 0x89 r ∧ checkOnly r = false ∧ r.length = 8 ∧ by_
      r.payload 0 ≤ 2 ∧ (∀ o ∈ [1, 2, 3], by_ r.payload o = 0) ∧ (by_ r.payload 0 = 2 → le r.payload 4 2 + le r.payload 6 2 ≤
      16384) ∧ s.sk.complete = true ∧ stageOrder (onTaken s r) (acted r) [] none [] = .staged u p) ∧
    (∃ (s : State) (v : Via) (r : Request), Admitted s v 0x89 r ∧ checkOnly r = false ∧ r.length = 8 ∧ by_ r.payload 0 = 3 ∧ (∀
      o ∈ [1, 2, 3], by_ r.payload o = 0) ∧ s.sk.complete = true ∧ (positions s).length ≠ 2) ∧
    (∃ (s u : State) (v : Via) (r : Request) (p : Bytes), Admitted s v 0x80 r ∧ checkOnly r = false ∧ r.length = 12 ∧ by_
      r.payload 0 ≤ 1 ∧ by_ r.payload 1 ≤ 7 ∧ by_ r.payload 2 ≤ 1 ∧ by_ r.payload 3 = 0 ∧ 10 ≤ le r.payload 4 2 ∧ le r.payload 4
      2 ≤ 1000 ∧ 2 ≤ by_ r.payload 6 ∧ by_ r.payload 6 ≤ 16 ∧ by_ r.payload 7 = 0 ∧ twinConfigured s = true ∧ stageOrder
      (onTaken s r) (acted r) [24 + by_ r.payload 2, 26 + by_ r.payload 2] none [] = .staged u p) ∧
    (∃ (s : State) (v : Via) (r : Request), Admitted s v 0x80 r ∧ checkOnly r = false ∧ r.length = 12 ∧ by_ r.payload 0 ≤ 1 ∧
      by_ r.payload 1 ≤ 7 ∧ by_ r.payload 2 ≤ 1 ∧ by_ r.payload 3 = 0 ∧ 10 ≤ le r.payload 4 2 ∧ le r.payload 4 2 ≤ 1000 ∧ 2 ≤
      by_ r.payload 6 ∧ by_ r.payload 6 ≤ 16 ∧ by_ r.payload 7 = 0 ∧ twinConfigured s = false) ∧
    (∃ (s : State) (v : Via) (r : Request), Admitted s v 0x81 r ∧ checkOnly r = false ∧ r.length = 0) ∧
    (∃ (s u : State) (v : Via) (r : Request) (p : Bytes), Admitted s v 0x83 r ∧ checkOnly r = false ∧ r.length = 16 ∧ by_
      r.payload 0 ≤ 7 ∧ by_ r.payload 1 = 1 ∧ by_ r.payload 2 = 0 ∧ by_ r.payload 3 = 0 ∧ le r.payload 12 4 % 64 = 0 ∧
      ((List.range 8).filter (· != by_ r.payload 0)).foldl (fun a k => a + regionSize s k) 0 + le r.payload 12 4 ≤ 65536 ∧
      twinConfigured s = true ∧ stageOrder (onTaken s r) (acted r) [] none [] = .staged u p) ∧
    (∃ (s : State) (v : Via) (r : Request), Admitted s v 0x83 r ∧ checkOnly r = false ∧ r.length = 16 ∧ by_ r.payload 0 ≤ 7 ∧
      by_ r.payload 1 ≤ 1 ∧ by_ r.payload 2 = 0 ∧ by_ r.payload 3 = 0 ∧ le r.payload 12 4 % 64 ≠ 0) :=
  ⟨ ⟨stack 0 1 (ons [49] live), _, 1, kfr 0x30 (zz 40), 63, by decide +kernel, took_eq (by decide +kernel), by decide +kernel⟩,
   ⟨modQue (link live) 127 fun u =>
     { u with enable := true, size := 16, bufs := [{ idx := 3, addr := 0x1000, size := 128, bad := false }] }, 63, 0, zz 16, zz
     64, { idx := 3, addr := 0x1000, size := 128, bad := false }, [], by decide +kernel⟩,
   ⟨stack 1 1 live, _, 1, kfr 0x31 (zz 40), by decide +kernel, took_eq (by decide +kernel), by decide +kernel⟩,
   ⟨modQue (casc live) 63 fun u => { u with recs := [txr .away] }, _, 1, kfr 0x32 ([63, 0, 0, 0]), txr .away, by decide +kernel,
     took_eq (by decide +kernel), by decide +kernel⟩,
   ⟨tk (rq (.mb 1) 0x88 0 []) live, .mb 1, rq (.mb 1) 0x88 0 [], admitted_of (by decide +kernel), by decide +kernel⟩,
   by refine ⟨tk (rq (.mb 1) 0x89 0 [2, 0, 0, 0, 0, 0, 0, 64]) (stack 0 0 (ons [49] live)), _, .mb 1, rq (.mb 1) 0x89 0 [2, 0,
     0, 0, 0, 0, 0, 64], _, admitted_of (by decide +kernel), ?_, ?_, ?_, ?_, ?_, ?_, staged_eq (by decide +kernel)⟩
     <;> decide +kernel,
   ⟨tk (rq (.mb 1) 0x89 0 [3, 0, 0, 0, 0, 0, 0, 0]) (stack 0 0 (ons [49] live)), .mb 1, rq (.mb 1) 0x89 0 [3, 0, 0, 0, 0, 0, 0,
     0], admitted_of (by decide +kernel), by decide +kernel⟩,
   by refine ⟨tk (rq (.mb 1) 0x80 0 ([1, 1, 1, 0] ++ toLe 2 1000 ++ [16, 0] ++ zz 4)) (stack 0 3 (ons [49, 68] live)), _, .mb 1,
     rq (.mb 1) 0x80 0 ([1, 1, 1, 0] ++ toLe 2 1000 ++ [16, 0] ++ zz 4), _, admitted_of (by decide +kernel), ?_, ?_, ?_, ?_, ?_,
     ?_, ?_, ?_, ?_, ?_, ?_, ?_, staged_eq (by decide +kernel)⟩ <;> decide +kernel,
   ⟨tk (rq (.mb 1) 0x80 0 ([1, 1, 1, 0] ++ toLe 2 1000 ++ [16, 0] ++ zz 4)) (stack 0 1 (ons [49] live)), .mb 1, rq (.mb 1) 0x80
     0 ([1, 1, 1, 0] ++ toLe 2 1000 ++ [16, 0] ++ zz 4), admitted_of (by decide +kernel), by decide +kernel⟩,
   ⟨tk (rq (.mb 1) 0x81 0 []) (twn 1 live), .mb 1, rq (.mb 1) 0x81 0 [], admitted_of (by decide +kernel), by decide +kernel⟩,
   by refine ⟨tk (rq (.mb 1) 0x83 0 ([7, 1, 0, 0] ++ zz 8 ++ toLe 4 65536)) (twn 1 live), _, .mb 1, rq (.mb 1) 0x83 0 ([7, 1, 0,
     0] ++ zz 8 ++ toLe 4 65536), _, admitted_of (by decide +kernel), ?_, ?_, ?_, ?_, ?_, ?_, ?_, ?_, ?_, staged_eq
     (by decide +kernel)⟩ <;> decide +kernel,
   ⟨tk (rq (.mb 1) 0x83 0 ([7, 1, 0, 0] ++ zz 8 ++ toLe 4 63)) (twn 1 live), .mb 1, rq (.mb 1) 0x83 0 ([7, 1, 0, 0] ++ zz 8 ++
     toLe 4 63), admitted_of (by decide +kernel), by decide +kernel⟩⟩

set_option maxRecDepth 100000 in
/-- The hypotheses of each clause of TwinRoles can be met. -/
theorem wit_TwinRoles :
    (∃ (s : State), held s = false ∧ twinRuns s = true ∧ s.tw.role ≠ 0 ∧ silent s = false ∧ kShut s 0x04 s.tw.partner = false ∧
      (∀ i < 4, hbPath s i = true → tget (fun _ => 0) s.tw.gaps i < s.tw.missed) ∧ (∀ pl < 3, cfgBit s oTwinPol 12 pl = false))
      ∧
    (∃ (s : State) (p : Fin 3) (b : Bytes), held s = false ∧ twinRuns s = true ∧ hbHeard s b = true ∧ s.tw.takeT = none ∧
      s.tw.yieldT = none ∧ s.tw.role = 2 ∧ s.hl.state ≠ lsActive) ∧
    (∃ (s u : State) (k : Fin 2) (f : Bytes), held s = false ∧ kTake s k.val 0x04 f = (true, u) ∧ twinRuns u = true ∧ hbHeard u
      (sub f 16 46) = true ∧ u.tw.takeT = none ∧ u.tw.yieldT = none ∧ u.tw.role = 4 ∧ by_ f 20 = 2) ∧
    (∃ (s : State), held s = false ∧ twinRuns s = true ∧ s.tw.lost = false ∧ s.tw.role = 1 ∧ clsOf s 133 = 1) ∧
    (∃ (s : State), held s = false ∧ twinRuns s = true ∧ s.tw.lost = false ∧ s.tw.role = 2 ∧ s.hl.state = lsActive ∧ s.tw.takeT
      = none ∧ clsOf s 133 = 1) ∧
    (∃ (s : State) (b : Nat), held s = false ∧ twinRuns s = true ∧ s.tw.takeT = some b ∧ (s.tw.role = 2 ∨ s.tw.role = 3)) ∧
    (∃ (s : State) (b : Nat), held s = false ∧ twinRuns s = true ∧ s.tw.takeT = none ∧ s.tw.yieldT = some b ∧ s.tw.role = 1 ∧
      s.tw.yieldAcked = true) ∧
    (∃ (s : State), held s = false ∧ twinRuns s = true ∧ s.tw.takeT = none ∧ s.tw.yieldT = none ∧ leads s = true ∧
      s.tw.pFlags.getLsbD 3 = true ∧ s.tw.lost = false) ∧
    (∃ (s : State) (r : Request), held s = false ∧ s.tw.yieldReq = some r) ∧
    (∃ (s : State) (v : Via) (r : Request), Admitted s v 0x82 r ∧ checkOnly r = false ∧ r.length = 0 ∧ s.tw.on = true ∧
      s.tw.role = 1 ∧ s.tw.lost = false ∧ s.tw.pRole = 2 ∧ s.tw.pFlags.getLsbD 1 = true ∧ s.tw.yieldT = none) ∧
    (∃ (s : State) (v : Via) (r : Request), Admitted s v 0x82 r ∧ checkOnly r = false ∧ r.length = 0 ∧ (s.tw.on = false ∨
      s.tw.role ≠ 1 ∨ s.tw.lost = true ∨ s.tw.pRole ≠ 2 ∨ s.tw.pFlags.getLsbD 1 = false ∨ s.tw.yieldT.isSome = true)) :=
  ⟨ ⟨objWrite (twn 1 live) oTwinPol 12 [0], by decide +kernel⟩,
   ⟨hears (twn 2 live), 2, hb 1, by decide +kernel⟩,
   ⟨hears (twn 4 live), _, 1, kfr 0x04 (hb 2 ++ zz 18), by decide +kernel, took_eq (by decide +kernel), by decide +kernel⟩,
   ⟨(twn 1 live).modFs fun f => { f with srcs := [(133, { cls := some 1 })] }, by decide +kernel⟩,
   ⟨((twn 2 (link live)).modHl fun h => { h with trained := true }).modFs fun f =>
     { f with srcs := [(133, { cls := some 1 })] }, by decide +kernel⟩,
   ⟨(twn 2 live).modTw fun t => { t with takeT := some 1000 }, 1000, by decide +kernel⟩,
   ⟨(twn 1 live).modTw fun t => { t with yieldT := some 1000, yieldAcked := true }, 1000, by decide +kernel⟩,
   ⟨(twn 1 live).modTw fun t => { t with pFlags := 8 }, by decide +kernel⟩,
   ⟨(twn 1 live).modTw fun t => { t with yieldReq := some (rq (.mb 1) 0x82 0 []) }, rq (.mb 1) 0x82 0 [], by decide +kernel⟩,
   ⟨tk (rq (.mb 1) 0x82 0 []) ((twn 1 live).modTw fun t => { t with pRole := 2, pFlags := 2 }), .mb 1, rq (.mb 1) 0x82 0 [],
     admitted_of (by decide +kernel), by decide +kernel⟩,
   ⟨tk (rq (.mb 1) 0x82 0 []) (twn 1 live), .mb 1, rq (.mb 1) 0x82 0 [], admitted_of (by decide +kernel), by decide +kernel⟩⟩

set_option maxRecDepth 100000 in
/-- The hypotheses of each clause of TwinMirror can be met. -/
theorem wit_TwinMirror :
    (∃ (s u : State) (k : Fin 2) (f : Bytes), held s = false ∧ fromPartner s k.val 0x20 f = (true, u) ∧ standsBy u = true ∧
      ownTalker u (be (kBody f) 0 2) (be (kBody f) 4 6) = none) ∧
    (∃ (s u : State) (k : Fin 2) (f : Bytes) (q i : Nat) (r : TxRec), held s = false ∧ fromPartner s k.val 0x20 f = (true, u) ∧
      standsBy u = true ∧ ownTalker u (be (kBody f) 0 2) (be (kBody f) 4 6) = some (q, i) ∧ recOf u q i = some r ∧ r.seq ≠
      BitVec.ofNat 16 (be (kBody f) 2 2) ∧ twinDigest u r = BitVec.ofNat 64 (be (kBody f) 12 8)) ∧
    (∃ (s : State) (h : Fin 4096) (l : BitVec 48) (a : Nat × BitVec 48 × BitVec 16 × BitVec 64), held s = false ∧
      s.tw.assigns.find? (fun a => a.1 == h.val && a.2.1 == l) = some a) ∧
    (∃ (s u : State) (k : Fin 2) (f : Bytes), held s = false ∧ fromPartner s k.val 0x21 f = (true, u) ∧ standsBy u = true ∧ by_
      (kBody f) 0 = 2) ∧
    (∃ (s u : State) (k : Fin 2) (f : Bytes), held s = false ∧ fromPartner s k.val 0x21 f = (true, u) ∧ standsBy u = true ∧ by_
      (kBody f) 0 = 3) ∧
    (∃ (s : State), held s = false ∧ leads s = true) ∧
    (∃ (s : State), held s = false ∧ s.tw.on = true ∧ s.tw.role = 3 ∧ s.tw.snap = false) ∧
    (∃ (s : State) (n : Fin 8) (d : Bytes) (a : BitVec 32), held s = false ∧ leads s = true ∧ (region s n.val).on = true ∧ dmaOk
      s = true ∧ d.length = (region s n.val).size ∧ le d 0 4 % 2 = 0 ∧ le d 0 4 = a.toNat) ∧
    (∃ (s u : State) (k : Fin 2) (f : Bytes), held s = false ∧ fromPartner s k.val 0x22 f = (true, u) ∧ standsBy u = true ∧ by_
      (kBody f) 0 < 8 ∧ (region u (by_ (kBody f) 0)).on = true ∧ be (kBody f) 4 4 = 0 ∧ by_ (kBody f) 1 % 2 = 0) ∧
    (∃ (s u : State) (k : Fin 2) (f : Bytes), held s = false ∧ fromPartner s k.val 0x22 f = (true, u) ∧ standsBy u = true ∧ by_
      (kBody f) 0 < 8 ∧ (region u (by_ (kBody f) 0)).on = true ∧ be (kBody f) 4 4 = 0 ∧ by_ (kBody f) 1 % 2 = 1 ∧ (kBody f).drop
      12 ≠ [] ∧ ((kBody f).drop 12).length = (region u (by_ (kBody f) 0)).size ∧ dmaOk u = true) :=
  ⟨ ⟨twn 2 live, _, 1, kfr 0x20 (zz 20), by decide +kernel, took_eq (by decide +kernel), by decide +kernel⟩,
   ⟨modQue (twn 2 live) 63 fun u => { u with recs := [{ txr .staged with desc := zz 24 ++ [5, 0x80] ++ zz 6, data := zz 60 }] },
     _, 1, kfr 0x20 ([0, 5, 0, 3] ++ zz 8 ++ toBe 8 (twinDigest live
     ({ txr .staged with desc := zz 24 ++ [5, 0x80] ++ zz 6, data := zz 60 })).toNat), 63, 0,
     { txr .staged with desc := zz 24 ++ [5, 0x80] ++ zz 6, data := zz 60 }, by decide +kernel, took_eq (by decide +kernel),
     by decide +kernel⟩,
   ⟨(twn 2 live).modTw fun t => { t with assigns := [(4095, 7, 5, 9)] }, 4095, 7, (4095, 7, 5, 9), by decide +kernel⟩,
   ⟨twn 3 live, _, 1, kfr 0x21 ([2] ++ zz 30), by decide +kernel, took_eq (by decide +kernel), by decide +kernel⟩,
   ⟨twn 3 live, _, 1, kfr 0x21 ([3] ++ zz 30), by decide +kernel, took_eq (by decide +kernel), by decide +kernel⟩,
   ⟨twn 4 live, by decide +kernel⟩,
   ⟨twn 3 live, by decide +kernel⟩,
   ⟨mirrored (twn 1 (link live)), 7, zz 4, 0, by decide +kernel⟩,
   ⟨mirrored (twn 2 live), _, 1, kfr 0x22 ([7] ++ zz 15), by decide +kernel, took_eq (by decide +kernel), by decide +kernel⟩,
   ⟨mirrored (twn 2 (link live)), _, 1, kfr 0x22 ([7, 1] ++ zz 14), by decide +kernel, took_eq (by decide +kernel),
     by decide +kernel⟩⟩

set_option maxRecDepth 100000 in
/-- The hypotheses of each clause of FaultSources can be met. -/
theorem wit_FaultSources :
    (∃ (s : State) (n : Fin 192) (ip : Bool) (e : Nat), held s = false ∧ (srcInfo n.val).isSome = true ∧ (srcOf s n.val).cond =
      false) ∧
    (∃ (s : State) (n : Fin 192), held s = false ∧ isLevel n.val = true ∧ (srcOf s n.val).cond = true) ∧
    (∃ (s : State) (n : Fin 192), held s = false ∧ absentLong s n.val = true) ∧
    (∃ (s : State), (∀ p < 6, clsOf s (80 + 8 * p) ≤ 1)) ∧
    (∃ (s : State) (n : Nat), s.fs.recValid = false) ∧
    (∃ (s : State) (n : Nat), s.fs.recValid = true ∧ s.fs.recCls < clsOf s n) ∧
    (∃ (s : State) (n : Nat), s.fs.recValid = true ∧ s.fs.recInj = false ∧ clsOf s n ≤ s.fs.recCls ∧ (s.fs.recCyc ≠ ci09 s ∨
      clsOf s n < s.fs.recCls ∨ s.fs.recSrc ≤ n)) ∧
    (∃ (s : State) (n : Nat), s.fs.recValid = true ∧ s.fs.recInj = false ∧ s.fs.recCyc = ci09 s ∧ clsOf s n = s.fs.recCls ∧ n <
      s.fs.recSrc) ∧
    (∃ (s : State) (n : Fin 192) (ip : Bool) (e : Nat), held s = true ∧ s.pw.aoRuns = true ∧ aoDetects n.val = true ∧ (srcOf s
      n.val).cond = false) ∧
    (∃ (s : State) (n : Fin 192), s.pw.aoRuns = true ∧ aoDetects n.val = true ∧ isLevel n.val = true ∧ (srcOf s n.val).cond =
      true) ∧
    (∃ (s : State), s.fs.second ≠ s.fs.inverted) ∧
    (∃ (s : State), s.fs.second = s.fs.inverted) :=
  ⟨ ⟨live, 191, false, 0, by decide +kernel⟩,
   ⟨{ live with fs := { srcs := [(14, { cond := true })] } }, 14, by decide +kernel⟩,
   ⟨{ live with fs := { srcs := [(14, { present := true })] } }, 14, by decide +kernel⟩,
   ⟨live, by decide +kernel⟩,
   ⟨live, 191, by decide +kernel⟩,
   ⟨{ live with fs := { recValid := true, recCls := 1 } }, 24, by decide +kernel⟩,
   ⟨{ live with fs := { recValid := true, recCls := 4 } }, 24, by decide +kernel⟩,
   ⟨{ live with fs := { recValid := true, recSrc := 190, recCls := 1 } }, 7, by decide +kernel⟩,
   ⟨{}, 24, false, 0, by decide +kernel⟩,
   ⟨{ fs := { srcs := [(25, { cond := true })] } }, 25, by decide +kernel⟩,
   ⟨{ live with fs := { second := { recSrc := 5 } } }, by decide +kernel⟩,
   ⟨live, by decide +kernel⟩⟩

set_option maxRecDepth 100000 in
/-- The hypotheses of each clause of EventRing can be met. -/
theorem wit_EventRing :
    (∃ (s : State) (n e : Nat) (inj ip : Bool), s.fs.ring.length < 64) ∧
    (∃ (s : State) (n e : Nat) (inj ip : Bool), 64 ≤ s.fs.ring.length) ∧
    (∃ (s : State) (v : Via) (r : Request), held s = false ∧ s.fs.f4 = true ∧ s.mb.taken.find? (fun r => r.via == v &&
      r.opcode.toNat == 0x60 && !r.served) = some r ∧ authCheck s v 0x60 = none ∧ oidCheck 0x60 r.oid.toNat = none ∧ checkOnly r
      = false ∧ r.length = 0) ∧
    (∃ (l : List RingEntry) (x e : RingEntry), (x.cyc ≠ e.cyc ∨ aheadOf09 e.src e.cls x.src x.cls = false)) ∧
    (∃ (l : List RingEntry) (x e : RingEntry), x.cyc = e.cyc ∧ aheadOf09 e.src e.cls x.src x.cls = true) :=
  ⟨ ⟨live, 191, 255, true, true, by decide +kernel⟩,
   ⟨{ live with fs := { ring := List.replicate 64 { src := 0, cls := 1, injected := false, raw := 0, cyc := 0 } } }, 191, 255,
     true, true, by decide +kernel⟩,
   ⟨tk (rq (.mb 1) 0x60 0 []) { live with fs := { f4 := true } }, .mb 1, rq (.mb 1) 0x60 0 [], by decide +kernel⟩,
   ⟨[], ⟨1, 1, false, 0, 0⟩, ⟨2, 2, false, 0, 1⟩, by decide +kernel⟩,
   ⟨[], ⟨1, 1, false, 0, 0⟩, ⟨2, 2, false, 0, 0⟩, by decide +kernel⟩⟩

set_option maxRecDepth 100000 in
/-- The hypotheses of each clause of FaultAndSafetyOrders can be met. -/
theorem wit_FaultAndSafetyOrders :
    (∃ (s : State) (v : Via) (r : Request), Admitted s v 0x60 r ∧ checkOnly r = false ∧ r.length = 0) ∧
    (∃ (s : State) (v : Via) (r : Request), Admitted s v 0x61 r ∧ checkOnly r = false ∧ r.length = 4 ∧ (srcInfo (le r.payload 0
      2)).isSome = true ∧ by_ r.payload 2 = 1 ∧ by_ r.payload 3 = 0 ∧ (srcOf s (le r.payload 0 2)).present = false) ∧
    (∃ (s : State) (v : Via) (r : Request), Admitted s v 0x61 r ∧ checkOnly r = false ∧ r.length = 4 ∧ (srcInfo (le r.payload 0
      2)).isSome = true ∧ by_ r.payload 2 = 1 ∧ by_ r.payload 3 = 0 ∧ (srcOf s (le r.payload 0 2)).present = true) ∧
    (∃ (s : State) (v : Via) (r : Request), Admitted s v 0x62 r ∧ checkOnly r = false ∧ r.length = 4 ∧ (srcInfo (le r.payload 0
      2)).isSome = true ∧ by_ r.payload 2 = 0 ∧ by_ r.payload 3 = 0) ∧
    (∃ (s : State) (v : Via) (r : Request), Admitted s v 0x62 r ∧ checkOnly r = false ∧ r.length = 4 ∧ (srcInfo (le r.payload 0
      2)).isSome = true ∧ by_ r.payload 2 = 1 ∧ by_ r.payload 3 = 0 ∧ (srcOf s (le r.payload 0 2)).hold = true) ∧
    (∃ (s u : State) (v : Via) (r : Request) (p : Bytes) (l : Bool) (d : Nat) (cs : List Nat), Admitted s v 0x63 r ∧ checkOnly r
      = false ∧ r.length = 4 ∧ srcInfo (le r.payload 0 2) = some (l, d, cs) ∧ cs.contains (by_ r.payload 2) = true ∧ by_
      r.payload 3 = 0 ∧ stageOrder (onTaken s r) (acted r) [] none [] = .staged u p) ∧
    (∃ (s : State) (v : Via) (r : Request) (l : Bool) (d : Nat) (cs : List Nat), Admitted s v 0x63 r ∧ checkOnly r = false ∧
      r.length = 4 ∧ srcInfo (le r.payload 0 2) = some (l, d, cs) ∧ cs.contains (by_ r.payload 2) = false) ∧
    (∃ (s : State) (v : Via), held s = false ∧ rankOf v ≤ 3 ∧ opAllowed s v 0x11 = true ∧ safeMay s = true ∧ s.fs.f4 = false ∧
      s.pw.testMode = false) ∧
    (∃ (s : State) (v : Via), held s = false ∧ rankOf v ≤ 3 ∧ opAllowed s v 0x11 = true) ∧
    (∃ (s : State) (p : BitVec 2), held s = false ∧ p ≠ s.pads.safeN) ∧
    (∃ (s : State), held s = false) ∧
    (∃ (s : State), held s = false ∧ (s.se.phase = 2 ∨ s.se.phase = 3)) ∧
    (∃ (s : State), held s = false ∧ (s.se.phase = 2 ∨ s.se.phase = 3) ∧ clsOf s 56 = 2) ∧
    (∃ (s : State) (hz : Nat), held s = false ∧ s.pw.sysPll = true ∧ (hz < 30400000 ∨ 33600000 < hz) ∧ (srcOf s 14).cond = false
      ∧ clsOf s 14 = 4) ∧
    (∃ (s : State) (hz : Nat), held s = false ∧ s.pw.sysPll = true ∧ 30400000 ≤ hz ∧ hz ≤ 33600000) ∧
    (∃ (s : State) (v : Via) (r : Request), Admitted s v 0x61 r ∧ checkOnly r = false ∧ r.length = 4 ∧ (srcInfo (le r.payload 0
      2)).isSome = true ∧ by_ r.payload 2 = 2 ∧ by_ r.payload 3 = 0 ∧ s.fs.recValid = true ∧ (srcOf s s.fs.recSrc).present =
      false ∧ s.fs.recCls ≠ 4) ∧
    (∃ (s : State) (v : Via) (r : Request), Admitted s v 0x61 r ∧ checkOnly r = false ∧ r.length = 4 ∧ (srcInfo (le r.payload 0
      2)).isSome = true ∧ by_ r.payload 2 = 2 ∧ by_ r.payload 3 = 0 ∧ s.fs.recValid = true ∧ ((srcOf s s.fs.recSrc).present =
      true ∨ s.fs.recCls = 4)) ∧
    (∃ (s : State) (v : Via) (r : Request), Admitted s v 0x62 r ∧ checkOnly r = false ∧ r.length = 4 ∧ (srcInfo (le r.payload 0
      2)).isSome = true ∧ by_ r.payload 2 = 1 ∧ by_ r.payload 3 = 0 ∧ (srcOf s (le r.payload 0 2)).hold = false) ∧
    (∃ (s : State) (v : Via) (r : Request), Admitted s v 0x62 r ∧ checkOnly r = false ∧ r.length = 4 ∧ (srcInfo (le r.payload 0
      2)).isSome = true ∧ by_ r.payload 2 = 2 ∧ by_ r.payload 3 = 0 ∧ (srcOf s (le r.payload 0 2)).hold = true) ∧
    (∃ (s : State) (v : Via) (r : Request), Admitted s v 0x62 r ∧ checkOnly r = false ∧ r.length = 4 ∧ (srcInfo (le r.payload 0
      2)).isSome = true ∧ by_ r.payload 2 = 0 ∧ by_ r.payload 3 = 0) ∧
    (∃ (s : State) (v : Via), held s = false ∧ s.fs.f4 = false ∧ rankOf v ≤ 3 ∧ opAllowed s v 0x11 = true) ∧
    (∃ (s : State) (v : Via) (b : Bool), held s = false ∧ (3 < rankOf v ∨ opAllowed s v 0x11 = false ∨ safeMay s = false)) ∧
    (∃ (s : State), safeMay s = true) ∧
    (∃ (s : State), held s = true ∧ s.pw.aoRuns = true) :=
  ⟨ ⟨tk (rq (.mb 1) 0x60 0 []) live, .mb 1, rq (.mb 1) 0x60 0 [], admitted_of (by decide +kernel), by decide +kernel⟩,
   ⟨tk (rq (.mb 1) 0x61 0 [14, 0, 1, 0]) live, .mb 1, rq (.mb 1) 0x61 0 [14, 0, 1, 0], admitted_of (by decide +kernel),
     by decide +kernel⟩,
   ⟨tk (rq (.mb 1) 0x61 0 [14, 0, 1, 0]) ({ live with fs := { srcs := [(14, { present := true })] } }), .mb 1, rq (.mb 1) 0x61 0
     [14, 0, 1, 0], admitted_of (by decide +kernel), by decide +kernel⟩,
   ⟨tk (rq (.mb 1) 0x62 0 [14, 0, 0, 0]) live, .mb 1, rq (.mb 1) 0x62 0 [14, 0, 0, 0], admitted_of (by decide +kernel),
     by decide +kernel⟩,
   ⟨tk (rq (.mb 1) 0x62 0 [14, 0, 1, 0]) ({ live with fs := { srcs := [(14, { hold := true })] } }), .mb 1, rq (.mb 1) 0x62 0
     [14, 0, 1, 0], admitted_of (by decide +kernel), by decide +kernel⟩,
   by refine ⟨tk (rq (.mb 1) 0x63 0 [24, 0, 4, 0]) live, _, .mb 1, rq (.mb 1) 0x63 0 [24, 0, 4, 0], _, false, 4, [4],
     admitted_of (by decide +kernel), ?_, ?_, ?_, ?_, ?_, staged_eq (by decide +kernel)⟩ <;> decide +kernel,
   ⟨tk (rq (.mb 1) 0x63 0 [24, 0, 1, 0]) live, .mb 1, rq (.mb 1) 0x63 0 [24, 0, 1, 0], false, 4, [4], admitted_of
     (by decide +kernel), by decide +kernel⟩,
   ⟨{ timed live with se := { locked := true, phase := 3 } }, .mb 1, by decide +kernel⟩,
   ⟨live, .mb 1, by decide +kernel⟩,
   ⟨live, 3, by decide +kernel⟩,
   ⟨live, by decide +kernel⟩,
   ⟨{ live with se := { phase := 3 } }, by decide +kernel⟩,
   ⟨{ live with se := { phase := 2 } }, by decide +kernel⟩,
   ⟨{ live with pw := { live.pw with sysPll := true } }, 33600001, by decide +kernel⟩,
   ⟨{ live with pw := { live.pw with sysPll := true } }, 33600000, by decide +kernel⟩,
   ⟨tk (rq (.mb 1) 0x61 0 [5, 0, 2, 0]) ({ live with fs := { recValid := true, recCls := 1 } }), .mb 1, rq (.mb 1) 0x61 0 [5, 0,
     2, 0], admitted_of (by decide +kernel), by decide +kernel⟩,
   ⟨tk (rq (.mb 1) 0x61 0 [5, 0, 2, 0]) ({ live with fs := { recValid := true, recCls := 4 } }), .mb 1, rq (.mb 1) 0x61 0 [5, 0,
     2, 0], admitted_of (by decide +kernel), by decide +kernel⟩,
   ⟨tk (rq (.mb 1) 0x62 0 [5, 0, 1, 0]) (live), .mb 1, rq (.mb 1) 0x62 0 [5, 0, 1, 0], admitted_of (by decide +kernel),
     by decide +kernel⟩,
   ⟨tk (rq (.mb 1) 0x62 0 [5, 0, 2, 0]) ({ live with fs := { srcs := [(5, { hold := true })] } }), .mb 1, rq (.mb 1) 0x62 0 [5,
     0, 2, 0], admitted_of (by decide +kernel), by decide +kernel⟩,
   ⟨tk (rq (.mb 1) 0x62 0 [191, 0, 0, 0]) (live), .mb 1, rq (.mb 1) 0x62 0 [191, 0, 0, 0], admitted_of (by decide +kernel),
     by decide +kernel⟩,
   ⟨live, .mb 1, by decide +kernel⟩,
   ⟨live, .mb 1, true, by decide +kernel⟩,
   ⟨{ timed live with se := { locked := true, phase := 3 } }, by decide +kernel⟩,
   ⟨{}, by decide +kernel⟩⟩

set_option maxRecDepth 100000 in
/-- The hypotheses of each clause of GraveReaction can be met. -/
theorem wit_GraveReaction :
    (∃ (s : State), s.fs.f4 = false) ∧
    (∃ (s : State) (p : Nat), s.fs.f4 = false ∧ p < 6) ∧
    (∃ (s : State) (q : Nat) (r : TxRec), s.fs.f4 = false ∧ q < 64 ∧ r ∈ (que (reactF4 s) q).recs) ∧
    (∃ (s : State), s.fs.f4 = false) ∧
    (∃ (s : State), s.fs.f4 = true) :=
  ⟨ ⟨live, by decide +kernel⟩,
   ⟨live, 5, by decide +kernel⟩,
   ⟨modQue (link live) 63 fun u => { u with enable := true, size := 16, recs := [txr .staged] }, 63, ((que (reactF4 (modQue
     (link live) 63 fun u => { u with enable := true, size := 16, recs := [txr .staged] })) 63).recs.head?).getD (txr .read),
     by decide +kernel⟩,
   ⟨live, by decide +kernel⟩,
   ⟨{ live with fs := { f4 := true } }, by decide +kernel⟩⟩

set_option maxRecDepth 100000 in
/-- The hypotheses of each clause of BootAndLock can be met. -/
theorem wit_BootAndLock :
    (∃ (s : State) (k : Nat) (rest : List Nat), held s = false ∧ s.se.phase = 1 ∧ s.se.hostLoad = false ∧ s.se.svcLoad = false ∧
      s.se.tries = k :: rest ∧ s.se.locked = false) ∧
    (∃ (s : State) (k j : Nat) (rest : List Nat), held s = false ∧ s.se.phase = 1 ∧ s.se.hostLoad = false ∧ s.se.svcLoad = false
      ∧ s.se.tries = k :: j :: rest ∧ clsOf s 27 = 1) ∧
    (∃ (s : State) (k : Nat), held s = false ∧ s.se.phase = 1 ∧ s.se.hostLoad = false ∧ s.se.svcLoad = false ∧ s.se.tries = [k]
      ∧ s.se.restart = false ∧ clsOf s 27 = 1) ∧
    (∃ (s : State), held s = false ∧ s.se.svcLoad = true ∧ s.se.image ≠ [] ∧ clsOf s 27 = 1) ∧
    (∃ (s : State), held s = false ∧ s.se.svcLoad = true ∧ s.se.bootSeen = false) ∧
    (∃ (s u : State) (f : Bytes), held s = false ∧ svcTake s f 0x59 4 = (true, u) ∧ u.se.svcLoad = true ∧ be f 18 4 =
      u.se.image.length ∧ be f 16 2 ≤ 1028 ∧ 4 ≤ be f 16 2 ∧ imageCovered (u.se.image ++ sub f 22 (be f 16 2 - 4)) = false) ∧
    (∃ (s u : State) (f : Bytes), held s = false ∧ svcTake s f 0x59 4 = (true, u) ∧ u.se.svcLoad = true ∧ be f 18 4 ≠
      u.se.image.length) ∧
    (∃ (s : State) (f : Bytes), on s 29 = true ∧ blockOn s cSvc = true ∧ 4200 < f.length) ∧
    (∃ (s u : State) (f : Bytes) (k n : Nat), svcTake s f k n = (true, u)) ∧
    (∃ (s : State) (b : Bytes), held s = false ∧ s.se.phase = 2 ∧ s.se.locked = false ∧ protLegal (sub b 0 64) = true ∧
      protTighter (secProt s) (sub b 0 64) = true) ∧
    (∃ (s : State) (b : Bytes), held s = false ∧ (s.se.phase ≠ 2 ∨ s.se.locked = true)) ∧
    (∃ (s : State), held s = false ∧ s.se.phase = 2 ∧ s.se.locked = false ∧ lockBurns s = []) ∧
    (∃ (s : State), held s = false ∧ s.se.phase = 2 ∧ s.se.locked = false ∧ lockBurns s ≠ []) ∧
    (∃ (s : State), held s = false ∧ s.se.phase = 2 ∧ s.se.locked = false ∧ lockBurns s = []) ∧
    (∃ (s : State), held s = false ∧ s.se.phase = 2 ∧ s.se.burns ≠ []) :=
  ⟨ ⟨{ live with se := { phase := 1, tries := [1] } }, 1, [], by decide +kernel⟩,
   ⟨{ live with se := { phase := 1, tries := [0, 1] } }, 0, 1, [], by decide +kernel⟩,
   ⟨{ live with se := { phase := 1, tries := [1] } }, 1, by decide +kernel⟩,
   ⟨{ live with se := { svcLoad := true, image := [1] } }, by decide +kernel⟩,
   ⟨{ live with se := { svcLoad := true } }, by decide +kernel⟩,
   ⟨{ ons [29] live with se := { svcLoad := true } }, _, svc 0x59 (toBe 4 0 ++ zz 511), by decide +kernel, took_eq
     (by decide +kernel), by decide +kernel⟩,
   ⟨{ ons [29] live with se := { svcLoad := true } }, _, svc 0x59 (toBe 4 7 ++ zz 1024), by decide +kernel, took_eq
     (by decide +kernel), by decide +kernel⟩,
   ⟨ons [29] live, zz 4201, by decide +kernel⟩,
   ⟨ons [29] live, _, svc 0x59 (toBe 4 0), 0x59, 4, took_eq (by decide +kernel)⟩,
   ⟨{ live with se := { phase := 2 } }, secProt live, by decide +kernel⟩,
   ⟨{ live with se := { phase := 3 } }, secProt live, by decide +kernel⟩,
   ⟨{ live with se := { phase := 2 } }, by decide +kernel⟩,
   ⟨prot 0 2 { live with se := { phase := 2, rollIndex := 5 } }, by decide +kernel⟩,
   ⟨{ live with se := { phase := 2 } }, by decide +kernel⟩,
   ⟨{ live with se := { phase := 2, burns := [3] } }, by decide +kernel⟩⟩

set_option maxRecDepth 100000 in
/-- The hypotheses of each clause of KeyOrders can be met. -/
theorem wit_KeyOrders :
    (∃ (s : State) (v : Via) (r : Request), Admitted s v 0x90 r ∧ checkOnly r = false ∧ r.length = 64 ∧ keyLoadRange r.payload =
      none ∧ by_ r.payload 3 = 0 ∧ keyLoadRefused s r.via (le r.payload 0 2) false = none ∧ keyAt s (le r.payload 0 2) = none) ∧
    (∃ (s : State) (v : Via) (r : Request), Admitted s v 0x90 r ∧ checkOnly r = false ∧ r.length = 64 ∧ keyLoadRange r.payload =
      none ∧ keyLoadRefused s r.via (le r.payload 0 2) (by_ r.payload 3 == 1) = none ∧ (keyAt s (le r.payload 0 2)).isSome =
      true) ∧
    (∃ (s : State) (v : Via) (r : Request), Admitted s v 0x91 r ∧ checkOnly r = false ∧ r.length = 4 ∧ keySlotOk (le r.payload 0
      2) = true ∧ by_ r.payload 2 = 0 ∧ by_ r.payload 3 = 0 ∧ le r.payload 0 2 ≠ 0xFFFF) ∧
    (∃ (s : State) (v : Via) (r : Request), Admitted s v 0x91 r ∧ checkOnly r = false ∧ r.length = 4 ∧ le r.payload 0 2 = 0xFFFF
      ∧ by_ r.payload 2 = 0 ∧ by_ r.payload 3 = 0) :=
  ⟨ ⟨tk (rq (.mb 1) 0x90 0 (zz 64)) (prot 2 1 live), .mb 1, rq (.mb 1) 0x90 0 (zz 64), admitted_of (by decide +kernel),
     by decide +kernel⟩,
   ⟨tk (rq (.mb 1) 0x90 0 (zz 64)) (prot 2 1 { live with se := { keys := [(0, some key0)] } }), .mb 1, rq (.mb 1) 0x90 0 (zz
     64), admitted_of (by decide +kernel), by decide +kernel⟩,
   ⟨tk (rq (.mb 1) 0x91 0 [7, 2, 0, 0]) (prot 2 1 live), .mb 1, rq (.mb 1) 0x91 0 [7, 2, 0, 0], admitted_of (by decide +kernel),
     by decide +kernel⟩,
   ⟨tk (rq (.mb 1) 0x91 0 [0xFF, 0xFF, 0, 0]) (prot 2 1 live), .mb 1, rq (.mb 1) 0x91 0 [0xFF, 0xFF, 0, 0], admitted_of
     (by decide +kernel), by decide +kernel⟩⟩

set_option maxRecDepth 100000 in
/-- The hypotheses of each clause of Alarms can be met. -/
theorem wit_Alarms :
    (∃ (s : State) (a : Fin 9), s.pw.aoRuns = true ∧ alarmMay s a.val = true) ∧
    (∃ (s : State) (a : Fin 9), (a.val ≠ 8 ∨ s.pw.testMode = false)) ∧
    (∃ (s : State), s.pw.testMode = true) ∧
    (∃ (s : State) (v : Via) (r : Request), Admitted s v 0x92 r ∧ checkOnly r = false ∧ r.length = 0) ∧
    (∃ (s : State) (a : Fin 9), s.pw.aoRuns = true ∧ alarmMay s a.val = false) ∧
    (∃ (s : State), alarmMay s 3 = true) :=
  ⟨ ⟨live, 7, by decide +kernel⟩,
   ⟨live, 8, by decide +kernel⟩,
   ⟨{ live with pw := { live.pw with testMode := true } }, by decide +kernel⟩,
   ⟨tk (rq (.mb 1) 0x92 0 []) live, .mb 1, rq (.mb 1) 0x92 0 [], admitted_of (by decide +kernel), by decide +kernel⟩,
   ⟨live, 3, by decide +kernel⟩,
   ⟨{ prot 0 4 live with se := { locked := true } }, by decide +kernel⟩⟩

set_option maxRecDepth 100000 in
/-- The hypotheses of each clause of Sessions can be met. -/
theorem wit_Sessions :
    (∃ (s u : State) (f : Bytes) (key : Key), held s = false ∧ svcTake s f 0x50 17 = (true, u) ∧ by_ f 18 < 8 ∧ protFlag u 5 =
      true ∧ (sess u (by_ f 18)).state < 2 ∧ keyAt u (0x200 + by_ f 18) = some key) ∧
    (∃ (s u : State) (f : Bytes) (k : Nat), held s = false ∧ svcTake s f 0x52 34 = (true, u) ∧ sessById u 1 (be f 18 2) = some k
      ∧ sub f 20 32 = proofTag (sess u k).sk 0x52 (sess u k).id) ∧
    (∃ (s u : State) (f : Bytes) (k : Nat), held s = false ∧ svcTake s f 0x52 34 = (true, u) ∧ sessById u 1 (be f 18 2) = some k
      ∧ sub f 20 32 ≠ proofTag (sess u k).sk 0x52 (sess u k).id ∧ 2 ≤ ((sess u k).fails.filter fun t => u.clock < t +
      60000000000).length ∧ alarmPolicy u 4 = 0) ∧
    (∃ (s : State) (k : Fin 8), held s = false ∧ (sess s k.val).state = 1) ∧
    (∃ (s u : State) (f : Bytes) (k : Nat), held s = false ∧ svcTake s f 0x54 38 = (true, u) ∧ sessById u 2 (be f 18 2) = some k
      ∧ be f 20 4 = (sess u k).rxSeq ∧ 54 ≤ be f 16 2 ∧ be f 16 2 ≤ 4134 ∧ sub f (be f 16 2 - 14) 32 = sub (hmacSha256 (sess u
      k).sk (sub f 14 (be f 16 2 - 28))) 0 32 ∧ u.hl.fwReady = true) ∧
    (∃ (s u : State) (f : Bytes) (k : Nat), held s = false ∧ svcTake s f 0x54 38 = (true, u) ∧ sessById u 2 (be f 18 2) = some k
      ∧ be f 20 4 ≠ (sess u k).rxSeq ∧ (sess u k).bad < 2) ∧
    (∃ (s u : State) (f : Bytes) (k : Nat), held s = false ∧ svcTake s f 0x55 35 = (true, u) ∧ sessById u 2 (be f 18 2) = some k
      ∧ sub f 21 32 = sub (hmacSha256 (sess u k).sk (sub f 14 7)) 0 32) ∧
    (∃ (s : State) (k : Fin 8), held s = false ∧ (sess s k.val).state = 2) ∧
    (∃ (s : State) (k : Nat) (why : Option Nat), k < 8) ∧
    (∃ (s : State) (k : Fin 8), held s = false ∧ (sess s k.val).state = 3) ∧
    (∃ (s : State) (v k : Nat), k < 8 ∧ ((sess s k).state = 1 ∨ (sess s k).state = 2)) :=
  ⟨ ⟨prot 0 0x20 (session 0), _, svc 0x50 (7 :: zz 16), key0, by decide +kernel, took_eq (by decide +kernel),
     by decide +kernel⟩,
   ⟨session 1, _, sProof, 7, by decide +kernel, took_eq (by decide +kernel), by decide +kernel⟩,
   ⟨(session 1).modSe fun x => { x with sess := [(7, { state := 1, id := 5, sk := zz 32, fails := [0, 0] })] }, _, svc 0x52
     (toBe 2 5 ++ zz 32), 7, by decide +kernel, took_eq (by decide +kernel), by decide +kernel⟩,
   ⟨session 1, 7, by decide +kernel⟩,
   ⟨(session 2).modHl fun h => { h with fwReady := true }, _, sMsg, 7, by decide +kernel, took_eq (by decide +kernel),
     by decide +kernel⟩,
   ⟨session 2, _, svc 0x54 (toBe 2 5 ++ zz 52), 7, by decide +kernel, took_eq (by decide +kernel), by decide +kernel⟩,
   ⟨session 2, _, sClose, 7, by decide +kernel, took_eq (by decide +kernel), by decide +kernel⟩,
   ⟨session 2, 7, by decide +kernel⟩,
   ⟨live, 7, none, by decide +kernel⟩,
   ⟨session 3, 7, by decide +kernel⟩,
   ⟨session 1, 0, 7, by decide +kernel⟩⟩

set_option maxRecDepth 100000 in
/-- The hypotheses of each clause of SensingAndFlash can be met. -/
theorem wit_SensingAndFlash :
    (∃ (s : State) (temps : List (Option Int)) (volts : List Int), held s = false ∧ temps.length = 8 ∧ volts.length = 7) ∧
    (∃ (s : State) (shifts : List Int), held s = false ∧ shifts.length = 4) ∧
    (∃ (s : State) (tj : Int), held s = false ∧ on s 76 = true ∧ hotSensor s = some tj) ∧
    (∃ (s : State), held s = false ∧ on s 76 = true ∧ hotSensor s = none) ∧
    (∃ (s : State), held s = false ∧ on s 76 = false) ∧
    (∃ (s : State), held s = false ∧ on s 76 = true) ∧
    (∃ (s : State), held s = false) ∧
    (∃ (s : State), held s = false ∧ on s 76 = true) ∧
    (∃ (s : State), held s = false ∧ s.mg.logLost = s.mg.lostTold) ∧
    (∃ (s : State), held s = false ∧ s.mg.logLost ≠ s.mg.lostTold) ∧
    (∃ (s : State) (u : Update), held s = false ∧ s.mg.update = some u ∧ u.erased = false) ∧
    (∃ (s : State) (u : Update), held s = false ∧ s.mg.update = some u ∧ u.erased = false) ∧
    (∃ (s : State) (type flags : Nat) (data : Bytes), on s 76 = true ∧ s.mg.log.length = 2048 ∧ s.mg.unflushed = 2048 ∧
      s.mg.lostTold ≤ s.mg.logLost ∧ lossTold (logPut s type flags data) = false) :=
  ⟨ ⟨live, List.replicate 8 (some 500), List.replicate 7 1000, by decide +kernel⟩,
   ⟨live, List.replicate 4 5, by decide +kernel⟩,
   ⟨{ live with mg := { sensors := [(0, { valid := true, reading := 1050 })] } }, 1050, by decide +kernel⟩,
   ⟨live, by decide +kernel⟩,
   ⟨setDom live 76 {}, by decide +kernel⟩,
   ⟨live, by decide +kernel⟩,
   ⟨live, by decide +kernel⟩,
   ⟨live, by decide +kernel⟩,
   ⟨live, by decide +kernel⟩,
   ⟨(ons [76] live).modMg fun m => { m with logLost := 3 }, by decide +kernel⟩,
   ⟨updating { upd with erased := false }, { upd with erased := false }, by decide +kernel⟩,
   ⟨updating { upd with erased := false }, { upd with erased := false }, by decide +kernel⟩,
   ⟨{ live with mg := { log := List.replicate 2048 (0, []), unflushed := 2048 } }, 1, 0, [], by decide +kernel⟩⟩

set_option maxRecDepth 100000 in
/-- The hypotheses of each clause of Readings can be met. -/
theorem wit_Readings :
    (∃ (s : State) (v : Via) (r : Request), Admitted s v 0xB1 r ∧ checkOnly r = false ∧ r.length = 4 ∧ sensorOk (by_ r.payload
      0) = true ∧ by_ r.payload 1 = 0 ∧ by_ r.payload 2 = 0 ∧ by_ r.payload 3 = 0) ∧
    (∃ (s : State) (v : Via) (r : Request), Admitted s v 0xB1 r ∧ checkOnly r = false ∧ r.length = 4 ∧ sensorOk (by_ r.payload
      0) = false) ∧
    (∃ (s : State) (v : Via) (r : Request), Admitted s v 0xB0 r ∧ checkOnly r = false ∧ r.length = 8 ∧ by_ r.payload 6 = 0 ∧ by_
      r.payload 7 = 0 ∧ s.mg.nextRec ≤ le r.payload 0 4) ∧
    (∃ (s : State) (v : Via) (r : Request) (b : Bytes), Admitted s v 0xB0 r ∧ checkOnly r = false ∧ r.length = 8 ∧ by_ r.payload
      6 = 0 ∧ by_ r.payload 7 = 0 ∧ le r.payload 0 4 < s.mg.nextRec ∧ s.mg.oldest ≤ le r.payload 0 4 ∧ le r.payload 4 2 = 1 ∧
      logRecordAt s (le r.payload 0 4) = some b) ∧
    (∃ (s : State) (v : Via) (r : Request), Admitted s v 0xB0 r ∧ checkOnly r = false ∧ r.length = 8 ∧ by_ r.payload 6 = 0 ∧ by_
      r.payload 7 = 0 ∧ le r.payload 0 4 < s.mg.nextRec ∧ le r.payload 0 4 < s.mg.oldest) ∧
    (∃ (s : State) (v : Via) (r : Request) (n : Nat) (ds : List Nat), Admitted s v 0x71 r ∧ checkOnly r = false ∧ r.length = 0 ∧
      counterBlock r.oid.toNat = some (n, ds) ∧ blockOn s r.oid.toNat = true) ∧
    (∃ (s : State) (v : Via) (r : Request) (n : Nat) (ds : List Nat), Admitted s v 0x70 r ∧ checkOnly r = false ∧ r.length = 0 ∧
      sameAgent (BitVec.ofNat 8 (cfg s 0x0B100000 0 1)) v = true ∧ counterBlock r.oid.toNat = some (n, ds) ∧ blockOn s
      r.oid.toNat = true) ∧
    (∃ (s : State) (v : Via) (r : Request), Admitted s v 0x70 r ∧ checkOnly r = false ∧ r.length = 0 ∧ sameAgent (BitVec.ofNat 8
      (cfg s 0x0B100000 0 1)) v = false) :=
  ⟨ ⟨tk (rq (.mb 1) 0xB1 0 [32, 0, 0, 0]) live, .mb 1, rq (.mb 1) 0xB1 0 [32, 0, 0, 0], admitted_of (by decide +kernel),
     by decide +kernel⟩,
   ⟨tk (rq (.mb 1) 0xB1 0 [20, 0, 0, 0]) live, .mb 1, rq (.mb 1) 0xB1 0 [20, 0, 0, 0], admitted_of (by decide +kernel),
     by decide +kernel⟩,
   ⟨tk (rq (.mb 1) 0xB0 0 (toLe 4 5 ++ [1, 0, 0, 0])) live, .mb 1, rq (.mb 1) 0xB0 0 (toLe 4 5 ++ [1, 0, 0, 0]), admitted_of
     (by decide +kernel), by decide +kernel⟩,
   ⟨tk (rq (.mb 1) 0xB0 0 (toLe 4 0 ++ [1, 0, 0, 0])) ({ live with mg := { log := [(0, zz 32)], nextRec := 1 } }), .mb 1, rq
     (.mb 1) 0xB0 0 (toLe 4 0 ++ [1, 0, 0, 0]), zz 32, admitted_of (by decide +kernel), by decide +kernel⟩,
   ⟨tk (rq (.mb 1) 0xB0 0 (toLe 4 0 ++ [1, 0, 0, 0])) ({ live with mg := { log := [(1, zz 32)], nextRec := 2, oldest := 1 } }),
     .mb 1, rq (.mb 1) 0xB0 0 (toLe 4 0 ++ [1, 0, 0, 0]), admitted_of (by decide +kernel), by decide +kernel⟩,
   ⟨tk (rq (.mb 1) 0x71 0x0B230000 []) (ons [49] live), .mb 1, rq (.mb 1) 0x71 0x0B230000 [], 14, [49], admitted_of
     (by decide +kernel), by decide +kernel⟩,
   ⟨tk (rq (.mb 1) 0x70 0x0B230000 []) (objWrite (ons [49] live) 0x0B100000 0 [0x11]), .mb 1, rq (.mb 1) 0x70 0x0B230000 [], 14,
     [49], admitted_of (by decide +kernel), by decide +kernel⟩,
   ⟨tk (rq (.mb 1) 0x70 0x0B230000 []) (objWrite (ons [49] live) 0x0B100000 0 [0x13]), .mb 1, rq (.mb 1) 0x70 0x0B230000 [],
     admitted_of (by decide +kernel), by decide +kernel⟩⟩

set_option maxRecDepth 100000 in
/-- The hypotheses of each clause of FirmwareUpdate can be met. -/
theorem wit_FirmwareUpdate :
    (∃ (s : State) (v : Via) (r : Request), Admitted s v 0xA0 r ∧ checkOnly r = false ∧ r.length = 8 ∧ le r.payload 0 4 ≤ 492032
      ∧ s.se.hostLoad = false ∧ by_ r.payload 4 ≤ 1 ∧ by_ r.payload 5 = 0 ∧ by_ r.payload 6 = 0 ∧ by_ r.payload 7 = 0 ∧ isActive
      s (by_ r.payload 4) = false ∧ s.mg.update = none) ∧
    (∃ (s : State) (v : Via) (r : Request), Admitted s v 0xA0 r ∧ checkOnly r = false ∧ r.length = 8 ∧ le r.payload 0 4 ≤ 492032
      ∧ s.se.hostLoad = false ∧ by_ r.payload 4 ≤ 1 ∧ by_ r.payload 5 = 0 ∧ by_ r.payload 6 = 0 ∧ by_ r.payload 7 = 0 ∧ isActive
      s (by_ r.payload 4) = false ∧ s.mg.update = none) ∧
    (∃ (s : State) (v : Via) (ok : Bool) (r : Request), Admitted s v 0xA0 r ∧ checkOnly r = false ∧ r.length = 8 ∧ le r.payload
      0 4 ≤ 492032 ∧ s.se.hostLoad = false ∧ by_ r.payload 4 ≤ 1 ∧ by_ r.payload 5 = 0 ∧ by_ r.payload 6 = 0 ∧ by_ r.payload 7 =
      0 ∧ isActive s (by_ r.payload 4) = true) ∧
    (∃ (s : State) (v : Via) (ok : Bool) (r : Request), Admitted s v 0xA0 r ∧ checkOnly r = false ∧ r.length = 8 ∧ le r.payload
      0 4 ≤ 492032 ∧ s.se.hostLoad = false ∧ by_ r.payload 4 ≤ 1 ∧ by_ r.payload 5 = 0 ∧ by_ r.payload 6 = 0 ∧ by_ r.payload 7 =
      0 ∧ isActive s (by_ r.payload 4) = false ∧ (∃ u, s.mg.update = some u ∧ sameAgent u.agent v = false)) ∧
    (∃ (s : State) (v : Via) (ok : Bool) (r : Request), Admitted s v 0xA0 r ∧ checkOnly r = false ∧ r.length = 8 ∧ le r.payload
      0 4 ≤ 492032 ∧ s.se.hostLoad = true ∧ by_ r.payload 5 = 0 ∧ by_ r.payload 6 = 0 ∧ by_ r.payload 7 = 0) ∧
    (∃ (s : State) (v : Via) (r : Request) (u : Update), Admitted s v 0xA1 r ∧ checkOnly r = false ∧ 4 ≤ r.length ∧ s.mg.update
      = some u ∧ sameAgent u.agent v = true ∧ le r.payload 0 4 + (r.payload.drop 4).length ≤ u.size ∧ u.erased = true ∧
      u.sectors = 128 ∧ le r.payload 0 4 + (r.payload.drop 4).length ≤ 524288 ∧ s.se.hostLoad = false) ∧
    (∃ (s : State) (v : Via) (r : Request) (u : Update), Admitted s v 0xA1 r ∧ checkOnly r = false ∧ 4 ≤ r.length ∧ s.mg.update
      = some u ∧ sameAgent u.agent v = true ∧ le r.payload 0 4 + (r.payload.drop 4).length ≤ u.size ∧ u.erased = true ∧
      u.sectors = 128 ∧ le r.payload 0 4 + (r.payload.drop 4).length ≤ 524288 ∧ s.se.hostLoad = false) ∧
    (∃ (s : State) (v : Via) (r : Request) (u : Update), Admitted s v 0xA1 r ∧ checkOnly r = false ∧ 4 ≤ r.length ∧ s.mg.update
      = some u ∧ sameAgent u.agent v = true ∧ le r.payload 0 4 + (r.payload.drop 4).length ≤ u.size ∧ u.erased = false ∧
      s.se.hostLoad = false ∧ u.sectors ≤ 128) ∧
    (∃ (s : State) (v : Via) (ok : Bool) (r : Request) (u : Update), Admitted s v 0xA1 r ∧ checkOnly r = false ∧ 4 ≤ r.length ∧
      s.mg.update = some u ∧ sameAgent u.agent v = true ∧ le r.payload 0 4 + (r.payload.drop 4).length ≤ u.size ∧ u.erased =
      true ∧ u.sectors = 128 ∧ le r.payload 0 4 + (r.payload.drop 4).length ≤ 524288 ∧ s.se.hostLoad = true) ∧
    (∃ (s : State) (v : Via) (ok : Bool) (r : Request) (u : Update), Admitted s v 0xA1 r ∧ checkOnly r = false ∧ 4 ≤ r.length ∧
      s.mg.update = some u ∧ sameAgent u.agent v = false) ∧
    (∃ (s w : State) (v : Via) (r : Request) (u : Update), Admitted s v 0xA2 r ∧ checkOnly r = false ∧ r.length = 0 ∧
      s.mg.update = some u ∧ sameAgent u.agent v = true ∧ covered u = true ∧ u.failed = false ∧ s.se.hostLoad = false ∧ w = (if
      u.erased then s else flashErase s (slotAddr u.slot + 4096 * u.sectors) (4096 * (128 - u.sectors)))) ∧
    (∃ (s : State) (v : Via) (r : Request) (u : Update), Admitted s v 0xA2 r ∧ checkOnly r = false ∧ r.length = 0 ∧ s.mg.update
      = some u ∧ sameAgent u.agent v = true ∧ covered u = true ∧ u.erased = true ∧ u.failed = true ∧ s.se.hostLoad = false) ∧
    (∃ (s : State) (v : Via) (r : Request) (u : Update), Admitted s v 0xA2 r ∧ checkOnly r = false ∧ r.length = 0 ∧ s.mg.update
      = some u ∧ sameAgent u.agent v = true ∧ covered u = true ∧ s.se.hostLoad = false) ∧
    (∃ (s : State) (v : Via) (ok : Bool) (r : Request) (u : Update), Admitted s v 0xA2 r ∧ checkOnly r = false ∧ r.length = 0 ∧
      s.mg.update = some u ∧ sameAgent u.agent v = true ∧ covered u = false) ∧
    (∃ (s : State) (v : Via) (ok : Bool) (r : Request) (u : Update), Admitted s v 0xA2 r ∧ checkOnly r = false ∧ r.length = 0 ∧
      s.mg.update = some u ∧ sameAgent u.agent v = true ∧ covered u = true ∧ s.se.hostLoad = true) ∧
    (∃ (s : State) (v : Via) (r : Request), Admitted s v 0xA3 r ∧ checkOnly r = false ∧ r.length = 4 ∧ by_ r.payload 0 ≤ 1 ∧ by_
      r.payload 1 = 0 ∧ by_ r.payload 2 = 0 ∧ by_ r.payload 3 = 0 ∧ slotVerified s (by_ r.payload 0) = true) ∧
    (∃ (s : State) (v : Via) (ok : Bool) (r : Request), Admitted s v 0xA3 r ∧ checkOnly r = false ∧ r.length = 4 ∧ by_ r.payload
      0 ≤ 1 ∧ by_ r.payload 1 = 1 ∧ by_ r.payload 2 = 0 ∧ by_ r.payload 3 = 0 ∧ s.se.phase = 3 ∧ slotVerified s (by_ r.payload
      0) = true ∧ hdrProt (slotHeader s (by_ r.payload 0)) = secProt s) ∧
    (∃ (s : State) (v : Via) (ok : Bool) (r : Request), Admitted s v 0xA3 r ∧ checkOnly r = false ∧ r.length = 4 ∧ by_ r.payload
      0 ≤ 1 ∧ by_ r.payload 1 ≤ 1 ∧ by_ r.payload 2 = 0 ∧ by_ r.payload 3 = 0 ∧ slotVerified s (by_ r.payload 0) = false) ∧
    (∃ (s : State) (v : Via) (ok : Bool) (r : Request), Admitted s v 0xA3 r ∧ checkOnly r = false ∧ r.length = 4 ∧ by_ r.payload
      0 ≤ 1 ∧ by_ r.payload 1 = 1 ∧ by_ r.payload 2 = 0 ∧ by_ r.payload 3 = 0 ∧ slotVerified s (by_ r.payload 0) = true ∧
      hdrProt (slotHeader s (by_ r.payload 0)) ≠ secProt s) :=
  ⟨ ⟨tk (rq (.mb 1) 0xA0 0 (toLe 4 492032 ++ [1, 0, 0, 0])) live, .mb 1, rq (.mb 1) 0xA0 0 (toLe 4 492032 ++ [1, 0, 0, 0]),
     admitted_of (by decide +kernel), by decide +kernel⟩,
   ⟨tk (rq (.mb 1) 0xA0 0 (toLe 4 492032 ++ [1, 0, 0, 0])) live, .mb 1, rq (.mb 1) 0xA0 0 (toLe 4 492032 ++ [1, 0, 0, 0]),
     admitted_of (by decide +kernel), by decide +kernel⟩,
   ⟨tk (rq (.mb 1) 0xA0 0 (toLe 4 492032 ++ [0, 0, 0, 0])) (slots 2), .mb 1, false, rq (.mb 1) 0xA0 0 (toLe 4 492032 ++ [0, 0,
     0, 0]), admitted_of (by decide +kernel), by decide +kernel⟩,
   by refine ⟨tk (rq (.mb 1) 0xA0 0 (toLe 4 492032 ++ [1, 0, 0, 0])) (updating { upd with agent := 0x10 }), .mb 1, false, rq
     (.mb 1) 0xA0 0 (toLe 4 492032 ++ [1, 0, 0, 0]), admitted_of (by decide +kernel), ?_, ?_, ?_, ?_, ?_, ?_, ?_, ?_, ?_,
     ⟨{ upd with agent := 0x10 }, ?_⟩⟩ <;> decide +kernel,
   ⟨tk (rq (.mb 1) 0xA0 0 (toLe 4 492032 ++ [1, 0, 0, 0])) ({ live with se := { hostLoad := true } }), .mb 1, false, rq (.mb 1)
     0xA0 0 (toLe 4 492032 ++ [1, 0, 0, 0]), admitted_of (by decide +kernel), by decide +kernel⟩,
   ⟨tk (rq (.mb 1) 0xA1 0 [2, 0, 0, 0, 9, 9]) (updating upd), .mb 1, rq (.mb 1) 0xA1 0 [2, 0, 0, 0, 9, 9], upd, admitted_of
     (by decide +kernel), by decide +kernel⟩,
   ⟨tk (rq (.mb 1) 0xA1 0 [2, 0, 0, 0, 9, 9]) (updating upd), .mb 1, rq (.mb 1) 0xA1 0 [2, 0, 0, 0, 9, 9], upd, admitted_of
     (by decide +kernel), by decide +kernel⟩,
   ⟨tk (rq (.mb 1) 0xA1 0 [2, 0, 0, 0, 9, 9]) (updating { upd with erased := false, sectors := 1 }), .mb 1, rq (.mb 1) 0xA1 0
     [2, 0, 0, 0, 9, 9], { upd with erased := false, sectors := 1 }, admitted_of (by decide +kernel), by decide +kernel⟩,
   ⟨tk (rq (.mb 1) 0xA1 0 [2, 0, 0, 0, 9, 9]) ({ updating upd with se := { hostLoad := true } }), .mb 1, false, rq (.mb 1) 0xA1
     0 [2, 0, 0, 0, 9, 9], upd, admitted_of (by decide +kernel), by decide +kernel⟩,
   ⟨tk (rq (.mb 1) 0xA1 0 [2, 0, 0, 0, 9, 9]) (updating { upd with agent := 0x10 }), .mb 1, false, rq (.mb 1) 0xA1 0 [2, 0, 0,
     0, 9, 9], { upd with agent := 0x10 }, admitted_of (by decide +kernel), by decide +kernel⟩,
   by refine ⟨tk (rq (.mb 1) 0xA2 0 []) (updating { upd with erased := false, sectors := 9 }), _, .mb 1, rq (.mb 1) 0xA2 0 [],
     { upd with erased := false, sectors := 9 }, admitted_of (by decide +kernel), ?_, ?_, ?_, ?_, ?_, ?_, ?_, rfl⟩
     <;> decide +kernel,
   ⟨tk (rq (.mb 1) 0xA2 0 []) (updating { upd with failed := true }), .mb 1, rq (.mb 1) 0xA2 0 [], { upd with failed := true },
     admitted_of (by decide +kernel), by decide +kernel⟩,
   ⟨tk (rq (.mb 1) 0xA2 0 []) (updating { upd with erased := false, sectors := 9 }), .mb 1, rq (.mb 1) 0xA2 0 [],
     { upd with erased := false, sectors := 9 }, admitted_of (by decide +kernel), by decide +kernel⟩,
   ⟨tk (rq (.mb 1) 0xA2 0 []) (updating { upd with got := [(0, 3)] }), .mb 1, false, rq (.mb 1) 0xA2 0 [],
     { upd with got := [(0, 3)] }, admitted_of (by decide +kernel), by decide +kernel⟩,
   ⟨tk (rq (.mb 1) 0xA2 0 []) ({ updating upd with se := { hostLoad := true } }), .mb 1, false, rq (.mb 1) 0xA2 0 [], upd,
     admitted_of (by decide +kernel), by decide +kernel⟩,
   ⟨tk (rq (.mb 1) 0xA3 0 [1, 0, 0, 0]) (slots 2), .mb 1, rq (.mb 1) 0xA3 0 [1, 0, 0, 0], admitted_of (by decide +kernel),
     by decide +kernel⟩,
   ⟨tk (rq (.mb 1) 0xA3 0 [1, 1, 0, 0]) (flashWrite { slots 2 with se := { phase := 3 } } (slotAddr 1 + 256) (zz 64)), .mb 1,
     false, rq (.mb 1) 0xA3 0 [1, 1, 0, 0], admitted_of (by decide +kernel), by decide +kernel⟩,
   ⟨tk (rq (.mb 1) 0xA3 0 [1, 1, 0, 0]) (slots 1), .mb 1, false, rq (.mb 1) 0xA3 0 [1, 1, 0, 0], admitted_of
     (by decide +kernel), by decide +kernel⟩,
   ⟨tk (rq (.mb 1) 0xA3 0 [1, 1, 0, 0]) (slots 2), .mb 1, false, rq (.mb 1) 0xA3 0 [1, 1, 0, 0], admitted_of
     (by decide +kernel), by decide +kernel⟩⟩

set_option maxRecDepth 100000 in
/-- The hypotheses of each clause of StepRunsFront can be met. -/
theorem wit_StepRunsFront :
    ∃ (s : State), s.pending = [] :=
  ⟨live, by decide +kernel⟩

set_option maxRecDepth 100000 in
/-- The hypotheses of each clause of HeldCoreDiscards can be met. -/
theorem wit_HeldCoreDiscards :
    (∃ (c : Instr) (s : State), alwaysOn c = false ∧ inReset s = true) ∧
    (∃ (c : Instr) (s : State), alwaysOn c = false ∧ resetExit c = false ∧ held s = true) :=
  ⟨ ⟨.ack 0, { live with pw := { live.pw with resetLow := true } }, by decide +kernel⟩,
   ⟨.faultClear ⟨.mb 1, true⟩, {}, by decide +kernel⟩⟩

set_option maxRecDepth 100000 in
/-- The hypotheses of each clause of QueueIsFirstInFirstOut can be met. -/
theorem wit_QueueIsFirstInFirstOut :
    ∃ (s t : State) (c : Instr) (rest : List Instr), s.pending = c :: rest ∧ step s = .next t :=
  ⟨{ pending := [.ack 0] }, _, .ack 0, [], by decide +kernel, rfl⟩

set_option maxRecDepth 100000 in
/-- The hypotheses of each clause of FailSafeKept can be met. -/
theorem wit_FailSafeKept :
    ∃ (s t : State), FailSafe s ∧ step s = .next t :=
  ⟨{ pending := [.ack 0] }, _, by unfold FailSafe; decide +kernel, rfl⟩

set_option maxRecDepth 100000 in
/-- The hypotheses of each clause of CommandFootprint can be met. -/
theorem wit_CommandFootprint :
    ∃ (c : Instr) (s t : State), exec c s = .next t :=
  ⟨.ack 0, live, _, rfl⟩

set_option maxRecDepth 100000 in
/-- The hypotheses of each clause of LatchesHold can be met. -/
theorem wit_LatchesHold :
    ∃ (s t : State), s.pending.head? ≠ some .powerOnReset ∧ s.pending.head? ≠ some .vddAoLoss ∧ step s = .next t :=
  ⟨{ pending := [.ack 0] }, _, by decide +kernel, by decide +kernel, rfl⟩

set_option maxRecDepth 100000 in
/-- The hypotheses of each clause of MemoriesStayCanonical can be met. -/
theorem wit_MemoriesStayCanonical :
    ∃ (s t : State), CanonicalMem s ∧ step s = .next t :=
  ⟨{ pending := [.ack 0] }, _, by unfold CanonicalMem; decide +kernel, rfl⟩

set_option maxRecDepth 100000 in
/-- The hypotheses of each clause of EveryCommandCompletes can be met; most are those of a clause of a command family. -/
theorem wit_EveryCommandCompletes :
    (∃ (s : State), s.pw.aoRuns = true) ∧
    (∃ (s : State), s.pw.aoRuns = true ∧ s.pads.ioDriven = false) ∧
    (∃ (s : State) (rail : Fin 6), s.pw.aoRuns = true ∧ s.pw.resetLow = true) ∧
    (∃ (s : State) (rail : Fin 6), s.pw.aoRuns = true ∧ (srcOf s (6 + rail.val)).cond = false) ∧
    (∃ (s : State), s.pw.aoRuns = true ∧ s.pw.resetLow = false) ∧
    (∃ (s : State), s.pw.aoRuns = true) ∧
    (∃ (s : State) (id : BitVec 3) (src : BitVec 2), inReset s = false ∧ s.pw.strapped = false) ∧
    (∃ (s : State) (hz m : Nat), inReset s = false ∧ s.pw.strapped = true ∧ s.pw.refMHz = 0 ∧ m ∈ [10, 20, 25] ∧ ((hz : Int) - m
      * 1000000).natAbs ≤ m * 500) ∧
    (∃ (s : State), inReset s = false ∧ s.pw.strapped = true ∧ s.pw.refMHz ≠ 0 ∧ s.se.phase = 0 ∧ s.pw.bootSrc = 0) ∧
    (∃ (s : State), held s = false) ∧
    (∃ (s : State), inReset s = false ∧ s.pads.xtalOut = true) ∧
    (∃ (s : State), held s = false ∧ s.pw.sysPll = true) ∧
    (∃ (s : State), inReset s = false ∧ s.pw.refMHz ≠ 0) ∧
    (∃ (s : State) (hz m : Nat), inReset s = false ∧ s.pw.refLost = true ∧ m ∈ [10, 20, 25] ∧ ((hz : Int) - m * 1000000).natAbs
      ≤ m * 500) ∧
    (∃ (s : State), held s = false ∧ s.pw.ucieReady = true ∧ s.hl.training = false) ∧
    (∃ (s : State) (r : Fin 4) (half : Fin 3), held s = false ∧ s.hl.training = true ∧ s.hl.leaving = false) ∧
    (∃ (s : State) (f : Bytes), held s = false ∧ s.hl.trained = true ∧ s.hl.waiting = [] ∧ s.hl.nakDue = false ∧ s.hl.leaving =
      false ∧ s.hl.rxBad = false ∧ le f 252 4 = crc32c (f.take 252) ∧ le f 0 2 / 4096 = 0 ∧ bitN (le f 248 2) 15 = false) ∧
    (∃ (s : State) (a : HeldFlit) (l : List HeldFlit), held s = false ∧ s.hl.trained = true ∧ s.hl.waiting = [] ∧ s.hl.nakDue =
      false ∧ s.hl.leaving = false ∧ s.hl.replay = a :: l ∧ (∀ x ∈ a :: l, x.seq ≠ a.seq - 1 ∧ x.replays < 3)) ∧
    (∃ (s : State), held s = false ∧ clsOf s 52 = 1 ∧ s.hl.asked = true) ∧
    (∃ (s : State), held s = false ∧ s.hl.trained = true) ∧
    (∃ (s : State), held s = false ∧ clsOf s 52 = 1 ∧ s.hl.trained = true) ∧
    (∃ (s : State), held s = false ∧ clsOf s 52 = 1 ∧ s.hl.trained = true) ∧
    (∃ (s : State) (m : WinMsg), held s = false ∧ s.hl.trained = true ∧ winMalformed true m = false ∧ m.attr.getLsbD 0 = false ∧
      winLegal m = true ∧ winHeld s m = false) ∧
    (∃ (s : State) (m : WinMsg), held s = false ∧ s.hl.trained = true ∧ winMalformed false m = false ∧ m.attr.getLsbD 0 = false
      ∧ winLegal m = true ∧ winHeld s m = false) ∧
    (∃ (s : State) (c : CplMsg) (d : Dmrd), held s = false ∧ s.hl.trained = true ∧ s.hl.waiting = [] ∧ s.hl.nakDue = false ∧
      cplReserved c = false ∧ c.length ≠ 0 ∧ c.length.toNat ≤ 256 ∧ c.status = 0 ∧ c.attr.getLsbD 0 = false ∧ s.hl.dmrds.find?
      (·.tag == c.tag.toNat) = some d ∧ pieceOk d c = true ∧ d.got.length + c.data.length ≠ d.len) ∧
    (∃ (s : State) (c : CplMsg) (d : Dmrd) (q idx : Nat), held s = false ∧ s.hl.trained = true ∧ s.hl.waiting = [] ∧ cplReserved
      c = false ∧ c.length = 0 ∧ clsOf s 49 ≤ 1 ∧ s.hl.dmrds.find? (·.tag == c.tag.toNat) = some d ∧ d.use = .txDesc q idx ∧
      (que s q).enable = true) ∧
    (∃ (s : State) (tag : BitVec 10) (d : Dmrd) (q idx : Nat), held s = false ∧ clsOf s 50 ≤ 1 ∧ s.hl.dmrds.find? (·.tag ==
      tag.toNat) = some d ∧ d.use = .rxDesc q idx ∧ (que s (64 + q)).enable = true) ∧
    (∃ (s : State), held s = false ∧ s.hl.trained = true ∧ s.hl.leaving = false ∧ (s.hl.state = lsActive ∨ s.hl.state =
      lsQuiescing)) ∧
    (∃ (s : State) (v : BitVec 32), held s = false ∧ s.hl.state ≠ lsDetached ∧ s.hl.waiting = [] ∧ s.hl.nakDue = false) ∧
    (∃ (s : State) (v : BitVec 32), held s = false ∧ v.toNat / 128 % 32 ≠ 0) ∧
    (∃ (s : State) (w : Fin 4) (v : BitVec 32), held s = false) ∧
    (∃ (s : State) (w : Fin 4) (v : BitVec 32), held s = false ∧ s.hl.evAgain = 0) ∧
    (∃ (s : State) (vec : Fin 128), held s = false ∧ s.hl.evWait.getLsbD vec.val = true) ∧
    (∃ (s : State) (q : Fin 64) (v : BitVec 32), held s = false ∧ queuesOpen s = true ∧ ((que s q.val).enable = false ∨ v.toNat
      % 4096 < (que s q.val).size.toNat)) ∧
    (∃ (s : State) (q : Fin 64) (v : BitVec 32), held s = false ∧ queuesOpen s = true ∧ ((que s (64 + q.val)).enable = false ∨
      v.toNat % 4096 < (que s (64 + q.val)).size.toNat)) ∧
    (∃ (s : State) (d : Dir) (q : Fin 64) (v : BitVec 32), held s = false ∧ queuesOpen s = true ∧ (que s (queIx d q.val)).enable
      = false ∧ (que s (queIx d q.val)).stamped = false ∧ v.getLsbD 31 = true ∧ v.getLsbD 30 = false ∧ (que s (queIx d
      q.val)).base.toNat % 4096 = 0 ∧ (que s (queIx d q.val)).size.toNat ∈ [16, 32, 64, 128, 256, 512, 1024, 2048, 4096] ∧ (que
      s (queIx d q.val)).tail.toNat < (que s (queIx d q.val)).size.toNat) ∧
    (∃ (s : State) (d : Dir) (q : Fin 64) (v : BitVec 32), held s = false ∧ queuesOpen s = true ∧ (que s (queIx d q.val)).enable
      = true ∧ v.getLsbD 31 = false) ∧
    (∃ (s : State) (d : Dir) (q : Fin 64), held s = false ∧ (que s (queIx d q.val)).closing = true ∧ reads s (queIx d q.val) =
      false ∧ anyStarted s (queIx d q.val) = false ∧ (que s (queIx d q.val)).recs = [] ∧ (que s (queIx d q.val)).wbs = []) ∧
    (∃ (s : State) (d : Dir) (q : Fin 64) (v : BitVec 32), held s = false ∧ queuesOpen s = true ∧ (que s (queIx d q.val)).enable
      = false ∧ (que s (queIx d q.val)).stamped = false ∧ v.getLsbD 31 = false ∧ v.getLsbD 30 = true ∧ stampedCount s (64 ≤
      queIx d q.val) < 8) ∧
    (∃ (s : State) (q : Fin 64) (tag : Nat), held s = false ∧ fetches s q.val = true ∧ findTag s 1024 s.hl.nextTag = some tag) ∧
    (∃ (s : State) (q : Fin 64) (r : TxRec) (p : Fin 6) (n tag : Nat), held s = false ∧ dmaOk s = true ∧ s.hl.state = lsActive ∧
      s.fs.f4 = false ∧ (que s q.val).enable = true ∧ (que s q.val).stopped = false ∧ (que s q.val).closing = false ∧ (que s
      q.val).recs = [r] ∧ r.phase = .read ∧ r.dest = none ∧ ones r.todo = [p.val] ∧ downFor s p.val = false ∧ descLaunch r.desc
      = false ∧ cellsFit s r [p.val] = true ∧ pieces (maxRead s) (le r.desc 0 8) (descLen r.desc) = [(0, n)] ∧ 4 ≤ n ∧ findTag s
      1024 s.hl.nextTag = some tag) ∧
    (∃ (s : State) (q : Fin 64) (tag : Nat), held s = false ∧ fetches s (64 + q.val) = true ∧ findTag s 1024 s.hl.nextTag = some
      tag) ∧
    (∃ (s : State) (q : Fin 64) (r : TxRec) (l : List TxRec) (v : BitVec 8), held s = false ∧ dmaOk s = true ∧ postedOk s = true
      ∧ (que s q.val).recs = r :: l ∧ r.phase = .done v ∧ (que s q.val).stamped = false) ∧
    (∃ (s : State) (q : Fin 64) (w : RxWb) (l : List RxWb), held s = false ∧ dmaOk s = true ∧ postedOk s = true ∧ s.fs.f4 =
      false ∧ (que s (64 + q.val)).wbs = w :: l) ∧
    (∃ (s : State) (v : Via) (r : Request), Admitted s v 0xC0 r ∧ checkOnly r = false ∧ r.length = 0 ∧ s.hl.state = lsActive) ∧
    (∃ (s : State), held s = false ∧ s.hl.state = lsQuiescing ∧ s.hl.dmrds = [] ∧ s.hl.leaving = false ∧ s.hl.trained = true ∧
      (∀ x ∈ s.hl.waiting, dmaHeld s.hl x.msg = true ∧ x.cls ≠ .linkMgmt) ∧ s.hl.nakDue = false ∧ 1 ≤ s.hl.crLM ∧
      s.hl.replay.length < 64 ∧ (s.hl.quiesce = true ∨ (s.hl.detachVia = none ∧ s.hl.evMask.getLsbD 126 = true ∧ ∀ i < 128, (que
      s i).recs = [] ∧ (que s i).wbs = []))) ∧
    (∃ (s : State) (v : Via) (r : Request), Admitted s v 0xC1 r ∧ checkOnly r = false ∧ r.length = 0 ∧ s.hl.state = lsDetached ∧
      s.hl.trained = true) ∧
    (∃ (s : State), held s = false ∧ s.hl.state = lsDetached ∧ s.hl.detach.toNat / 65536 ≠ 0) ∧
    (∃ (s : State) (n : Fin 4), held s = false ∧ ((mbox s n.val).state = 1 ∨ (mbox s n.val).state = 4)) ∧
    (∃ (s : State) (n : Fin 4), held s = false ∧ (mbox s n.val).state = 4) ∧
    (∃ (s : State) (n : Fin 4), held s = false ∧ (mbox s n.val).state = 2) ∧
    (∃ (s : State), held s = false ∧ (mbox s 0).state = 2) ∧
    (∃ (s : State), held s = false ∧ clsOf s 57 = 1) ∧
    (∃ (s : State) (v : Via) (r : Request), Admitted s v 0x01 r ∧ checkOnly r = false ∧ r.length ≤ 64) ∧
    (∃ (s : State) (v : Via) (r : Request), Admitted s v 0x02 r ∧ checkOnly r = false ∧ r.length = 0 ∧ s.se.hostLoad = false) ∧
    (∃ (s : State) (v : Via) (r : Request) (d : Desc), Admitted s v 0x10 r ∧ checkOnly r = false ∧ descOf r.oid.toNat = some d ∧
      r.oid.toNat % 16 ≠ 15 ∧ r.length = 4 ∧ by_ r.payload 0 ≤ 1 ∧ by_ r.payload 1 = 0 ∧ by_ r.payload 2 = 0 ∧ by_ r.payload 3 =
      0 ∧ needsMet s r.oid.toNat d 0 1 = true) ∧
    (∃ (s : State) (v : Via) (r : Request) (d : Desc), Admitted s v 0x11 r ∧ checkOnly r = false ∧ descOf r.oid.toNat = some d ∧
      d.kind = .immediate ∧ r.oid.toNat / 0x10000 = 0x0300 ∧ 8 ≤ r.length ∧ r.length ≤ 132 ∧ wordsOutside d r.payload = false ∧
      needsMet s r.oid.toNat d 0 1 = true ∧ imageIllegal r.oid.toNat d r.payload (mergeImage d r.payload (objRead s (physOid s
      r.oid.toNat) 0 d.size)) = none) ∧
    (∃ (s : State) (v : Via) (r : Request) (d : Desc), Admitted s v 0x20 r ∧ checkOnly r = false ∧ descOf r.oid.toNat = some d ∧
      d.kind = .immediate ∧ r.oid.toNat / 0x10000 ≠ 0x0803 ∧ le r.payload 0 4 + le r.payload 4 2 ≤ d.entries ∧ 0 < le r.payload
      4 2 ∧ le r.payload 6 2 = d.size ∧ r.length = 8 + le r.payload 4 2 * d.size ∧ entriesIllegal (onTaken s r) r.oid.toNat d
      ((List.range (le r.payload 4 2)).map fun k => sub r.payload (8 + k * d.size) d.size) = none ∧ needsMet s r.oid.toNat d (le
      r.payload 0 4) (le r.payload 4 2) = true ∧ tableRefusal (onTaken s r) (acted r) r.oid.toNat (le r.payload 0 4)
      ((List.range (le r.payload 4 2)).map fun k => sub r.payload (8 + k * d.size) d.size) false = none) ∧
    (∃ (s : State) (v : Via) (r : Request) (d : Desc), Admitted s v 0x21 r ∧ checkOnly r = false ∧ descOf r.oid.toNat = some d ∧
      r.length = 8 ∧ le r.payload 0 4 < d.entries ∧ by_ r.payload 6 ≤ 1 ∧ by_ r.payload 7 = 0 ∧ needsMet s r.oid.toNat d (le
      r.payload 0 4) (min (le r.payload 4 2) (min (d.entries - le r.payload 0 4) (4076 / d.size))) = true) ∧
    (∃ (s : State) (v : Via) (r : Request) (d : Desc), Admitted s v 0x22 r ∧ checkOnly r = false ∧ descOf r.oid.toNat = some d ∧
      d.kind = .immediate ∧ r.oid.toNat / 0x10000 ≠ 0x0803 ∧ r.length = 8 ∧ le r.payload 0 4 < d.entries ∧ le r.payload 4 4 = 0
      ∧ needsMet s r.oid.toNat d (le r.payload 0 4) (d.entries - le r.payload 0 4) = true ∧ tableRefusal (onTaken s r) (acted r)
      r.oid.toNat (le r.payload 0 4) (List.replicate (d.entries - le r.payload 0 4) d.reset) true = none) ∧
    (∃ (s : State) (v : Via) (r : Request), Admitted s v 0x30 r ∧ checkOnly r = false ∧ r.length = 4 ∧ by_ r.payload 0 ≤ 7 ∧ by_
      r.payload 1 = 0 ∧ by_ r.payload 2 = 0 ∧ by_ r.payload 3 = 0 ∧ modeFail (onTaken s r) [] (by_ r.payload 0) true = none ∧
      s.mb.stage = [] ∧ s.mb.frozen = [] ∧ s.sk.config = 0) ∧
    (∃ (s : State) (v : Via) (r : Request) (b : Nat), Admitted s v 0x31 r ∧ checkOnly r = false ∧ r.length = 8 ∧ s.mb.boundary =
      none ∧ timeOk s = true ∧ chooseBoundary s r.via (le r.payload 0 8) = some b ∧ periodFits s s.mb.stage (commitPeriod s) =
      true ∧ s.sk.config = 0 ∧ modeOf s.mb.stage = none ∧ freezeBad s s.mb.stage = false ∧ freezeDomains s s.mb.stage = []) ∧
    (∃ (s : State) (v : Via) (r : Request), Admitted s v 0x32 r ∧ checkOnly r = false ∧ r.length = 8 ∧ by_ r.payload 0 ≤ 2 ∧ by_
      r.payload 1 = 0 ∧ by_ r.payload 2 = 0 ∧ by_ r.payload 3 = 0 ∧ (s.mb.stage.filter (abortSel r)) ≠ []) ∧
    (∃ (s : State) (v : Via) (r : Request), Admitted s v 0x38 r ∧ checkOnly r = false ∧ r.length = 0 ∧ on s 62 = true ∧
      s.rx.draining = none ∧ shadowComplete s = true) ∧
    (∃ (s : State) (v : Via) (r : Request), Admitted s v 0x39 r ∧ checkOnly r = false ∧ r.length = 0) ∧
    (∃ (s : State) (v : Via) (r : Request) (d : Nat), Admitted s v 0x40 r ∧ v ≠ .boot ∧ checkOnly r = false ∧ r.length = 4 ∧ by_
      r.payload 0 = d ∧ by_ r.payload 1 = 0 ∧ by_ r.payload 2 = 0 ∧ by_ r.payload 3 = 0 ∧ d ≤ 77 ∧ enabled s d = false ∧
      s.ld.moving = none ∧ depsMet (enabled s) d = true ∧ pinConflict s d = none ∧ s.ld.exceeds = false ∧ cost d ≤ headroom s) ∧
    (∃ (s : State) (d : Fin 78) (v : Via), held s = false ∧ s.ld.moving = some (d.val, .order v) ∧ (dom s d.val).state = 1) ∧
    (∃ (s : State) (d : Fin 78) (v : Via), held s = false ∧ s.ld.moving = some (d.val, .order v) ∧ (dom s d.val).state = 1 ∧
      s.ld.plan = [] ∧ s.mb.taken = [] ∧ clsOf s 64 = 1 ∧ clsOf s 65 = 1) ∧
    (∃ (s : State) (v : Via) (r : Request) (d : Nat), Admitted s v 0x41 r ∧ checkOnly r = false ∧ r.length = 4 ∧ by_ r.payload 0
      = d ∧ by_ r.payload 1 = 0 ∧ by_ r.payload 2 = 0 ∧ by_ r.payload 3 = 0 ∧ d ≤ 77 ∧ (d < 65 ∨ 68 < d) ∧ (dom s d).state ≠ 0 ∧
      neverOff d = false ∧ rankOf r.via ≤ (dom s d).rank ∧ s.ld.moving = none ∧ needed s d = false ∧ disableConflict s d = none)
      ∧
    (∃ (s : State) (d : Fin 78) (v : Via), held s = false ∧ s.ld.moving = some (d.val, .order v) ∧ (dom s d.val).state = 3) ∧
    (∃ (s : State) (v : Via) (r : Request), Admitted s v 0x42 r ∧ checkOnly r = false ∧ r.length = 0) ∧
    (∃ (s : State), held s = false ∧ clsOf s 65 = 1 ∧ hottest s ≤ 1050) ∧
    (∃ (s : State) (d : Nat), held s = false ∧ s.ld.moving = none ∧ s.ld.exceeds = true ∧ (srcOf s 65).cond = true ∧ ceiling s <
      chargedTotal s ∧ shedNext s = some d) ∧
    (∃ (s : State) (i : Fin 16) (u : Fin 32), held s = false ∧ u.val = 16 + i.val ∧ (doz s u.val).status = 0 ∧ (dom s (30 +
      i.val)).state = 2 ∧ s.ld.moving = none ∧ s.ld.plan = []) ∧
    (∃ (s : State) (u : Fin 32), held s = false ∧ dozeUnit u.val = true ∧ (doz s u.val).status = 2 ∧ s.fs.f4 = false) ∧
    (∃ (s : State) (p : Fin 6), held s = false ∧ (doz s p.val).status = 2 ∧ on s (18 + p.val) = true) ∧
    (∃ (s : State) (i : Fin 16), held s = false ∧ (doz s (16 + i.val)).status = 2) ∧
    (∃ (s : State) (v : Via) (r : Request), Admitted s v 0x50 r ∧ checkOnly r = false ∧ r.length = 0 ∧ timeOk s = true) ∧
    (∃ (s : State) (v : Via) (r : Request), Admitted s v 0x51 r ∧ checkOnly r = false ∧ r.length = 24 ∧ by_ r.payload 0 = 1 ∧ (∀
      o ∈ [1, 2, 3, 18, 19, 20, 21, 22, 23], by_ r.payload o = 0) ∧ mayAdjust s r.via = true ∧ on s 68 = true ∧ s.tm.pending =
      none ∧ (sgn 32 (le r.payload 4 4) - rateNow s).natAbs ≤ rateStepLimit s) ∧
    (∃ (s : State) (a : Adjust), held s = false ∧ s.tm.pending = some a ∧ timeOk s = true ∧ atPoint s a = true ∧ a.permit =
      false ∧ a.step = none) ∧
    (∃ (s : State) (v : Via), held s = false ∧ on s 68 = true ∧ opAllowed s v 0x11 = true ∧ rankOf v ≤ 3) ∧
    (∃ (s : State), held s = false ∧ s.tm.permit = 1) ∧
    (∃ (s : State) (ch : Fin 3) (vals : BitVec 8), held s = false ∧ timeOk s = true ∧ (voters s).length = 3 ∧ clsOf s (32 +
      ch.val) = 2 ∧ (chan s ch.val).times = []) ∧
    (∃ (s : State), held s = false ∧ on s 68 = true ∧ s.tm.lostVote = false ∧ clsOf s 35 = 4) ∧
    (∃ (s : State) (p : Fin 3) (o : BitVec 80), held s = false ∧ timeOk s = true ∧ servoRuns s = false ∧ (plane s p.val).settle
      = 0) ∧
    (∃ (s : State) (p : Fin 3) (id : BitVec 64), held s = false ∧ on s 68 = true ∧ (plane s p.val).gm ≠ id ∧ clsOf s 38 ≤ 1 ∧
      clsOf s 41 ≤ 1 ∧ clsOf s 42 ≤ 1) ∧
    (∃ (s : State) (p : Fin 3), held s = false ∧ on s 68 = true ∧ clsOf s 38 ≤ 1 ∧ clsOf s 42 ≤ 1) ∧
    (∃ (s : State), held s = false ∧ timeOk s = true ∧ s.tm.state = 0 ∧ servoOwner s = 1) ∧
    (∃ (s : State), held s = false ∧ timeOk s = true ∧ s.tm.state = 1 ∧ clsOf s 43 ≤ 1) ∧
    (∃ (s : State) (v : Via) (r : Request) (n : Nat), Admitted s v 0x52 r ∧ checkOnly r = false ∧ r.length = 24 ∧ by_ r.payload
      0 = n ∧ n ≤ 7 ∧ by_ r.payload 1 = 1 ∧ by_ r.payload 2 ≤ 1 ∧ (∀ o ∈ [3, 14, 15], by_ r.payload o = 0) ∧ 100 ≤ le r.payload
      16 4 ∧ le r.payload 16 4 ≤ 1000000000 ∧ 4 ≤ le r.payload 20 4 ∧ le r.payload 20 4 ≤ 1000000000 ∧ on s 68 = true ∧ on s 72
      = true ∧ now80 s + 10000 * 65536 ≤ le r.payload 4 10 ∧ compRefusal (onTaken s r) (oTout n) 1 = none ∧ s.fs.f4 = false) ∧
    (∃ (s : State) (n : Fin 8), held s = false ∧ on s 72 = true ∧ timeOk s = true ∧ s.fs.f4 = false ∧ (tout s n.val).mode = 2 ∧
      (tout s n.val).state ≠ 3 ∧ (tout s n.val).last = 0) ∧
    (∃ (s : State) (v : Via) (n : Fin 4), held s = false ∧ on s 68 = true ∧ on s 72 = true ∧ opAllowed s v 0x11 = true) ∧
    (∃ (s : State) (n : Fin 4) (rising : Bool) (sub : BitVec 7), held s = false ∧ on s 72 = true ∧ timeOk s = true ∧ capOn s
      n.val = true ∧ (cap s n.val).shut = false ∧ bitN (cfg s (oTcap n.val) 1 1) (if rising then 0 else 1) = true ∧ capWindowed
      s n.val = false ∧ (cap s n.val).last = 0 ∧ (cap s n.val).stamps.length < 16) ∧
    (∃ (s : State) (n : Fin 4), held s = false ∧ on s 72 = true ∧ capOn s n.val = true ∧ capWindowed s n.val = true) ∧
    (∃ (s : State) (v : Via) (r : Request) (n : Nat), Admitted s v 0x53 r ∧ checkOnly r = false ∧ r.length = 4 ∧ by_ r.payload 0
      = n ∧ n ≤ 3 ∧ by_ r.payload 1 = 0 ∧ by_ r.payload 2 = 0 ∧ by_ r.payload 3 = 0 ∧ on s 68 = true ∧ on s 72 = true ∧ capOn s
      n = true) ∧
    (∃ (s : State) (v : Via) (r : Request) (d : Nat), Admitted s v 0x58 r ∧ checkOnly r = false ∧ r.length = 4 ∧ calDomain (by_
      r.payload 0) = some d ∧ (∀ o ∈ [1, 2, 3], by_ r.payload o = 0) ∧ on s d = true) ∧
    (∃ (s : State) (v : Via) (r : Request) (d : Nat), Admitted s v 0x59 r ∧ checkOnly r = false ∧ r.length = 4 ∧ calDomain (by_
      r.payload 0) = some d ∧ on s d = true ∧ by_ r.payload 1 ≤ 2 ∧ 5 ≤ by_ r.payload 2 ∧ by_ r.payload 2 ≤ 100 ∧ by_ r.payload
      3 = 0 ∧ by_ r.payload 0 < 32 ∧ (by_ r.payload 1 = 1 → ∀ pt ∈ ptsOf (by_ r.payload 0), (calPt s pt).due.getLsbD 1 = false))
      ∧
    (∃ (s : State) (conv : Fin 8) (ok : Bool), held s = false ∧ on s 70 = true) ∧
    (∃ (s : State) (pt : Fin 49), held s = false ∧ on s 70 = true ∧ on s (ptDomain pt.val) = true ∧ (calPt s pt.val).running =
      false ∧ (ptDue s pt.val).isSome = true ∧ (pt.val = 48 ∨ (calPort s (calInst pt.val)).suspended = false) ∧ aheadOf s pt.val
      < freeConv s) ∧
    (∃ (s : State) (pt : Fin 49) (xs : List Int), held s = false ∧ (calPt s pt.val).running = true ∧ xs.length = 64 ∧ (central
      xs).getLastD 0 - (central xs).headD 0 ≤ 40 ∧ (calPt s pt.val).held = none ∧ (calPt s pt.val).delay = none ∧ 16 ≤ pt.val ∧
      pt.val ≠ 48) ∧
    (∃ (s : State) (p : Fin 6) (gbps : Nat), held s = false ∧ on s p.val = true ∧ on s (6 + p.val) = true ∧ s.pw.testMode =
      false ∧ cfg s (oMerge p.val) 0 1 = 0) ∧
    (∃ (s : State) (pt : Fin 49), held s = false ∧ ptUp s pt.val = true ∧ (calPt s pt.val).stale = false ∧ ptOld s pt.val = true
      ∧ pt.val < 12) ∧
    (∃ (s : State) (p : Fin 6), held s = false ∧ cfg s (oidOf 0x0300 p.val 0) 0 1 ≠ 0 ∧ (calPort s p.val).suspended = false ∧ on
      s (6 + p.val) = true ∧ noBrim s p.val = false ∧ probeFits s p.val = true ∧ probeRests s p.val = false ∧ (∀ b ∈ (calPort s
      p.val).out, b.told = true ∨ s.clock ≤ b.at_ + 1000000) ∧ (calPort s p.val).probes < 64 ∧ secOn s p.val = false) ∧
    (∃ (s : State) (p : Fin 6) (f : Bytes), held s = false ∧ on s (6 + p.val) = true ∧ (prt s p.val).up = true ∧ isKin f 0x10 =
      true ∧ secRx s p.val = false) ∧
    (∃ (s : State) (p : Fin 6) (f : Bytes) (t2 : BitVec 48) (at_ : Nat), held s = false ∧ (calPort s p.val).echo = some (f, t2,
      at_) ∧ s.clock ≤ at_ + 1000000 ∧ echoFits s p.val = true ∧ secOn s p.val = false) ∧
    (∃ (s : State) (p : Fin 6) (f : Bytes) (b : Probe), held s = false ∧ on s (6 + p.val) = true ∧ (prt s p.val).up = true ∧
      isKin f 0x11 = true ∧ secRx s p.val = false ∧ (calPort s p.val).suspended = false ∧ ((calPort s p.val).out.find? fun b =>
      be f 16 2 == b.seq.toNat && BitVec.ofNat 48 (be f 20 6) == b.t1) = some b ∧ b.locked = true ∧ bitN (by_ f 18) 7 = true ∧
      bitN (by_ f 18) 4 = false ∧ steppedSince s b.at_ = false ∧ (BitVec.ofNat 48 (be f 32 6) - BitVec.ofNat 48 (be f 26
      6)).toNat ≤ 65536000000 ∧ (calPort s p.val).pairs.length < 15) ∧
    (∃ (s : State) (p : Fin 6) (f : EgFrame), held s = false ∧ (prt s p.val).line = none ∧ portSilent s p.val = false ∧ (prt s
      p.val).up = true ∧ on s (6 + p.val) = true ∧ (prt s p.val).smds = [] ∧ secOn s p.val = false ∧ pick (keepBack (cbsUpdate s
      p.val) p.val) p.val (nowPs s) = .new f) ∧
    (∃ (s : State) (p : Fin 6) (l : OnLine), held s = false ∧ (prt s p.val).line = some l ∧ l.frame.whole = true ∧ l.stomp =
      false ∧ l.frame.bad = false ∧ l.short = false) ∧
    (∃ (s : State) (p : Fin 6) (sent n : Nat) (l : OnLine), held s = false ∧ (prt s p.val).line = some l ∧ l.lvl ≠ 0 ∧ cutPoint
      (cbsUpdate s p.val) p.val l sent = some n ∧ l.stomp = false) ∧
    (∃ (s : State) (p : Fin 6) (sent n : Nat) (l : OnLine), held s = false ∧ (prt s p.val).line = some l ∧ l.lvl ≠ 0 ∧
      firstLegal l sent = some n ∧ l.stomp = false) ∧
    (∃ (s : State) (p : Fin 6) (k : Nat), held s = false ∧ on s (6 + p.val) = true ∧ timeOk s = true ∧ gates s p.val ≠ [] ∧
      mergeOn s p.val = true ∧ (entryAt (gates s p.val) (cyclePos s (nowPs s))).1 = k ∧ ((gates s p.val).getD k ⟨0, 0, 0⟩).op =
      1) ∧
    (∃ (s : State) (p : Fin 6), held s = false ∧ on s (6 + p.val) = true ∧ mergeOn s p.val = true ∧ timeOk s = true ∧ holdNear s
      p.val = true) ∧
    (∃ (s : State) (q : Fin 64) (idx : BitVec 12) (p : Fin 6) (a i : Nat) (r : TxRec), held s = false ∧ whichRec s q.val
      idx.toNat = some (a, i) ∧ recOf s a i = some r ∧ r.todo.getLsbD p.val = true ∧ r.phase = .staged ∧ r.withheld = false ∧ (∀
      f ∈ (prt s p.val).eg, mine a i f = false) ∧ started s a i p.val = false ∧ behind s a i p.val r = false ∧ (∀ x ∈ (que s
      a).recs, x.ripe.getLsbD p.val = false) ∧ standsBy s = false ∧ (s.hl.state == lsDetached && beyondOverlap s r) = false ∧
      downFor s p.val = false ∧ r.cellsOn.getLsbD p.val = true ∧ f3Holds s (p.val / 2) = false ∧ r.late.getLsbD p.val = false ∧
      neverFits s p.val { id := 0, tc := descTc r.desc, data := parison r, src := .host a i } = false) ∧
    (∃ (s : State) (q : Fin 64) (idx : BitVec 12) (p : Fin 6) (a i : Nat) (r : TxRec), held s = false ∧ whichRec s q.val
      idx.toNat = some (a, i) ∧ recOf s a i = some r ∧ descLaunch r.desc = true ∧ r.todo.getLsbD p.val = true ∧ r.late.getLsbD
      p.val = false ∧ started s a i p.val = false ∧ r.withheld = false ∧ standsBy s = false ∧ (∀ x ∈ (que s a).recs,
      x.ripe.getLsbD p.val = false) ∧ latePolicy s a i r.desc ≠ 2 ∧ latePolicy s a i r.desc ≠ 3) ∧
    (∃ (s : State) (m : Nat), held s = false ∧ undecided s = some m ∧ s.tx.phase = 1 ∧ planesMissing s = 0 ∧ stackMissing s = 0
      ∧ s.mb.selfBad = false ∧ segsMissing s m = 0) ∧
    (∃ (s : State), held s = false ∧ s.tx.phase = 1) ∧
    (∃ (s : State) (b : Nat), held s = false ∧ undecided s = none ∧ s.mb.boundary = some b ∧ s.mb.held = false ∧ s.mb.selfBad =
      false ∧ planned s .commit = false ∧ agreementGap s b = none) ∧
    (∃ (s : State) (b : Nat), held s = false ∧ timeOk s = true ∧ s.mb.boundary = some b ∧ s.mb.held = true ∧ b * 65536 ≤ now80
      s) ∧
    (∃ (s : State) (p : Fin 6) (f : Bytes), held s = false ∧ on s (6 + p.val) = true ∧ (prt s p.val).up = true ∧ isKin f 0x20 =
      true ∧ on s 49 = true ∧ portSilent s p.val = false) ∧
    (∃ (s : State) (p : Fin 6) (f : Bytes) (e : Nat) (req : Bool), held s = false ∧ on s (6 + p.val) = true ∧ (prt s p.val).up =
      true ∧ isKin f 0x21 = true ∧ on s 49 = true ∧ s.tx.phase = 1 ∧ s.tx.agree.result ≠ 0 ∧ s.tx.agree.planes.getLsbD (p.val /
      2) = true ∧ be f 16 2 = s.tx.agree.id.toNat ∧ sub f 18 6 = portAddr s (2 * (p.val / 2)) ∧ participant s (p.val / 2) (sub f
      6 6) = some (e, req) ∧ by_ f 38 = 0 ∧ by_ f 24 = p.val / 2 ∧ by_ f 25 = s.tx.agree.mode ∧ be f 26 8 = s.tx.agree.boundary
      ∧ be f 34 4 = s.tx.agree.tag.toNat) ∧
    (∃ (s : State) (p : Fin 6) (f : Bytes), held s = false ∧ on s (6 + p.val) = true ∧ (prt s p.val).up = true ∧ isKin f 0x22 =
      true ∧ on s 49 = true ∧ ourProposal s p.val f = true ∧ s.tx.follow.cancelled = false ∧ nowNs s + 1000000 <
      s.tx.follow.boundary) ∧
    (∃ (s : State) (p : Fin 6) (f : Bytes), held s = false ∧ on s (6 + p.val) = true ∧ (prt s p.val).up = true ∧ isKin f 0x23 =
      true ∧ on s 49 = true ∧ ourProposal s p.val f = true ∧ s.mb.held = false) ∧
    (∃ (s : State) (p : Fin 6), held s = false ∧ on s (6 + p.val) = true ∧ (prt s p.val).up = true ∧ cfg s (oMerge p.val) 0 1 =
      1) ∧
    (∃ (s : State) (p : Fin 6) (a : Fin 4), held s = false ∧ on s (6 + p.val) = true ∧ (prt s p.val).up = true ∧ cfg s (oMerge
      p.val) 0 1 = 1 ∧ (prt s p.val).merge = 1 ∧ cfg s (oMerge p.val) 4 1 ≠ 1) ∧
    (∃ (s : State) (p : Fin 6), held s = false ∧ (prt s p.val).merge = 1 ∧ (prt s p.val).tries < 3) ∧
    (∃ (s u : State) (p : Fin 6) (smd cnt : BitVec 8) (d : Bytes) (c : Nat) (st : Stamp), held s = false ∧ receives s p.val =
      true ∧ cfg s (oMerge p.val) 0 1 = 1 ∧ (prt s p.val).ctxs = [] ∧ codeOf smdS smd.toNat = some c ∧ 64 * (1 + cfg s (oMerge
      p.val) 3 1) ≤ d.length + 4 ∧ rxStamp s p.val (d.length + 4) = (st, u)) ∧
    (∃ (s : State) (p : Fin 6) (f : Bytes), held s = false ∧ on s (6 + p.val) = true ∧ (prt s p.val).up = true ∧ isKin f 0x30 =
      true ∧ portSilent s p.val = false) ∧
    (∃ (s : State) (p : Fin 6) (f : Bytes), held s = false ∧ on s (6 + p.val) = true ∧ (prt s p.val).up = true ∧ isKin f 0x31 =
      true ∧ (prt s p.val).sp = 1 ∧ be f 16 2 = (prt s p.val).nonce.toNat ∧ by_ f 18 = 3 ∧ (prt s p.val).susp = [] ∧ (prt s
      p.val).line = none) ∧
    (∃ (s : State) (p : Fin 6), held s = false ∧ (prt s p.val).sp = 1 ∧ (prt s p.val).spTries < cfg s (oMerge p.val) 5 1) ∧
    (∃ (s : State) (p : Fin 6) (f : Bytes) (q : Nat), held s = false ∧ on s (6 + p.val) = true ∧ (prt s p.val).up = true ∧ fcsOk
      f = true ∧ be f 12 2 = 0x8808 ∧ be f 14 2 = 0x0001 ∧ be f 16 2 ≠ 0 ∧ q < 8) ∧
    (∃ (s : State) (p : Fin 6) (tc : Fin 8), held s = false) ∧
    (∃ (s u w : State) (p : Fin 6) (f : Bytes) (v : Verdict) (st : Stamp), held s = false ∧ receives s p.val = true ∧ (prt s
      p.val).early = [] ∧ openHeads s p.val = [] ∧ macFail s p.val f false = none ∧ s.fs.f4 = false ∧ be (f.take (f.length - 4))
      12 2 ≠ 0x8808 ∧ ownFrame s p.val (sub (f.take (f.length - 4)) 6 6) = false ∧ on s 62 = true ∧ secRx s p.val = false ∧
      rxStamp s p.val f.length = (st, u) ∧ classify (countN (count u (cPort p.val 0) 0) (cPort p.val 0) 1 f.length) p.val
      s.rx.active (f.take (f.length - 4)) none none = (v, w) ∧ v.drop = false ∧ v.meter = none ∧ v.handle = none ∧ v.fwd = false
      ∧ v.servo = false ∧ v.device = 0 ∧ v.dest = some none) ∧
    (∃ (s w : State) (h : LoopHead) (rest : List LoopHead) (v : Verdict), held s = false ∧ s.rx.loop = h :: rest ∧ s.fs.f4 =
      false ∧ classify (s.modRx fun r => { r with loop := rest }) h.port h.view h.plain (some ⟨h.tci, h.sci⟩) none = (v, w) ∧
      h.whole = true) ∧
    (∃ (s : State) (h : LoopHead) (rest : List LoopHead), held s = false ∧ s.rx.loop = h :: rest) ∧
    (∃ (s : State) (h : Fin 16384) (seq : BitVec 16) (x : Slot) (d : BitVec 64), held s = false ∧ (slotsOf s h.val seq).find?
      (!·.inHold) = some x ∧ x.phase = 0 ∧ winner x.votes = some d) ∧
    (∃ (s : State) (h : Fin 16384) (seq : BitVec 16) (x : Slot), held s = false ∧ (slotsOf s h.val seq).find? (·.inHold) = some
      x ∧ x.phase = 1) ∧
    (∃ (s : State) (h : Fin 16384), held s = false ∧ on s 49 = true ∧ on s 69 = true ∧ cfg s (oListen h.val) 0 1 = 1 ∧ (recovOf
      s h.val).takeAny = false) ∧
    (∃ (s : State) (i : Fin 16), held s = false ∧ segOn s i.val = true ∧ (sgm s i.val).calReq = none ∧ (sgm s i.val).runs =
      false ∧ (sgm s i.val).head = 0 ∧ (sgm s i.val).listened < (sgm s i.val).listen ∧ segCycleNs s i.val ≠ 0 ∧ nowNs s ≤
      segCycleAt s i.val + 2) ∧
    (∃ (s : State) (i : Fin 16) (e : Fin 64) (x : SlotEntry), held s = false ∧ segOn s i.val = true ∧ (sgm s i.val).runs = true
      ∧ (sgm s i.val).stopped = false ∧ (segTable s i.val)[e.val]? = some x ∧ x.owner = segOwn s i.val ∧ x.kind = 1 ∧ (sgm s
      i.val).sends = true ∧ ((sgm s i.val).head = 1 ∨ (sgm s i.val).head = 2) ∧ fencedSeg s i.val = false ∧ f3Holds s (16 +
      i.val) = false ∧ (sgm s i.val).ran.contains e.val = false ∧ (sgm s i.val).calReq = none ∧ gauntOpen s i.val (riseOf s
      i.val x) = true) ∧
    (∃ (s : State) (i : Fin 16) (e : Nat), held s = false ∧ (sgm s i.val).sending = some e ∧ (sgm s i.val).head ≠ 1 ∧ (sgm s
      i.val).head ≠ 2) ∧
    (∃ (s : State) (i : Fin 16) (l : List Bool) (f : Bytes) (m : Int) (o : Bool) (k : Nat) (x : SlotEntry), held s = false ∧
      ktbRead l = some f ∧ segOn s i.val = true ∧ (sgm s i.val).runs = true ∧ fcsOk f = true ∧ 64 ≤ f.length ∧ f.length ≤ 300 ∧
      ktbIgnored s i.val f = false ∧ by_ f 15 = 3 ∧ entryOf s i.val m = some (k, x) ∧ x.kind = 3 ∧ (sgm s i.val).got = none) ∧
    (∃ (s : State) (i : Fin 16) (e : Fin 64) (x : SlotEntry), held s = false ∧ segOn s i.val = true ∧ (sgm s i.val).runs = true
      ∧ (sgm s i.val).stopped = false ∧ (segTable s i.val)[e.val]? = some x ∧ x.kind = 3 ∧ (sgm s i.val).ran.contains e.val =
      false ∧ (sgm s i.val).got = none ∧ nodeFlag (sgm s i.val) x.owner 0 = true ∧ nodeFlag (sgm s i.val) x.owner 3 = false ∧
      (node (sgm s i.val) x.owner).integrated = false) ∧
    (∃ (s : State) (i : Fin 16), held s = false ∧ segOn s i.val = true ∧ (sgm s i.val).runs = true ∧ (segTable s i.val).isEmpty
      = false ∧ cfg s (oSeg i.val) 9 1 ≠ 1) ∧
    (∃ (s : State) (x d : Int), held s = false ∧ on s 71 = true ∧ s.pw.guardRuns = true ∧ timeOk s = true ∧ gauntDelta s x = d ∧
      d.natAbs ≤ 1000 * 65536 ∧ s.sg.goodSince = none) ∧
    (∃ (s : State), held s = false ∧ on s 71 = true ∧ s.pw.guardRuns = true) ∧
    (∃ (s : State) (i : Fin 16), held s = false ∧ segOn s i.val = true ∧ (sgm s i.val).runs = true ∧ (sgm s i.val).blocked =
      true) ∧
    (∃ (s : State), held s = false ∧ kRuns s 0 = true ∧ kRuns s 1 = false) ∧
    (∃ (s u : State) (k : Fin 2) (f : Bytes) (far : List DeepRange), held s = false ∧ kTake s k.val 0x01 f = (true, u) ∧ clsOf u
      131 = 1 ∧ clsOf u 132 = 1) ∧
    (∃ (s : State), held s = false ∧ (on s 26 || on s 27) = true ∧ isRing s = true) ∧
    (∃ (s : State) (k : Fin 2), held s = false ∧ kRuns s k.val = true) ∧
    (∃ (s : State) (k : Fin 2) (f : Bytes) (i : Nat) (x : KFrame), held s = false ∧ kRuns s k.val = true ∧ s.fs.f4 = false ∧ 64
      ≤ f.length ∧ f.length ≤ 9728 ∧ fcsOk f = true ∧ by_ f 0 = 1 ∧ by_ f 1 = 0x05 ∧ bitN (by_ f 5) 1 = true ∧ findIx (fun x :
      KFrame => x.seq == BitVec.ofNat 16 (be f 8 2)) (klink s k.val).held = some (i, x) ∧ (klink s k.val).queue = []) ∧
    (∃ (s : State) (k : Fin 2), held s = false ∧ (klink s k.val).up = true ∧ (klink s k.val).held ≠ [] ∧ (klink s k.val).resends
      < 16) ∧
    (∃ (s : State) (k : Fin 2), held s = false ∧ (klink s k.val).up = true) ∧
    (∃ (s : State), held s = false ∧ s.sk.complete = true ∧ s.sk.master ≠ pos s ∧ s.sk.master < 8 ∧ s.fs.f4 = false ∧ kRuns s
      (linkTo s s.sk.master) = true ∧ (klink s (linkTo s s.sk.master)).up = true) ∧
    (∃ (s u v w : State) (k : Fin 2) (f : Bytes) (t2 t3 : Stamp), held s = false ∧ kTake s k.val 0x02 f = (true, u) ∧ rxStampAt
      u (6 + k.val) f.length (fun _ => 0) = (t2, v) ∧ txStamp v (6 + k.val) = (t3, w)) ∧
    (∃ (s u v : State) (k : Fin 2) (f : Bytes) (t4 : Stamp) (q : Probe), held s = false ∧ kTake s k.val 0x03 f = (true, u) ∧
      rxStampAt u (6 + k.val) f.length (fun _ => 0) = (t4, v) ∧ v.sk.timeReq = some (k.val, q) ∧ be (kBody f) 0 2 = q.seq.toNat
      ∧ be (kBody f) 2 6 = q.t1.toNat) ∧
    (∃ (s u : State) (k : Fin 2) (f : Bytes) (v : Via), held s = false ∧ kTake s k.val 0x10 f = (true, u) ∧ kAgent u ⟨by_ f 2 %
      8, Nat.mod_lt _ (by decide)⟩ = some v ∧ u.hl.fwReady = true) ∧
    (∃ (s u : State) (k : Fin 2) (f : Bytes), held s = false ∧ kTake s k.val 0x11 f = (true, u) ∧ (relay u (by_ f 2 % 8)).state
      = 1 ∧ le (kBody f) 2 2 = (relay u (by_ f 2 % 8)).tag.toNat) ∧
    (∃ (s : State) (v : Via) (p : Fin 8) (d : Bytes), held s = false ∧ opAllowed s v 0x20 = true ∧ rankOf v ≤ 3 ∧ isMaster s =
      true ∧ (members s).contains p.val = true ∧ (relay s p.val).state = 0 ∧ (∃ x, descOf (oidOf 0x0803 p.val 0) = some x ∧
      needsMet s (oidOf 0x0803 p.val 0) x 0 1 = true) ∧ 16 ≤ d.length ∧ d.length ≤ 4096 ∧ d.length = 16 + le d 4 2) ∧
    (∃ (s : State) (p : Fin 8), held s = false ∧ (relay s p.val).state = 1) ∧
    (∃ (s u : State) (k : Fin 2) (f : Bytes), held s = false ∧ kTake s k.val 0x12 f = (true, u) ∧ on u 49 = true ∧ by_ (kBody f)
      0 = 0 ∧ isMember u = true ∧ u.sk.master = by_ f 2 % 8) ∧
    (∃ (s : State), held s = false ∧ isMember s = true ∧ s.tx.member.state = 1 ∧ nowNs s < s.tx.member.decide) ∧
    (∃ (s u : State) (k : Fin 2) (f : Bytes) (q : Fin 64), held s = false ∧ kTake s k.val 0x30 f = (true, u) ∧ isMaster u = true
      ∧ (u.sk.config = 1 ∨ u.sk.config = 2) ∧ 32 + le (kBody f) 8 2 ≤ (kBody f).length) ∧
    (∃ (s u : State) (k : Fin 2) (f : Bytes), held s = false ∧ kTake s k.val 0x31 f = (true, u) ∧ u.sk.complete = true ∧
      u.sk.master = by_ f 2 % 8 ∧ (u.sk.config = 1 ∨ u.sk.config = 2)) ∧
    (∃ (s u : State) (k : Fin 2) (f : Bytes) (r : TxRec), held s = false ∧ kTake s k.val 0x32 f = (true, u) ∧ by_ (kBody f) 0 <
      64 ∧ recOf u (by_ (kBody f) 0) (be (kBody f) 2 2) = some r ∧ r.phase = .away) ∧
    (∃ (s : State), held s = false ∧ twinRuns s = true ∧ s.tw.role ≠ 0 ∧ silent s = false ∧ kShut s 0x04 s.tw.partner = false ∧
      (∀ i < 4, hbPath s i = true → tget (fun _ => 0) s.tw.gaps i < s.tw.missed) ∧ (∀ pl < 3, cfgBit s oTwinPol 12 pl = false))
      ∧
    (∃ (s : State) (p : Fin 3) (b : Bytes), held s = false ∧ twinRuns s = true ∧ hbHeard s b = true ∧ s.tw.takeT = none ∧
      s.tw.yieldT = none ∧ s.tw.role = 2 ∧ s.hl.state ≠ lsActive) ∧
    (∃ (s : State), held s = false ∧ twinRuns s = true ∧ s.tw.lost = false ∧ s.tw.role = 1 ∧ clsOf s 133 = 1) ∧
    (∃ (s : State) (b : Nat), held s = false ∧ twinRuns s = true ∧ s.tw.takeT = some b ∧ (s.tw.role = 2 ∨ s.tw.role = 3)) ∧
    (∃ (s : State) (r : Request), held s = false ∧ s.tw.yieldReq = some r) ∧
    (∃ (s u : State) (k : Fin 2) (f : Bytes), held s = false ∧ fromPartner s k.val 0x20 f = (true, u) ∧ standsBy u = true ∧
      ownTalker u (be (kBody f) 0 2) (be (kBody f) 4 6) = none) ∧
    (∃ (s u : State) (k : Fin 2) (f : Bytes), held s = false ∧ fromPartner s k.val 0x21 f = (true, u) ∧ standsBy u = true ∧ by_
      (kBody f) 0 = 2) ∧
    (∃ (s : State), held s = false ∧ leads s = true) ∧
    (∃ (s : State) (n : Fin 8) (d : Bytes) (a : BitVec 32), held s = false ∧ leads s = true ∧ (region s n.val).on = true ∧ dmaOk
      s = true ∧ d.length = (region s n.val).size ∧ le d 0 4 % 2 = 0 ∧ le d 0 4 = a.toNat) ∧
    (∃ (s u : State) (k : Fin 2) (f : Bytes), held s = false ∧ fromPartner s k.val 0x22 f = (true, u) ∧ standsBy u = true ∧ by_
      (kBody f) 0 < 8 ∧ (region u (by_ (kBody f) 0)).on = true ∧ be (kBody f) 4 4 = 0 ∧ by_ (kBody f) 1 % 2 = 0) ∧
    (∃ (s u : State) (v : Via) (r : Request) (p : Bytes), Admitted s v 0x80 r ∧ checkOnly r = false ∧ r.length = 12 ∧ by_
      r.payload 0 ≤ 1 ∧ by_ r.payload 1 ≤ 7 ∧ by_ r.payload 2 ≤ 1 ∧ by_ r.payload 3 = 0 ∧ 10 ≤ le r.payload 4 2 ∧ le r.payload 4
      2 ≤ 1000 ∧ 2 ≤ by_ r.payload 6 ∧ by_ r.payload 6 ≤ 16 ∧ by_ r.payload 7 = 0 ∧ twinConfigured s = true ∧ stageOrder
      (onTaken s r) (acted r) [24 + by_ r.payload 2, 26 + by_ r.payload 2] none [] = .staged u p) ∧
    (∃ (s : State) (v : Via) (r : Request), Admitted s v 0x81 r ∧ checkOnly r = false ∧ r.length = 0) ∧
    (∃ (s : State) (v : Via) (r : Request), Admitted s v 0x82 r ∧ checkOnly r = false ∧ r.length = 0 ∧ s.tw.on = true ∧
      s.tw.role = 1 ∧ s.tw.lost = false ∧ s.tw.pRole = 2 ∧ s.tw.pFlags.getLsbD 1 = true ∧ s.tw.yieldT = none) ∧
    (∃ (s u : State) (v : Via) (r : Request) (p : Bytes), Admitted s v 0x83 r ∧ checkOnly r = false ∧ r.length = 16 ∧ by_
      r.payload 0 ≤ 7 ∧ by_ r.payload 1 = 1 ∧ by_ r.payload 2 = 0 ∧ by_ r.payload 3 = 0 ∧ le r.payload 12 4 % 64 = 0 ∧
      ((List.range 8).filter (· != by_ r.payload 0)).foldl (fun a k => a + regionSize s k) 0 + le r.payload 12 4 ≤ 65536 ∧
      twinConfigured s = true ∧ stageOrder (onTaken s r) (acted r) [] none [] = .staged u p) ∧
    (∃ (s : State) (v : Via) (r : Request), Admitted s v 0x88 r ∧ checkOnly r = false ∧ r.length = 0) ∧
    (∃ (s u : State) (v : Via) (r : Request) (p : Bytes), Admitted s v 0x89 r ∧ checkOnly r = false ∧ r.length = 8 ∧ by_
      r.payload 0 ≤ 2 ∧ (∀ o ∈ [1, 2, 3], by_ r.payload o = 0) ∧ (by_ r.payload 0 = 2 → le r.payload 4 2 + le r.payload 6 2 ≤
      16384) ∧ s.sk.complete = true ∧ stageOrder (onTaken s r) (acted r) [] none [] = .staged u p) ∧
    (∃ (s : State) (n : Fin 192) (ip : Bool) (e : Nat), held s = false ∧ (srcInfo n.val).isSome = true ∧ (srcOf s n.val).cond =
      false) ∧
    (∃ (s : State) (n : Fin 192), held s = false ∧ absentLong s n.val = true) ∧
    (∃ (s : State) (v : Via) (r : Request), Admitted s v 0x60 r ∧ checkOnly r = false ∧ r.length = 0) ∧
    (∃ (s : State) (v : Via) (r : Request), Admitted s v 0x61 r ∧ checkOnly r = false ∧ r.length = 4 ∧ (srcInfo (le r.payload 0
      2)).isSome = true ∧ by_ r.payload 2 = 1 ∧ by_ r.payload 3 = 0 ∧ (srcOf s (le r.payload 0 2)).present = false) ∧
    (∃ (s : State) (v : Via) (r : Request), Admitted s v 0x62 r ∧ checkOnly r = false ∧ r.length = 4 ∧ (srcInfo (le r.payload 0
      2)).isSome = true ∧ by_ r.payload 2 = 0 ∧ by_ r.payload 3 = 0) ∧
    (∃ (s u : State) (v : Via) (r : Request) (p : Bytes) (l : Bool) (d : Nat) (cs : List Nat), Admitted s v 0x63 r ∧ checkOnly r
      = false ∧ r.length = 4 ∧ srcInfo (le r.payload 0 2) = some (l, d, cs) ∧ cs.contains (by_ r.payload 2) = true ∧ by_
      r.payload 3 = 0 ∧ stageOrder (onTaken s r) (acted r) [] none [] = .staged u p) ∧
    (∃ (s : State) (v : Via), held s = false ∧ rankOf v ≤ 3 ∧ opAllowed s v 0x11 = true ∧ safeMay s = true ∧ s.fs.f4 = false ∧
      s.pw.testMode = false) ∧
    (∃ (s : State) (v : Via), held s = false ∧ rankOf v ≤ 3 ∧ opAllowed s v 0x11 = true) ∧
    (∃ (s : State), held s = false) ∧
    (∃ (s : State), held s = false ∧ (s.se.phase = 2 ∨ s.se.phase = 3) ∧ clsOf s 56 = 2) ∧
    (∃ (s : State) (hz : Nat), held s = false ∧ s.pw.sysPll = true ∧ 30400000 ≤ hz ∧ hz ≤ 33600000) ∧
    (∃ (s : State) (k : Nat) (rest : List Nat), held s = false ∧ s.se.phase = 1 ∧ s.se.hostLoad = false ∧ s.se.svcLoad = false ∧
      s.se.tries = k :: rest ∧ s.se.locked = false) ∧
    (∃ (s : State), held s = false ∧ s.se.svcLoad = true ∧ s.se.image ≠ [] ∧ clsOf s 27 = 1) ∧
    (∃ (s : State), held s = false ∧ s.se.svcLoad = true ∧ s.se.bootSeen = false) ∧
    (∃ (s u : State) (f : Bytes), held s = false ∧ svcTake s f 0x59 4 = (true, u) ∧ u.se.svcLoad = true ∧ be f 18 4 =
      u.se.image.length ∧ be f 16 2 ≤ 1028 ∧ 4 ≤ be f 16 2 ∧ imageCovered (u.se.image ++ sub f 22 (be f 16 2 - 4)) = false) ∧
    (∃ (s : State) (b : Bytes), held s = false ∧ s.se.phase = 2 ∧ s.se.locked = false ∧ protLegal (sub b 0 64) = true ∧
      protTighter (secProt s) (sub b 0 64) = true) ∧
    (∃ (s : State), held s = false ∧ s.se.phase = 2 ∧ s.se.locked = false ∧ lockBurns s = []) ∧
    (∃ (s : State), held s = false ∧ s.se.phase = 2 ∧ s.se.locked = false ∧ lockBurns s = []) ∧
    (∃ (s : State) (v : Via) (r : Request), Admitted s v 0x90 r ∧ checkOnly r = false ∧ r.length = 64 ∧ keyLoadRange r.payload =
      none ∧ by_ r.payload 3 = 0 ∧ keyLoadRefused s r.via (le r.payload 0 2) false = none ∧ keyAt s (le r.payload 0 2) = none) ∧
    (∃ (s : State) (v : Via) (r : Request), Admitted s v 0x91 r ∧ checkOnly r = false ∧ r.length = 4 ∧ keySlotOk (le r.payload 0
      2) = true ∧ by_ r.payload 2 = 0 ∧ by_ r.payload 3 = 0 ∧ le r.payload 0 2 ≠ 0xFFFF) ∧
    (∃ (s : State) (a : Fin 9), s.pw.aoRuns = true ∧ alarmMay s a.val = true) ∧
    (∃ (s : State) (v : Via) (r : Request), Admitted s v 0x92 r ∧ checkOnly r = false ∧ r.length = 0) ∧
    (∃ (s u : State) (f : Bytes) (key : Key), held s = false ∧ svcTake s f 0x50 17 = (true, u) ∧ by_ f 18 < 8 ∧ protFlag u 5 =
      true ∧ (sess u (by_ f 18)).state < 2 ∧ keyAt u (0x200 + by_ f 18) = some key) ∧
    (∃ (s u : State) (f : Bytes) (k : Nat), held s = false ∧ svcTake s f 0x52 34 = (true, u) ∧ sessById u 1 (be f 18 2) = some k
      ∧ sub f 20 32 = proofTag (sess u k).sk 0x52 (sess u k).id) ∧
    (∃ (s : State) (k : Fin 8), held s = false ∧ (sess s k.val).state = 1) ∧
    (∃ (s u : State) (f : Bytes) (k : Nat), held s = false ∧ svcTake s f 0x54 38 = (true, u) ∧ sessById u 2 (be f 18 2) = some k
      ∧ be f 20 4 = (sess u k).rxSeq ∧ 54 ≤ be f 16 2 ∧ be f 16 2 ≤ 4134 ∧ sub f (be f 16 2 - 14) 32 = sub (hmacSha256 (sess u
      k).sk (sub f 14 (be f 16 2 - 28))) 0 32 ∧ u.hl.fwReady = true) ∧
    (∃ (s u : State) (f : Bytes) (k : Nat), held s = false ∧ svcTake s f 0x55 35 = (true, u) ∧ sessById u 2 (be f 18 2) = some k
      ∧ sub f 21 32 = sub (hmacSha256 (sess u k).sk (sub f 14 7)) 0 32) ∧
    (∃ (s : State) (k : Fin 8), held s = false ∧ (sess s k.val).state = 2) ∧
    (∃ (s : State) (temps : List (Option Int)) (volts : List Int), held s = false ∧ temps.length = 8 ∧ volts.length = 7) ∧
    (∃ (s : State) (shifts : List Int), held s = false ∧ shifts.length = 4) ∧
    (∃ (s : State) (tj : Int), held s = false ∧ on s 76 = true ∧ hotSensor s = some tj) ∧
    (∃ (s : State), held s = false ∧ on s 76 = true) ∧
    (∃ (s : State), held s = false ∧ s.mg.logLost = s.mg.lostTold) ∧
    (∃ (s : State) (v : Via) (r : Request), Admitted s v 0xB1 r ∧ checkOnly r = false ∧ r.length = 4 ∧ sensorOk (by_ r.payload
      0) = true ∧ by_ r.payload 1 = 0 ∧ by_ r.payload 2 = 0 ∧ by_ r.payload 3 = 0) ∧
    (∃ (s : State) (v : Via) (r : Request) (b : Bytes), Admitted s v 0xB0 r ∧ checkOnly r = false ∧ r.length = 8 ∧ by_ r.payload
      6 = 0 ∧ by_ r.payload 7 = 0 ∧ le r.payload 0 4 < s.mg.nextRec ∧ s.mg.oldest ≤ le r.payload 0 4 ∧ le r.payload 4 2 = 1 ∧
      logRecordAt s (le r.payload 0 4) = some b) ∧
    (∃ (s : State) (v : Via) (r : Request) (n : Nat) (ds : List Nat), Admitted s v 0x70 r ∧ checkOnly r = false ∧ r.length = 0 ∧
      sameAgent (BitVec.ofNat 8 (cfg s 0x0B100000 0 1)) v = true ∧ counterBlock r.oid.toNat = some (n, ds) ∧ blockOn s
      r.oid.toNat = true) ∧
    (∃ (s : State) (v : Via) (r : Request) (n : Nat) (ds : List Nat), Admitted s v 0x71 r ∧ checkOnly r = false ∧ r.length = 0 ∧
      counterBlock r.oid.toNat = some (n, ds) ∧ blockOn s r.oid.toNat = true) ∧
    (∃ (s : State) (v : Via) (r : Request), Admitted s v 0xA0 r ∧ checkOnly r = false ∧ r.length = 8 ∧ le r.payload 0 4 ≤ 492032
      ∧ s.se.hostLoad = false ∧ by_ r.payload 4 ≤ 1 ∧ by_ r.payload 5 = 0 ∧ by_ r.payload 6 = 0 ∧ by_ r.payload 7 = 0 ∧ isActive
      s (by_ r.payload 4) = false ∧ s.mg.update = none) ∧
    (∃ (s : State) (u : Update), held s = false ∧ s.mg.update = some u ∧ u.erased = false) ∧
    (∃ (s : State) (v : Via) (r : Request) (u : Update), Admitted s v 0xA1 r ∧ checkOnly r = false ∧ 4 ≤ r.length ∧ s.mg.update
      = some u ∧ sameAgent u.agent v = true ∧ le r.payload 0 4 + (r.payload.drop 4).length ≤ u.size ∧ u.erased = true ∧
      u.sectors = 128 ∧ le r.payload 0 4 + (r.payload.drop 4).length ≤ 524288 ∧ s.se.hostLoad = false) ∧
    (∃ (s : State) (v : Via) (r : Request) (u : Update), Admitted s v 0xA2 r ∧ checkOnly r = false ∧ r.length = 0 ∧ s.mg.update
      = some u ∧ sameAgent u.agent v = true ∧ covered u = true ∧ u.failed = false ∧ s.se.hostLoad = false) ∧
    (∃ (s : State) (v : Via) (r : Request), Admitted s v 0xA3 r ∧ checkOnly r = false ∧ r.length = 4 ∧ by_ r.payload 0 ≤ 1 ∧ by_
      r.payload 1 = 0 ∧ by_ r.payload 2 = 0 ∧ by_ r.payload 3 = 0 ∧ slotVerified s (by_ r.payload 0) = true) ∧
    (∃ (s : State) (v : Via) (r : Request), Admitted s v 0xC2 r ∧ checkOnly r = false ∧ r.length = 4 ∧ by_ r.payload 0 = 0 ∧ by_
      r.payload 1 ≤ 3 ∧ by_ r.payload 2 ≤ (if by_ r.payload 1 = 1 then 5 else if by_ r.payload 1 = 2 then 2 else if by_
      r.payload 1 = 3 then 15 else 255) ∧ by_ r.payload 3 = 0 ∧ fenceHeld s (by_ r.payload 1) (by_ r.payload 2) = false) ∧
    (∃ (s : State) (n : Fin 192), held s = false ∧ isLevel n.val = true ∧ (srcOf s n.val).cond = true) ∧
    (∃ (s : State) (p : Fin 6), held s = false ∧ (prt s p.val).up = true) ∧
    (∃ (s u w : State) (p : Fin 6) (f : Bytes) (e : Bool) (v : Verdict) (st : Stamp) (n : Nat), held s = false ∧ receives s
      p.val = true ∧ on s 62 = true ∧ s.fs.f4 = false ∧ be f 12 2 ≠ 0x8808 ∧ ownFrame s p.val (sub f 6 6) = false ∧ secRx s
      p.val = false ∧ rxStamp s p.val f.length = (st, u) ∧ n = (lenEarly u f.length).1 ∧ classify (lenEarly u f.length).2 p.val
      s.rx.active f none (some n) = (v, w) ∧ v.fwd = false) ∧
    (∃ (s : State), held s = false ∧ s.se.phase = 2 ∧ s.se.burns ≠ []) ∧
    (∃ (s : State) (v : BitVec 32), held s = false ∧ s.se.locked = false ∧ 1000 ≤ v.toNat % 8192 ∧ v.toNat % 8192 ≤ 7200 ∧
      v.toNat % 8192 % 10 = 0) ∧
    (∃ (s : State) (k : Fin 8), held s = false ∧ (sess s k.val).state = 3) ∧
    (∃ (s : State) (a : Fin 9), (a.val ≠ 8 ∨ s.pw.testMode = false)) ∧
    (∃ (s : State) (h : Fin 4096) (l : BitVec 48) (a : Nat × BitVec 48 × BitVec 16 × BitVec 64), held s = false ∧
      s.tw.assigns.find? (fun a => a.1 == h.val && a.2.1 == l) = some a) :=
  ⟨wit_PowerAndClocks.1, wit_PowerAndClocks.2.1, wit_PowerAndClocks.2.2.2.1, wit_PowerAndClocks.2.2.2.2.1,
   wit_ResetCommands.2.1, wit_ResetCommands.1, wit_PowerAndClocks.2.2.2.2.2.1, wit_PowerAndClocks.2.2.2.2.2.2.2.2.1,
   wit_PowerAndClocks.2.2.2.2.2.2.2.2.2.2.2.2.2.1, wit_PowerAndClocks.2.2.2.2.2.2.2.2.2.2.2.2.2.2.2.1,
   wit_PowerAndClocks.2.2.2.2.2.2.2.2.2.2.2.2.2.2.2.2.1, wit_PowerAndClocks.2.2.2.2.2.2.2.2.2.2.2.2.2.2.2.2.2.1,
   wit_PowerAndClocks.2.2.2.2.2.2.2.2.2.2.2.2.2.2.2.2.2.2, wit_PowerAndClocks.2.2.2.2.2.2.2.2.2.2.2.1, wit_LinkAndFlits.1,
   wit_LinkAndFlits.2.1, wit_LinkAndFlits.2.2.2.2.2.2.2.1, wit_LinkAndFlits.2.2.2.2.2.1,
   ⟨{ live with hl := { trained := true, asked := true } }, by decide +kernel⟩, wit_LinkAndFlits.2.2.2.1, ⟨link live,
   by decide +kernel⟩, ⟨link live, by decide +kernel⟩, wit_MemoryMessages.1, ⟨link live,
   { attr := 0, tag := 1023, length := 4, resv6 := 0, offset := 0, window := 0, resv13 := 0, data := [] }, by decide +kernel⟩,
   wit_MemoryMessages.2.2.2.2.1, wit_MemoryMessages.2.2.2.2.2.2.1, wit_MemoryMessages.2.2.2.2.2.2.2, wit_HostRegisters.1,
   wit_HostRegisters.2.1, wit_HostRegisters.2.2.1, wit_HostRegisters.2.2.2.1, wit_HostRegisters.2.2.2.2.1,
   wit_HostRegisters.2.2.2.2.2.1, wit_QueueRegisters.1, wit_QueueRegisters.2.1, wit_QueueRegisters.2.2.2.1,
   wit_QueueRegisters.2.2.2.2.2, wit_DmaCommands.2.2.2.2.2.2.1, wit_Stamping.2.1, wit_DmaCommands.1, wit_DmaCommands.2.2.2.1,
   wit_DmaCommands.2.1, wit_DmaCommands.2.2.2.2.1, wit_DmaCommands.2.2.2.2.2.1, wit_ServiceOrders.1, wit_ServiceOrders.2.2.1,
   wit_ServiceOrders.2.2.2.2.1, wit_HostRegisters.2.2.2.2.2.2, wit_MailboxChannels.1, wit_MailboxChannels.2.1,
   wit_MailboxChannels.2.2.1, wit_MailboxChannels.2.2.2.2.2.2.1, wit_ServiceOrders.2.2.2.2.2.1, wit_ServiceOrders.2.2.2.2.2.2.1,
   wit_ServiceOrders.2.2.2.2.2.2.2.2, wit_ObjectOrders.2.2.2.2.1, wit_ObjectOrders.2.1, wit_ObjectOrders.2.2.2.2.2.2.1,
   wit_ObjectOrders.2.2.2.2.2.2.2.1, wit_ObjectOrders.2.2.2.2.2.2.2.2, wit_StageOrders.1, wit_StageOrders.2.2.2.2.1,
   wit_StageOrders.2.1, wit_EpochsAndVotes.1, wit_EpochsAndVotes.2.2.2.1, wit_DomainOrders.1, wit_DomainOrders.2.2.2.2.2.2.2.1,
   wit_DomainOrders.2.2.2.2.2.2.2.2.1, wit_DomainOrders.2.2.2.1, wit_DomainOrders.2.2.2.2.2.2.2.2.2.1, wit_LedgerCommands.1,
   wit_LedgerCommands.2.2.2.1, wit_LedgerCommands.2.2.2.2.2.1, wit_DozeAndFences.1, wit_DozeAndFences.2.1,
   wit_DozeAndFences.2.2.1, wit_DozeAndFences.2.2.2.1, wit_TimeRequests.1, wit_TimeRequests.2.2.1, wit_Adjustment.1,
   wit_PermitAndVote.1, wit_PermitAndVote.2.1, wit_PermitAndVote.2.2.1, wit_PermitAndVote.2.2.2.2.2.1, wit_ServoCommands.1,
   wit_ServoCommands.2.1, wit_ServoCommands.2.2.1, wit_ServoCommands.2.2.2.1, wit_ServoCommands.2.2.2.2, wit_TimedPins.1,
   wit_TimedPins.2.2.1, wit_TimedPins.2.2.2.1, wit_TimedPins.2.2.2.2.1, wit_TimedPins.2.2.2.2.2.2.1,
   wit_TimedPins.2.2.2.2.2.2.2, wit_Calibration.2.2.2.2.2.2.2.2.2.2.1, wit_Calibration.2.2.2.2.2.2.2.2.2.2.2.2.1,
   wit_Calibration.1, wit_Calibration.2.1, wit_Calibration.2.2.2.2.2.1, wit_LanesAndLoop.2.1,
   wit_Calibration.2.2.2.2.2.2.2.2.2.1, wit_Probes.1, wit_Probes.2.2.2.2.1, wit_Probes.2.2.2.2.2.2.1,
   wit_Probes.2.2.2.2.2.2.2.2.1, wit_Transmissions.1, wit_Transmissions.2.1, wit_Gates.1, wit_Gates.2.2.1, ⟨modPrt (gated 5 1
   (port 5 (timed live))) 5 fun x => { x with merge := 2 }, 5, 0, by decide +kernel⟩, wit_Gates.2.2.2.2.2.2.2.2.2,
   wit_Parisons.1, wit_Parisons.2.2.2.1, wit_CommitMoments.1, wit_CommitMoments.2.2.1, wit_CommitMoments.2.2.2.2.1,
   wit_CommitMoments.2.2.2.2.2.2.2.1, wit_AgreementFrames.1, wit_AgreementFrames.2.2.1, wit_AgreementFrames.2.2.2.2.1,
   wit_AgreementFrames.2.2.2.2.2.1, wit_Preemption.1, wit_Preemption.2.1, wit_Preemption.2.2.2.2.1, wit_Reception.2.2.2.1,
   wit_Preemption.2.2.2.2.2.2.1, wit_Preemption.2.2.2.2.2.2.2.1, wit_Preemption.2.2.2.2.2.2.2.2.2.2,
   wit_Transmissions.2.2.2.2.1, wit_Transmissions.2.2.2.2.2.2, wit_Reception.2.2.1, wit_LanesAndLoop.2.2.2.2.1,
   wit_LanesAndLoop.2.2.2.2.2.2.1, wit_EpochsAndVotes.2.2.2.2.1, wit_EpochsAndVotes.2.2.2.2.2.2.2.2.1,
   wit_EpochsAndVotes.2.2.2.2.2.2.2.2.2.2.1, wit_SegmentCycles.1, wit_SegmentCycles.2.2.1, wit_SegmentCycles.2.2.2.2.1,
   wit_SegmentFrames.2.1, wit_SegmentFrames.2.2.2.1, wit_SegmentFrames.2.2.2.2.2.1, wit_SegmentFrames.2.2.2.2.2.2.1,
   wit_SegmentFrames.2.2.2.2.2.2.2.2.2.2.1, wit_SegmentFrames.2.2.2.2.2.2.2.2.2.2.2.1, wit_CascadeCommands.2.2.2.2.2.2.2.2.1,
   wit_CascadeCommands.2.2.2.2.2.2.2.2.2.2.1, wit_CascadeCommands.2.2.2.2.2.2.2.2.2.2.2.1, wit_CascadeCommands.2.2.1,
   wit_CascadeCommands.2.2.2.1, wit_CascadeCommands.2.2.2.2.1, wit_CascadeCommands.2.2.2.2.2.2.1,
   wit_CascadeCommands.2.2.2.2.2.2.2.2.2.2.2.2.1, wit_CascadeCommands.2.2.2.2.2.2.2.2.2.2.2.2.2.1,
   wit_CascadeCommands.2.2.2.2.2.2.2.2.2.2.2.2.2.2.1, wit_StackOrders.1, wit_StackOrders.2.2.1, wit_StackOrders.2.2.2.2.2.1,
   wit_StackOrders.2.2.2.1, wit_StackOrders.2.2.2.2.2.2.1, wit_StackOrders.2.2.2.2.2.2.2.2.2.2, wit_StackAndTwinOrders.1,
   wit_StackAndTwinOrders.2.2.1, wit_StackAndTwinOrders.2.2.2.1, wit_TwinRoles.1, wit_TwinRoles.2.1, wit_TwinRoles.2.2.2.1,
   wit_TwinRoles.2.2.2.2.2.1, wit_TwinRoles.2.2.2.2.2.2.2.2.1, wit_TwinMirror.1, wit_TwinMirror.2.2.2.1,
   wit_TwinMirror.2.2.2.2.2.1, wit_TwinMirror.2.2.2.2.2.2.2.1, wit_TwinMirror.2.2.2.2.2.2.2.2.1,
   wit_StackAndTwinOrders.2.2.2.2.2.2.2.1, wit_StackAndTwinOrders.2.2.2.2.2.2.2.2.2.1, wit_TwinRoles.2.2.2.2.2.2.2.2.2.1,
   wit_StackAndTwinOrders.2.2.2.2.2.2.2.2.2.2.1, wit_StackAndTwinOrders.2.2.2.2.1, wit_StackAndTwinOrders.2.2.2.2.2.1,
   wit_FaultSources.1, wit_FaultSources.2.2.1, wit_FaultAndSafetyOrders.1, wit_FaultAndSafetyOrders.2.1,
   wit_FaultAndSafetyOrders.2.2.2.1, wit_FaultAndSafetyOrders.2.2.2.2.2.1, wit_FaultAndSafetyOrders.2.2.2.2.2.2.2.1,
   wit_FaultAndSafetyOrders.2.2.2.2.2.2.2.2.1, wit_FaultAndSafetyOrders.2.2.2.2.2.2.2.2.2.2.1,
   wit_FaultAndSafetyOrders.2.2.2.2.2.2.2.2.2.2.2.2.1, wit_FaultAndSafetyOrders.2.2.2.2.2.2.2.2.2.2.2.2.2.2.1,
   wit_BootAndLock.1, wit_BootAndLock.2.2.2.1, wit_BootAndLock.2.2.2.2.1, wit_BootAndLock.2.2.2.2.2.1,
   wit_BootAndLock.2.2.2.2.2.2.2.2.2.1, wit_BootAndLock.2.2.2.2.2.2.2.2.2.2.2.1, wit_BootAndLock.2.2.2.2.2.2.2.2.2.2.2.2.2.1,
   wit_KeyOrders.1, wit_KeyOrders.2.2.1, wit_Alarms.1, wit_Alarms.2.2.2.1, wit_Sessions.1, wit_Sessions.2.1,
   wit_Sessions.2.2.2.1, wit_Sessions.2.2.2.2.1, wit_Sessions.2.2.2.2.2.2.1, wit_Sessions.2.2.2.2.2.2.2.1,
   wit_SensingAndFlash.1, wit_SensingAndFlash.2.1, wit_SensingAndFlash.2.2.1, wit_SensingAndFlash.2.2.2.2.2.1,
   wit_SensingAndFlash.2.2.2.2.2.2.2.2.1, wit_Readings.1, wit_Readings.2.2.2.1, wit_Readings.2.2.2.2.2.2.1,
   wit_Readings.2.2.2.2.2.1, wit_FirmwareUpdate.1, wit_SensingAndFlash.2.2.2.2.2.2.2.2.2.2.1, wit_FirmwareUpdate.2.2.2.2.2.1,
   ⟨tk (rq (.mb 1) 0xA2 0 []) (updating { upd with erased := false, sectors := 9 }), .mb 1, rq (.mb 1) 0xA2 0 [],
   { upd with erased := false, sectors := 9 }, admitted_of (by decide +kernel), by decide +kernel⟩,
   wit_FirmwareUpdate.2.2.2.2.2.2.2.2.2.2.2.2.2.2.2.1, wit_DozeAndFences.2.2.2.2.2.2.2.1, wit_FaultSources.2.1,
   wit_LanesAndLoop.2.2.2.2.2.2.2.1, wit_Reception.2.2.2.2.2.1, wit_BootAndLock.2.2.2.2.2.2.2.2.2.2.2.2.2.2,
   wit_LedgerCommands.2.1, wit_Sessions.2.2.2.2.2.2.2.2.2.1, wit_Alarms.2.1, wit_TwinMirror.2.2.1⟩

end Sys2Proof.Tests
end

/-! The footprint of every command (O57), from the lemma `exec…_fr` of each command's meaning. -/

namespace Sys2Proof.Machine

theorem execPowerOnReset_only {s t : State} (h : execPowerOnReset s = .next t) :
    Only (footprint .powerOnReset) s t := by
  obtain rfl := Host.Outcome.next.inj h
  exact powerLost_only s _ _

theorem execVddAoLoss_only {s t : State} (h : execVddAoLoss s = .next t) : Only (footprint .vddAoLoss) s t := by
  obtain rfl := Host.Outcome.next.inj h
  exact powerLost_only s _ _

/-- Every command but the two that start from cleared state, and so take latches back (R27, R471), changes no group
outside its footprint, keeps the latches and keeps the memories canonical. -/
theorem exec_fr (c : Instr) (s : State) (hp : c ≠ .powerOnReset) (hv : c ≠ .vddAoLoss) :
    OFr (footprint c) s (exec c s) := by
  cases c with
  | powerOnReset => exact absurd rfl hp
  | railsGood => exact execRailsGood_fr s
  | vddIoGood => exact execVddIoGood_fr s
  | railUndervoltage rail => exact execRailUndervoltage_fr rail s
  | railOvervoltage rail => exact execRailOvervoltage_fr rail s
  | resetNRecognised => exact execResetNRecognised_fr s
  | resetNRise => exact execResetNRise_fr s
  | strapSample stackId bootSrc testN => exact execStrapSample_fr stackId bootSrc testN s
  | refclkTimeMeasurement hz => exact execRefclkTimeMeasurement_fr hz s
  | pllsLocked => exact execPllsLocked_fr s
  | uciePhyReady => exact execUciePhyReady_fr s
  | guardXtalStable => exact execGuardXtalStable_fr s
  | systemPllLossOfLock => exact execSystemPllLossOfLock_fr s
  | refclkTimeLost => exact execRefclkTimeLost_fr s
  | refclkTimeReturn hz => exact execRefclkTimeReturn_fr hz s
  | linkTrainingStart => exact execLinkTrainingStart_fr s
  | linkTrainingComplete rate half => exact execLinkTrainingComplete_fr rate half s
  | flitReceive flit => exact execFlitReceive_fr flit s
  | nakReceive seq => exact execNakReceive_fr seq s
  | retrainTimeout => exact execRetrainTimeout_fr s
  | nullFlitSend => exact execNullFlitSend_fr s
  | flitReceiveTimeout => exact execFlitReceiveTimeout_fr s
  | adapterLinkDown => exact execAdapterLinkDown_fr s
  | mwr m => exact execMwr_fr m s
  | mrd m => exact execMrd_fr m s
  | dcpld c => exact execDcpld_fr c s
  | dcpl c => exact execDcpl_fr c s
  | dmrdTimeout tag => exact execDmrdTimeout_fr tag s
  | hostQuiesce => exact execHostQuiesce_fr s
  | hlCtrlWrite v => exact execHlCtrlWrite_fr v s
  | hlStatusClear v => exact execHlStatusClear_fr v s
  | evMaskWrite word v => exact execEvMaskWrite_fr word v s
  | evPendClear word v => exact execEvPendClear_fr word v s
  | evHoldoffExpiry vec => exact execEvHoldoffExpiry_fr vec s
  | txqTailWrite q v => exact execTxqTailWrite_fr q v s
  | rxqTailWrite q v => exact execRxqTailWrite_fr q v s
  | queueEnable d q v => exact execQueueEnable_fr d q v s
  | queueDisable d q v => exact execQueueDisable_fr d q v s
  | queueDisableComplete d q => exact execQueueDisableComplete_fr d q s
  | stampedWrite d q v => exact execStampedWrite_fr d q v s
  | txDescriptorFetch q => exact execTxDescriptorFetch_fr q s
  | txFrameFetch q => exact execTxFrameFetch_fr q s
  | rxDescriptorFetch q => exact execRxDescriptorFetch_fr q s
  | txWriteBack q => exact execTxWriteBack_fr q s
  | rxWriteBack q => exact execRxWriteBack_fr q s
  | detach via => exact execDetach_fr via s
  | detachDrainComplete => exact execDetachDrainComplete_fr s
  | attach via => exact execAttach_fr via s
  | holdLimitExpiry => exact execHoldLimitExpiry_fr s
  | post n => exact execPost_fr n s
  | ack n => exact execAck_fr n s
  | abandon n => exact execAbandon_fr n s
  | requestTake => exact execRequestTake_fr s
  | mailboxServiceLimitMissed => exact execMailboxServiceLimitMissed_fr s
  | ping via => exact execPing_fr via s
  | getInfo via => exact execGetInfo_fr via s
  | attrGet via => exact execAttrGet_fr via s
  | attrSet via => exact execAttrSet_fr via s
  | tableWrite via => exact execTableWrite_fr via s
  | tableRead via => exact execTableRead_fr via s
  | tableClear via => exact execTableClear_fr via s
  | stageMode via => exact execStageMode_fr via s
  | commit via => exact execCommit_fr via s
  | abortStage via => exact execAbortStage_fr via s
  | epochSwap via => exact execEpochSwap_fr via s
  | epochStatus via => exact execEpochStatus_fr via s
  | domainEnable via => exact execDomainEnable_fr via s
  | domainEnableComplete d => exact execDomainEnableComplete_fr d s
  | domainEnableFailed d => exact execDomainEnableFailed_fr d s
  | domainDisable via => exact execDomainDisable_fr via s
  | domainDisableComplete d => exact execDomainDisableComplete_fr d s
  | ledgerQuery via => exact execLedgerQuery_fr via s
  | tjReading => exact execTjReading_fr s
  | ledgerShed => exact execLedgerShed_fr s
  | dozeEntry unit => exact execDozeEntry_fr unit s
  | dozeExit unit => exact execDozeExit_fr unit s
  | wakePatternMatch p => exact execWakePatternMatch_fr p s
  | energyDetect seg => exact execEnergyDetect_fr seg s
  | timeRead via => exact execTimeRead_fr via s
  | timeAdjust via => exact execTimeAdjust_fr via s
  | adjustmentPoint => exact execAdjustmentPoint_fr s
  | permitArm via => exact execPermitArm_fr via s
  | permitExpiry => exact execPermitExpiry_fr s
  | channelOutvoted ch values => exact execChannelOutvoted_fr ch values s
  | voteFailed => exact execVoteFailed_fr s
  | servoUpdate plane offset => exact execServoUpdate_fr plane offset s
  | grandmasterChange plane identity => exact execGrandmasterChange_fr plane identity s
  | announceTimeout plane => exact execAnnounceTimeout_fr plane s
  | holdoverEntry => exact execHoldoverEntry_fr s
  | holdoverMax => exact execHoldoverMax_fr s
  | timedOutSet via => exact execTimedOutSet_fr via s
  | timedOutputEdge n => exact execTimedOutputEdge_fr n s
  | timedCapWrite via n image => exact execTimedCapWrite_fr via n image s
  | capture n rising sub => exact execCapture_fr n rising sub s
  | captureWindowClose n => exact execCaptureWindowClose_fr n s
  | captureRead via => exact execCaptureRead_fr via s
  | calStatus via => exact execCalStatus_fr via s
  | calPolicy via => exact execCalPolicy_fr via s
  | codeDensityTest conv ok => exact execCodeDensityTest_fr conv ok s
  | calibrationPassStart pt => exact execCalibrationPassStart_fr pt s
  | calibrationPassEnd pt samples => exact execCalibrationPassEnd_fr pt samples s
  | laneRelock lane gbps => exact execLaneRelock_fr lane gbps s
  | calStale pt => exact execCalStale_fr pt s
  | probeSend p => exact execProbeSend_fr p s
  | probeReceive p frame => exact execProbeReceive_fr p frame s
  | echoSend p => exact execEchoSend_fr p s
  | echoReceive p frame => exact execEchoReceive_fr p frame s
  | frameTransmitStart p => exact execFrameTransmitStart_fr p s
  | transmissionEnd p => exact execTransmissionEnd_fr p s
  | preemption p dataBytes => exact execPreemption_fr p dataBytes s
  | gateOverrun p dataBytes => exact execGateOverrun_fr p dataBytes s
  | gateEntryStart p copyAgrees => exact execGateEntryStart_fr p copyAgrees s
  | hold p => exact execHold_fr p s
  | parisonReady q idx p => exact execParisonReady_fr q idx p s
  | parisonLate q idx p => exact execParisonLate_fr q idx p s
  | commitDecide => exact execCommitDecide_fr s
  | agreeRepeat => exact execAgreeRepeat_fr s
  | preparedSetHold => exact execPreparedSetHold_fr s
  | commitBoundary => exact execCommitBoundary_fr s
  | proposeReceive p frame => exact execProposeReceive_fr p frame s
  | replyReceive p frame => exact execReplyReceive_fr p frame s
  | confirmReceive p frame => exact execConfirmReceive_fr p frame s
  | cancelReceive p frame => exact execCancelReceive_fr p frame s
  | smdVReceive p => exact execSmdVReceive_fr p s
  | smdRReceive p addFragSize => exact execSmdRReceive_fr p addFragSize s
  | verifyTimeout p => exact execVerifyTimeout_fr p s
  | fragmentReceive p smd count data mcrc good => exact execFragmentReceive_fr p smd count data mcrc good s
  | spOfferReceive p frame => exact execSpOfferReceive_fr p frame s
  | spAnswerReceive p frame => exact execSpAnswerReceive_fr p frame s
  | spOfferRepeat p => exact execSpOfferRepeat_fr p s
  | pauseReceive p frame => exact execPauseReceive_fr p frame s
  | pauseExpiry p tc => exact execPauseExpiry_fr p tc s
  | frameReceive p frame codeError => exact execFrameReceive_fr p frame codeError s
  | secondPass => exact execSecondPass_fr s
  | loopWaitExpiry => exact execLoopWaitExpiry_fr s
  | voteWindowExpiry h seq => exact execVoteWindowExpiry_fr h seq s
  | lateHoldExpiry h seq => exact execLateHoldExpiry_fr h seq s
  | recoveryReset h => exact execRecoveryReset_fr h s
  | segmentCycleStart seg => exact execSegmentCycleStart_fr seg s
  | ownSlotStart seg entry => exact execOwnSlotStart_fr seg entry s
  | collision seg => exact execCollision_fr seg s
  | ktbFrameReceive seg line markPs skewed overran => exact execKtbFrameReceive_fr seg line markPs skewed overran s
  | nodeSlotEnd seg entry => exact execNodeSlotEnd_fr seg entry s
  | statusBlockWrite seg => exact execStatusBlockWrite_fr seg s
  | gauntletMarker drift => exact execGauntletMarker_fr drift s
  | markerLost => exact execMarkerLost_fr s
  | gauntletBlock seg => exact execGauntletBlock_fr seg s
  | discoverSend => exact execDiscoverSend_fr s
  | discover k d => exact execDiscover_fr k d s
  | discoveryComplete => exact execDiscoveryComplete_fr s
  | cascadeAckDue k => exact execCascadeAckDue_fr k s
  | ackReceive k frame => exact execAckReceive_fr k frame s
  | cascadeResend k => exact execCascadeResend_fr k s
  | cascadeLinkLost k => exact execCascadeLinkLost_fr k s
  | timeReqSend => exact execTimeReqSend_fr s
  | timeReq k frame => exact execTimeReq_fr k frame s
  | timeResp k frame => exact execTimeResp_fr k frame s
  | command k frame => exact execCommand_fr k frame s
  | response k frame => exact execResponse_fr k frame s
  | stackRelayWrite via pos first data => exact execStackRelayWrite_fr via pos first data s
  | relayUnreachable pos => exact execRelayUnreachable_fr pos s
  | stackAgree k frame => exact execStackAgree_fr k frame s
  | stackAgreeReplyRepeat => exact execStackAgreeReplyRepeat_fr s
  | trafficUp k u => exact execTrafficUp_fr k u s
  | trafficDown k frame => exact execTrafficDown_fr k frame s
  | txDone k frame => exact execTxDone_fr k frame s
  | heartbeatSend => exact execHeartbeatSend_fr s
  | heartbeat path bytes => exact execHeartbeat_fr path bytes s
  | partnerLost => exact execPartnerLost_fr s
  | takeover => exact execTakeover_fr s
  | yieldTimeout => exact execYieldTimeout_fr s
  | assign k frame => exact execAssign_fr k frame s
  | mirror k frame => exact execMirror_fr k frame s
  | mirrorSend => exact execMirrorSend_fr s
  | regionRead n data seqAfter => exact execRegionRead_fr n data seqAfter s
  | region k frame => exact execRegion_fr k frame s
  | twinConfig via => exact execTwinConfig_fr via s
  | twinStatus via => exact execTwinStatus_fr via s
  | twinYield via => exact execTwinYield_fr via s
  | mirrorDeclare via => exact execMirrorDeclare_fr via s
  | stackStatus via => exact execStackStatus_fr via s
  | stackConfig via => exact execStackConfig_fr via s
  | faultSourceAssert src ipTable entry => exact execFaultSourceAssert_fr src ipTable entry s
  | presentBitExpiry src => exact execPresentBitExpiry_fr src s
  | faultRead via => exact execFaultRead_fr via s
  | faultClear o => exact execFaultClear_fr o s
  | faultInject o => exact execFaultInject_fr o s
  | faultConfig o => exact execFaultConfig_fr o s
  | safeNRelease o => exact execSafeNRelease_fr o s
  | safeNWithdraw o => exact execSafeNWithdraw_fr o s
  | safeNReadback pads => exact execSafeNReadback_fr pads s
  | gafferWatchdog => exact execGafferWatchdog_fr s
  | ci09Check hz => exact execCi09Check_fr hz s
  | imageLoaded readOk => exact execImageLoaded_fr readOk s
  | bootSourceTimeout => exact execBootSourceTimeout_fr s
  | bootReq => exact execBootReq_fr s
  | bootData frame => exact execBootData_fr frame s
  | secProtWrite image => exact execSecProtWrite_fr image s
  | secLock => exact execSecLock_fr s
  | lockTimeout => exact execLockTimeout_fr s
  | keyLoad via => exact execKeyLoad_fr via s
  | keyErase via => exact execKeyErase_fr via s
  | alarm a => exact execAlarm_fr a s
  | alarmStatus via => exact execAlarmStatus_fr via s
  | sHello frame => exact execSHello_fr frame s
  | sProof frame => exact execSProof_fr frame s
  | proofTimeout k => exact execProofTimeout_fr k s
  | sMsg frame => exact execSMsg_fr frame s
  | sClose frame => exact execSClose_fr frame s
  | sessionIdle k => exact execSessionIdle_fr k s
  | sensorSample temps volts => exact execSensorSample_fr temps volts s
  | wearSample shifts => exact execWearSample_fr shifts s
  | lifeAccumulate => exact execLifeAccumulate_fr s
  | wearRecordWrite ok => exact execWearRecordWrite_fr ok s
  | logFlush ok => exact execLogFlush_fr ok s
  | sensorRead via => exact execSensorRead_fr via s
  | logRead via => exact execLogRead_fr via s
  | countersRead via => exact execCountersRead_fr via s
  | countersPeek via => exact execCountersPeek_fr via s
  | fwBegin o => exact execFwBegin_fr o s
  | slotEraseComplete ok => exact execSlotEraseComplete_fr ok s
  | fwChunk o => exact execFwChunk_fr o s
  | fwFinish o => exact execFwFinish_fr o s
  | fwActivate o => exact execFwActivate_fr o s
  | fence via => exact execFence_fr via s
  | vddAoLoss => exact absurd rfl hv
  | faultSourceDeassert src => exact execFaultSourceDeassert_fr src s
  | linkDown p => exact execLinkDown_fr p s
  | decidingPassComplete p pfx smdE => exact execDecidingPassComplete_fr p pfx smdE s
  | fuseBurnComplete => exact execFuseBurnComplete_fr s
  | ledgerCeilWrite v => exact execLedgerCeilWrite_fr v s
  | serviceKeyLockoutEnd k => exact execServiceKeyLockoutEnd_fr k s
  | alarmConditionEnd a => exact execAlarmConditionEnd_fr a s
  | missingLocal h launch => exact execMissingLocal_fr h launch s

/-- Settles O57: by `exec_fr`; POWER_ON_RESET and VDD_AO_LOSS, which take latches back, by `powerLost_only`. -/
theorem commandFootprint : Obligations.CommandFootprint := by
  unfold Obligations.CommandFootprint
  intro c s t h
  by_cases hp : c = .powerOnReset
  · subst hp
    exact execPowerOnReset_only h
  by_cases hv : c = .vddAoLoss
  · subst hv
    exact execVddAoLoss_only h
  exact (exec_fr c s hp hv t h).only

end Sys2Proof.Machine

/-! Rule-set epochs and the vote slots of streams (O34): one equation for each case of EPOCH_SWAP, the window's end,
a decision, sequence recovery and a vote, from which the statement is assembled. -/

namespace Sys2Proof.Machine.EpochVotes

section AdmittedRequest
variable {s : State} {v : Via} {op : Nat} {r : Request} {f : State → Request → Answer}

theorem authCheck_markServed (s : State) (r : Request) (v : Via) (op : Nat) :
    authCheck (markServed s r) v op = authCheck s v op := rfl

/-- An admitted request gets as far as its opcode's own checks and effect (R105 steps 6 to 8). -/
theorem runCmd_admitted (h : Admitted s v op r) :
    runCmd v op f s = .next (interlock (settleAnswer (onTaken s r) (acted r) (f (onTaken s r) (acted r)))) := by
  obtain ⟨up, taken, auth, grave, oid⟩ := h
  have hr := List.find?_some taken
  simp only [Bool.and_eq_true, beq_iff_eq] at hr
  obtain ⟨⟨rfl, rfl⟩, -⟩ := hr
  have hg : (s.fs.f4 && !graveServed r.opcode.toNat r.oid.toNat) = false := by
    rcases grave with h | h <;> simp [h]
  have hg' : ((markServed s r).fs.f4 && !graveServed r.opcode.toNat r.oid.toNat && !withdraws (acted r)) = false := by
    rw [show (markServed s r).fs = s.fs from rfl, hg, Bool.false_and]
  unfold runCmd
  rw [run_up _ up]
  simp only [taken]
  congr 2
  change serve (markServed s r) (acted r) f = _
  unfold serve
  simp only [acted] at hg' ⊢
  simp only [authCheck_markServed, auth, hg', oid, onTaken]
  rfl

theorem settleAnswer_ok (t : State) (p : Bytes) (hc : checkOnly r = false) :
    settleAnswer s (acted r) (.ok t p) = respondWith t (acted r) stOk false p := by
  have : checkOnly (acted r) = false := hc
  simp [settleAnswer, this]

theorem settleAnswer_no (n : Nat) (p : Bytes) (hc : checkOnly r = false) :
    settleAnswer s (acted r) (.no n p) = respondWith s (acted r) n false p := by
  have : checkOnly (acted r) = false := hc
  simp [settleAnswer, this]

theorem runCmd_ok (h : Admitted s v op r) (hc : checkOnly r = false) {t : State} {p : Bytes}
    (hf : f (onTaken s r) (acted r) = .ok t p) : runCmd v op f s = .next (okWith t r p) := by
  rw [runCmd_admitted h, hf, settleAnswer_ok t p hc, okWith]

theorem runCmd_no (h : Admitted s v op r) (hc : checkOnly r = false) {n : Nat} {p : Bytes}
    (hf : f (onTaken s r) (acted r) = .no n p) : runCmd v op f s = .next (noWith s r n p) := by
  rw [runCmd_admitted h, hf, settleAnswer_no n p hc, noWith]

theorem sized_eq {n : Nat} {a : Answer} (h : r.length = n) : sized r n a = a := if_pos h

end AdmittedRequest

section Epochs
variable {s : State} {r : Request}

/-- The swap: the views change places, and the old epoch drains (R322). -/
theorem swapEpoch_rx (s : State) :
    (swapEpoch s).rx = { s.rx with active := 1 - s.rx.active, epoch := s.rx.shadow, draining := some s.rx.epoch } := by
  rw [swapEpoch, count_rx, State.modRx_rx]

theorem epochSwapCmd_swaps (hl : r.length = 0) (ho : on s 62 = true) (hd : s.rx.draining = none)
    (hc : shadowComplete s = true) : epochSwapCmd s r =
      .ok (drainCheck (swapEpoch s)) (toLe 2 s.rx.shadow.toNat ++ toLe 2 s.rx.epoch.toNat) := by
  simp [epochSwapCmd, sized_eq hl, ho, hd, hc, swapEpoch_rx]

theorem epochSwapCmd_drains (hl : r.length = 0) (hd : s.rx.draining.isSome = true) :
    epochSwapCmd s r = .no stEpoch (epochPayload s) := by
  simp [epochSwapCmd, sized_eq hl, hd]

/-- A rule engine that is off holds no complete shadow view (log entry 201). -/
theorem epochSwapCmd_incomplete (hl : r.length = 0) (hd : s.rx.draining = none)
    (hc : on s 62 = false ∨ shadowComplete s = false) : epochSwapCmd s r = .no stState [] := by
  rw [epochSwapCmd, sized_eq hl, hd]
  rcases hc with h | h <;> simp [h]

end Epochs

section Slots
variable {s : State} {h : Fin 16384} {seq : BitVec 16} {x : Slot}

theorem exec_voteWindowExpiry (hu : held s = false) (hx : (slotsOf s h.val seq).find? (!·.inHold) = some x) :
    exec (.voteWindowExpiry h seq) s =
      .next (interlock (if x.phase = 0 then windowEnd s x true else freeSlot s x)) := by
  change execVoteWindowExpiry h seq s = _
  rw [execVoteWindowExpiry, run_up _ hu, hx]

/-- A slot decided LATE in its hold is kept until the hold's end, which frees it (log entry 174). -/
theorem exec_lateHoldExpiry (hu : held s = false) (hx : (slotsOf s h.val seq).find? (·.inHold) = some x) :
    exec (.lateHoldExpiry h seq) s =
      .next (interlock (if x.phase = 1 then decideShort s x true else freeSlot s x)) := by
  change execLateHoldExpiry h seq s = _
  rw [execLateHoldExpiry, run_up _ hu, hx]

theorem windowEnd_agreed {hold : Bool} {d : BitVec 64} (hw : winner x.votes = some d) :
    windowEnd s x hold = decideSlot s x 2 (some d) true true := by
  simp [windowEnd, hw]

theorem windowEnd_holds (hw : winner x.votes = none) (hp : unvotedPolicy s x.handle = 2) :
    windowEnd s x true = setSlot s { x with phase := 1, inHold := true } := by
  simp [windowEnd, hw, hp]

theorem windowEnd_short (hw : winner x.votes = none) (hp : unvotedPolicy s x.handle ≠ 2) :
    windowEnd s x true = decideShort s x (unvotedPolicy s x.handle != 0) := by
  simp [windowEnd, hw, hp]

end Slots

section Recovery
variable (s : State) (h : Nat)

/-- What a stream's recovery holds is kept in the group of the streams alone. -/
theorem recovOf_of_str {s t : State} (e : t.str = s.str) (h : Nat) : recovOf t h = recovOf s h := by
  rw [recovOf, recovOf, e]

@[simp] theorem recovOf_count (b i : Nat) : recovOf (count s b i) h = recovOf s h :=
  recovOf_of_str (count_str s b i) h

@[simp] theorem recovOf_fault (n : Nat) : recovOf (fault s n) h = recovOf s h :=
  recovOf_of_str (fault_str s n) h

@[simp] theorem recovOf_interlock : recovOf (interlock s) h = recovOf s h := rfl

@[simp] theorem recovOf_deliverReplica (g : Nat) (r : Replica) (p o : Nat) (l : List Replica) :
    recovOf (deliverReplica s g r p o l) h = recovOf s h :=
  recovOf_of_str ((deliverReplica_fr s g r p o l).only .str rfl) h

@[simp] theorem recovOf_freeSlot (x : Slot) : recovOf (freeSlot s x) h = recovOf s h := rfl

@[simp] theorem recovOf_setDecisions (k : Nat) :
    recovOf (s.modStr fun y => { y with decisions := k }) h = recovOf s h := rfl

@[simp] theorem recovOf_modRecov_same (f : Recov → Recov) : recovOf (modRecov s h f) h = f (recovOf s h) :=
  tget_tmod_same recovReset s.str.recov h f

/-- A dissent is counted beside the stream's outcome (R354). -/
theorem countDissent_outcome (p : Nat) : (recovOf (countDissent s h p) h).outcome = (recovOf s h).outcome := by
  rw [countDissent, recovOf_count, recovOf_modRecov_same]
  split
  · rfl
  · split <;> rfl

theorem cullet_outcome (d : Option (BitVec 64)) (r : Replica) :
    (recovOf (cullet s h d r) h).outcome = (recovOf s h).outcome := by
  unfold cullet
  split
  · rw [recovOf_count]
  · exact countDissent_outcome s h r.port

theorem foldl_cullet_outcome (d : Option (BitVec 64)) (l : List Replica) :
    (recovOf (l.foldl (fun s r => cullet s h d r) s) h).outcome = (recovOf s h).outcome := by
  induction l generalizing s with
  | nil => rfl
  | cons r l ih => rw [List.foldl_cons, ih, cullet_outcome]

/-- The outcome stands before the fault, the delivery and the cullet of the decision, which leave it. -/
theorem decideSlot_release_eq (x : Slot) (out : Nat) (w : Option (BitVec 64)) (give : Bool) :
    ∃ t, decideSlot s x out w give true = freeSlot t x ∧ (recovOf t x.handle).outcome = out := by
  unfold decideSlot
  simp only [Bool.true_or, if_true]
  refine ⟨_, rfl, ?_⟩
  rw [recovOf_setDecisions]
  split
  · rw [foldl_cullet_outcome]
    split <;> split <;> simp
  · split <;> simp

theorem freeSlot_gone (x : Slot) : ∀ y ∈ (freeSlot s x).str.slots, y.id ≠ x.id := by
  intro y hy
  simpa using (List.mem_filter.mp hy).2

theorem exec_recoveryReset {s : State} {h : Fin 16384} (hu : held s = false) (h49 : on s 49 = true)
    (h69 : on s 69 = true) (hl : cfg s (oListen h.val) 0 1 = 1) (ht : (recovOf s h.val).takeAny = false) :
    exec (.recoveryReset h) s =
      .next (interlock (count (modRecov s h.val fun x => { x with takeAny := true }) (cStream h.val) 13)) := by
  change execRecoveryReset h s = _
  rw [execRecoveryReset, run_up _ hu]
  simp [h49, h69, hl, ht]

end Recovery

section Elimination
variable {s t : State} {h : Nat} {r : Replica} {f : State → State}

theorem eliminate_rogue (hs : recoverSeq (count s (cStream h) (r.port / 2)) h r.seq = (.rogue, t)) :
    eliminate s h r true f = t := by
  simp [eliminate, hs]

theorem eliminate_first (hs : recoverSeq (count s (cStream h) (r.port / 2)) h r.seq = (.new, t))
    (hc : cfg t (oListen h) 1 1 = 0) : eliminate s h r true f =
      deliverReplica (count (modRecov t h fun y => { y with outcome := 1 }) (cStream h) 3) h r (planesOf [r.port]) 1 [] := by
  simp [eliminate, hs, hc]

end Elimination

section Votes

theorem mem_support {l : List Replica} {d : BitVec 64} {p : Nat} :
    p ∈ support l d ↔ p < 3 ∧ ∃ r ∈ l, r.port / 2 = p ∧ r.digest = d := by
  have : p ∈ [0, 1, 2] ↔ p < 3 := by simp; omega
  simp only [support, List.mem_filter, this, List.any_eq_true, Bool.and_eq_true, beq_iff_eq]

theorem support_nodup (l : List Replica) (d : BitVec 64) : (support l d).Nodup :=
  List.Pairwise.filter _ (by decide)

/-- One replica alone is no agreement (R351). -/
theorem support_length_le_one {l : List Replica} {d : BitVec 64} (q : Nat)
    (h : ∀ r ∈ l, r.digest = d → r.port / 2 = q) : (support l d).length ≤ 1 := by
  have hs : support l d ⊆ [q] := fun p hp => by
    obtain ⟨-, r, hr, rfl, hd⟩ := mem_support.mp hp
    simp [h r hr hd]
  exact (support_nodup l d).length_le_of_subset hs

variable {a r : Replica}

/-- Two replicas of one digest from two planes support it twice. -/
theorem two_le_support (hp : a.port / 2 ≠ r.port / 2) (ha : a.port < 6) (hr : r.port < 6)
    (hd : a.digest = r.digest) : 2 ≤ (support [a, r] r.digest).length := by
  have hs : [a.port / 2, r.port / 2] ⊆ support [a, r] r.digest := by
    intro p h
    simp only [List.mem_cons, List.not_mem_nil, or_false] at h
    rcases h with rfl | rfl
    · exact mem_support.mpr ⟨by omega, a, by simp, rfl, hd⟩
    · exact mem_support.mpr ⟨by omega, r, by simp, rfl, rfl⟩
  have hn : [a.port / 2, r.port / 2].Nodup := by simpa using hp
  exact hn.length_le_of_subset hs

theorem winner_of_two_agreeing (hp : a.port / 2 ≠ r.port / 2) (ha : a.port < 6) (hr : r.port < 6)
    (hd : a.digest = r.digest) : winner [a, r] = some r.digest := by
  have hg : agreed [a, r] = [r.digest] := by
    simp [agreed, List.eraseDups_cons, hd, two_le_support hp ha hr hd]
  simp [winner, hg]

theorem winner_of_two_differing (hd : a.digest ≠ r.digest) : winner [a, r] = none := by
  have hg : agreed [a, r] = [] := by
    refine List.filter_eq_nil_iff.mpr fun d _ => ?_
    have h : (support [a, r] d).length ≤ 1 := by
      by_cases e : a.digest = d
      · exact support_length_le_one (a.port / 2) (by subst e; simp [hd.symm])
      · exact support_length_le_one (r.port / 2) (by simp [e])
    simp only [decide_eq_true_eq]
    omega
  simp [winner, hg]

variable {s : State} {x : Slot}

theorem voteCast_agreed {d : BitVec 64} (hc : cfg s (oListen x.handle) 1 1 = 1) (hx : x.phase = 0)
    (hw : winner x.votes = some d) : voteCast s x = decideSlot s x 2 (some d) true false := by
  simp [voteCast, hc, hx, hw]

theorem voteCast_undecided (hc : cfg s (oListen x.handle) 1 1 = 1) (hw : winner x.votes = none) :
    voteCast s x = s := by
  simp [voteCast, hc, hw]

/-- The first replica of a port votes (R350). -/
theorem joinSlot_votes (hx : x.phase = 0) (hn : ∀ a ∈ x.votes, a.port ≠ r.port) :
    joinSlot s x r = voteCast (setSlot s { x with votes := x.votes ++ [r] }) { x with votes := x.votes ++ [r] } := by
  have h : (x.votes.any fun a => a.port == r.port) = false := by simpa using hn
  simp [joinSlot, h, hx]

end Votes

/-- Settles O34: each clause is a case equation above; a slot that its decision frees is gone, and the outcome that the
decision writes stands through its fault, delivery and cullet; two planes of one digest make the winner. -/
theorem epochsAndVotes : Obligations.EpochsAndVotes := by
  unfold Obligations.EpochsAndVotes
  refine ⟨?swaps, ?drains, ?incomplete, ?swapped, ?status, ?agreed, ?holds, ?short, ?freed, ?holdShort, ?holdFreed,
    ?decided, ?reset, ?eliminated, ?joined⟩
  case swaps =>
    intro s v r ha hc hl ho hd hs
    exact runCmd_ok ha hc (epochSwapCmd_swaps hl ho hd hs)
  case drains =>
    intro s v r ha hc hl hd
    exact runCmd_no ha hc (epochSwapCmd_drains hl hd)
  case incomplete =>
    intro s v r ha hc hl hd hs
    exact runCmd_no ha hc (epochSwapCmd_incomplete hl hd hs)
  case swapped =>
    intro s
    simp [swapEpoch_rx]
  case status =>
    intro s v r ha hc hl
    exact runCmd_ok ha hc (sized_eq hl)
  case agreed =>
    intro s h seq x d hu hx h0 hw
    rw [exec_voteWindowExpiry hu hx, if_pos h0, windowEnd_agreed hw]
  case holds =>
    intro s h seq x hu hx h0 hw hp
    rw [exec_voteWindowExpiry hu hx, if_pos h0, windowEnd_holds hw hp]
  case short =>
    intro s h seq x hu hx h0 hw hp
    rw [exec_voteWindowExpiry hu hx, if_pos h0, windowEnd_short hw hp]
  case freed =>
    intro s h seq x hu hx h2
    rw [exec_voteWindowExpiry hu hx, if_neg (by omega)]
  case holdShort =>
    intro s h seq x hu hx h1
    rw [exec_lateHoldExpiry hu hx, if_pos h1]
  case holdFreed =>
    intro s h seq x hu hx h2
    rw [exec_lateHoldExpiry hu hx, if_neg (by omega)]
  case decided =>
    intro s x out w give
    obtain ⟨t, ht, ho⟩ := decideSlot_release_eq s x out w give
    rw [ht, recovOf_freeSlot]
    exact ⟨freeSlot_gone t x, ho⟩
  case reset =>
    intro s h hu h49 h69 hl ht
    exact ⟨_, exec_recoveryReset hu h49 h69 hl ht, by simp⟩
  case eliminated =>
    intro s s' h r f
    exact ⟨eliminate_rogue, eliminate_first⟩
  case joined =>
    intro s x a r hc h0 hv hp ha hr
    have hn : ∀ b ∈ x.votes, b.port ≠ r.port := by
      simp only [hv, List.mem_singleton, forall_eq]
      exact fun e => hp (by rw [e])
    have hj : joinSlot s x r = voteCast (setSlot s { x with votes := [a, r] }) { x with votes := [a, r] } := by
      simpa [hv] using joinSlot_votes (s := s) h0 hn
    rw [hj]
    exact ⟨fun hd => voteCast_agreed hc h0 (winner_of_two_agreeing hp ha hr hd),
      fun hd => voteCast_undecided hc (winner_of_two_differing hd)⟩

end Sys2Proof.Machine.EpochVotes
